-- ==== Sys2Proof/Word.lean ====
section
/-!
DEFINITION. Sys2Proof/Word.lean: the byte, and the plainest arithmetic the model uses (no operation of the module).
-/
namespace Sys2Proof

/-- One byte of memory or of a structure (R9: structures are little-endian). -/
abbrev Byte := BitVec 8

/-- Division rounded up. -/
def ceilDiv (a b : Nat) : Nat := (a + b - 1) / b

/-- One as a number, for flags kept in register fields. -/
def b2n (b : Bool) : Nat := if b then 1 else 0

/-- All ones of 64 bits. -/
def ones64 : Nat := 0xFFFF_FFFF_FFFF_FFFF


end Sys2Proof
end

