-- ==== Sys2Proof/Syntax.lean ====
section
/-!
DEFINITION. Sys2Proof/Syntax.lean: the commands of the module, one constructor of `Instr` for each row of
spec/opcode_table.json, with the operands the spec gives the row. A row that is an internal event of the module carries
what the outside world or the physics decides (a measured time, a test result, a sensor reading).
-/
namespace Sys2Proof

/-- A data buffer a command names (R417): its address, and what a host read of it returns (`none`: the read fails).
With BONDED_BUF the bytes are read from the bonded tier at the address instead. -/
structure Buf where
  addr : Nat
  data : Option (List Byte)
deriving DecidableEq, Repr

/-- The common part of a submission entry (R412), with the function and queue pair that posted it. `cplFault` says that the host
write of the command's completion entry fails (R435, cause 3). -/
structure Hdr where
  fn : Nat
  qp : Nat
  cmdId : Nat
  barrier : Bool
  fenceDone : Bool
  bondedBuf : Bool
  cplFault : Bool
  fence : Nat
  handle : Nat
deriving DecidableEq, Repr

/-- The operands of SESSION_CREATE (R419). -/
structure CreateOps where
  cls : Nat
  model : Nat
  outQueue : Nat
  includeStop : Bool
  tokenOutput : Bool
  hostPark : Nat
  mirror : Nat
  ttl : Nat
  hostTag : Nat
  sampling : Buf
deriving DecidableEq, Repr

/-- The sampling fields of SET_SAMPLING (R420), floating-point fields as FP32 bit patterns. -/
structure Sampling where
  temperature : Nat
  topP : Nat
  minP : Nat
  repPenalty : Nat
  presencePenalty : Nat
  frequencyPenalty : Nat
  topK : Nat
  decMode : Nat
  maxTokens : Nat
  seed : Nat
deriving DecidableEq, Repr

/-- One ephemeris entry (R79), its bytes read as numbers. -/
structure EphEntry where
  tick : Nat
  action : Nat
  flags : Nat
  target : Nat
  tag : Nat
  opA : Nat
  opB : Nat
deriving DecidableEq, Repr

/-- One update of a row of an embedding table: its part and row, whether it overwrites, its scale and elements as FP32 bit patterns
(R304), and the number of its descriptor in the batch. -/
structure EmbItem where
  part : Nat
  row : Nat
  ovr : Bool
  scale : Nat
  data : List Nat
  desc : Nat
deriving DecidableEq, Repr

/-- A session descriptor (R37), its flags (R38) one by one. -/
structure Desc where
  handle : Nat
  st : Nat := 0
  prev : Nat := 0
  cls : Nat := 0
  fn : Nat := 0
  model : Nat := 0
  kvFormat : Nat := 0
  turnPending : Bool := false
  cancelPending : Bool := false
  includeStop : Bool := false
  tokenOutput : Bool := false
  hostParkOk : Bool := false
  migrated : Bool := false
  penOverflow : Bool := false
  capHit : Bool := false
  dataLost : Bool := false
  ptRoot : Nat := 0
  parkAddr : Nat := 0
  kvBytes : Nat := 0
  tokenCount : Nat := 0
  turnId : Nat := 0
  turnTokens : Nat := 0
  maxTokens : Nat := 0
  ttl : Nat := 0
  lastActive : Nat := 0
  wakeHint : Nat := 0
  createTick : Nat := 0
  seed : Nat := 0
  rngCounter : Nat := 0
  temperature : Nat := 0
  topP : Nat := 0
  minP : Nat := 0
  repPenalty : Nat := 0
  presencePenalty : Nat := 0
  frequencyPenalty : Nat := 0
  topK : Nat := 0
  decMode : Nat := 0
  keySlot : Nat := 0
  penTable : Nat := 0
  grammarId : Nat := 0
  grammarDepth : Nat := 0
  grammarState : Nat := 0
  grammarStack : Nat := 0
  stopBlock : Nat := 0
  stopLen : Nat := 0
  mirrorModule : Nat := 0
  outQueue : Nat := 0
  lastEnd : Nat := 0
  transitTag : Nat := 0
  usageTokens : Nat := 0
  hostTag : Nat := 0
deriving DecidableEq, Repr

/-- A page-table page entry (R205) with the channel that holds it; a page no draw has committed yet is not `committed`. -/
structure Page where
  layer : Nat
  span : Nat
  slot : Nat
  addr : Nat
  chan : Nat
  fmt : Nat := 0
  bytes : Nat
  deepHeld : Bool := false
  fetching : Bool := false
  committed : Bool := true
deriving DecidableEq, Repr

/-- A span entry (R205). -/
structure Span where
  leafAddr : Nat
  cls : Nat
  sumValid : Bool := false
  fill : Nat := 0
deriving DecidableEq, Repr

/-- A bonded-tier allocation of the device's own other than pages (R571). `kind` follows R203: 1 page-table root, 2 leaf,
3 penalty table, 4 stop block, 5 grammar stack, 6 pending input, 7 summary block of a layer and span. -/
structure Alloc where
  kind : Nat
  chan : Nat
  addr : Nat
  bytes : Nat
  layer : Nat := 0
  span : Nat := 0
deriving DecidableEq, Repr

/-- What the metadata section of an image holds of a session (R136), where it can be gone back to (R475). -/
structure Snap where
  d : Desc
  pendTok : List Nat
  resvTokens : Nat
  spanCap : Nat
  spans : List Span
  pages : List Page
  pen : List (Nat × Nat)
  penDropped : Nat
  stops : List (List Byte)
  gstack : List Nat
deriving DecidableEq, Repr

/-- A parked image (R134 to R136): tier (0 deep, 1 host), host region, logical chunks or 64 KiB units it occupies, and the
header fields. `pageOffs` are the payload offsets of its pages, in the order of the session's pages, `pageData` their bytes, and
`sumData` the summary blocks by layer and span. -/
structure Image where
  tier : Nat
  region : Nat := 0
  chunks : List Nat
  kvFormat : Nat := 0
  sparseOk : Bool := false
  handle : Nat := 0
  nonce : Nat := 0
  metaBytes : Nat := 0
  kvBytes : Nat := 0
  pageOffs : List Nat := []
  pageData : List (List Byte) := []
  sumData : List (Nat × Nat × List Byte) := []
  writeTick : Nat := 0
  saved : Option Snap := none
deriving DecidableEq, Repr

/-- A grammar mask that has reached the decoding tile (R251): the tokens whose bit is set, and its EMPTY flag. -/
structure Mask where
  allowed : List Nat
  empty : Bool
deriving DecidableEq, Repr

/-- What the module holds for a session beside its descriptor. `actPart` is the partition that last ran it; `drawn` a committed token
the text engine has not taken yet, with the reason its turn ends (0xFF none), and for a stop its string index, TRIM and PARTIAL.
`dirKey` is the handle under which the directory lists it, where it has moved (R380); `parkNonce` and `mirrorNonce` are the nonces of its
last image and of the one last mirrored (R151). `back`: its mirror is being copied back, so many
chunks of which have come (R475). -/
structure Sess where
  pendTok : List Nat := []
  resvTokens : Nat := 0
  resvBytes : Nat := 0
  spanCap : Nat := 16
  spans : List Span := []
  pages : List Page := []
  allocs : List Alloc := []
  pen : List (Nat × Nat) := []
  penDropped : Nat := 0
  stops : List (List Byte) := []
  gstack : List Nat := []
  mask : Option Mask := none
  stream : List Byte := []
  released : Nat := 0
  outBytes : Nat := 0
  partialTok : Bool := false
  stopHit : Option (Nat × Nat) := none
  cancelCount : Nat := 0
  frozenByFault : Bool := false
  key : Option Nat := none
  imported : Bool := false
  image : Option Image := none
  heldSteps : Nat := 0
  destroyWait : Option Hdr := none
  mirrored : Bool := false
  parkNonce : Nat := 0
  mirrorNonce : Nat := 0
  actPart : Nat := 0xFF
  drawn : Option (Nat × Nat × Nat × Nat × Bool) := none
  fill : Bool := false
  dirKey : Option Nat := none
  back : Option Nat := none
deriving DecidableEq, Repr

/-- A transfer of an array's DMA engine (R161, R164), `len` bytes at SRAM offset `off`: from the bonded tier, to it, from weight block
`block` of the partition's model at `from_`, or to offset `dst` of another rank's SRAM. -/
inductive Dma where
  | load (off addr len : Nat)
  | store (off addr len : Nat)
  | weights (off block from_ len : Nat)
  | peer (off rank dst len : Nat)
deriving DecidableEq, Repr

/-- A key and value row that a projection kernel computes (R212): the plan's session `k`, the layer, the position counted from the first the step
appends, and H × D elements of each in FP32. -/
structure KvRow where
  k : Nat
  layer : Nat
  pos : Nat
  key : List Nat
  val : List Nat
deriving DecidableEq, Repr

/-- What the start of a kernel meets (R178, R164): whether its header and code read clean, and the transfers that its code issues, each with its rank. -/
structure KStart where
  clean : Bool
  dma : List (Nat × Dma)
deriving DecidableEq, Repr

/-- What a kernel's code writes (R180): runs of the bonded tier, runs of the SRAM of its ranks by rank and offset, and the rows of the direct append
path (R212). -/
structure KOut where
  writes : List (Nat × List Byte) := []
  sram : List (Nat × Nat × List Byte) := []
  rows : List KvRow := []
deriving DecidableEq, Repr

/-- A unit of governed traffic (R340): the leaf's class and function, its bytes, when it was queued (ns), on DEEP its channel, on a
fabric port its virtual channel, colour and message. `resent` says that its link went down before it was delivered (R373). -/
structure TmUnit where
  cls : Nat
  fn : Nat
  bytes : Nat
  enq : Nat
  chan : Nat
  vc : Nat
  colour : Nat
  data : List Byte
  resent : Bool
deriving DecidableEq, Repr

/-- A directory entry (R380). -/
structure DirEntry where
  type : Nat
  keyA : Nat
  keyB : Nat
  holder : Nat
  adopted : Bool
  version : Nat
  value : Nat
  commit : Nat
  expire : Nat
deriving DecidableEq, Repr

/-- What a DIR_REQ asks (R383 to R385). -/
inductive DirOp where
  | lookup
  | put
  | putIf (version : Nat)
  | delete
  | switch (tag : Nat)
  | abandon (tag : Nat)
deriving DecidableEq, Repr

/-- What a DIR_REPL carries (R382, R384): log entries from an index, an acknowledgement up to an index, a renewal and its
acknowledgement by the edge count of its sending, a request for votes with the candidate's log length, a vote, a candidate's
yielding, and a shard's committed entries. -/
inductive ReplBody where
  | append (index : Nat) (op : DirOp) (es : List DirEntry)
  | ack (index : Nat)
  | renew (edge : Nat)
  | renewAck (edge : Nat)
  | voteReq (len : Nat)
  | vote
  | yielded
  | sync (len : Nat) (es : List DirEntry)
deriving DecidableEq, Repr

/-- What a VIEW message is (R377, R378). -/
inductive ViewKind where
  | propose
  | accept
  | commit
  | join
  | leave
  | refuse
deriving DecidableEq, Repr

/-- What an XFER_CTRL carries (R153, R154, R308): set-up of a session, parked or not, with the bonded and deep-tier bytes it needs,
or of a block; the metadata section; descriptors of the log; logged row updates; the switch, with the log's length; abandonment. -/
inductive XferBody where
  | setUp (d : Desc) (parked : Bool) (bonded deep : Nat)
  | block (table part block bytes : Nat)
  | data (x : Sess)
  | log (ds : List Desc)
  | updates (us : List (Nat × EmbItem))
  | switch (n : Nat)
  | abandon
deriving DecidableEq, Repr

/-- What a RESPONSE answers (R371). -/
inductive RespBody where
  | xfer
  | fwd (fn qp cmdId r0 r1 : Nat)
  | rows (rs : List ((Nat × Nat) × List Byte))
  | upd
deriving DecidableEq, Repr

/-- One transfer of a COLLECTIVE kernel (R188): the array and SRAM offset it writes, bytes, its sources, and whether they are reduced
as FP32 elements or the first of them is copied. -/
structure CollMove where
  array : Nat
  off : Nat
  len : Nat
  srcs : List (Nat × Nat)
  reduce : Bool
deriving DecidableEq, Repr

/-- What an XFER_CHUNK carries: a 64 KiB chunk of a migration, or of a mirror, whose session key comes wrapped (R504) and whose image is
given as it decrypts, or of a checkpoint image (R480 row 7), given likewise. -/
inductive ChunkBody where
  | mig (tag index : Nat) (data : List Byte)
  | mirror (handle nonce total key : Nat) (d : Desc) (x : Sess)
  | ckpt (id tick jobKey nonce total : Nat) (ranges : List (Nat × Nat)) (data : List (List Byte))
deriving DecidableEq, Repr

/-- What the meters give at a tick edge for the tick that ended (R527): mean module power in 0.1 W, energy in mJ, and mean power of
each of the twelve domains in 0.1 W. -/
structure TickPower where
  mean : Nat
  energy : Nat
  domains : List Nat
deriving DecidableEq, Repr

/-- A weight manifest (R423, R477, R496): tile, stack pair and digest of each block; the placements that a layout omitting a tile adds,
as omitted tile, block, tile, stack pair; its own digest; and whether its signatures verify. -/
structure Manifest where
  blocks : List (Nat × Nat × Nat)
  alts : List (Nat × Nat × Nat × Nat)
  digest : Nat
  sigOk : Bool
deriving DecidableEq, Repr

/-- An SPDM request (R513): one that needs no session, by its code; a measurement block, 0xFF for all; the start of a secured session under a
number; a request in a session. -/
inductive SpdmReq where
  | plain (code : Nat)
  | measurements (index : Nat)
  | keyExchange (id : Nat)
  | inSession (code id : Nat)
deriving DecidableEq, Repr

/-- A firmware-update command of a PLDM update agent (R522): the components of the update, the component to transfer, the whole image as its
verification finds it, and the ends. -/
inductive UpdateCmd where
  | passTable (classifier identifier : Nat)
  | updateComponent (classifier identifier : Nat)
  | image (sigOk : Bool) (svn digest : Nat)
  | cancelComponent
  | cancelUpdate
  | getStatus
deriving DecidableEq, Repr

/-- What start-up finds (R494, R495, R554, R557): how many re-reads the PUF needed, none where all three failed; the identity record's copy in
use, none where neither verifies; whether the certificate holds the derived keys; whether each owner-record slot verifies; the hub's
self-test; the arrays the record names as faulty and those that fail the known-answer test, numbered tile × 512 + index; stacks and tile bridges
that fail; stack channels, 32 × stack + channel, and deep-tier channels that fail training; temperature, timing and voltage margin of each
deep-tier channel; and the time in ms to HUB_OK. -/
structure BootResult where
  puf : Option Nat
  record : Option Nat
  cert : Bool
  ownerA : Bool
  ownerB : Bool
  hubOk : Bool
  faulty : List Nat
  badArrays : List Nat
  badStacks : List Nat
  badBridges : List Nat
  badChans : List Nat
  badDeep : List Nat
  margins : List (Nat × Nat × Nat)
  ms : Nat
deriving DecidableEq, Repr


/-- The commands of the module, in the order of spec/opcode_table.json. -/
inductive Instr where
  /-- SIDEREAL_PULSE (R64): A pulse on SIDEREAL_IN is classified as a glitch, an extra pulse, absorbed into a synthetic tick, or accepted as a tick edge. `t` is the time of the rising edge and `high` the length of the high level, in ns; `pw` what the meters give, should it be a tick edge. -/
  | siderealPulse (t high : Nat) (pw : TickPower)
  /-- SYNTHETIC_TICK (R65): no pulse arrives within 1.25 × P (then within each further P), so the module inserts a synthetic tick edge. -/
  | syntheticTick (pw : TickPower)
  /-- SOFT_TICK (R71): A write of SOFT_TICK makes one soft tick edge while the cadence state is NOPULSE, and is ignored in any other state. `t` is its time in ns. -/
  | softTick (t : Nat) (pw : TickPower)
  /-- SID_EPOCH_TX (R72): A write of a value to be loaded at the next accepted real edge and then broadcast in three epoch frames. -/
  | sidEpochTx (v : Nat)
  /-- SID_EPOCH_LOCAL (R72): A write of a value to be loaded at the next tick edge of any kind, without broadcast. -/
  | sidEpochLocal (v : Nat)
  /-- EPOCH (R375): A received epoch message is discarded if foreign, otherwise queued for loading and forwarded within the hop limit. `time` is the arrival in 1/64 ns. -/
  | epochMsg (port src domain value rep hops time : Nat)
  /-- NOP (R80): an ephemeris NOP entry is dispatched and does nothing. -/
  | nopEntry (table idx : Nat) (e : EphEntry)
  /-- LAUNCH_STEP (R83): A LAUNCH_STEP entry starts a batch step on its partition, or waits while a step runs, holding at most two waiting launches. -/
  | launchStep (table idx : Nat) (e : EphEntry)
  /-- START_TRANSIT (R133): A START_TRANSIT entry checks its transit descriptor, handle and state, then queues the transit or fails it as an action. -/
  | startTransit (table idx : Nat) (e : EphEntry)
  /-- EPH_FENCE_SIGNAL (R80): an ephemeris FENCE_SIGNAL entry applies SET or ADD to a fence. -/
  | ephFenceSignal (table idx : Nat) (e : EphEntry)
  /-- EPH_FENCE_WAIT (R84): an ephemeris FENCE_WAIT entry completes at once if the fence has reached its value, and otherwise blocks its table. -/
  | ephFenceWait (table idx : Nat) (e : EphEntry)
  /-- CHECKPOINT_BARRIER (R479): A checkpoint barrier stops the named partitions at the step boundary before its tick and starts the checkpoint. -/
  | checkpointBarrier (table idx : Nat) (e : EphEntry)
  /-- MIGRATION_SWITCH (R154): A MIGRATION_SWITCH entry arms the switch of a peer migration and holds the session. -/
  | migrationSwitch (table idx : Nat) (e : EphEntry)
  /-- APPLY_GENERATION (R453): an APPLY_GENERATION entry checks the staged generation and either commits its regions at one commit point or refuses the apply. -/
  | applyGeneration (table idx : Nat) (e : EphEntry)
  /-- EPH_WAIT_TIMEOUT (R84): OPERAND_B tick edges pass before the fence is reached, so the wait is abandoned, its table unblocks and TIMEOUT is posted. -/
  | ephWaitTimeout (table : Nat)
  /-- EPH_TABLE_UNBLOCK (R84): the fence reaches the awaited value, so the blocked table unblocks within 1 µs. -/
  | ephTableUnblock (table : Nat)
  /-- EPH_ENABLE (R88): A write of ENABLE in EPH_CTRL enables or disables dispatch for the whole sequencer. -/
  | ephEnable (on : Bool)
  /-- EPH_TABLE_ENABLE (R86): setting ENABLE checks the table configuration and starts the table empty; clearing it discards the table's contents. -/
  | ephTableEnable (table : Nat) (on : Bool)
  /-- EPH_TABLE_PAUSE (R86): PAUSE stops dispatch from a table; when it clears, due entries dispatch with slippage. -/
  | ephTablePause (table : Nat) (on : Bool)
  /-- EPH_FLUSH (R86): FLUSH discards every undispatched entry of a table, a blocked FENCE_WAIT included. -/
  | ephFlush (table : Nat)
  /-- EPHEMERIS_SUBMIT (R81): the command checks a run of entries as a whole and appends all of it to a table or refuses all of it. -/
  | ephemerisSubmit (h : Hdr) (table count : Nat) (buf : Buf)
  /-- SESSION_CREATE (R419): the command takes the head of the free list and fills a descriptor as READY, or refuses. -/
  | sessionCreate (h : Hdr) (o : CreateOps)
  /-- SESSION_DESTROY (R41): the command frees the slot, or for an ACTIVE session suppresses output and frees the slot when a plan omits it. -/
  | sessionDestroy (h : Hdr)
  /-- APPEND_TEXT (R283): the command tokenizes its bytes as a whole and adds the tokens in one change, or adds nothing. -/
  | appendText (h : Hdr) (length : Nat) (buf : Buf)
  /-- APPEND_TOKENS (R284): the command checks the token ids against VOCAB and adds them, or adds nothing. -/
  | appendTokens (h : Hdr) (count : Nat) (buf : Buf)
  /-- GENERATE (R40): the command requests a turn: TURN_PENDING sets, TURN_ID increments and the first grammar mask is formed. -/
  | generate (h : Hdr)
  /-- TOOL_WAIT (R40): the command moves a READY session to WAITING with its wake hint and an optional new TTL. -/
  | toolWait (h : Hdr) (wake ttl : Nat)
  /-- RESUME (R53): the command makes a session READY, reviving it if it is parked, under the class-0 bound where that applies. `t` is the time of the doorbell and `us` the time to batch-ready of a resident session, in µs. -/
  | resume (h : Hdr) (t us : Nat)
  /-- PARK (R149): the command parks a resident session, or moves a parked image to the other parked tier. -/
  | park (h : Hdr) (tier demote region : Nat)
  /-- MIGRATE (R421): MIGRATE to a tier parks or revives the session to the bonded, deep or host tier. -/
  | migrate (h : Hdr) (target demote region : Nat)
  /-- MIGRATE_PEER (R152): MIGRATE to a peer checks leader, reachability, limits and capacity, then begins the pre-copy. `answers`: the session's shard has a leader that answers; `reach`: the destination is reachable; `free`: it takes another migration; `reserved`: the handle it reserved, with the capacity the session needs. -/
  | migratePeer (h : Hdr) (dest : Nat) (answers reach free : Bool) (reserved : Option Nat)
  /-- MIGRATE_EMB_BLOCK (R308): MIGRATE with TARGET 4 moves a home embedding block to a peer under the pre-copy, log, switch and tombstone rules. `answers`: the block's shard has a leader that answers; `reach`, `free`, `room`: the destination is reachable, takes another migration, and has room. -/
  | migrateEmbBlock (h : Hdr) (dest table part block : Nat) (answers reach free room : Bool)
  /-- CANCEL (R43): the command suppresses an ACTIVE turn's output, or ends a pending turn at once with CANCELLED. -/
  | cancel (h : Hdr)
  /-- SET_SAMPLING (R420): the command range-checks and writes the sampling fields, and optionally the seed and MAX_TOKENS. -/
  | setSampling (h : Hdr) (p : Sampling) (withSeed withMax : Bool)
  /-- SET_GRAMMAR (R288): the command binds a compiled grammar to the session, or removes it, and resets the automaton. -/
  | setGrammar (h : Hdr) (gid : Nat)
  /-- SET_STOPS (R422): the command writes the stop block and its lengths, and optionally INCLUDE_STOP. -/
  | setStops (h : Hdr) (buf : Buf) (stopLen : Nat) (incl : Nat)
  /-- SESSION_EXPIRY (R49): A session falls due at LAST_ACTIVE + TTL and expires if its state permits, or when it next enters such a state. -/
  | sessionExpiry (idx : Nat)
  /-- EXPIRED_EVENT_WRITE (R40): once OUT_QUEUE has room, the EVENT for an EXPIRED session is written and the slot becomes FREE. -/
  | expiredEventWrite (idx : Nat)
  /-- EVICTION (R47): pool usage above HIGH makes the session table unit park candidates, in order, until usage falls below LOW. -/
  | eviction
  /-- TOMBSTONE_CLOSE (R156): 256 tick edges after the switch tick, the tombstone slot becomes FREE and its generation increments. -/
  | tombstoneClose (idx : Nat)
  /-- PATROL_SCRUB (R98): the scrubber reads, corrects and rewrites protected codewords of each stack at RATE_MBPS. What a stretch of codewords shows: corrections by the dies and by the controller, uncorrectable codewords with their bytes in error, and the tokenizer sets, grammar slots and directory entries that hold one. -/
  | patrolScrub (stack ondie corrected : Nat) (bad : List (Nat × Nat)) (toks grams : List Nat) (ents : List (Nat × Nat × Nat))
  /-- CHANNEL_TO_PROCESSOR (R111): A channel with a queued bank operation that is not held is handed to its bank units within 2 µs. Channels are numbered 32 × stack + channel. -/
  | channelToProcessor (chan : Nat)
  /-- CHANNEL_WAIT_TIMEOUT (R112): A request to a PROCESSOR-mode channel has waited WAIT_US, so the channel receives a return request. -/
  | channelWaitTimeout (chan : Nat)
  /-- CHANNEL_RETURN (R113): at the end of the current slice, partial results are written, the operation is suspended and the channel returns to MEMORY mode. It took `us` µs from the request. -/
  | channelReturn (chan us : Nat)
  /-- BNK_PF_OP (R125): A PF write of a descriptor address checks a bank operation and queues it, or refuses it. -/
  | bnkPfOp (stack addr : Nat)
  /-- COPY (R115): the bank units copy LENGTH × 64 B, check columns included, to another channel of the same stack. `chan` is the channel whose operation it is. -/
  | bankCopy (chan : Nat)
  /-- FILL (R115): the bank units write a repeated pattern over the destination range. -/
  | bankFill (chan : Nat)
  /-- MASKED_SCAN (R116): the bank units write the index of each record that passes the mask and range filter. -/
  | maskedScan (chan : Nat)
  /-- CODE_DISTANCE (R116): the bank units write the index and code distance of each passing record within THRESHOLD. -/
  | codeDistance (chan : Nat)
  /-- SUMMARY_RECOMPUTE (R117): the bank units reduce page summaries into one summary by elementwise maximum and minimum. -/
  | summaryRecompute (chan : Nat)
  /-- PATTERN_TEST (R115): the bank units write a pattern and its complement over a test channel and check each. `fails` are the 64 B units of the channel that read back wrong. -/
  | patternTest (chan : Nat) (fails : List Nat)
  /-- BANK_OP_COMPLETE (R117): A bank operation ends: it writes its result header and status, and the next operation of the channel's queue starts. `poison`: a codeword it read was uncorrectable. -/
  | bankOpComplete (chan : Nat) (poison : Bool)
  /-- THERMAL_SAMPLE (R119): every 10 µs the controller samples the die sensors and forms T_eff for the stack. `sensor` is the highest reading in °C, `act` the busy fraction of the tile's enabled arrays in 1/1,000. -/
  | thermalSample (stack sensor act : Nat)
  /-- DEEP_RETRAIN_START (R103): A deep-tier channel falls due for retraining, and evacuation of its allocated chunks begins. `temp` and `margin` are the package temperature in °C and the timing margin as measured. -/
  | deepRetrainStart (chan temp margin : Nat)
  /-- DEEP_DRAIN_DONE (R103): the requests in flight on a draining channel complete, and training starts. -/
  | deepDrainDone
  /-- DEEP_TRAINING_DONE (R103): training of a channel ends: it returns to service, or is retried, or is retired after two failures. What the training finds. -/
  | deepTrainingDone (ok : Bool) (temp timing voltage : Nat)
  /-- DEEP_RETURN_DONE (R103): the evacuated chunks are back in their home slots, and DEEP_DEGRADED clears. -/
  | deepReturnDone
  /-- HTIER_ENABLE (R109): A write of ENABLE of a host region registers the region, or unregisters it and expires every session with an image in it. -/
  | htierEnable (n : Nat) (on : Bool)
  /-- TRANSIT_SLOT_GRANT (R130): A waiting transit is given a free slot, class 0 first, and starts its sequence. -/
  | transitSlotGrant
  /-- TRANSIT_CHUNK (R131): one 64 KiB chunk of an active transit is read, narrowed or checked, encrypted or decrypted, and written. `ok` is what the check of the chunk read finds. -/
  | transitChunk (idx : Nat) (ok : Bool)
  /-- PARK_COMPLETE (R138): after the last chunk, the descriptor becomes parked, bonded-tier state is released and the completion or EVENT is written. -/
  | parkComplete (idx : Nat)
  /-- REVIVE_COMPLETE (R144): after the last chunk, the page table is loaded, the image is released and the session becomes READY or PREV_STATE. `us` is the time from the resume's doorbell, in µs. -/
  | reviveComplete (idx us : Nat)
  /-- REVIVE_SPARSE_COMPLETE (R147): after the metadata and the forced pages land, the session becomes READY with its other pages deep-held. `us` as for REVIVE_COMPLETE. -/
  | reviveSparseComplete (idx us : Nat)
  /-- MOVE_COMPLETE (R150): after the last chunk of a move between parked tiers, the source is released and the state follows the new tier. -/
  | moveComplete (idx : Nat)
  /-- MIRROR (R151): after a park, the engine copies the new image unchanged to the partner module named in MIRROR_MODULE. `ok` says that the partner took the copy. -/
  | mirrorImage (idx : Nat) (ok : Bool)
  /-- BACKGROUND_FILL (R147): in unclaimed deep-tier time, the engine brings in deep-held pages, lowest payload offset first. -/
  | backgroundFill (idx : Nat)
  /-- PRECOPY_PASS_END (R153): A pre-copy pass ends, and another pass starts unless the dirty bytes or the pass count stop the pre-copy. `dirty` counts the 64 KiB ranges written since they were sent. -/
  | precopyPassEnd (tag dirty : Nat)
  /-- MIGRATION_SWITCH_RUN (R154): once the held session is not ACTIVE, the remainder is sent, the log is applied and the directory switch is requested. -/
  | migrationSwitchRun (tag : Nat)
  /-- MIGRATION_ABANDON (R157): no acknowledgement arrives within 32 tick edges, so the migration is abandoned and held commands apply at the source. `lost` says that the destination or its path is gone. -/
  | migrationAbandon (tag : Nat) (lost : Bool)
  /-- STEP_START (R332): A launch starts its step: the plan is read, the step table written, page-holding channels recalled and sessions made ACTIVE. `poison` says that the plan or its kernel list reads poisoned. -/
  | stepStart (part : Nat) (poison : Bool)
  /-- KERNEL_START (R336): at a kernel boundary, the scheduler starts the first ready kernel by class, step order and interleave limits. `x` is what its start meets. -/
  | kernelStart (part : Nat) (x : KStart)
  /-- KERNEL_END (R180): A kernel ends when its last rank ends, and the partition reaches a kernel boundary. It took `us` µs; `sat` and `nan` say that it saturated an element or wrote a NaN; `out` is what its code wrote, and `fixed` are the SRAM words corrected on its ranks. -/
  | kernelEnd (part us : Nat) (sat nan : Bool) (out : KOut) (fixed : List (Nat × Nat))
  /-- WATCHDOG_OVERRUN (R182): A kernel reaches 250 µs on an array, and the overrun is counted and logged while the kernel runs on. -/
  | watchdogOverrun (part rank : Nat)
  /-- HANG_DECLARED (R185): A kernel reaches 1,000 µs, so the array is frozen, its step fails, and the other ranks stop after their kernels. -/
  | hangDeclared (part rank : Nat)
  /-- HANG_DUMP (R532): the dump engine writes a frozen array's state, SRAM and tap history to a hang-dump slot. -/
  | hangDump (array : Nat)
  /-- KNOWN_ANSWER_TEST_DONE (R167): an array's known-answer test ends, and the array passes or is retired. -/
  | knownAnswerTestDone (tile n : Nat) (pass : Bool)
  /-- RANK_MAP_SWAP (R191): at the next tick edge after the test passes, the spare takes the failed array's rank in the live map. -/
  | rankMapSwap (part : Nat)
  /-- RESIDENT_RELOAD_DONE (R191): the resident region reload ends, SWAPPING clears and the waiting launches start. -/
  | residentReloadDone (part : Nat)
  /-- ARY_RETIRE (R194): the PF retires an array through ARY_CMD, with replacement for an ENABLED array. -/
  | aryRetire (tile n : Nat)
  /-- ARY_RETURN (R194): the PF returns a RETIRED array through ARY_CMD; it is tested and becomes SPARE if it passes. -/
  | aryReturn (tile n : Nat)
  /-- SRAM_UNCORRECTABLE (R196): an uncorrectable SRAM word is reloaded from its source, or fails the step if it lies in the working region. The word lies at SRAM offset `off`. -/
  | sramUncorrectable (tile n off : Nat)
  /-- SELECT_ROW (R235): A SELECT kernel in ROW mode returns the first K valid entries of its share, with the kept and left-out sums. `poison` says that the parameter block reads poisoned. -/
  | selectRow (part rank : Nat) (poison : Bool)
  /-- SELECT_MERGE (R239): A SELECT kernel in MERGE mode combines partial results into one result and its header fields. `poison` as for SELECT_ROW. -/
  | selectMerge (part rank : Nat) (poison : Bool)
  /-- SAMPLE (R246): A SAMPLE kernel applies the grammar mask and the penalties to the logits of each session. `rank` holds `count` logits of the plan's session `k` from token `base`, at SRAM offset `off`. -/
  | sample (part rank k off base count : Nat)
  /-- KV_SCATTER_APPEND (R212): the kernel writes staged key and value rows into their pages on the home tile and updates the summaries. The rows are those of the plan's session `k` in the staging area. `bad`: the codewords of that area that these reads find uncorrectable; `fixed`: for each stack the corrections by its dies and by its controller meanwhile (R96). -/
  | kvScatterAppend (part k layer : Nat) (bad : List Nat) (fixed : List (Nat × Nat × Nat))
  /-- ATTENTION (R216): the kernel computes blockwise softmax attention over visible positions, selecting pages where that applies. `qs`: for each head group the rank whose SRAM holds its query rows, and their offset there; `outs`: that of its output rows, FP32 by position, query head and element. `bad`: the codewords of pages and tables that this read finds uncorrectable; `fixed`: for each stack the corrections by its dies and by its controller meanwhile (R96). -/
  | attention (part k layer : Nat) (qs : List (Nat × Nat)) (outs bad : List Nat) (fixed : List (Nat × Nat × Nat))
  /-- EMB_POOL (R301): the kernel pools local embedding rows into vectors, without reaching other modules. The bags hold identifiers and FP32 weights; `bad` as for EMB_LOOKUP, `badRep` the rows whose replica reads poisoned. -/
  | embPool (part rank table fmt : Nat) (sram : Bool) (dst : Nat) (bags : List (List (Nat × Nat))) (bad badRep : List (Nat × Nat))
  /-- VEC_TRAVERSE (R320): the kernel expands graph records of a segment up to EXPAND_PER_KERNEL and saves its state. `built`: how many records a compaction kernel builds; `poison`: a slot-table read of the segment was poisoned. -/
  | vecTraverse (part built : Nat) (poison : Bool)
  /-- COLLECTIVE (R188): the kernel runs a reduction or exchange across arrays or modules. What the kernel's code takes from other modules (source, array, offset), moves, and sends to other modules. -/
  | collective (part : Nat) (recvs : List (Nat × Nat × Nat)) (moves : List CollMove) (sends : List (Nat × List Byte))
  /-- SPAN_SUMMARY_DONE (R209): all L × H span-summary recomputations complete, and SPAN_SUM_VALID sets. -/
  | spanSummaryDone (idx span : Nat)
  /-- KV_FETCH (R223): A queued fetch of a deep-held page starts reading its chunks through the codec at the class share. -/
  | kvFetch (tile : Nat)
  /-- KV_FETCH_COMPLETE (R223): A fetched page becomes resident; when a held session's last fetch ends, an EVENT goes to the PF. `k` is the page's place in the session's page list; `ok` is what the check of its chunks finds. -/
  | kvFetchComplete (idx k : Nat) (ok : Bool)
  /-- DRAW (R260): the decoding unit decides each session's outcome, filters, draws a token and judges the end of the turn. The merged result of the plan's session `k` lies at SRAM offset `off` of rank 0. -/
  | draw (part k off : Nat)
  /-- DETOKENIZE (R286): the text engine turns a drawn token into bytes of the turn stream. -/
  | detokenize (idx : Nat)
  /-- OUTPUT_RECORD_WRITE (R408): records are written into the output ring, and then the producer count is written. `ok` says that the host writes succeed. -/
  | outputRecordWrite (fn qp : Nat) (ok : Bool)
  /-- GRAMMAR_MASK (R291): the mask unit forms the 32 KiB grammar mask and its EMPTY flag, and sends them to the decoding tile. -/
  | grammarMask
  /-- GRAM_LOAD (R288): the PF loads a compiled grammar into a slot of the grammar store. -/
  | gramLoad (slot addr : Nat)
  /-- GRAM_UNLOAD (R288): the PF unloads a grammar from a slot unless a session names it. -/
  | gramUnload (slot : Nat)
  /-- EMB_LOOKUP (R301): the command pools bags of rows, local and remote, into output vectors. `homes`: what the directory answers for blocks (part, block) of other modules; `bad`: the local rows (part, row) whose every copy reads poisoned. -/
  | embLookup (h : Hdr) (table fmt bags entries : Nat) (ents offs : Buf) (out outBytes : Nat) (homes : List ((Nat × Nat) × Nat)) (bad : List (Nat × Nat))
  /-- EMB_UPDATE (R304): the command checks a batch of update descriptors and accepts it with an apply tick. `homes` as for EMB_LOOKUP. -/
  | embUpdate (h : Hdr) (table count : Nat) (buf : Buf) (homes : List ((Nat × Nat) × Nat))
  /-- EMB_HOT_HALVING (R302): every HOT_WINDOW edges, hotness counts are halved and cold replicas are dropped. -/
  | embHotHalving (tile : Nat)
  /-- EMB_REPLICA_VALID (R303): A replica copy completes and becomes valid, so reads on that tile use it. -/
  | embReplicaValid (tile table part row : Nat)
  /-- EMB_REMOTE_TIMEOUT (R301): A remote home does not answer within TIMEOUT_TICKS, so its rows contribute nothing and the result is PARTIAL. -/
  | embRemoteTimeout (fn qp cmdId : Nat)
  /-- EMB_READ (R301): A remote row fetch message is served at the row's home. Module `src` asks for rows (part, row) under message identifier `msg`; `bad` as for EMB_LOOKUP. -/
  | embRead (src msg table : Nat) (rows bad : List (Nat × Nat))
  /-- EMB_UPDATE_MSG (R305): A remote update batch message reaches the home and joins the apply order. A batch of module `src` with apply tick `tick`. -/
  | embUpdateMsg (src msg table tick : Nat) (items : List EmbItem)
  /-- VEC_QUERY (R323): the command checks a query, fixes Q0 and starts graph traversals and flat scans. `skip`: the segments whose table entries read poisoned. -/
  | vecQuery (h : Hdr) (query : Buf) (result bytes : Nat) (skip : List Nat)
  /-- VEC_UPSERT (R318): the command codes the items and writes them as PENDING records of the OPEN flat segment. -/
  | vecUpsert (h : Hdr) (index count : Nat) (buf : Buf)
  /-- VEC_DELETE (R318): the command accepts identifiers for deletion at the next tick edge. -/
  | vecDelete (h : Hdr) (index count : Nat) (buf : Buf)
  /-- VEC_UPSERT_COMMIT (R318): at the first edge after the batch is written, its slots become LIVE and the replaced slots GHOST. -/
  | vecUpsertCommit (index : Nat)
  /-- VEC_DELETE_APPLY (R318): at the first edge after acceptance, the named slots become GHOST and the completion carries D. -/
  | vecDeleteApply (index : Nat)
  /-- VEC_QUERY_MERGE (R324): the segments' partial lists are checked for visibility, merged and written as the query result. `query` is the number the unit gave the query. -/
  | vecQueryMerge (query : Nat)
  /-- VEC_EDGE_REPAIR (R321): the repair engine takes a queued stale edge, clears it and refills it. -/
  | vecEdgeRepair (index : Nat)
  /-- VEC_COMPACT (R326): the PF starts compaction of a run of segments into a new graph segment. -/
  | vecCompact (index first count : Nat)
  /-- VEC_COMPACT_PUBLISH (R326): at the edge after the build ends, the new segment is SEALED and the run becomes RETIRING. -/
  | vecCompactPublish (index : Nat)
  /-- VEC_COMPACT_RELEASE (R326): when the last older query ends, the run's segments and its uncopied GHOST slots become FREE. -/
  | vecCompactRelease (index : Nat)
  /-- TM_UNIT_START (R341): A port chooses and starts its next unit, by the guaranteed pass and then the excess pass. `arrivals` are the units that have come to the port's leaf queues, `chan` the channel on DEEP, `time` in ns. -/
  | tmUnitStart (port chan time : Nat) (arrivals : List TmUnit)
  /-- TM_HWM_READ (R350): A read of TM_HWM returns both high-water marks and resets them in the same access. `half`: 0 the whole register, 1 its low half, 2 its high half. -/
  | tmHwmRead (port cls half : Nat)
  /-- FAB_PORT_ENABLE (R362): A write of ENABLE starts training of a DOWN port, or takes the port DOWN when cleared. -/
  | fabPortEnable (port : Nat) (on : Bool)
  /-- FAB_RETRAIN (R362): RETRAIN drains an UP port and then retrains it, one port at a time. -/
  | fabRetrain (port : Nat)
  /-- FAB_RETIRE (R362): RETIRE drains a port and then retires it. -/
  | fabRetire (port : Nat)
  /-- FAB_RETURN (R362): RETURN starts training of a RETIRED port. -/
  | fabReturn (port : Nat)
  /-- LINK_TRAINING_DONE (R362): training ends: the port comes UP at full or half rate, or fails and may retire. What training found: lanes, the module at the far end, eye height in mV, width in 1/256 UI, worst lane; and the time in ms. -/
  | linkTrainingDone (port : Nat) (ok : Bool) (lanes neighbour mv ui worst ms : Nat)
  /-- TRAINING_RETRY (R362): 1 s after a failed training, the port trains again. -/
  | trainingRetry (port : Nat)
  /-- PORT_DRAIN_DONE (R362): every frame is acknowledged or 20 µs pass, so the draining port goes to TRAINING or RETIRED. `late`: 20 µs have passed. -/
  | portDrainDone (port : Nat) (late : Bool)
  /-- LINK_DOWN (R369): after 8 NAKs, an ACK timeout or a PCS loss, the link retrains and discards its retry buffer. `cause`: 0 NAKs, 1 no ACK progress for 20 µs, 2 PCS loss. -/
  | linkDown (port cause : Nat)
  /-- FRAME_RECEIVE (R368): A received frame is accepted or refused with NAK, and its acknowledgements and credits are applied. `auth`: under which key the tag of the message the frame completes verifies: 0 none, 1 the present key or its ratchet, 2 the previous key. -/
  | frameReceive (port : Nat) (bytes : List Byte) (auth : Nat)
  /-- FRAME_SEND (R367): at a frame boundary the port sends VC7, VC6 or data frames under credits and the retry window. `mgmt`: messages of VC6 and VC7 that the hub hands to the port. -/
  | frameSend (port : Nat) (mgmt : List TmUnit)
  /-- ACK_TIMER (R368): 0.25 µs without an acknowledgement, the receiver acknowledges, by a link-only frame if it has no payload to send. -/
  | ackTimer (port : Nat)
  /-- HEARTBEAT (R377): A received HEARTBEAT refreshes the member's liveness. The sender and its VIEW_ID; the rest of what a heartbeat carries has no effect here. -/
  | heartbeatMsg (src viewId : Nat)
  /-- VIEW (R377): A VIEW message carries a proposal, accept, commit, JOIN or LEAVE, and a commit is applied. -/
  | viewMsg (src viewId number : Nat) (kind : ViewKind) (members : List Nat)
  /-- DIR_REQ (R384): A directory lookup or commit request (PUT, PUT_IF, DELETE, SWITCH) is served by the shard leader. `id` is the requester's identifier; the entries carry the key, and what a commit puts. -/
  | dirReq (src id : Nat) (op : DirOp) (es : List DirEntry)
  /-- DIR_RESP (R383): the answer to a directory request reaches the requester. `tag`: of an answer to a SWITCH, the migration's. -/
  | dirResp (src id status : Nat) (tag : Option Nat) (es : List DirEntry)
  /-- DIR_REPL (R382): A replication, lease renewal, vote or shard-sync message is processed. -/
  | dirRepl (src shard term : Nat) (body : ReplBody)
  /-- XFER_CHUNK (R371): A 64 KiB transit or fetch chunk message is received. -/
  | xferChunk (src : Nat) (chunk : ChunkBody)
  /-- XFER_CTRL (R153): A migration set-up, descriptor-log or switch message is applied in flow order. -/
  | xferCtrl (src tag : Nat) (body : XferBody)
  /-- FWD_CMD (R156): A command forwarded by a tombstone is executed at the destination and its status returned. The command as module `src` forwards it, its operands in the order of the command's row. -/
  | fwdCmd (src id fn op handle : Nat) (args : List Nat) (data : List Byte)
  /-- RESPONSE (R371): the answer to an XFER_CTRL, FWD_CMD, EMB_READ or EMB_UPDATE message is consumed. -/
  | responseMsg (src id status : Nat) (body : RespBody)
  /-- COLLECTIVE_MSG (R371): A COLLECTIVE kernel data message is received. -/
  | collectiveMsg (src : Nat) (data : List Byte)
  /-- MIRROR_CTRL (R387): A mirror drop or audit message is processed by the partner or the source. `kind`: 0 drop, 1 audit, 2 current, 3 not current. -/
  | mirrorCtrl (src handle nonce kind : Nat)
  /-- DROP_NOTICE (R374): the source handles a dropped message by its type. The dropped message's identifier and TYPE; `ref` and `mirror`: what a dropped chunk belongs to. -/
  | dropNotice (src id type ref : Nat) (mirror : Bool)
  /-- MEMBER_SUSPECT (R377): SUSPECT_TICKS edges without a heartbeat make stewards suspect a member and propose a view without it. -/
  | memberSuspect
  /-- VIEW_PROPOSAL_RETRY (R377): A proposal without a majority is repeated every 4 edges by the next live steward. -/
  | viewProposalRetry
  /-- ISOLATION (R379): ISOLATE_TICKS without a steward majority make the module ISOLATED, and it gives up its leaderships. -/
  | isolation
  /-- LEASE_RENEW (R382): every RENEW_TICKS edges a leader renews its lease by DIR_REPL. -/
  | leaseRenew (shard : Nat)
  /-- LEASE_EXPIRE (R382): A leader's lease runs out and it stops serving. -/
  | leaseExpire (shard : Nat)
  /-- LEADER_ELECTION (R382): A replica that has seen no renewal for LEASE_TICKS + GUARD_TICKS asks for votes for the next term. -/
  | leaderElection (shard : Nat)
  /-- CANDIDATE_YIELD (R382): A candidate that is not leader within 8 edges yields to the next replica. -/
  | candidateYield (shard : Nat)
  /-- DIR_LOOKUP_TIMEOUT (R383): A lookup unanswered within LOOKUP_WAIT is treated as no entry. -/
  | dirLookupTimeout (id : Nat)
  /-- DIR_ENTRY_EXPIRE (R386): A SESSION entry whose EXPIRE_TICK passes is removed from the store. -/
  | dirEntryExpire (keyA : Nat)
  /-- MIRROR_AUDIT (R387): A partner that has held a mirror for MIRROR_AUDIT_TICKS without news asks the source whether it is current. -/
  | mirrorAudit (src handle : Nat)
  /-- JOIN (R378): an OUT module asks to join the view through a reachable member. -/
  | joinView
  /-- STANDALONE (R378): the module forms a view of itself alone. -/
  | standalone
  /-- LEAVE (R378): the stewards commit a view without the module at once, and the module returns to OUT. -/
  | leaveView
  /-- LINK_OFFER (R510): A link handshake offer is received on VC7 and checked against the trust table. The peer's identity digests, what the key agreement yields, the time in ms, and whether the signature verifies. -/
  | linkOffer (port ed ml blob ms : Nat) (sigOk : Bool)
  /-- LINK_REPLY (R510): A link handshake reply is received and the link keys are installed, or the training fails. As LINK_OFFER. -/
  | linkReply (port ed ml blob ms : Nat) (sigOk : Bool)
  /-- SQ_TAIL (R406): A doorbell write of a new submission tail, checked against the ring. -/
  | sqTail (fn qp idx : Nat)
  /-- CQ_HEAD (R406): A doorbell write of the host's completion head, freeing completion slots. -/
  | cqHead (fn qp idx : Nat)
  /-- OUT_CI (R406): A doorbell write of the host's consumed output-ring byte count, freeing space. -/
  | outCi (fn qp n : Nat)
  /-- SQ_ENTRY_FETCH (R411): the intake fetches a submission entry by class order once a completion slot is reserved, and checks it under R415. -/
  | sqEntryFetch (fn qp : Nat) (entry : Option (List Byte))
  /-- QP_ENABLE (R405): setting ENABLE validates a queue pair and resets its indices, or puts it in ERROR. -/
  | qpEnable (fn qp : Nat) (on : Bool)
  /-- MSIX_COALESCE_TIMEOUT (R410): COAL_US after the first uncovered entry, the MSI-X vector fires. -/
  | msixCoalesceTimeout (fn vec : Nat)
  /-- FUNCTION_LEVEL_RESET (R403): an FLR of a VF aborts it, makes its sessions unreachable and frees its descriptors in the background. -/
  | functionLevelReset (fn : Nat)
  /-- NUMVFS_CHANGE (R403): lowering NumVFs resets each removed VF as an FLR does. -/
  | numvfsChange (count : Nat)
  /-- PCIE_LINK_CHANGE (R398): the host link trains to a new rate or width, the port capacity follows and event 0x0013 is posted. -/
  | pcieLinkChange (rate width : Nat) (flit : Bool)
  /-- BAR4_WRITE (R21): A BAR4 write is applied to the bonded tier, or discarded and counted if it hits a protected area. -/
  | bar4Write (off : Nat) (data : List Byte)
  /-- FENCE_SIGNAL (R427): the command applies SET or ADD to a fence. -/
  | fenceSignal (h : Hdr) (fence mode value : Nat)
  /-- FENCE_WAIT (R428): the command waits until a fence reaches its value, or until its timeout. -/
  | fenceWait (h : Hdr) (fence value timeout : Nat)
  /-- FENCE_WAIT_TIMEOUT (R428): TIMEOUT tick edges pass first, so the FENCE_WAIT completes with TIMEOUT. -/
  | fenceWaitTimeout (fn qp cmdId : Nat)
  /-- FEN_RESET (R426): A PF write sets a fence to 0. -/
  | fenReset (fence : Nat)
  /-- MODEL_BIND (R423): OP BIND checks the manifest, attention record and tokenizer, then binds the slot and reserves its areas. -/
  | modelBind (h : Hdr) (slot tokSet vocab recordAddr modelId end0 end1 end2 shard : Nat) (m : Manifest)
  /-- MODEL_UNBIND (R423): OP UNBIND releases a bound slot's weights, model copy and directory entry. -/
  | modelUnbind (h : Hdr) (slot : Nat)
  /-- WEIGHTS_LOAD (R424): the command decrypts, checks and writes weight blocks to both stack copies and to the deep-tier copy. `good`: how many blocks from the first have a tag that verifies. -/
  | weightsLoad (h : Hdr) (slot count first : Nat) (buf : Buf) (good : Nat)
  /-- CHECKPOINT (R425): the command runs a checkpoint at the next step boundary of each named partition, without a cross-module barrier. -/
  | checkpoint (h : Hdr) (addr : Nat)
  /-- ABORT_FUNCTION (R432): the command stops a function's queues, kernels, DMA and transits, freezes its sessions and completes its commands ABORTED. -/
  | abortFunction (h : Hdr) (fn : Nat)
  /-- ABORT_ARRAY_RESET (R432): A kernel of the aborted function still running 250 µs after row 1 has its arrays reset. -/
  | abortArrayReset (part : Nat)
  /-- EVQ_CI (R409): A write of the consumed byte count of the PF's event queue frees space. -/
  | evqCi (n : Nat)
  /-- EVENT_QUEUE_WRITE (R409): held events are written into the PF's event queue as space becomes available. -/
  | eventQueueWrite
  /-- LOAD (R448): LOAD verifies an Almanac image and copies its sections into the shadow area, staging it. `sigOk` says that both signatures of the image verify. -/
  | almLoad (sigOk : Bool)
  /-- SEAL (R449): SEAL checks the regions changed by register edits and stages them under ALM_STAGE_GEN. -/
  | almSeal
  /-- DISCARD (R451): DISCARD returns every shadow to its committed value and empties the staging set. -/
  | almDiscard
  /-- WRITE_BOOT (R459): WRITE_BOOT writes the staged image into the boot slot of lower generation. -/
  | writeBoot
  /-- RWS_WRITE (R447): A write of an RWS field is accepted into the shadow while the set is EMPTY or OPEN, and otherwise refused. BAR0 offset and the 64-bit value. -/
  | rwsWrite (off value : Nat)
  /-- REGION_COMPLETED (R455): post-commit work of a region ends, COMPLETING clears and event 0x0017 is posted. -/
  | regionCompleted (region : Nat)
  /-- FW_WRITE (R460): WRITE verifies a firmware image and writes it into the slot that is not ACTIVE, as PENDING. What verification of the image finds: signatures, SVN, digest. -/
  | fwWrite (sigOk : Bool) (svn digest : Nat)
  /-- ACTIVATE (R461): ACTIVATE stops the complex and boots the PENDING firmware slot. `sigOk` says that both signatures of the PENDING slot verify. -/
  | fwActivate (sigOk : Bool)
  /-- INVALIDATE (R464): INVALIDATE clears the firmware slot that is not ACTIVE. -/
  | fwInvalidate
  /-- ACTIVATION_TIMEOUT (R461): the new firmware has not come up within 10 s, so the watchdog restarts the old slot and the new slot becomes FAILED. -/
  | activationTimeout
  /-- RETIRE_CHANNEL (R473): A stack channel is retired, remapped into the spare region and rebuilt. -/
  | retireChannel (chan : Nat)
  /-- RETURN_CHANNEL (R473): A retired channel is marched and, if it passes, its range is copied back from the remap. `pass`: the march finds no fault. -/
  | returnChannel (chan : Nat) (pass : Bool)
  /-- CHANNEL_REBUILD_DONE (R473): the rebuild ends, REMAPS increments and event 0x001A is posted. `lost`: codewords found uncorrectable, by number. -/
  | channelRebuildDone (chan : Nat) (lost : List Nat)
  /-- TILE_OFFLINE (R475): A planned tile removal drains its partitions and parks the sessions that have data on the tile. -/
  | tileOffline (tile : Nat)
  /-- TILE_FAULT (R475): an unplanned tile loss resets its arrays and reverts or expires the sessions with data on it. -/
  | tileFault (tile : Nat)
  /-- TILE_DRAIN_DONE (R475): draining ends, the tile's stacks go offline, the pool shrinks and events are posted. -/
  | tileDrainDone (tile : Nat)
  /-- TILE_ONLINE (R477): the tile's arrays are tested, its stacks trained and filled, its copies rewritten, and it comes online. `bad`: arrays that fail their test. -/
  | tileOnline (tile : Nat) (bad : List Nat)
  /-- RETIRE_DEEP (R474): A deep-tier channel is retired and evacuated. -/
  | retireDeep (chan : Nat)
  /-- RETURN_DEEP (R474): A retired deep-tier channel is returned to service. What its training finds. -/
  | returnDeep (chan : Nat) (pass : Bool) (temp timing voltage : Nat)
  /-- REPLICA_SCRUB (R471): the replica scrubber compares both copies of replicated state and resolves any divergence. Descriptors and chunk-map entries whose two copies were intact and differed. -/
  | replicaScrub (tile : Nat) (descs chunks : List Nat)
  /-- CAPTURE_DONE (R480): capture ends, the held launches are released and CAPTURE_FENCE advances. It ends `us` µs after the checkpoint began. -/
  | captureDone (us : Nat)
  /-- PACK_DONE (R480): the packed image is durable, its header is written, staging is released and DURABLE_FENCE advances. It ends `ms` ms after the checkpoint began. -/
  | packDone (ms : Nat)
  /-- CKPT_MIRROR_DONE (R480): the checkpoint image has been copied to MIRROR_MODULE, and phase 3 is posted. -/
  | ckptMirrorDone
  /-- RESTORE_DONE (R483): the restore has written its blocks, phase 4 is posted and the held launches are released. `bad`: the blocks that fail a tag or digest; `far`: the region table and data that MIRROR_MODULE gives. -/
  | restoreDone (bad : List Nat) (far : Option (List (Nat × Nat) × List (List Byte)))
  /-- DARK_FRAME_SLICE (R485): an idle array runs a test slice of up to 10 µs and checks its signature. `ok`: its signature matches; `oldest`: ms since the oldest complete pass of an array. -/
  | darkFrameSlice (tile n : Nat) (ok : Bool) (oldest : Nat)
  /-- DF_BANK_TEST (R488): every BANK_TEST_TICKS edges inside the window, PATTERN_TEST runs over each test channel. -/
  | dfBankTest
  /-- DF_PORT_RETRAIN (R488): A port whose eye margin falls below the limit is retrained by the test scheduler. The eye that the receivers report. -/
  | dfPortRetrain (port mv ui lane : Nat)
  /-- OFFER (R506): the device completes a key-agreement offer blob in place. -/
  | kxOffer (job peer : Nat)
  /-- ACCEPT (R506): the device verifies an offer, writes the reply and installs the job keys. `sigOk`: the signatures of the offer verify. -/
  | kxAccept (job peer : Nat) (sigOk : Bool)
  /-- COMPLETE (R506): the device checks the reply, decapsulates and installs the job keys. `sigOk`: the signatures of the reply verify. -/
  | kxComplete (job peer : Nat) (sigOk : Bool)
  /-- CLOSE (R509): CLOSE erases every key of the job at once. -/
  | kxClose (job : Nat)
  /-- OWNER_UPDATE (R498): A new owner record is verified and written to the slot not in use. `sigOk`: the record's signatures verify under an anchor of its KEY_CLASS. -/
  | ownerUpdate (sigOk : Bool)
  /-- OFFER_TIMEOUT (R506): an offer not completed within 100,000 tick edges is discarded, and event 0x001E carries TIMEOUT. -/
  | offerTimeout (job peer : Nat)
  /-- OLD_KEY_EXPIRY (R509): 256 tick edges after a replacement or ratchet, the previous key is erased. -/
  | oldKeyExpiry (job peer : Nat)
  /-- SPDM_REQUEST (R513): an SPDM request is answered by the responder over DOE or MCTP. Transport: 0 MCTP over PCIe, 1 MCTP over I3C, 2 DOE. -/
  | spdmRequest (bind : Nat) (req : SpdmReq)
  /-- MODEL_KEY_SET (R515): A vendor-defined SPDM request SET installs a model key for a slot. -/
  | modelKeySet (bind session slot modelId digest key : Nat)
  /-- MODEL_KEY_CLEAR (R515): A vendor-defined SPDM request CLEAR erases a slot's model key. -/
  | modelKeyClear (bind session slot : Nat)
  /-- IDE_KM (R512): IDE stream keys are programmed within an SPDM secured session. `key`: what is programmed, or none where the stream ends. -/
  | ideKm (session stream : Nat) (key : Option Nat)
  /-- MGT_WATCHDOG_RESTART (R519): A missed watchdog kick restarts the management complex from the ACTIVE slot. -/
  | mgtWatchdogRestart
  /-- SENSOR_REFRESH (R523): every 10 ms the complex refreshes the PDR sensor values. Readings in °C of T0 to T3, the hub, and the hottest deep-tier package. -/
  | sensorRefresh (temps : List Nat)
  /-- SET_ENDPOINT_ID (R520): the bus owner assigns the MCTP endpoint identifier on one binding. Binding: 0 PCIe, 1 I3C. -/
  | setEndpointId (bind eid : Nat)
  /-- MCTP_MESSAGE (R520): an MCTP message arrives on a binding and is accepted by type, or discarded. Binding, the function addressed, message type, control command. -/
  | mctpMessage (bind fn type code : Nat)
  /-- ENTDAA (R521): the I3C target takes its dynamic address. -/
  | entdaa (addr : Nat)
  /-- GETSTATUS (R556): the I3C target answers GETSTATUS, with STOP_CODE when start-up has stopped. -/
  | getstatus
  /-- GET_TID (R522): PLDM GetTID returns the terminus identifier. -/
  | getTid (bind : Nat)
  /-- SET_TID (R522): PLDM SetTID sets the terminus identifier. -/
  | setTid (bind tid : Nat)
  /-- GET_PLDM_TYPES (R522): PLDM GetPLDMTypes returns the supported types. -/
  | getPldmTypes (bind : Nat)
  /-- GET_PLDM_COMMANDS (R522): PLDM GetPLDMCommands returns the supported commands. -/
  | getPldmCommands (bind type : Nat)
  /-- GET_PLDM_VERSION (R522): PLDM GetPLDMVersion returns the version. -/
  | getPldmVersion (bind type : Nat)
  /-- GET_PDR (R522): PLDM GetPDR returns a PDR record. -/
  | getPdr (bind record : Nat)
  /-- GET_PDR_REPOSITORY_INFO (R522): PLDM GetPDRRepositoryInfo returns repository information. -/
  | getPdrRepositoryInfo (bind : Nat)
  /-- GET_SENSOR_READING (R523): PLDM GetSensorReading returns a numeric sensor value. -/
  | getSensorReading (bind id : Nat)
  /-- GET_STATE_SENSOR_READINGS (R523): PLDM GetStateSensorReadings returns state sensor values. -/
  | getStateSensorReadings (bind id : Nat)
  /-- SET_SENSOR_THRESHOLDS (R522): PLDM SetSensorThresholds sets a sensor's thresholds. Upper warning, critical, fatal, then the lower ones. -/
  | setSensorThresholds (bind id : Nat) (levels : List (Option Int))
  /-- GET_SENSOR_THRESHOLDS (R522): PLDM GetSensorThresholds returns a sensor's thresholds. -/
  | getSensorThresholds (bind id : Nat)
  /-- SET_NUMERIC_EFFECTER_VALUE (R524): A write to effecter 0x0100 sets the management cap, clamped to 300–750 W. -/
  | setNumericEffecterValue (bind id value : Nat)
  /-- GET_NUMERIC_EFFECTER_VALUE (R522): PLDM GetNumericEffecterValue returns the management cap. -/
  | getNumericEffecterValue (bind id : Nat)
  /-- SET_EVENT_RECEIVER (R525): PLDM SetEventReceiver names the receiver of platform event messages. -/
  | setEventReceiver (bind eid : Nat) (on : Bool)
  /-- REQUEST_UPDATE (R522): A PLDM firmware update begins, writing the slot that is not ACTIVE. -/
  | requestUpdate (bind : Nat)
  /-- ACTIVATE_FIRMWARE (R522): PLDM ActivateFirmware runs the activation when self-contained, and otherwise leaves the slot PENDING. `sigOk`: both signatures of the PENDING slot verify. -/
  | activateFirmware (bind : Nat) (selfContained sigOk : Bool)
  /-- DBG_TRACE_ENABLE (R530): A write of ENABLE starts or restarts trace collection into the ring. The fields written to DBG_TRACE_BASE. -/
  | dbgTraceEnable (on stopMode : Bool) (addr : Nat)
  /-- EXPORT (R535): EXPORT decrypts a completed dump slot into a bonded-tier buffer and sets EXPORTED. `tagOk`: the header's tag verifies. -/
  | exportDump (slot : Nat) (tagOk : Bool)
  /-- RELEASE (R535): RELEASE frees a dump slot. -/
  | releaseDump (slot : Nat)
  /-- ENGINE_STALL (R536): A hub engine with queued work completes none for ENGINE_STALL_MS, so a KIND 2 dump is written. The block, coded as in R270, and how long it has completed nothing. -/
  | engineStall (block ms : Nat)
  /-- PEAK_DW_READ (R527): A read of a power register returns its PEAK_DW fields and resets them in the same access. Domain 0 to 11, or 12 for MGT_POWER. -/
  | peakDwRead (domain : Nat)
  /-- PWR_EN (R554): PWR_EN rising starts a cold start-up; falling removes the main rails. -/
  | pwrEn (high : Bool)
  /-- FIRMWARE_SELF_TEST_DONE (R554): the firmware's self-test ends, the governor limits are read back and MGT_RUNNING sets. Whether each firmware slot verifies and comes up. -/
  | firmwareSelfTestDone (aOk bOk : Bool)
  /-- BOOT_ALMANAC_LOAD (R459): once HUB_OK and MGT_RUNNING are set, the firmware loads the boot Almanac slot of higher generation, then the other. Whether the signatures of each boot slot's image verify. -/
  | bootAlmanacLoad (aOk bOk : Bool)
  /-- BROWNOUT (R543): P54V below 42 V for over 500 µs removes the main rails and latches a brownout. -/
  | brownout
  /-- PERST_N (R553): PERST_N low resets the module with power held until it rises. -/
  | perstN (high : Bool)
  /-- MOD_RST_N (R553): MOD_RST_N low resets the module with power held. -/
  | modRstN (high : Bool)
  /-- PCIE_HOT_RESET (R553): A PCIe hot reset resets the module with power held. -/
  | pcieHotReset
  /-- HUB_FAULT (R553): A hub fault the hub cannot contain asserts ALERT_N and resets the module with power held. -/
  | hubFault
  /-- CRITICAL_LIMIT (R551): A sensor enters or leaves its critical state; clocks are capped or levers engaged, and event 0x0025 is posted. Sensor: 1 stack, 2 tile, 3 hub, 4 deep-tier package; its reading in °C. -/
  | criticalLimit (kind index temp : Nat)
  /-- THERMAL_TRIP (R552): A sensor reaches its trip limit, so THERM_TRIP_N asserts, the main rails are removed and the trip is latched. As for CRITICAL_LIMIT. -/
  | thermalTrip (kind index temp : Nat)
  /-- REGISTER_WRITE (R5): A write to a register without a row of its own acts by its access type: RW, W1C, LT or ignored. The function, BAR 0 or 2, the offset, the value, and whether the write is of 64 bits or 32. -/
  | registerWrite (fn bar off value : Nat) (wide : Bool)
  /-- P54V_CHANGE (R553): the 54 V entry is applied (with PWR_EN high this is a cold start) or falls below 36 V, losing the standby domain, its trip latch and every state of R77. Whether P54V is above 36 V, and the slot straps as sampled then. -/
  | p54vChange (on : Bool) (slotId : Nat)
  /-- START_UP_ENGINE_DONE (R554): the hardware start-up engine finishes array tests, bonded- and deep-tier training, zero-fill and descriptor initialisation; TILE_PRESENT and INIT_DONE settle, HUB_OK sets, or start-up stops. -/
  | startUpEngineDone (r : BootResult)
  /-- DEEP_EVACUATION_DONE (R103): the last allocated chunk of a deep-tier channel has been copied elsewhere, so draining begins for retraining, or for a retired channel ALLOC_MIB falls by 32 GiB. `lost` are logical chunks of a retired channel that could not be read. -/
  | deepEvacuationDone (chan : Nat) (lost : List Nat)
  /-- OPERATING_LIMIT_STOP (R556): A sensor is still above its operating limit 10 s after row 2 of start-up, so start-up stops with STOP_CODE 0x06. As for CRITICAL_LIMIT. -/
  | operatingLimitStop (kind index temp : Nat)
  /-- PLDM_UPDATE_AGENT_COMMAND (R522): A PLDM firmware-update command other than RequestUpdate and ActivateFirmware, such as the component, data-transfer and cancel commands, arrives and drives the write of the slot that is not ACTIVE. -/
  | pldmUpdateAgentCommand (bind : Nat) (cmd : UpdateCmd)
deriving DecidableEq, Repr

end Sys2Proof
end

