-- ==== Sys2Proof/Decode.lean ====
section
/-!
DEFINITION. Sys2Proof/Decode.lean: the commands that words of spec/opcode_table.json spell. No row of the table gives bits (a
submission entry is a structure of 64 bytes that SQ_ENTRY_FETCH takes in, R412), so no word spells a command.
-/
namespace Sys2Proof

/-- The command a table word spells: none, since the table gives its rows no bits. -/
def decodeTableWord (_nbits _w : Nat) : Option Instr := none

end Sys2Proof
end

