-- ==== Sys2Proof/Config.lean ====
section
/-!
DEFINITION. Sys2Proof/Config.lean: what the spec leaves free. Each constant has no body, so no proof can know its value;
the assumption log names each. The first argument of a fresh value is the counter `State.fresh`, which every use advances.
-/
namespace Sys2Proof

/-- The hardware random source (R51, R135, R249): the n-th number drawn. -/
opaque Config.random : Nat → Nat
/-- The generation a slot gets at a start-up (R51): start-up number, slot. -/
opaque Config.firstGen : Nat → Nat → Nat
/-- The place of an allocation within its channel (R203: at addresses the device chooses): draw number, channel. -/
opaque Config.place : Nat → Nat → Nat
/-- A byte of data whose value the spec leaves open (R94: contents left undefined), by draw and address. -/
opaque Config.openByte : Nat → Nat → Byte
/-- A number whose value the spec leaves open, by draw. -/
opaque Config.openNat : Nat → Nat
/-- A number whose value the spec leaves open, by draw and index. -/
opaque Config.openAt : Nat → Nat → Nat
/-- The number that migration sequence numbers start from (R152). -/
opaque Config.migBase : Nat
/-- The number a link's frames start from (R368), and that an ordered flow starts from (R372). -/
opaque Config.firstSeq : Nat
opaque Config.firstFlow : Nat
/-- An FP32 result computed in an order or to a tolerance the spec leaves open (R174), by draw, as its bit pattern. -/
opaque Config.openF32 : Nat → Nat
/-- AES-256-GCM encryption of a chunk (R137): key, nonce, chunk number, additional data, plain bytes; ciphertext with its 16-byte tag. -/
opaque Config.seal : Nat → Nat → Nat → List Byte → List Byte → List Byte
/-- AES-256-GCM decryption of a weight block (R424): key, ciphertext. -/
opaque Config.unseal : Nat → List Byte → List Byte
/-- A digest (SHA-384 and its uses in R449, R482): the bytes digested. -/
opaque Config.digest : List Byte → Nat
/-- Keys derived by HKDF (R500, R507, R508): input key, info. -/
opaque Config.kdf : Nat → List Byte → Nat
/-- The two shared secrets of an agreement (R507), from the digests of the offer and of the reply, each up to its signature block. -/
opaque Config.agree : Nat → Nat → Nat
/-- The version of the PLDM base specification that the responder gives (R522), and the SHA-384 digest's first four bytes of the serial
number (R521). -/
opaque Config.pldmBase : Nat
opaque Config.serialDigest : Nat
/-- The Vendor ID and the subsystem identifiers of the identity record (R399). -/
opaque Config.vendorId : Nat
opaque Config.subVendorId : Nat
opaque Config.subDeviceId : Nat
/-- Digests of the boot ROM and of the identity record (R514). -/
opaque Config.romDigest : Nat
opaque Config.recordDigest : Nat
/-- Digests of this module's identity keys, Ed25519 and ML-DSA-65 (R494, R510); the first is free but for not being 0. -/
opaque Config.idEdLess1 : Nat
def Config.idEd : Nat := Config.idEdLess1 + 1
opaque Config.idMl : Nat
/-- The compressed form of a block (R188, R482). -/
opaque Config.compress : List Byte → List Byte

end Sys2Proof
end

