-- ==== Sys2Proof/Machine/Store.lean ====
section
/-!
DEFINITION. Sys2Proof/Machine/Store.lean: a sorted association list keyed by numbers, the one form in which the model
keeps sparse data (register fields, descriptors, tables), with the bit-field and sign-extension helpers of every meaning.
-/
namespace Sys2Proof

/-- The bits `hi:lo` of a number (R4: bit ranges are written high:low). -/
def bitsOf (v hi lo : Nat) : Nat := (v / 2 ^ lo) % 2 ^ (hi + 1 - lo)

/-- Bit `i` of a number. -/
def bitOf (v i : Nat) : Bool := (v / 2 ^ i) % 2 = 1

/-- Sum capped at the all-ones value of `w` bits. -/
def satAdd (w a b : Nat) : Nat := if a + b < 2 ^ w then a + b else 2 ^ w - 1

/-- A number that `w` bits hold, read as two's complement. -/
def toSigned (w v : Nat) : Int := if v < 2 ^ (w - 1) then (v : Int) else (v : Int) - 2 ^ w

/-- An integer as the two's complement number of `w` bits. -/
def ofSigned (w : Nat) (v : Int) : Nat := (v % (2 ^ w : Int)).toNat

end Sys2Proof

namespace Sys2Proof.Machine

/-- Sparse data by number, kept in rising order of key. -/
abbrev Store (α : Type) := List (Nat × α)

/-- The value held under a key. -/
def sget {α : Type} : Store α → Nat → Option α
  | [], _ => none
  | (k, v) :: r, i => if i = k then some v else sget r i

/-- Put a value under a key, in its place in the order. -/
def sset {α : Type} : Store α → Nat → α → Store α
  | [], i, v => [(i, v)]
  | (k, w) :: r, i, v =>
    if i < k then (i, v) :: (k, w) :: r
    else if i = k then (i, v) :: r
    else (k, w) :: sset r i v

/-- Put an element before the first one that it may precede. -/
def insertBy {α : Type} (le : α → α → Bool) (x : α) : List α → List α
  | [] => [x]
  | y :: r => if le x y then x :: y :: r else y :: insertBy le x r
/-- A list in order; equal elements keep theirs. -/
def sortBy {α : Type} (le : α → α → Bool) (l : List α) : List α := l.foldr (insertBy le) []
/-- Numbers in rising order. -/
def sortNats (l : List Nat) : List Nat := sortBy (fun a b => decide (a ≤ b)) l

/-- Remove a key. -/
def sdel {α : Type} (m : Store α) (i : Nat) : Store α := m.filter (fun p => p.1 != i)

/-- The value under a key, or a default. -/
def sgetD {α : Type} (m : Store α) (i : Nat) (d : α) : α := (sget m i).getD d

/-- The keys of a store strictly rise. -/
def sorted {α : Type} : Store α → Bool
  | [] => true
  | [_] => true
  | (a, _) :: (b, y) :: r => decide (a < b) && sorted ((b, y) :: r)

end Sys2Proof.Machine
end

