-- ==== Sys2Proof/Machine/Regs.lean ====
section
/-!
DEFINITION. Sys2Proof/Machine/Regs.lean: the place of every field of every register of the spec (R563, R564 and the
register tables of the chapters): BAR0 byte offset, bit range and reset value. Queue-pair registers lie in BAR2 of their
function (R435); they are kept at 0x1000_0000 + f × 0x20_0000, above BAR0. A per-tile block takes the tile first; a register
that reads the same in all four instances (R567) is kept once.
-/
namespace Sys2Proof.Machine

/-- One field of a register: byte offset of the register, high bit, low bit, value at reset (R8). -/
structure Fld where
  off : Nat
  hi : Nat
  lo : Nat
  rst : Nat
deriving DecidableEq, Repr

/-- Width of a field in bits. -/
def fwidth (f : Fld) : Nat := f.hi + 1 - f.lo

/-- The number under which a field's value is kept. It holds the bit range, so the width can be read back from it. -/
def fkey (f : Fld) : Nat := (f.off * 64 + f.lo) * 64 + f.hi

/-- The width of the field kept under a number. -/
def keyWidth (k : Nat) : Nat := k % 64 + 1 - (k / 64) % 64

/-- R59: SES_POOL_SIZE bits 31:0, RO. -/
def SES_POOL_SIZE.POOL_MIB : Fld := ⟨0x30008, 31, 0, 0⟩
/-- R59: SES_POOL_USED bits 31:0, RO. -/
def SES_POOL_USED.USED_MIB : Fld := ⟨0x30010, 31, 0, 0⟩
/-- R59: SES_POOL_USED bits 54:32, RO. -/
def SES_POOL_USED.SESSIONS : Fld := ⟨0x30010, 54, 32, 0⟩
/-- R59: SES_POOL_WM bits 9:0, LT. -/
def SES_POOL_WM.HIGH : Fld := ⟨0x30018, 9, 0, 0x3d7⟩
/-- R59: SES_POOL_WM bits 25:16, LT. -/
def SES_POOL_WM.LOW : Fld := ⟨0x30018, 25, 16, 0x3ae⟩
/-- R61: SES_CLASS_TUNE bits 39:0, LT. -/
def SES_CLASS_TUNE.DEFAULT_TTL (c : Nat) : Fld := ⟨0x30140 + 0x8 * c, 39, 0, 0⟩
/-- R61: SES_CLASS_TUNE bits 55:40, LT. -/
def SES_CLASS_TUNE.WAKE_GUARD (c : Nat) : Fld := ⟨0x30140 + 0x8 * c, 55, 40, 0⟩
/-- R61: SES_CLASS_USAGE bits 31:0, RO. -/
def SES_CLASS_USAGE.USED_MIB (c : Nat) : Fld := ⟨0x30180 + 0x8 * c, 31, 0, 0⟩
/-- R61: SES_CLASS_USAGE bits 54:32, RO. -/
def SES_CLASS_USAGE.SESSIONS (c : Nat) : Fld := ⟨0x30180 + 0x8 * c, 54, 32, 0⟩
/-- R62: SES_C0_ADMIT bits 15:0, LT. -/
def SES_C0_ADMIT.RES_PER_MS : Fld := ⟨0x301c0, 15, 0, 0x3e8⟩
/-- R62: SES_C0_ADMIT bits 31:16, RO. -/
def SES_C0_ADMIT.DEEP_MIB_6MS : Fld := ⟨0x301c0, 31, 16, 0x800⟩
/-- R62: SES_C0_STATUS bits 0:0, RO. -/
def SES_C0_STATUS.ARMED : Fld := ⟨0x301c8, 0, 0, 0⟩
/-- R62: SES_C0_STATUS bits 1:1, RO. -/
def SES_C0_STATUS.NO_RESERVE : Fld := ⟨0x301c8, 1, 1, 1⟩
/-- R62: SES_C0_STATUS bits 2:2, RO. -/
def SES_C0_STATUS.CADENCE : Fld := ⟨0x301c8, 2, 2, 1⟩
/-- R62: SES_C0_STATUS bits 3:3, RO. -/
def SES_C0_STATUS.RECONFIG : Fld := ⟨0x301c8, 3, 3, 0⟩
/-- R62: SES_C0_STATUS bits 4:4, RO. -/
def SES_C0_STATUS.POWER : Fld := ⟨0x301c8, 4, 4, 0⟩
/-- R62: SES_C0_STATUS bits 31:16, RO. -/
def SES_C0_STATUS.WORST_RES_US : Fld := ⟨0x301c8, 31, 16, 0⟩
/-- R62: SES_C0_STATUS bits 47:32, RO. -/
def SES_C0_STATUS.WORST_DEEP_US : Fld := ⟨0x301c8, 47, 32, 0⟩
/-- R62: SES_C0_COUNTS bits 23:0, RO. -/
def SES_C0_COUNTS.UNGUARANTEED : Fld := ⟨0x301d0, 23, 0, 0⟩
/-- R62: SES_C0_COUNTS bits 47:24, RO. -/
def SES_C0_COUNTS.VIOLATIONS : Fld := ⟨0x301d0, 47, 24, 0⟩
/-- R63: SES_STATE_COUNT bits 22:0, RO. -/
def SES_STATE_COUNT.COUNT (k : Nat) : Fld := ⟨0x30200 + 0x8 * k, 22, 0, 0⟩
/-- R63: SES_EVICTIONS bits 47:0, RO. -/
def SES_EVICTIONS.COUNT : Fld := ⟨0x30280, 47, 0, 0⟩
/-- R63: SES_EXPIRIES bits 47:0, RO. -/
def SES_EXPIRIES.COUNT : Fld := ⟨0x30288, 47, 0, 0⟩
/-- R63: SES_EXPIRE_SLIP bits 47:0, RO. -/
def SES_EXPIRE_SLIP.COUNT : Fld := ⟨0x30290, 47, 0, 0⟩
/-- R63: SES_EXPIRE_SLIP bits 63:48, RO. -/
def SES_EXPIRE_SLIP.MAX : Fld := ⟨0x30290, 63, 48, 0⟩
/-- R63: SES_PLAN_SKIPS bits 47:0, RO. -/
def SES_PLAN_SKIPS.COUNT : Fld := ⟨0x30298, 47, 0, 0⟩
/-- R63: SES_CAPACITY_FAILS bits 47:0, RO. -/
def SES_CAPACITY_FAILS.COUNT : Fld := ⟨0x302a0, 47, 0, 0⟩
/-- R63: SES_DATA_DROPPED bits 47:0, RO. -/
def SES_DATA_DROPPED.COUNT : Fld := ⟨0x302a8, 47, 0, 0⟩
/-- R87: SID_COUNT bits 63:0, RO. -/
def SID_COUNT.COUNT : Fld := ⟨0x10000, 63, 0, 0⟩
/-- R87: SID_STATUS bits 2:0, RO. -/
def SID_STATUS.STATE : Fld := ⟨0x10008, 2, 0, 0⟩
/-- R87: SID_STATUS bits 15:8, RO. -/
def SID_STATUS.SYNTH_RUN : Fld := ⟨0x10008, 15, 8, 0⟩
/-- R87: SID_STATUS bits 16:16, RO. -/
def SID_STATUS.PERIOD_VALID : Fld := ⟨0x10008, 16, 16, 0⟩
/-- R87: SID_STATUS bits 63:32, RO. -/
def SID_STATUS.PERIOD_NS : Fld := ⟨0x10008, 63, 32, 0⟩
/-- R87: SID_CTRL bits 0:0, WO. -/
def SID_CTRL.SOFT_TICK : Fld := ⟨0x10010, 0, 0, 0⟩
/-- R87: SID_EPOCH_TX bits 63:0, WO. -/
def SID_EPOCH_TX.VALUE : Fld := ⟨0x10018, 63, 0, 0⟩
/-- R87: SID_EPOCH_LOCAL bits 63:0, WO. -/
def SID_EPOCH_LOCAL.VALUE : Fld := ⟨0x10020, 63, 0, 0⟩
/-- R87: SID_EPOCH_LAST bits 63:0, RO. -/
def SID_EPOCH_LAST.VALUE : Fld := ⟨0x10028, 63, 0, 0⟩
/-- R87: SID_JUMP bits 63:0, RO. -/
def SID_JUMP.DELTA : Fld := ⟨0x10030, 63, 0, 0⟩
/-- R87: SID_PULSE_COUNTS bits 15:0, RO. -/
def SID_PULSE_COUNTS.GLITCH : Fld := ⟨0x10038, 15, 0, 0⟩
/-- R87: SID_PULSE_COUNTS bits 31:16, RO. -/
def SID_PULSE_COUNTS.EXTRA : Fld := ⟨0x10038, 31, 16, 0⟩
/-- R87: SID_PULSE_COUNTS bits 47:32, RO. -/
def SID_PULSE_COUNTS.HOLDOVERS : Fld := ⟨0x10038, 47, 32, 0⟩
/-- R87: SID_PULSE_COUNTS bits 63:48, RO. -/
def SID_PULSE_COUNTS.FREEWHEELS : Fld := ⟨0x10038, 63, 48, 0⟩
/-- R87: SID_EPOCH_COUNTS bits 15:0, RO. -/
def SID_EPOCH_COUNTS.APPLIED : Fld := ⟨0x10040, 15, 0, 0⟩
/-- R87: SID_EPOCH_COUNTS bits 31:16, RO. -/
def SID_EPOCH_COUNTS.NOOP : Fld := ⟨0x10040, 31, 16, 0⟩
/-- R87: SID_EPOCH_COUNTS bits 47:32, RO. -/
def SID_EPOCH_COUNTS.LATE : Fld := ⟨0x10040, 47, 32, 0⟩
/-- R87: SID_EPOCH_COUNTS bits 63:48, RO. -/
def SID_EPOCH_COUNTS.BACKWARD : Fld := ⟨0x10040, 63, 48, 0⟩
/-- R88: EPH_CTRL bits 0:0, RW. -/
def EPH_CTRL.ENABLE : Fld := ⟨0x20000, 0, 0, 0⟩
/-- R88: EPH_SLIP bits 47:0, RO. -/
def EPH_SLIP.ENTRIES : Fld := ⟨0x20008, 47, 0, 0⟩
/-- R88: EPH_SLIP bits 63:48, RO. -/
def EPH_SLIP.MAX : Fld := ⟨0x20008, 63, 48, 0⟩
/-- R88: EPH_SLIP_TICKS bits 63:0, RO. -/
def EPH_SLIP_TICKS.SUM : Fld := ⟨0x20010, 63, 0, 0⟩
/-- R88: EPH_SLIP_BUSY bits 47:0, RO. -/
def EPH_SLIP_BUSY.COUNT : Fld := ⟨0x20018, 47, 0, 0⟩
/-- R88: EPH_SLIP_BUSY bits 63:48, RO. -/
def EPH_SLIP_BUSY.MAX : Fld := ⟨0x20018, 63, 48, 0⟩
/-- R88: EPH_EVENTS bits 15:0, RO. -/
def EPH_EVENTS.LATE_SUBMIT : Fld := ⟨0x20020, 15, 0, 0⟩
/-- R88: EPH_EVENTS bits 31:16, RO. -/
def EPH_EVENTS.WAIT_TIMEOUTS : Fld := ⟨0x20020, 31, 16, 0⟩
/-- R88: EPH_EVENTS bits 47:32, RO. -/
def EPH_EVENTS.ACTION_FAILS : Fld := ⟨0x20020, 47, 32, 0⟩
/-- R89: EPH_TABLE_BASE bits 47:12, RW. -/
def EPH_TABLE_BASE.ADDR (t : Nat) : Fld := ⟨0x20100 + 0x8 * t, 47, 12, 0⟩
/-- R89: EPH_TABLE_CTRL bits 0:0, RW. -/
def EPH_TABLE_CTRL.ENABLE (t : Nat) : Fld := ⟨0x20300 + 0x8 * t, 0, 0, 0⟩
/-- R89: EPH_TABLE_CTRL bits 1:1, RW. -/
def EPH_TABLE_CTRL.PAUSE (t : Nat) : Fld := ⟨0x20300 + 0x8 * t, 1, 1, 0⟩
/-- R89: EPH_TABLE_CTRL bits 2:2, WO. -/
def EPH_TABLE_CTRL.FLUSH (t : Nat) : Fld := ⟨0x20300 + 0x8 * t, 2, 2, 0⟩
/-- R89: EPH_TABLE_CTRL bits 6:4, RW. -/
def EPH_TABLE_CTRL.CLASS (t : Nat) : Fld := ⟨0x20300 + 0x8 * t, 6, 4, 0⟩
/-- R89: EPH_TABLE_CTRL bits 12:8, RW. -/
def EPH_TABLE_CTRL.SIZE_LOG2 (t : Nat) : Fld := ⟨0x20300 + 0x8 * t, 12, 8, 0x10⟩
/-- R89: EPH_TABLE_STATUS bits 15:0, RO. -/
def EPH_TABLE_STATUS.HEAD (t : Nat) : Fld := ⟨0x20500 + 0x8 * t, 15, 0, 0⟩
/-- R89: EPH_TABLE_STATUS bits 32:16, RO. -/
def EPH_TABLE_STATUS.PENDING (t : Nat) : Fld := ⟨0x20500 + 0x8 * t, 32, 16, 0⟩
/-- R89: EPH_TABLE_STATUS bits 33:33, RO. -/
def EPH_TABLE_STATUS.BLOCKED (t : Nat) : Fld := ⟨0x20500 + 0x8 * t, 33, 33, 0⟩
/-- R89: EPH_TABLE_NEXT bits 63:0, RO. -/
def EPH_TABLE_NEXT.TICK (t : Nat) : Fld := ⟨0x20700 + 0x8 * t, 63, 0, 0xffffffffffffffff⟩
/-- R124: MEM_CH_STATUS bits 31:0, RO. -/
def MEM_CH_STATUS.PROCESSOR (tt j : Nat) : Fld := ⟨0x100000 + 0x10000 * tt + 0x8 * j, 31, 0, 0⟩
/-- R124: MEM_CH_STATUS bits 63:32, RO. -/
def MEM_CH_STATUS.RETIRED (tt j : Nat) : Fld := ⟨0x100000 + 0x10000 * tt + 0x8 * j, 63, 32, 0⟩
/-- R124: MEM_CH_CFG bits 31:0, RO. -/
def MEM_CH_CFG.RAW (tt j : Nat) : Fld := ⟨0x100040 + 0x10000 * tt + 0x8 * j, 31, 0, 0⟩
/-- R124: MEM_CH_CFG bits 35:32, RO. -/
def MEM_CH_CFG.SPARE_GIB (tt j : Nat) : Fld := ⟨0x100040 + 0x10000 * tt + 0x8 * j, 35, 32, 8⟩
/-- R124: MEM_CH_CFG bits 38:36, RO. -/
def MEM_CH_CFG.REMAPS (tt j : Nat) : Fld := ⟨0x100040 + 0x10000 * tt + 0x8 * j, 38, 36, 0⟩
/-- R124: MEM_TEMP bits 7:0, RO. -/
def MEM_TEMP.SENSOR_C (tt j : Nat) : Fld := ⟨0x100080 + 0x10000 * tt + 0x8 * j, 7, 0, 0⟩
/-- R124: MEM_TEMP bits 15:8, RO. -/
def MEM_TEMP.EFF_C (tt j : Nat) : Fld := ⟨0x100080 + 0x10000 * tt + 0x8 * j, 15, 8, 0⟩
/-- R124: MEM_TEMP bits 17:16, RO. -/
def MEM_TEMP.BAND (tt j : Nat) : Fld := ⟨0x100080 + 0x10000 * tt + 0x8 * j, 17, 16, 0⟩
/-- R124: MEM_TEMP bits 31:24, RO. -/
def MEM_TEMP.PEAK_C (tt j : Nat) : Fld := ⟨0x100080 + 0x10000 * tt + 0x8 * j, 31, 24, 0⟩
/-- R124: MEM_TEMP bits 47:32, RO. -/
def MEM_TEMP.BAND_CHANGES (tt j : Nat) : Fld := ⟨0x100080 + 0x10000 * tt + 0x8 * j, 47, 32, 0⟩
/-- R124: MEM_THERMAL bits 7:0, LT. -/
def MEM_THERMAL.ACT_GAIN_C (tt : Nat) : Fld := ⟨0x1000c0 + 0x10000 * tt, 7, 0, 4⟩
/-- R124: MEM_REFRESH_HINT bits 15:0, LT. -/
def MEM_REFRESH_HINT.PERIOD (tt : Nat) : Fld := ⟨0x1000c8 + 0x10000 * tt, 15, 0, 0⟩
/-- R124: MEM_REFRESH_HINT bits 31:16, LT. -/
def MEM_REFRESH_HINT.PHASE (tt : Nat) : Fld := ⟨0x1000c8 + 0x10000 * tt, 31, 16, 0⟩
/-- R124: MEM_MODE_WAIT bits 15:0, LT. -/
def MEM_MODE_WAIT.WAIT_US (tt : Nat) : Fld := ⟨0x1000d0 + 0x10000 * tt, 15, 0, 0x1f4⟩
/-- R124: MEM_MODE_WAIT bits 31:16, LT. -/
def MEM_MODE_WAIT.HOLD_US (tt : Nat) : Fld := ⟨0x1000d0 + 0x10000 * tt, 31, 16, 0xc8⟩
/-- R124: MEM_SCRUB bits 15:0, LT. -/
def MEM_SCRUB.RATE_MBPS (tt : Nat) : Fld := ⟨0x1000d8 + 0x10000 * tt, 15, 0, 2⟩
/-- R124: MEM_SCRUB bits 16:16, LT. -/
def MEM_SCRUB.ENABLE (tt : Nat) : Fld := ⟨0x1000d8 + 0x10000 * tt, 16, 16, 1⟩
/-- R124: MEM_ECC_COUNTS bits 23:0, RO. -/
def MEM_ECC_COUNTS.CORRECTED (tt j : Nat) : Fld := ⟨0x100100 + 0x10000 * tt + 0x8 * j, 23, 0, 0⟩
/-- R124: MEM_ECC_COUNTS bits 39:24, RO. -/
def MEM_ECC_COUNTS.UNCORRECTABLE (tt j : Nat) : Fld := ⟨0x100100 + 0x10000 * tt + 0x8 * j, 39, 24, 0⟩
/-- R124: MEM_ECC_COUNTS bits 63:40, RO. -/
def MEM_ECC_COUNTS.ONDIE (tt j : Nat) : Fld := ⟨0x100100 + 0x10000 * tt + 0x8 * j, 63, 40, 0⟩
/-- R124: MEM_ERR_LOG bits 47:0, RO. -/
def MEM_ERR_LOG.ADDR (tt : Nat) : Fld := ⟨0x100140 + 0x10000 * tt, 47, 0, 0⟩
/-- R124: MEM_ERR_LOG bits 55:48, RO. -/
def MEM_ERR_LOG.BYTES (tt : Nat) : Fld := ⟨0x100140 + 0x10000 * tt, 55, 48, 0⟩
/-- R124: MEM_ERR_LOG bits 63:63, W1C. -/
def MEM_ERR_LOG.VALID (tt : Nat) : Fld := ⟨0x100140 + 0x10000 * tt, 63, 63, 0⟩
/-- R124: MEM_MODE_COUNTS bits 23:0, RO. -/
def MEM_MODE_COUNTS.ENTRIES (tt : Nat) : Fld := ⟨0x100148 + 0x10000 * tt, 23, 0, 0⟩
/-- R124: MEM_MODE_COUNTS bits 47:24, RO. -/
def MEM_MODE_COUNTS.RETURNS (tt : Nat) : Fld := ⟨0x100148 + 0x10000 * tt, 47, 24, 0⟩
/-- R124: MEM_MODE_COUNTS bits 63:48, RO. -/
def MEM_MODE_COUNTS.MAX_RETURN_US (tt : Nat) : Fld := ⟨0x100148 + 0x10000 * tt, 63, 48, 0⟩
/-- R124: MEM_CH_USED bits 31:0, RO. -/
def MEM_CH_USED.ALLOCATED (tt j : Nat) : Fld := ⟨0x100180 + 0x10000 * tt + 0x8 * j, 31, 0, 0⟩
/-- R125: BNK_PF_OP bits 47:6, WO. -/
def BNK_PF_OP.ADDR (s : Nat) : Fld := ⟨0x60000 + 0x8 * s, 47, 6, 0⟩
/-- R125: BNK_PF_STATUS bits 7:0, RO. -/
def BNK_PF_STATUS.STATUS (s : Nat) : Fld := ⟨0x60100 + 0x8 * s, 7, 0, 0⟩
/-- R125: BNK_PF_STATUS bits 8:8, RO. -/
def BNK_PF_STATUS.BUSY (s : Nat) : Fld := ⟨0x60100 + 0x8 * s, 8, 8, 0⟩
/-- R125: BNK_PF_STATUS bits 63:32, RO. -/
def BNK_PF_STATUS.TAG (s : Nat) : Fld := ⟨0x60100 + 0x8 * s, 63, 32, 0⟩
/-- R125: BNK_COUNTS bits 31:0, RO. -/
def BNK_COUNTS.OPS (s : Nat) : Fld := ⟨0x60200 + 0x8 * s, 31, 0, 0⟩
/-- R125: BNK_COUNTS bits 47:32, RO. -/
def BNK_COUNTS.REJECTED (s : Nat) : Fld := ⟨0x60200 + 0x8 * s, 47, 32, 0⟩
/-- R125: BNK_COUNTS bits 63:48, RO. -/
def BNK_COUNTS.SUSPENDS (s : Nat) : Fld := ⟨0x60200 + 0x8 * s, 63, 48, 0⟩
/-- R125: BNK_TEST bits 47:0, RO. -/
def BNK_TEST.LAST_FAIL (s : Nat) : Fld := ⟨0x60300 + 0x8 * s, 47, 0, 0⟩
/-- R125: BNK_TEST bits 63:48, RO. -/
def BNK_TEST.FAILS (s : Nat) : Fld := ⟨0x60300 + 0x8 * s, 63, 48, 0⟩
/-- R126: DPT_ONLINE_LO bits 63:0, RO. -/
def DPT_ONLINE_LO.ONLINE : Fld := ⟨0x50000, 63, 0, 0⟩
/-- R126: DPT_ONLINE_HI bits 31:0, RO. -/
def DPT_ONLINE_HI.ONLINE : Fld := ⟨0x50008, 31, 0, 0⟩
/-- R126: DPT_RETIRED_LO bits 63:0, RO. -/
def DPT_RETIRED_LO.RETIRED : Fld := ⟨0x50010, 63, 0, 0⟩
/-- R126: DPT_RETIRED_HI bits 31:0, RO. -/
def DPT_RETIRED_HI.RETIRED : Fld := ⟨0x50018, 31, 0, 0⟩
/-- R126: DPT_CAPACITY bits 31:0, RO. -/
def DPT_CAPACITY.ALLOC_MIB : Fld := ⟨0x50020, 31, 0, 0⟩
/-- R126: DPT_CAPACITY bits 63:32, RO. -/
def DPT_CAPACITY.USED_MIB : Fld := ⟨0x50020, 63, 32, 0⟩
/-- R126: DPT_RETRAIN_CFG bits 39:0, LT. -/
def DPT_RETRAIN_CFG.PERIOD_TICKS : Fld := ⟨0x50028, 39, 0, 0x2255100⟩
/-- R126: DPT_RETRAIN_CFG bits 47:40, LT. -/
def DPT_RETRAIN_CFG.DRIFT_C : Fld := ⟨0x50028, 47, 40, 0x14⟩
/-- R126: DPT_RETRAIN_CFG bits 55:48, LT. -/
def DPT_RETRAIN_CFG.MARGIN_MIN : Fld := ⟨0x50028, 55, 48, 0x20⟩
/-- R126: DPT_RETRAIN_CFG bits 63:56, LT. -/
def DPT_RETRAIN_CFG.EVAC_GBPS : Fld := ⟨0x50028, 63, 56, 4⟩
/-- R126: DPT_RETRAIN_STATUS bits 6:0, RO. -/
def DPT_RETRAIN_STATUS.CHANNEL : Fld := ⟨0x50030, 6, 0, 0x7f⟩
/-- R126: DPT_RETRAIN_STATUS bits 10:8, RO. -/
def DPT_RETRAIN_STATUS.PHASE : Fld := ⟨0x50030, 10, 8, 0⟩
/-- R126: DPT_RETRAIN_STATUS bits 39:16, RO. -/
def DPT_RETRAIN_STATUS.COMPLETED : Fld := ⟨0x50030, 39, 16, 0⟩
/-- R126: DPT_RETRAIN_STATUS bits 63:40, RO. -/
def DPT_RETRAIN_STATUS.DEFERRED : Fld := ⟨0x50030, 63, 40, 0⟩
/-- R126: DPT_ERR bits 31:0, RO. -/
def DPT_ERR.LINK_CORRECTED (k : Nat) : Fld := ⟨0x50100 + 0x8 * k, 31, 0, 0⟩
/-- R126: DPT_ERR bits 47:32, RO. -/
def DPT_ERR.RETRIES (k : Nat) : Fld := ⟨0x50100 + 0x8 * k, 47, 32, 0⟩
/-- R126: DPT_ERR bits 63:48, RO. -/
def DPT_ERR.UNCORRECTABLE (k : Nat) : Fld := ⟨0x50100 + 0x8 * k, 63, 48, 0⟩
/-- R126: DPT_MARGIN bits 7:0, RO. -/
def DPT_MARGIN.TIMING (k : Nat) : Fld := ⟨0x50400 + 0x8 * k, 7, 0, 0⟩
/-- R126: DPT_MARGIN bits 15:8, RO. -/
def DPT_MARGIN.VOLTAGE (k : Nat) : Fld := ⟨0x50400 + 0x8 * k, 15, 8, 0⟩
/-- R126: DPT_MARGIN bits 23:16, RO. -/
def DPT_MARGIN.TRAINED_C (k : Nat) : Fld := ⟨0x50400 + 0x8 * k, 23, 16, 0⟩
/-- R126: DPT_MARGIN bits 31:24, RO. -/
def DPT_MARGIN.TEMP_C (k : Nat) : Fld := ⟨0x50400 + 0x8 * k, 31, 24, 0⟩
/-- R127: HIF_HTIER_BASE bits 0:0, RW. -/
def HIF_HTIER_BASE.ENABLE (n : Nat) : Fld := ⟨0xa2000 + 0x10 * n, 0, 0, 0⟩
/-- R127: HIF_HTIER_BASE bits 63:21, RW. -/
def HIF_HTIER_BASE.ADDR (n : Nat) : Fld := ⟨0xa2000 + 0x10 * n, 63, 21, 0⟩
/-- R127: HIF_HTIER_SIZE bits 31:0, RW. -/
def HIF_HTIER_SIZE.UNITS (n : Nat) : Fld := ⟨0xa2008 + 0x10 * n, 31, 0, 0⟩
/-- R127: HIF_HTIER_SIZE bits 63:32, RO. -/
def HIF_HTIER_SIZE.USED_MIB (n : Nat) : Fld := ⟨0xa2008 + 0x10 * n, 63, 32, 0⟩
/-- R159: TRN_CFG bits 9:0, RWS. -/
def TRN_CFG.C0_SLOTS : Fld := ⟨0x40000, 9, 0, 0x40⟩
/-- R159: TRN_CFG bits 16:16, RWS. -/
def TRN_CFG.SPARSE_EN : Fld := ⟨0x40000, 16, 16, 0⟩
/-- R159: TRN_TUNE bits 7:0, LT. -/
def TRN_TUNE.MIG_GBPS : Fld := ⟨0x40008, 7, 0, 0x31⟩
/-- R159: TRN_TUNE bits 15:8, LT. -/
def TRN_TUNE.PRECOPY_PASSES : Fld := ⟨0x40008, 15, 8, 4⟩
/-- R159: TRN_TUNE bits 31:16, LT. -/
def TRN_TUNE.DIRTY_THRESH_MIB : Fld := ⟨0x40008, 31, 16, 4⟩
/-- R159: TRN_STATUS bits 10:0, RO. -/
def TRN_STATUS.ACTIVE : Fld := ⟨0x40010, 10, 0, 0⟩
/-- R159: TRN_STATUS bits 32:16, RO. -/
def TRN_STATUS.QUEUED : Fld := ⟨0x40010, 32, 16, 0⟩
/-- R159: TRN_STATUS bits 50:40, RO. -/
def TRN_STATUS.C0_ACTIVE : Fld := ⟨0x40010, 50, 40, 0⟩
/-- R159: TRN_MIG_STATUS bits 8:0, RO. -/
def TRN_MIG_STATUS.OUT : Fld := ⟨0x40018, 8, 0, 0⟩
/-- R159: TRN_MIG_STATUS bits 24:16, RO. -/
def TRN_MIG_STATUS.IN : Fld := ⟨0x40018, 24, 16, 0⟩
/-- R159: TRN_MIG_STATUS bits 44:32, RO. -/
def TRN_MIG_STATUS.TOMBSTONES : Fld := ⟨0x40018, 44, 32, 0⟩
/-- R160: TRN_CLASS_BYTES bits 63:0, RO. -/
def TRN_CLASS_BYTES.BYTES (c : Nat) : Fld := ⟨0x40200 + 0x8 * c, 63, 0, 0⟩
/-- R160: TRN_PARKS bits 47:0, RO. -/
def TRN_PARKS.COUNT : Fld := ⟨0x40100, 47, 0, 0⟩
/-- R160: TRN_REVIVALS bits 47:0, RO. -/
def TRN_REVIVALS.COUNT : Fld := ⟨0x40108, 47, 0, 0⟩
/-- R160: TRN_SPARSE bits 47:0, RO. -/
def TRN_SPARSE.COUNT : Fld := ⟨0x40110, 47, 0, 0⟩
/-- R160: TRN_SPARSE_FALLBACK bits 47:0, RO. -/
def TRN_SPARSE_FALLBACK.COUNT : Fld := ⟨0x40118, 47, 0, 0⟩
/-- R160: TRN_MOVES bits 47:0, RO. -/
def TRN_MOVES.COUNT : Fld := ⟨0x40120, 47, 0, 0⟩
/-- R160: TRN_MIRRORS bits 47:0, RO. -/
def TRN_MIRRORS.COUNT : Fld := ⟨0x40128, 47, 0, 0⟩
/-- R160: TRN_MIRROR_FAILS bits 47:0, RO. -/
def TRN_MIRROR_FAILS.COUNT : Fld := ⟨0x40130, 47, 0, 0⟩
/-- R160: TRN_MIGRATIONS bits 47:0, RO. -/
def TRN_MIGRATIONS.COUNT : Fld := ⟨0x40138, 47, 0, 0⟩
/-- R160: TRN_MIG_ABANDONED bits 47:0, RO. -/
def TRN_MIG_ABANDONED.COUNT : Fld := ⟨0x40140, 47, 0, 0⟩
/-- R160: TRN_FORWARDED bits 47:0, RO. -/
def TRN_FORWARDED.COUNT : Fld := ⟨0x40148, 47, 0, 0⟩
/-- R160: TRN_DEADLINE_MISSES bits 47:0, RO. -/
def TRN_DEADLINE_MISSES.COUNT : Fld := ⟨0x40150, 47, 0, 0⟩
/-- R160: TRN_DEADLINE_MISSES bits 63:48, RO. -/
def TRN_DEADLINE_MISSES.MAX : Fld := ⟨0x40150, 63, 48, 0⟩
/-- R160: TRN_TAG_FAILS bits 47:0, RO. -/
def TRN_TAG_FAILS.COUNT : Fld := ⟨0x40158, 47, 0, 0⟩
/-- R160: TRN_FROZEN bits 47:0, RO. -/
def TRN_FROZEN.COUNT : Fld := ⟨0x40160, 47, 0, 0⟩
/-- R160: TRN_NAN_BLOCKS bits 47:0, RO. -/
def TRN_NAN_BLOCKS.COUNT : Fld := ⟨0x40168, 47, 0, 0⟩
/-- R195: ARY_STATUS bits 2:0, RO. -/
def ARY_STATUS.STATE (tt n : Nat) : Fld := ⟨0x140000 + 0x10000 * tt + 0x8 * n, 2, 0, 2⟩
/-- R195: ARY_STATUS bits 3:3, RO. -/
def ARY_STATUS.BUSY (tt n : Nat) : Fld := ⟨0x140000 + 0x10000 * tt + 0x8 * n, 3, 3, 0⟩
/-- R195: ARY_STATUS bits 5:4, RO. -/
def ARY_STATUS.FAILS (tt n : Nat) : Fld := ⟨0x140000 + 0x10000 * tt + 0x8 * n, 5, 4, 0⟩
/-- R195: ARY_STATUS bits 15:8, RO. -/
def ARY_STATUS.PARTITION (tt n : Nat) : Fld := ⟨0x140000 + 0x10000 * tt + 0x8 * n, 15, 8, 0xff⟩
/-- R195: ARY_STATUS bits 26:16, RO. -/
def ARY_STATUS.RANK (tt n : Nat) : Fld := ⟨0x140000 + 0x10000 * tt + 0x8 * n, 26, 16, 0⟩
/-- R195: ARY_STATUS bits 47:32, RO. -/
def ARY_STATUS.LAYER (tt n : Nat) : Fld := ⟨0x140000 + 0x10000 * tt + 0x8 * n, 47, 32, 0⟩
/-- R195: ARY_STATUS bits 63:48, RO. -/
def ARY_STATUS.OPERATOR (tt n : Nat) : Fld := ⟨0x140000 + 0x10000 * tt + 0x8 * n, 63, 48, 0⟩
/-- R195: ARY_CMD bits 8:0, WO. -/
def ARY_CMD.INDEX (tt : Nat) : Fld := ⟨0x140b00 + 0x10000 * tt, 8, 0, 0⟩
/-- R195: ARY_CMD bits 10:9, WO. -/
def ARY_CMD.OP (tt : Nat) : Fld := ⟨0x140b00 + 0x10000 * tt, 10, 9, 0⟩
/-- R195: ARY_CMD_STATUS bits 0:0, RO. -/
def ARY_CMD_STATUS.BUSY (tt : Nat) : Fld := ⟨0x140b08 + 0x10000 * tt, 0, 0, 0⟩
/-- R195: ARY_CMD_STATUS bits 15:8, RO. -/
def ARY_CMD_STATUS.STATUS (tt : Nat) : Fld := ⟨0x140b08 + 0x10000 * tt, 15, 8, 0⟩
/-- R195: ARY_COUNTS bits 8:0, RO. -/
def ARY_COUNTS.ENABLED (tt : Nat) : Fld := ⟨0x140b10 + 0x10000 * tt, 8, 0, 0⟩
/-- R195: ARY_COUNTS bits 24:16, RO. -/
def ARY_COUNTS.SPARE (tt : Nat) : Fld := ⟨0x140b10 + 0x10000 * tt, 24, 16, 0⟩
/-- R195: ARY_COUNTS bits 40:32, RO. -/
def ARY_COUNTS.RETIRED (tt : Nat) : Fld := ⟨0x140b10 + 0x10000 * tt, 40, 32, 0⟩
/-- R196: ARY_KERNEL_COUNTS bits 47:0, RO. -/
def ARY_KERNEL_COUNTS.KERNELS (tt : Nat) : Fld := ⟨0x140b18 + 0x10000 * tt, 47, 0, 0⟩
/-- R196: ARY_KERNEL_COUNTS bits 55:48, RO. -/
def ARY_KERNEL_COUNTS.HANGS (tt : Nat) : Fld := ⟨0x140b18 + 0x10000 * tt, 55, 48, 0⟩
/-- R196: ARY_OVERRUNS bits 47:0, RO. -/
def ARY_OVERRUNS.COUNT (tt : Nat) : Fld := ⟨0x140b20 + 0x10000 * tt, 47, 0, 0⟩
/-- R196: ARY_OVERRUNS bits 63:48, RO. -/
def ARY_OVERRUNS.MAX_US (tt : Nat) : Fld := ⟨0x140b20 + 0x10000 * tt, 63, 48, 0⟩
/-- R196: ARY_OVERRUN_LOG bits 15:0, RO. -/
def ARY_OVERRUN_LOG.LAYER (tt : Nat) : Fld := ⟨0x140b28 + 0x10000 * tt, 15, 0, 0⟩
/-- R196: ARY_OVERRUN_LOG bits 31:16, RO. -/
def ARY_OVERRUN_LOG.OPERATOR (tt : Nat) : Fld := ⟨0x140b28 + 0x10000 * tt, 31, 16, 0⟩
/-- R196: ARY_OVERRUN_LOG bits 40:32, RO. -/
def ARY_OVERRUN_LOG.ARRAY (tt : Nat) : Fld := ⟨0x140b28 + 0x10000 * tt, 40, 32, 0⟩
/-- R196: ARY_OVERRUN_LOG bits 63:63, W1C. -/
def ARY_OVERRUN_LOG.VALID (tt : Nat) : Fld := ⟨0x140b28 + 0x10000 * tt, 63, 63, 0⟩
/-- R196: ARY_SRAM_ECC bits 31:0, RO. -/
def ARY_SRAM_ECC.CORRECTED (tt : Nat) : Fld := ⟨0x140b30 + 0x10000 * tt, 31, 0, 0⟩
/-- R196: ARY_SRAM_ECC bits 47:32, RO. -/
def ARY_SRAM_ECC.UNCORRECTABLE (tt : Nat) : Fld := ⟨0x140b30 + 0x10000 * tt, 47, 32, 0⟩
/-- R196: ARY_SRAM_ECC bits 56:48, RO. -/
def ARY_SRAM_ECC.LAST_ARRAY (tt : Nat) : Fld := ⟨0x140b30 + 0x10000 * tt, 56, 48, 0⟩
/-- R196: ARY_NUM_COUNTS bits 31:0, RO. -/
def ARY_NUM_COUNTS.SATURATED (tt : Nat) : Fld := ⟨0x140b38 + 0x10000 * tt, 31, 0, 0⟩
/-- R196: ARY_NUM_COUNTS bits 63:32, RO. -/
def ARY_NUM_COUNTS.NAN_RESULTS (tt : Nat) : Fld := ⟨0x140b38 + 0x10000 * tt, 63, 32, 0⟩
/-- R196: ARY_CLOCK bits 15:0, RO. -/
def ARY_CLOCK.MHZ (tt : Nat) : Fld := ⟨0x140b40 + 0x10000 * tt, 15, 0, 0xbb8⟩
/-- R196: ARY_CLOCK bits 31:16, RO. -/
def ARY_CLOCK.FLOOR_MHZ (tt : Nat) : Fld := ⟨0x140b40 + 0x10000 * tt, 31, 16, 0⟩
/-- R196: ARY_WATCHDOG bits 31:0, RO. -/
def ARY_WATCHDOG.BOUND_NS (tt : Nat) : Fld := ⟨0x140b48 + 0x10000 * tt, 31, 0, 0x3d090⟩
/-- R196: ARY_WATCHDOG bits 35:32, RO. -/
def ARY_WATCHDOG.HANG_MULT (tt : Nat) : Fld := ⟨0x140b48 + 0x10000 * tt, 35, 32, 4⟩
/-- R227: KVP_CFG bits 0:0, RWS. -/
def KVP_CFG.SPARSE_EN : Fld := ⟨0x180000, 0, 0, 0⟩
/-- R227: KVP_ROOT_CACHE bits 15:0, RO. -/
def KVP_ROOT_CACHE.ENTRIES (tt : Nat) : Fld := ⟨0x180008 + 0x10000 * tt, 15, 0, 0⟩
/-- R227: KVP_ROOT_CACHE bits 31:16, RO. -/
def KVP_ROOT_CACHE.CLASS0 (tt : Nat) : Fld := ⟨0x180008 + 0x10000 * tt, 31, 16, 0⟩
/-- R227: KVP_ROOT_CACHE bits 63:32, RO. -/
def KVP_ROOT_CACHE.MISSES (tt : Nat) : Fld := ⟨0x180008 + 0x10000 * tt, 63, 32, 0⟩
/-- R227: KVP_FETCH_STATUS bits 10:0, RO. -/
def KVP_FETCH_STATUS.QUEUED (tt : Nat) : Fld := ⟨0x180010 + 0x10000 * tt, 10, 0, 0⟩
/-- R227: KVP_FETCH_STATUS bits 26:16, RO. -/
def KVP_FETCH_STATUS.IN_FLIGHT (tt : Nat) : Fld := ⟨0x180010 + 0x10000 * tt, 26, 16, 0⟩
/-- R227: KVP_COVER bits 15:0, LT. -/
def KVP_COVER.COVER_MAX (c : Nat) : Fld := ⟨0x180100 + 0x8 * c, 15, 0, if c = 0 then 256 else 1024⟩
/-- R227: KVP_COVER bits 31:16, RO. -/
def KVP_COVER.WORST (c : Nat) : Fld := ⟨0x180100 + 0x8 * c, 31, 16, 0⟩
/-- R227: KVP_MODEL bits 0:0, RO. -/
def KVP_MODEL.BOUND (m : Nat) : Fld := ⟨0x180300 + 0x8 * m, 0, 0, 0⟩
/-- R227: KVP_MODEL bits 1:1, RO. -/
def KVP_MODEL.DIRECT (m : Nat) : Fld := ⟨0x180300 + 0x8 * m, 1, 1, 0⟩
/-- R227: KVP_MODEL bits 63:16, RO. -/
def KVP_MODEL.RECORD_ADDR (m : Nat) : Fld := ⟨0x180300 + 0x8 * m, 63, 16, 0⟩
/-- R228: KVP_SELECTIVE bits 47:0, RO. -/
def KVP_SELECTIVE.COUNT (tt : Nat) : Fld := ⟨0x180200 + 0x10000 * tt, 47, 0, 0⟩
/-- R228: KVP_FALLBACKS bits 47:0, RO. -/
def KVP_FALLBACKS.COUNT (tt : Nat) : Fld := ⟨0x180208 + 0x10000 * tt, 47, 0, 0⟩
/-- R228: KVP_HOLDS bits 47:0, RO. -/
def KVP_HOLDS.COUNT (tt : Nat) : Fld := ⟨0x180210 + 0x10000 * tt, 47, 0, 0⟩
/-- R228: KVP_FETCHES bits 47:0, RO. -/
def KVP_FETCHES.COUNT (tt : Nat) : Fld := ⟨0x180218 + 0x10000 * tt, 47, 0, 0⟩
/-- R228: KVP_FETCH_DROPS bits 47:0, RO. -/
def KVP_FETCH_DROPS.COUNT (tt : Nat) : Fld := ⟨0x180220 + 0x10000 * tt, 47, 0, 0⟩
/-- R228: KVP_NAN_MASKED bits 47:0, RO. -/
def KVP_NAN_MASKED.COUNT (tt : Nat) : Fld := ⟨0x180228 + 0x10000 * tt, 47, 0, 0⟩
/-- R228: KVP_POISON bits 47:0, RO. -/
def KVP_POISON.COUNT (tt : Nat) : Fld := ⟨0x180230 + 0x10000 * tt, 47, 0, 0⟩
/-- R228: KVP_EMPTY_ROWS bits 47:0, RO. -/
def KVP_EMPTY_ROWS.COUNT (tt : Nat) : Fld := ⟨0x180238 + 0x10000 * tt, 47, 0, 0⟩
/-- R228: KVP_ALLOC_FAILS bits 47:0, RO. -/
def KVP_ALLOC_FAILS.COUNT (tt : Nat) : Fld := ⟨0x180240 + 0x10000 * tt, 47, 0, 0⟩
/-- R228: KVP_SPAN_SUMMARIES bits 47:0, RO. -/
def KVP_SPAN_SUMMARIES.COUNT (tt : Nat) : Fld := ⟨0x180248 + 0x10000 * tt, 47, 0, 0⟩
/-- R244: SEL_KERNELS bits 47:0, RO. -/
def SEL_KERNELS.COUNT (tt : Nat) : Fld := ⟨0x1c0000 + 0x10000 * tt, 47, 0, 0⟩
/-- R244: SEL_SHORT bits 47:0, RO. -/
def SEL_SHORT.COUNT (tt : Nat) : Fld := ⟨0x1c0008 + 0x10000 * tt, 47, 0, 0⟩
/-- R244: SEL_NAN bits 47:0, RO. -/
def SEL_NAN.COUNT (tt : Nat) : Fld := ⟨0x1c0010 + 0x10000 * tt, 47, 0, 0⟩
/-- R244: SEL_EMPTY_INDEX bits 47:0, RO. -/
def SEL_EMPTY_INDEX.COUNT (tt : Nat) : Fld := ⟨0x1c0018 + 0x10000 * tt, 47, 0, 0⟩
/-- R244: SEL_TIES bits 47:0, RO. -/
def SEL_TIES.COUNT (tt : Nat) : Fld := ⟨0x1c0020 + 0x10000 * tt, 47, 0, 0⟩
/-- R244: SEL_DUPLICATES bits 47:0, RO. -/
def SEL_DUPLICATES.COUNT (tt : Nat) : Fld := ⟨0x1c0028 + 0x10000 * tt, 47, 0, 0⟩
/-- R244: SEL_APPROX bits 47:0, RO. -/
def SEL_APPROX.COUNT (tt : Nat) : Fld := ⟨0x1c0030 + 0x10000 * tt, 47, 0, 0⟩
/-- R244: SEL_REJECTS bits 47:0, RO. -/
def SEL_REJECTS.COUNT (tt : Nat) : Fld := ⟨0x1c0038 + 0x10000 * tt, 47, 0, 0⟩
/-- R273: DEC_MODEL bits 18:0, RO. -/
def DEC_MODEL.VOCAB (m : Nat) : Fld := ⟨0x200000 + 0x8 * m, 18, 0, 0⟩
/-- R273: DEC_MODEL bits 19:19, RO. -/
def DEC_MODEL.BOUND (m : Nat) : Fld := ⟨0x200000 + 0x8 * m, 19, 19, 0⟩
/-- R273: DEC_END bits 19:0, RO. -/
def DEC_END.END0 (m : Nat) : Fld := ⟨0x200080 + 0x8 * m, 19, 0, 0xfffff⟩
/-- R273: DEC_END bits 39:20, RO. -/
def DEC_END.END1 (m : Nat) : Fld := ⟨0x200080 + 0x8 * m, 39, 20, 0xfffff⟩
/-- R273: DEC_END bits 59:40, RO. -/
def DEC_END.END2 (m : Nat) : Fld := ⟨0x200080 + 0x8 * m, 59, 40, 0xfffff⟩
/-- R274: DEC_DRAWS bits 47:0, RO. -/
def DEC_DRAWS.COUNT (tt : Nat) : Fld := ⟨0x200100 + 0x10000 * tt, 47, 0, 0⟩
/-- R274: DEC_SUPPRESSED bits 47:0, RO. -/
def DEC_SUPPRESSED.COUNT (tt : Nat) : Fld := ⟨0x200108 + 0x10000 * tt, 47, 0, 0⟩
/-- R274: DEC_EOS bits 47:0, RO. -/
def DEC_EOS.COUNT (tt : Nat) : Fld := ⟨0x200110 + 0x10000 * tt, 47, 0, 0⟩
/-- R274: DEC_STOPS bits 47:0, RO. -/
def DEC_STOPS.COUNT (tt : Nat) : Fld := ⟨0x200118 + 0x10000 * tt, 47, 0, 0⟩
/-- R274: DEC_MAX_TOKENS bits 47:0, RO. -/
def DEC_MAX_TOKENS.COUNT (tt : Nat) : Fld := ⟨0x200120 + 0x10000 * tt, 47, 0, 0⟩
/-- R274: DEC_GRAMMAR_STALLS bits 47:0, RO. -/
def DEC_GRAMMAR_STALLS.COUNT (tt : Nat) : Fld := ⟨0x200128 + 0x10000 * tt, 47, 0, 0⟩
/-- R274: DEC_NO_FINITE bits 47:0, RO. -/
def DEC_NO_FINITE.COUNT (tt : Nat) : Fld := ⟨0x200130 + 0x10000 * tt, 47, 0, 0⟩
/-- R274: DEC_MASK_LATE bits 47:0, RO. -/
def DEC_MASK_LATE.COUNT (tt : Nat) : Fld := ⟨0x200138 + 0x10000 * tt, 47, 0, 0⟩
/-- R274: DEC_OUT_STALLS bits 47:0, RO. -/
def DEC_OUT_STALLS.COUNT (tt : Nat) : Fld := ⟨0x200140 + 0x10000 * tt, 47, 0, 0⟩
/-- R274: DEC_PARTIAL bits 47:0, RO. -/
def DEC_PARTIAL.COUNT (tt : Nat) : Fld := ⟨0x200148 + 0x10000 * tt, 47, 0, 0⟩
/-- R274: DEC_TOPP_SHORT bits 47:0, RO. -/
def DEC_TOPP_SHORT.COUNT (tt : Nat) : Fld := ⟨0x200150 + 0x10000 * tt, 47, 0, 0⟩
/-- R274: DEC_PEN_OVERFLOW bits 47:0, RO. -/
def DEC_PEN_OVERFLOW.COUNT (tt : Nat) : Fld := ⟨0x200158 + 0x10000 * tt, 47, 0, 0⟩
/-- R294: TXT_SET bits 0:0, RO. -/
def TXT_SET.VALID (k : Nat) : Fld := ⟨0x70000 + 0x8 * k, 0, 0, 0⟩
/-- R294: TXT_SET bits 1:1, RO. -/
def TXT_SET.MODE (k : Nat) : Fld := ⟨0x70000 + 0x8 * k, 1, 1, 0⟩
/-- R294: TXT_SET bits 2:2, RO. -/
def TXT_SET.IN_USE (k : Nat) : Fld := ⟨0x70000 + 0x8 * k, 2, 2, 0⟩
/-- R294: TXT_SET bits 32:14, RO. -/
def TXT_SET.VOCAB (k : Nat) : Fld := ⟨0x70000 + 0x8 * k, 32, 14, 0⟩
/-- R294: TXT_MODEL bits 3:0, RO. -/
def TXT_MODEL.SET (m : Nat) : Fld := ⟨0x70080 + 0x8 * m, 3, 0, 0⟩
/-- R294: TXT_MODEL bits 4:4, RO. -/
def TXT_MODEL.BOUND (m : Nat) : Fld := ⟨0x70080 + 0x8 * m, 4, 4, 0⟩
/-- R294: TXT_GRAM_LOAD bits 47:6, WO. -/
def TXT_GRAM_LOAD.ADDR : Fld := ⟨0x70100, 47, 6, 0⟩
/-- R294: TXT_GRAM_LOAD bits 59:48, WO. -/
def TXT_GRAM_LOAD.SLOT : Fld := ⟨0x70100, 59, 48, 0⟩
/-- R294: TXT_GRAM_LOAD bits 61:60, WO. -/
def TXT_GRAM_LOAD.OP : Fld := ⟨0x70100, 61, 60, 0⟩
/-- R294: TXT_GRAM_STATUS bits 0:0, RO. -/
def TXT_GRAM_STATUS.BUSY : Fld := ⟨0x70108, 0, 0, 0⟩
/-- R294: TXT_GRAM_STATUS bits 15:8, RO. -/
def TXT_GRAM_STATUS.STATUS : Fld := ⟨0x70108, 15, 8, 0⟩
/-- R294: TXT_GRAM_STATUS bits 28:16, RO. -/
def TXT_GRAM_STATUS.LOADED : Fld := ⟨0x70108, 28, 16, 0⟩
/-- R294: TXT_GRAM_STATUS bits 42:32, RO. -/
def TXT_GRAM_STATUS.STORE_USED_MIB : Fld := ⟨0x70108, 42, 32, 0⟩
/-- R294: TXT_GRAM_STATUS bits 53:43, RO. -/
def TXT_GRAM_STATUS.STORE_MIB : Fld := ⟨0x70108, 53, 43, 0⟩
/-- R294: TXT_MASK_STATUS bits 15:0, RO. -/
def TXT_MASK_STATUS.QUEUED : Fld := ⟨0x70110, 15, 0, 0⟩
/-- R294: TXT_MASK_STATUS bits 31:16, RO. -/
def TXT_MASK_STATUS.MAX_QUEUED : Fld := ⟨0x70110, 31, 16, 0⟩
/-- R295: TXT_INTAKE_BYTES bits 47:0, RO. -/
def TXT_INTAKE_BYTES.COUNT : Fld := ⟨0x70200, 47, 0, 0⟩
/-- R295: TXT_TOKENS_IN bits 47:0, RO. -/
def TXT_TOKENS_IN.COUNT : Fld := ⟨0x70208, 47, 0, 0⟩
/-- R295: TXT_FALLBACK_BYTES bits 47:0, RO. -/
def TXT_FALLBACK_BYTES.COUNT : Fld := ⟨0x70210, 47, 0, 0⟩
/-- R295: TXT_INVALID_UTF8 bits 47:0, RO. -/
def TXT_INVALID_UTF8.COUNT : Fld := ⟨0x70218, 47, 0, 0⟩
/-- R295: TXT_LONG_CUTS bits 47:0, RO. -/
def TXT_LONG_CUTS.COUNT : Fld := ⟨0x70220, 47, 0, 0⟩
/-- R295: TXT_DETOK_BYTES bits 47:0, RO. -/
def TXT_DETOK_BYTES.COUNT : Fld := ⟨0x70228, 47, 0, 0⟩
/-- R295: TXT_MASKS bits 47:0, RO. -/
def TXT_MASKS.COUNT : Fld := ⟨0x70230, 47, 0, 0⟩
/-- R295: TXT_GRAM_LOOPS bits 47:0, RO. -/
def TXT_GRAM_LOOPS.COUNT : Fld := ⟨0x70238, 47, 0, 0⟩
/-- R295: TXT_GRAM_OVERFLOW bits 47:0, RO. -/
def TXT_GRAM_OVERFLOW.COUNT : Fld := ⟨0x70240, 47, 0, 0⟩
/-- R309: EMB_TABLE bits 0:0, RO. -/
def EMB_TABLE.VALID (k : Nat) : Fld := ⟨0x240000 + 0x8 * k, 0, 0, 0⟩
/-- R309: EMB_TABLE bits 1:1, RO. -/
def EMB_TABLE.LAYOUT (k : Nat) : Fld := ⟨0x240000 + 0x8 * k, 1, 1, 0⟩
/-- R309: EMB_TABLE bits 15:8, RO. -/
def EMB_TABLE.FORMAT (k : Nat) : Fld := ⟨0x240000 + 0x8 * k, 15, 8, 0⟩
/-- R309: EMB_TABLE bits 28:16, RO. -/
def EMB_TABLE.DIM (k : Nat) : Fld := ⟨0x240000 + 0x8 * k, 28, 16, 0⟩
/-- R309: EMB_TABLE bits 52:32, RO. -/
def EMB_TABLE.LOCAL_BLOCKS (k : Nat) : Fld := ⟨0x240000 + 0x8 * k, 52, 32, 0⟩
/-- R309: EMB_HOT_CFG bits 15:0, LT. -/
def EMB_HOT_CFG.HOT_THRESH : Fld := ⟨0x240800, 15, 0, 0x400⟩
/-- R309: EMB_HOT_CFG bits 39:16, LT. -/
def EMB_HOT_CFG.HOT_WINDOW : Fld := ⟨0x240800, 39, 16, 0x2710⟩
/-- R309: EMB_APPLY bits 15:0, LT. -/
def EMB_APPLY.APPLY_KIB : Fld := ⟨0x240808, 15, 0, 0x4000⟩
/-- R309: EMB_APPLY bits 31:16, LT. -/
def EMB_APPLY.TIMEOUT_TICKS : Fld := ⟨0x240808, 31, 16, 0x64⟩
/-- R309: EMB_HOT_STATUS bits 16:0, RO. -/
def EMB_HOT_STATUS.REPLICAS (tt : Nat) : Fld := ⟨0x240810 + 0x10000 * tt, 16, 0, 0⟩
/-- R309: EMB_HOT_STATUS bits 48:32, RO. -/
def EMB_HOT_STATUS.TRACKED (tt : Nat) : Fld := ⟨0x240810 + 0x10000 * tt, 48, 32, 0⟩
/-- R310: EMB_LOOKUPS bits 47:0, RO. -/
def EMB_LOOKUPS.COUNT (tt : Nat) : Fld := ⟨0x240900 + 0x10000 * tt, 47, 0, 0⟩
/-- R310: EMB_ROWS_READ bits 47:0, RO. -/
def EMB_ROWS_READ.COUNT (tt : Nat) : Fld := ⟨0x240908 + 0x10000 * tt, 47, 0, 0⟩
/-- R310: EMB_REMOTE_READS bits 47:0, RO. -/
def EMB_REMOTE_READS.COUNT (tt : Nat) : Fld := ⟨0x240910 + 0x10000 * tt, 47, 0, 0⟩
/-- R310: EMB_REMOTE_MISS bits 47:0, RO. -/
def EMB_REMOTE_MISS.COUNT (tt : Nat) : Fld := ⟨0x240918 + 0x10000 * tt, 47, 0, 0⟩
/-- R310: EMB_ROWS_LOST bits 47:0, RO. -/
def EMB_ROWS_LOST.COUNT (tt : Nat) : Fld := ⟨0x240920 + 0x10000 * tt, 47, 0, 0⟩
/-- R310: EMB_BAD_WEIGHTS bits 47:0, RO. -/
def EMB_BAD_WEIGHTS.COUNT (tt : Nat) : Fld := ⟨0x240928 + 0x10000 * tt, 47, 0, 0⟩
/-- R310: EMB_UPDATES bits 47:0, RO. -/
def EMB_UPDATES.COUNT (tt : Nat) : Fld := ⟨0x240930 + 0x10000 * tt, 47, 0, 0⟩
/-- R310: EMB_UPDATE_DEFER bits 47:0, RO. -/
def EMB_UPDATE_DEFER.COUNT (tt : Nat) : Fld := ⟨0x240938 + 0x10000 * tt, 47, 0, 0⟩
/-- R310: EMB_LATE_REMOTE bits 47:0, RO. -/
def EMB_LATE_REMOTE.COUNT (tt : Nat) : Fld := ⟨0x240940 + 0x10000 * tt, 47, 0, 0⟩
/-- R310: EMB_REPLICAS_MADE bits 47:0, RO. -/
def EMB_REPLICAS_MADE.COUNT (tt : Nat) : Fld := ⟨0x240948 + 0x10000 * tt, 47, 0, 0⟩
/-- R310: EMB_REPLICAS_DROPPED bits 47:0, RO. -/
def EMB_REPLICAS_DROPPED.COUNT (tt : Nat) : Fld := ⟨0x240950 + 0x10000 * tt, 47, 0, 0⟩
/-- R310: EMB_FORWARDED bits 47:0, RO. -/
def EMB_FORWARDED.COUNT (tt : Nat) : Fld := ⟨0x240958 + 0x10000 * tt, 47, 0, 0⟩
/-- R329: VEC_INDEX bits 0:0, RO. -/
def VEC_INDEX.VALID (i : Nat) : Fld := ⟨0x280000 + 0x8 * i, 0, 0, 0⟩
/-- R329: VEC_INDEX bits 1:1, RO. -/
def VEC_INDEX.READY (i : Nat) : Fld := ⟨0x280000 + 0x8 * i, 1, 1, 0⟩
/-- R329: VEC_INDEX bits 2:2, RO. -/
def VEC_INDEX.COMPACTING (i : Nat) : Fld := ⟨0x280000 + 0x8 * i, 2, 2, 0⟩
/-- R329: VEC_INDEX bits 28:16, RO. -/
def VEC_INDEX.SEGMENTS (i : Nat) : Fld := ⟨0x280000 + 0x8 * i, 28, 16, 0⟩
/-- R329: VEC_INDEX bits 63:32, RO. -/
def VEC_INDEX.LIVE (i : Nat) : Fld := ⟨0x280000 + 0x8 * i, 63, 32, 0⟩
/-- R329: VEC_CFG bits 3:0, LT. -/
def VEC_CFG.PREFETCH : Fld := ⟨0x280200, 3, 0, 4⟩
/-- R329: VEC_CFG bits 31:16, LT. -/
def VEC_CFG.EXPAND_PER_KERNEL : Fld := ⟨0x280200, 31, 16, 0x100⟩
/-- R329: VEC_CFG bits 47:32, LT. -/
def VEC_CFG.SCAN_CAP : Fld := ⟨0x280200, 47, 32, 0x40⟩
/-- R329: VEC_COMPACT bits 5:0, WO. -/
def VEC_COMPACT.INDEX : Fld := ⟨0x280208, 5, 0, 0⟩
/-- R329: VEC_COMPACT bits 27:16, WO. -/
def VEC_COMPACT.FIRST : Fld := ⟨0x280208, 27, 16, 0⟩
/-- R329: VEC_COMPACT bits 38:32, WO. -/
def VEC_COMPACT.COUNT : Fld := ⟨0x280208, 38, 32, 0⟩
/-- R329: VEC_COMPACT_STATUS bits 0:0, RO. -/
def VEC_COMPACT_STATUS.BUSY : Fld := ⟨0x280210, 0, 0, 0⟩
/-- R329: VEC_COMPACT_STATUS bits 15:8, RO. -/
def VEC_COMPACT_STATUS.STATUS : Fld := ⟨0x280210, 15, 8, 0⟩
/-- R329: VEC_COMPACT_STATUS bits 27:16, RO. -/
def VEC_COMPACT_STATUS.NEW_SEGMENT : Fld := ⟨0x280210, 27, 16, 0⟩
/-- R329: VEC_COMPACT_STATUS bits 63:32, RO. -/
def VEC_COMPACT_STATUS.BUILT : Fld := ⟨0x280210, 63, 32, 0⟩
/-- R329: VEC_REPAIR bits 16:0, RO. -/
def VEC_REPAIR.QUEUED (i : Nat) : Fld := ⟨0x280400 + 0x8 * i, 16, 0, 0⟩
/-- R330: VEC_QUERIES bits 47:0, RO. -/
def VEC_QUERIES.COUNT (tt : Nat) : Fld := ⟨0x280300 + 0x10000 * tt, 47, 0, 0⟩
/-- R330: VEC_UPSERTS bits 47:0, RO. -/
def VEC_UPSERTS.COUNT (tt : Nat) : Fld := ⟨0x280308 + 0x10000 * tt, 47, 0, 0⟩
/-- R330: VEC_DELETES bits 47:0, RO. -/
def VEC_DELETES.COUNT (tt : Nat) : Fld := ⟨0x280310 + 0x10000 * tt, 47, 0, 0⟩
/-- R330: VEC_EXPANSIONS bits 47:0, RO. -/
def VEC_EXPANSIONS.COUNT (tt : Nat) : Fld := ⟨0x280318 + 0x10000 * tt, 47, 0, 0⟩
/-- R330: VEC_SCANS bits 47:0, RO. -/
def VEC_SCANS.COUNT (tt : Nat) : Fld := ⟨0x280320 + 0x10000 * tt, 47, 0, 0⟩
/-- R330: VEC_RESCANS bits 47:0, RO. -/
def VEC_RESCANS.COUNT (tt : Nat) : Fld := ⟨0x280328 + 0x10000 * tt, 47, 0, 0⟩
/-- R330: VEC_STALE_EDGES bits 47:0, RO. -/
def VEC_STALE_EDGES.COUNT (tt : Nat) : Fld := ⟨0x280330 + 0x10000 * tt, 47, 0, 0⟩
/-- R330: VEC_REPAIRS bits 47:0, RO. -/
def VEC_REPAIRS.COUNT (tt : Nat) : Fld := ⟨0x280338 + 0x10000 * tt, 47, 0, 0⟩
/-- R330: VEC_REPAIR_DROPS bits 47:0, RO. -/
def VEC_REPAIR_DROPS.COUNT (tt : Nat) : Fld := ⟨0x280340 + 0x10000 * tt, 47, 0, 0⟩
/-- R330: VEC_DELETED_RETURNED bits 47:0, RO. -/
def VEC_DELETED_RETURNED.COUNT (tt : Nat) : Fld := ⟨0x280348 + 0x10000 * tt, 47, 0, 0⟩
/-- R330: VEC_VISITED_OVERFLOW bits 47:0, RO. -/
def VEC_VISITED_OVERFLOW.COUNT (tt : Nat) : Fld := ⟨0x280350 + 0x10000 * tt, 47, 0, 0⟩
/-- R330: VEC_BAD_RECORDS bits 47:0, RO. -/
def VEC_BAD_RECORDS.COUNT (tt : Nat) : Fld := ⟨0x280358 + 0x10000 * tt, 47, 0, 0⟩
/-- R355: ARY_SCHED_CFG bits 15:0, LT. -/
def ARY_SCHED_CFG.INTERLEAVE_US (p : Nat) : Fld := ⟨0x141400 + 0x8 * p, 15, 0, 0⟩
/-- R355: ARY_SCHED_STATUS bits 2:0, RO. -/
def ARY_SCHED_STATUS.EFF_CLASS (p : Nat) : Fld := ⟨0x141c00 + 0x8 * p, 2, 0, 0⟩
/-- R355: ARY_SCHED_STATUS bits 3:3, RO. -/
def ARY_SCHED_STATUS.STEP_RUNNING (p : Nat) : Fld := ⟨0x141c00 + 0x8 * p, 3, 3, 0⟩
/-- R355: ARY_SCHED_STATUS bits 5:4, RO. -/
def ARY_SCHED_STATUS.WAITING (p : Nat) : Fld := ⟨0x141c00 + 0x8 * p, 5, 4, 0⟩
/-- R355: ARY_SCHED_STATUS bits 28:16, RO. -/
def ARY_SCHED_STATUS.QUEUED (p : Nat) : Fld := ⟨0x141c00 + 0x8 * p, 28, 16, 0⟩
/-- R355: ARY_SCHED_STATUS bits 47:32, RO. -/
def ARY_SCHED_STATUS.PREFILL_OVER (p : Nat) : Fld := ⟨0x141c00 + 0x8 * p, 47, 32, 0⟩
/-- R355: ARY_SCHED_STATUS bits 63:48, RO. -/
def ARY_SCHED_STATUS.OVER_SKIPS (p : Nat) : Fld := ⟨0x141c00 + 0x8 * p, 63, 48, 0⟩
/-- R356: TM_PORT bits 31:0, RO. -/
def TM_PORT.RATE_MBPS (p : Nat) : Fld := ⟨0x400000 + 0x8 * p, 31, 0, 0⟩
/-- R356: TM_PORT bits 32:32, RO. -/
def TM_PORT.UP (p : Nat) : Fld := ⟨0x400000 + 0x8 * p, 32, 32, 0⟩
/-- R356: TM_PORT_SHAPER bits 31:0, LT. -/
def TM_PORT_SHAPER.REFILL (p : Nat) : Fld := ⟨0x400100 + 0x8 * p, 31, 0, 0⟩
/-- R356: TM_PORT_SHAPER bits 55:32, LT. -/
def TM_PORT_SHAPER.BURST (p : Nat) : Fld := ⟨0x400100 + 0x8 * p, 55, 32, 0⟩
/-- R356: TM_PORT_SHAPER bits 56:56, LT. -/
def TM_PORT_SHAPER.ENABLE (p : Nat) : Fld := ⟨0x400100 + 0x8 * p, 56, 56, 0⟩
/-- R356: TM_CLASS bits 6:0, RWS. -/
def TM_CLASS.SHARE (p c : Nat) : Fld := ⟨0x400200 + 0x40 * p + 0x8 * c, 6, 0, if c = 0 ∧ p ≤ 17 then 0x19 else 0⟩
/-- R356: TM_CLASS bits 15:8, LT. -/
def TM_CLASS.WEIGHT (p c : Nat) : Fld := ⟨0x400200 + 0x40 * p + 0x8 * c, 15, 8, 1⟩
/-- R356: TM_CLASS_SHAPER bits 31:0, LT. -/
def TM_CLASS_SHAPER.REFILL (p c : Nat) : Fld := ⟨0x400800 + 0x40 * p + 0x8 * c, 31, 0, 0⟩
/-- R356: TM_CLASS_SHAPER bits 55:32, LT. -/
def TM_CLASS_SHAPER.BURST (p c : Nat) : Fld := ⟨0x400800 + 0x40 * p + 0x8 * c, 55, 32, 0⟩
/-- R356: TM_CLASS_SHAPER bits 56:56, LT. -/
def TM_CLASS_SHAPER.ENABLE (p c : Nat) : Fld := ⟨0x400800 + 0x40 * p + 0x8 * c, 56, 56, 0⟩
/-- R356: TM_HWM bits 31:0, RO. -/
def TM_HWM.DEPTH (p c : Nat) : Fld := ⟨0x401000 + 0x40 * p + 0x8 * c, 31, 0, 0⟩
/-- R356: TM_HWM bits 63:32, RO. -/
def TM_HWM.DELAY_NS (p c : Nat) : Fld := ⟨0x401000 + 0x40 * p + 0x8 * c, 63, 32, 0⟩
/-- R356: TM_CLASS_BYTES bits 63:0, RO. -/
def TM_CLASS_BYTES.BYTES (p c : Nat) : Fld := ⟨0x401800 + 0x40 * p + 0x8 * c, 63, 0, 0⟩
/-- R357: TM_XS_SEL bits 2:0, RW. -/
def TM_XS_SEL.CLASS : Fld := ⟨0x402000, 2, 0, 0⟩
/-- R357: TM_XS_SEL bits 7:3, RW. -/
def TM_XS_SEL.PORT : Fld := ⟨0x402000, 7, 3, 0⟩
/-- R357: TM_XS_SEL bits 15:8, RW. -/
def TM_XS_SEL.FUNCTION : Fld := ⟨0x402000, 15, 8, 0⟩
/-- R357: TM_XS_SEL bits 16:16, RW. -/
def TM_XS_SEL.ALL_FUNCTIONS : Fld := ⟨0x402000, 16, 16, 0⟩
/-- R357: TM_XS_SAMPLE bits 23:0, RO. -/
def TM_XS_SAMPLE.DEPTH : Fld := ⟨0x402008, 23, 0, 0⟩
/-- R357: TM_XS_SAMPLE bits 31:24, RO. -/
def TM_XS_SAMPLE.SEQ : Fld := ⟨0x402008, 31, 24, 0⟩
/-- R357: TM_XS_SAMPLE bits 55:32, RO. -/
def TM_XS_SAMPLE.DELAY : Fld := ⟨0x402008, 55, 32, 0⟩
/-- R357: TM_XS_SAMPLE bits 63:63, RO. -/
def TM_XS_SAMPLE.VALID : Fld := ⟨0x402008, 63, 63, 0⟩
/-- R357: TM_BAD_COLOUR bits 47:0, RO. -/
def TM_BAD_COLOUR.COUNT : Fld := ⟨0x402010, 47, 0, 0⟩
/-- R358: TM_LEAF_SHAPER bits 31:0, LT. -/
def TM_LEAF_SHAPER.REFILL (p c f : Nat) : Fld := ⟨0x500000 + 0x8000 * p + 0x1000 * c + 0x10 * f, 31, 0, 0⟩
/-- R358: TM_LEAF_SHAPER bits 55:32, LT. -/
def TM_LEAF_SHAPER.BURST (p c f : Nat) : Fld := ⟨0x500000 + 0x8000 * p + 0x1000 * c + 0x10 * f, 55, 32, 0⟩
/-- R358: TM_LEAF_SHAPER bits 56:56, LT. -/
def TM_LEAF_SHAPER.ENABLE (p c f : Nat) : Fld := ⟨0x500000 + 0x8000 * p + 0x1000 * c + 0x10 * f, 56, 56, 0⟩
/-- R358: TM_LEAF_WEIGHT bits 7:0, LT. -/
def TM_LEAF_WEIGHT.WEIGHT (p c f : Nat) : Fld := ⟨0x500008 + 0x8000 * p + 0x1000 * c + 0x10 * f, 7, 0, 1⟩
/-- R359: TM_POL_CFG bits 0:0, RWS. -/
def TM_POL_CFG.ENABLE (k : Nat) : Fld := ⟨0x600000 + 0x20 * k, 0, 0, 0⟩
/-- R359: TM_POL_CFG bits 1:1, RWS. -/
def TM_POL_CFG.POINT (k : Nat) : Fld := ⟨0x600000 + 0x20 * k, 1, 1, 0⟩
/-- R359: TM_POL_CFG bits 2:2, RWS. -/
def TM_POL_CFG.TWO_RATE (k : Nat) : Fld := ⟨0x600000 + 0x20 * k, 2, 2, 0⟩
/-- R359: TM_POL_CFG bits 3:3, RWS. -/
def TM_POL_CFG.AWARE (k : Nat) : Fld := ⟨0x600000 + 0x20 * k, 3, 3, 0⟩
/-- R359: TM_POL_CFG bits 4:4, RWS. -/
def TM_POL_CFG.YELLOW_ACT (k : Nat) : Fld := ⟨0x600000 + 0x20 * k, 4, 4, 0⟩
/-- R359: TM_POL_CFG bits 5:5, RWS. -/
def TM_POL_CFG.RED_ACT (k : Nat) : Fld := ⟨0x600000 + 0x20 * k, 5, 5, 1⟩
/-- R359: TM_POL_CFG bits 6:6, RWS. -/
def TM_POL_CFG.ALL_FUNCTIONS (k : Nat) : Fld := ⟨0x600000 + 0x20 * k, 6, 6, 1⟩
/-- R359: TM_POL_CFG bits 11:8, RWS. -/
def TM_POL_CFG.PORT (k : Nat) : Fld := ⟨0x600000 + 0x20 * k, 11, 8, 0⟩
/-- R359: TM_POL_CFG bits 14:12, RWS. -/
def TM_POL_CFG.CLASS (k : Nat) : Fld := ⟨0x600000 + 0x20 * k, 14, 12, 0⟩
/-- R359: TM_POL_CFG bits 23:16, RWS. -/
def TM_POL_CFG.FUNCTION (k : Nat) : Fld := ⟨0x600000 + 0x20 * k, 23, 16, 0⟩
/-- R359: TM_POL_RATE_C bits 31:0, LT. -/
def TM_POL_RATE_C.CIR (k : Nat) : Fld := ⟨0x600008 + 0x20 * k, 31, 0, 0⟩
/-- R359: TM_POL_RATE_C bits 63:32, LT. -/
def TM_POL_RATE_C.CBS (k : Nat) : Fld := ⟨0x600008 + 0x20 * k, 63, 32, 0⟩
/-- R359: TM_POL_RATE_E bits 31:0, LT. -/
def TM_POL_RATE_E.EIR_PIR (k : Nat) : Fld := ⟨0x600010 + 0x20 * k, 31, 0, 0⟩
/-- R359: TM_POL_RATE_E bits 63:32, LT. -/
def TM_POL_RATE_E.EBS_PBS (k : Nat) : Fld := ⟨0x600010 + 0x20 * k, 63, 32, 0⟩
/-- R359: TM_POL_COUNT_GREEN bits 63:0, RO. -/
def TM_POL_COUNT_GREEN.COUNT (k : Nat) : Fld := ⟨0x620000 + 0x20 * k, 63, 0, 0⟩
/-- R359: TM_POL_COUNT_YELLOW bits 63:0, RO. -/
def TM_POL_COUNT_YELLOW.COUNT (k : Nat) : Fld := ⟨0x620008 + 0x20 * k, 63, 0, 0⟩
/-- R359: TM_POL_COUNT_RED bits 63:0, RO. -/
def TM_POL_COUNT_RED.COUNT (k : Nat) : Fld := ⟨0x620010 + 0x20 * k, 63, 0, 0⟩
/-- R359: TM_POL_COUNT_DROPPED bits 63:0, RO. -/
def TM_POL_COUNT_DROPPED.COUNT (k : Nat) : Fld := ⟨0x620018 + 0x20 * k, 63, 0, 0⟩
/-- R360: TM_FN_WAIT bits 63:0, RO. -/
def TM_FN_WAIT.COUNT (f b : Nat) : Fld := ⟨0x700000 + 0x40 * f + 0x8 * b, 63, 0, 0⟩
/-- R360: TM_FN_PREEMPT bits 63:0, RO. -/
def TM_FN_PREEMPT.COUNT (f : Nat) : Fld := ⟨0x704000 + 0x8 * f, 63, 0, 0⟩
/-- R391: FAB_PORT_STATUS bits 2:0, RO. -/
def FAB_PORT_STATUS.STATE (p : Nat) : Fld := ⟨0x90000 + 0x8 * p, 2, 0, 0⟩
/-- R391: FAB_PORT_STATUS bits 7:4, RO. -/
def FAB_PORT_STATUS.LANES (p : Nat) : Fld := ⟨0x90000 + 0x8 * p, 7, 4, 0⟩
/-- R391: FAB_PORT_STATUS bits 19:8, RO. -/
def FAB_PORT_STATUS.NEIGHBOUR (p : Nat) : Fld := ⟨0x90000 + 0x8 * p, 19, 8, 0xfff⟩
/-- R391: FAB_PORT_STATUS bits 47:32, RO. -/
def FAB_PORT_STATUS.TRAININGS (p : Nat) : Fld := ⟨0x90000 + 0x8 * p, 47, 32, 0⟩
/-- R391: FAB_PORT_CTRL bits 0:0, RW. -/
def FAB_PORT_CTRL.ENABLE (p : Nat) : Fld := ⟨0x90080 + 0x8 * p, 0, 0, 1⟩
/-- R391: FAB_PORT_CTRL bits 1:1, WO. -/
def FAB_PORT_CTRL.RETRAIN (p : Nat) : Fld := ⟨0x90080 + 0x8 * p, 1, 1, 0⟩
/-- R391: FAB_PORT_CTRL bits 2:2, WO. -/
def FAB_PORT_CTRL.RETIRE (p : Nat) : Fld := ⟨0x90080 + 0x8 * p, 2, 2, 0⟩
/-- R391: FAB_PORT_CTRL bits 3:3, WO. -/
def FAB_PORT_CTRL.RETURN (p : Nat) : Fld := ⟨0x90080 + 0x8 * p, 3, 3, 0⟩
/-- R391: FAB_PORT_ERR bits 31:0, RO. -/
def FAB_PORT_ERR.CRC (p : Nat) : Fld := ⟨0x90100 + 0x8 * p, 31, 0, 0⟩
/-- R391: FAB_PORT_ERR bits 47:32, RO. -/
def FAB_PORT_ERR.RETRIES (p : Nat) : Fld := ⟨0x90100 + 0x8 * p, 47, 32, 0⟩
/-- R391: FAB_PORT_ERR bits 63:48, RO. -/
def FAB_PORT_ERR.LINK_DOWNS (p : Nat) : Fld := ⟨0x90100 + 0x8 * p, 63, 48, 0⟩
/-- R391: FAB_PORT_MARGIN bits 7:0, RO. -/
def FAB_PORT_MARGIN.EYE_MV (p : Nat) : Fld := ⟨0x90180 + 0x8 * p, 7, 0, 0⟩
/-- R391: FAB_PORT_MARGIN bits 15:8, RO. -/
def FAB_PORT_MARGIN.EYE_UI (p : Nat) : Fld := ⟨0x90180 + 0x8 * p, 15, 8, 0⟩
/-- R391: FAB_PORT_MARGIN bits 18:16, RO. -/
def FAB_PORT_MARGIN.WORST_LANE (p : Nat) : Fld := ⟨0x90180 + 0x8 * p, 18, 16, 0⟩
/-- R392: FAB_VC_CFG bits 47:0, RWS. -/
def FAB_VC_CFG.CREDITS : Fld := ⟨0x90200, 47, 0, 0x1c2830282830⟩
/-- R392: FAB_CFG bits 15:0, RW. -/
def FAB_CFG.CADENCE_DOMAIN : Fld := ⟨0x90208, 15, 0, 0⟩
/-- R392: FAB_CFG bits 17:16, RW. -/
def FAB_CFG.EPOCH_HOPS : Fld := ⟨0x90208, 17, 16, 2⟩
/-- R392: FAB_ROUTE bits 15:0, RW. -/
def FAB_ROUTE.PORTS (m : Nat) : Fld := ⟨0x91000 + 0x8 * m, 15, 0, 0⟩
/-- R392: FAB_ROUTE bits 27:16, RW. -/
def FAB_ROUTE.VIA (m : Nat) : Fld := ⟨0x91000 + 0x8 * m, 27, 16, 0xfff⟩
/-- R393: FAB_EPOCH_FOREIGN bits 47:0, RO. -/
def FAB_EPOCH_FOREIGN.COUNT : Fld := ⟨0x90300, 47, 0, 0⟩
/-- R393: FAB_MISROUTED bits 47:0, RO. -/
def FAB_MISROUTED.COUNT : Fld := ⟨0x90308, 47, 0, 0⟩
/-- R393: FAB_AUTH_FAILS bits 47:0, RO. -/
def FAB_AUTH_FAILS.COUNT : Fld := ⟨0x90310, 47, 0, 0⟩
/-- R393: FAB_DROP_NOTICES bits 47:0, RO. -/
def FAB_DROP_NOTICES.COUNT : Fld := ⟨0x90318, 47, 0, 0⟩
/-- R393: FAB_RESENT bits 47:0, RO. -/
def FAB_RESENT.COUNT : Fld := ⟨0x90320, 47, 0, 0⟩
/-- R393: FAB_CMD_IGNORED bits 47:0, RO. -/
def FAB_CMD_IGNORED.COUNT : Fld := ⟨0x90328, 47, 0, 0⟩
/-- R394: DIR_SELF bits 11:0, RW. -/
def DIR_SELF.MODULE_ID : Fld := ⟨0x80000, 11, 0, 0xfff⟩
/-- R394: DIR_SELF bits 12:12, WO. -/
def DIR_SELF.JOIN : Fld := ⟨0x80000, 12, 12, 0⟩
/-- R394: DIR_SELF bits 13:13, WO. -/
def DIR_SELF.STANDALONE : Fld := ⟨0x80000, 13, 13, 0⟩
/-- R394: DIR_SELF bits 14:14, WO. -/
def DIR_SELF.LEAVE : Fld := ⟨0x80000, 14, 14, 0⟩
/-- R394: DIR_SELF bits 18:16, RO. -/
def DIR_SELF.STATE : Fld := ⟨0x80000, 18, 16, 0⟩
/-- R394: DIR_VIEW bits 31:0, RO. -/
def DIR_VIEW.VIEW : Fld := ⟨0x80008, 31, 0, 0⟩
/-- R394: DIR_VIEW bits 43:32, RO. -/
def DIR_VIEW.MEMBERS : Fld := ⟨0x80008, 43, 32, 0⟩
/-- R394: DIR_VIEW bits 44:44, RO. -/
def DIR_VIEW.STEWARD : Fld := ⟨0x80008, 44, 44, 0⟩
/-- R394: DIR_VIEW bits 45:45, RO. -/
def DIR_VIEW.FOREIGN_VIEW : Fld := ⟨0x80008, 45, 45, 0⟩
/-- R394: DIR_TIMING bits 7:0, LT. -/
def DIR_TIMING.SUSPECT_TICKS : Fld := ⟨0x80010, 7, 0, 8⟩
/-- R394: DIR_TIMING bits 15:8, LT. -/
def DIR_TIMING.ISOLATE_TICKS : Fld := ⟨0x80010, 15, 8, 0x10⟩
/-- R394: DIR_TIMING bits 23:16, LT. -/
def DIR_TIMING.LEASE_TICKS : Fld := ⟨0x80010, 23, 16, 0x10⟩
/-- R394: DIR_TIMING bits 27:24, LT. -/
def DIR_TIMING.RENEW_TICKS : Fld := ⟨0x80010, 27, 24, 4⟩
/-- R394: DIR_TIMING bits 31:28, LT. -/
def DIR_TIMING.GUARD_TICKS : Fld := ⟨0x80010, 31, 28, 2⟩
/-- R394: DIR_TIMING bits 39:32, LT. -/
def DIR_TIMING.LOOKUP_WAIT : Fld := ⟨0x80010, 39, 32, 0x20⟩
/-- R394: DIR_STORE bits 31:0, RO. -/
def DIR_STORE.CAPACITY : Fld := ⟨0x80018, 31, 0, 0⟩
/-- R394: DIR_STORE bits 63:32, RO. -/
def DIR_STORE.USED : Fld := ⟨0x80018, 63, 32, 0⟩
/-- R394: DIR_ENTRY_TTL bits 39:0, LT. -/
def DIR_ENTRY_TTL.SESSION_ENTRY_TICKS : Fld := ⟨0x80020, 39, 0, 0x2255100⟩
/-- R394: DIR_MIRROR bits 31:0, RO. -/
def DIR_MIRROR.HELD : Fld := ⟨0x80028, 31, 0, 0⟩
/-- R394: DIR_MIRROR bits 32:32, RO. -/
def DIR_MIRROR.ADOPTING : Fld := ⟨0x80028, 32, 32, 0⟩
/-- R394: DIR_MIRROR bits 63:33, LT. -/
def DIR_MIRROR.MIRROR_AUDIT_TICKS : Fld := ⟨0x80028, 63, 33, 0x2255100⟩
/-- R394: DIR_SHARD bits 1:0, RO. -/
def DIR_SHARD.ROLE (s : Nat) : Fld := ⟨0x81000 + 0x8 * s, 1, 0, 0⟩
/-- R394: DIR_SHARD bits 3:2, RO. -/
def DIR_SHARD.INDEX (s : Nat) : Fld := ⟨0x81000 + 0x8 * s, 3, 2, 0⟩
/-- R394: DIR_SHARD bits 4:4, RO. -/
def DIR_SHARD.LOST (s : Nat) : Fld := ⟨0x81000 + 0x8 * s, 4, 4, 0⟩
/-- R394: DIR_SHARD bits 31:16, RO. -/
def DIR_SHARD.TERM (s : Nat) : Fld := ⟨0x81000 + 0x8 * s, 31, 16, 0⟩
/-- R394: DIR_SHARD bits 63:32, RO. -/
def DIR_SHARD.ENTRIES (s : Nat) : Fld := ⟨0x81000 + 0x8 * s, 63, 32, 0⟩
/-- R395: DIR_LOOKUPS bits 47:0, RO. -/
def DIR_LOOKUPS.COUNT : Fld := ⟨0x80100, 47, 0, 0⟩
/-- R395: DIR_COMMITS bits 47:0, RO. -/
def DIR_COMMITS.COUNT : Fld := ⟨0x80108, 47, 0, 0⟩
/-- R395: DIR_REFUSED bits 47:0, RO. -/
def DIR_REFUSED.COUNT : Fld := ⟨0x80110, 47, 0, 0⟩
/-- R395: DIR_LOOKUP_TIMEOUTS bits 47:0, RO. -/
def DIR_LOOKUP_TIMEOUTS.COUNT : Fld := ⟨0x80118, 47, 0, 0⟩
/-- R395: DIR_FAILOVERS bits 47:0, RO. -/
def DIR_FAILOVERS.COUNT : Fld := ⟨0x80120, 47, 0, 0⟩
/-- R395: DIR_VIEW_CHANGES bits 47:0, RO. -/
def DIR_VIEW_CHANGES.COUNT : Fld := ⟨0x80128, 47, 0, 0⟩
/-- R395: DIR_SHARD_LOSSES bits 47:0, RO. -/
def DIR_SHARD_LOSSES.COUNT : Fld := ⟨0x80130, 47, 0, 0⟩
/-- R395: DIR_ADOPTIONS bits 47:0, RO. -/
def DIR_ADOPTIONS.COUNT : Fld := ⟨0x80138, 47, 0, 0⟩
/-- R395: DIR_MIRROR_DROPS bits 47:0, RO. -/
def DIR_MIRROR_DROPS.COUNT : Fld := ⟨0x80140, 47, 0, 0⟩
/-- R395: DIR_RECONCILED bits 47:0, RO. -/
def DIR_RECONCILED.COUNT : Fld := ⟨0x80148, 47, 0, 0⟩
/-- R434: HIF_LINK bits 3:0, RO. -/
def HIF_LINK.RATE : Fld := ⟨0xa0000, 3, 0, 0⟩
/-- R434: HIF_LINK bits 9:4, RO. -/
def HIF_LINK.WIDTH : Fld := ⟨0xa0000, 9, 4, 0⟩
/-- R434: HIF_LINK bits 10:10, RO. -/
def HIF_LINK.FLIT : Fld := ⟨0xa0000, 10, 10, 0⟩
/-- R434: HIF_LINK bits 11:11, RO. -/
def HIF_LINK.SUPPORTED : Fld := ⟨0xa0000, 11, 11, 0⟩
/-- R434: HIF_LINK bits 47:32, RO. -/
def HIF_LINK.CHANGES : Fld := ⟨0xa0000, 47, 32, 0⟩
/-- R434: HIF_BAR4_WINDOW bits 47:30, RW. -/
def HIF_BAR4_WINDOW.ADDR : Fld := ⟨0xa0008, 47, 30, 0⟩
/-- R434: HIF_EVQ_BASE bits 0:0, RW. -/
def HIF_EVQ_BASE.ENABLE : Fld := ⟨0xa0010, 0, 0, 0⟩
/-- R434: HIF_EVQ_BASE bits 63:12, RW. -/
def HIF_EVQ_BASE.ADDR : Fld := ⟨0xa0010, 63, 12, 0⟩
/-- R434: HIF_EVQ_CFG bits 4:0, RW. -/
def HIF_EVQ_CFG.LOG2 : Fld := ⟨0xa0018, 4, 0, 0x10⟩
/-- R434: HIF_EVQ_CFG bits 15:8, RW. -/
def HIF_EVQ_CFG.COAL_ENTRIES : Fld := ⟨0xa0018, 15, 8, 1⟩
/-- R434: HIF_EVQ_CFG bits 31:16, RW. -/
def HIF_EVQ_CFG.COAL_US : Fld := ⟨0xa0018, 31, 16, 0⟩
/-- R434: HIF_EVQ_CFG bits 32:32, RW. -/
def HIF_EVQ_CFG.INT_EN : Fld := ⟨0xa0018, 32, 32, 0⟩
/-- R434: HIF_EVQ_PI bits 63:3, RW. -/
def HIF_EVQ_PI.ADDR : Fld := ⟨0xa0020, 63, 3, 0⟩
/-- R434: HIF_EVQ_CI bits 31:0, WO. -/
def HIF_EVQ_CI.CI : Fld := ⟨0xa0028, 31, 0, 0⟩
/-- R434: HIF_FN_CFG bits 7:0, RW. -/
def HIF_FN_CFG.CLASS_MASK (f : Nat) : Fld := ⟨0xa0100 + 0x8 * f, 7, 0, if f = 0 then 255 else 0⟩
/-- R434: HIF_FN_CFG bits 30:8, RW. -/
def HIF_FN_CFG.SESSION_LIMIT (f : Nat) : Fld := ⟨0xa0100 + 0x8 * f, 30, 8, if f = 0 then 4194304 else 0⟩
/-- R434: HIF_FN_CFG bits 45:32, RO. -/
def HIF_FN_CFG.FENCE_FIRST (f : Nat) : Fld := ⟨0xa0100 + 0x8 * f, 45, 32, 0⟩
/-- R434: HIF_FN_CFG bits 60:46, RO. -/
def HIF_FN_CFG.FENCE_COUNT (f : Nat) : Fld := ⟨0xa0100 + 0x8 * f, 60, 46, if f = 0 then 16384 else 0⟩
/-- R434: HIF_FN_STATUS bits 1:0, RO. -/
def HIF_FN_STATUS.STATE (f : Nat) : Fld := ⟨0xa0900 + 0x8 * f, 1, 0, 0⟩
/-- R434: HIF_FN_STATUS bits 24:2, RO. -/
def HIF_FN_STATUS.SESSIONS (f : Nat) : Fld := ⟨0xa0900 + 0x8 * f, 24, 2, 0⟩
/-- R434: HIF_FN_STATUS bits 47:32, RO. -/
def HIF_FN_STATUS.ABORTS (f : Nat) : Fld := ⟨0xa0900 + 0x8 * f, 47, 32, 0⟩
/-- R434: HIF_FN_STATUS bits 63:48, RO. -/
def HIF_FN_STATUS.RESETS (f : Nat) : Fld := ⟨0xa0900 + 0x8 * f, 63, 48, 0⟩
/-- R434: HIF_MODEL bits 0:0, RO. -/
def HIF_MODEL.BOUND (m : Nat) : Fld := ⟨0xa1200 + 0x8 * m, 0, 0, 0⟩
/-- R434: HIF_MODEL bits 1:1, RO. -/
def HIF_MODEL.LOADED (m : Nat) : Fld := ⟨0xa1200 + 0x8 * m, 1, 1, 0⟩
/-- R434: HIF_MODEL bits 32:8, RO. -/
def HIF_MODEL.BLOCKS_LOADED (m : Nat) : Fld := ⟨0xa1200 + 0x8 * m, 32, 8, 0⟩
/-- R434: HIF_MODEL bits 57:33, RO. -/
def HIF_MODEL.BLOCKS (m : Nat) : Fld := ⟨0xa1200 + 0x8 * m, 57, 33, 0⟩
/-- R434: HIF_COMMANDS bits 47:0, RO. -/
def HIF_COMMANDS.COUNT : Fld := ⟨0xa1100, 47, 0, 0⟩
/-- R434: HIF_REJECTS bits 47:0, RO. -/
def HIF_REJECTS.COUNT : Fld := ⟨0xa1108, 47, 0, 0⟩
/-- R434: HIF_HOST_FAULTS bits 47:0, RO. -/
def HIF_HOST_FAULTS.COUNT : Fld := ⟨0xa1110, 47, 0, 0⟩
/-- R434: HIF_EVENT_DROPS bits 47:0, RO. -/
def HIF_EVENT_DROPS.COUNT : Fld := ⟨0xa1118, 47, 0, 0⟩
/-- R434: HIF_COMPLETION_DROPS bits 47:0, RO. -/
def HIF_COMPLETION_DROPS.COUNT : Fld := ⟨0xa1120, 47, 0, 0⟩
/-- R434: HIF_DISCARDED bits 47:0, RO. -/
def HIF_DISCARDED.COUNT : Fld := ⟨0xa1128, 47, 0, 0⟩
/-- R434: HIF_QP_ERRORS bits 47:0, RO. -/
def HIF_QP_ERRORS.COUNT : Fld := ⟨0xa1130, 47, 0, 0⟩
/-- R435: HIF_QP_SQ bits 4:0, RW. -/
def HIF_QP_SQ.LOG2 (f q : Nat) : Fld := ⟨0x10040000 + 0x200000 * f + 0x40 * q, 4, 0, 6⟩
/-- R435: HIF_QP_SQ bits 63:12, RW. -/
def HIF_QP_SQ.ADDR (f q : Nat) : Fld := ⟨0x10040000 + 0x200000 * f + 0x40 * q, 63, 12, 0⟩
/-- R435: HIF_QP_CQ bits 4:0, RW. -/
def HIF_QP_CQ.LOG2 (f q : Nat) : Fld := ⟨0x10040008 + 0x200000 * f + 0x40 * q, 4, 0, 6⟩
/-- R435: HIF_QP_CQ bits 63:12, RW. -/
def HIF_QP_CQ.ADDR (f q : Nat) : Fld := ⟨0x10040008 + 0x200000 * f + 0x40 * q, 63, 12, 0⟩
/-- R435: HIF_QP_OUT bits 4:0, RW. -/
def HIF_QP_OUT.LOG2 (f q : Nat) : Fld := ⟨0x10040010 + 0x200000 * f + 0x40 * q, 4, 0, 0x10⟩
/-- R435: HIF_QP_OUT bits 63:12, RW. -/
def HIF_QP_OUT.ADDR (f q : Nat) : Fld := ⟨0x10040010 + 0x200000 * f + 0x40 * q, 63, 12, 0⟩
/-- R435: HIF_QP_OUT_PI bits 63:3, RW. -/
def HIF_QP_OUT_PI.ADDR (f q : Nat) : Fld := ⟨0x10040018 + 0x200000 * f + 0x40 * q, 63, 3, 0⟩
/-- R435: HIF_QP_CTRL bits 0:0, RW. -/
def HIF_QP_CTRL.ENABLE (f q : Nat) : Fld := ⟨0x10040020 + 0x200000 * f + 0x40 * q, 0, 0, 0⟩
/-- R435: HIF_QP_CTRL bits 3:1, RW. -/
def HIF_QP_CTRL.CLASS (f q : Nat) : Fld := ⟨0x10040020 + 0x200000 * f + 0x40 * q, 3, 1, 0⟩
/-- R435: HIF_QP_CTRL bits 4:4, RW. -/
def HIF_QP_CTRL.INT_EN (f q : Nat) : Fld := ⟨0x10040020 + 0x200000 * f + 0x40 * q, 4, 4, 0⟩
/-- R435: HIF_QP_CTRL bits 15:8, RW. -/
def HIF_QP_CTRL.COAL_ENTRIES (f q : Nat) : Fld := ⟨0x10040020 + 0x200000 * f + 0x40 * q, 15, 8, 1⟩
/-- R435: HIF_QP_CTRL bits 31:16, RW. -/
def HIF_QP_CTRL.COAL_US (f q : Nat) : Fld := ⟨0x10040020 + 0x200000 * f + 0x40 * q, 31, 16, 0⟩
/-- R435: HIF_QP_STATUS bits 1:0, RO. -/
def HIF_QP_STATUS.STATE (f q : Nat) : Fld := ⟨0x10040028 + 0x200000 * f + 0x40 * q, 1, 0, 0⟩
/-- R435: HIF_QP_STATUS bits 31:16, RO. -/
def HIF_QP_STATUS.SQ_HEAD (f q : Nat) : Fld := ⟨0x10040028 + 0x200000 * f + 0x40 * q, 31, 16, 0⟩
/-- R435: HIF_QP_STATUS bits 47:32, RO. -/
def HIF_QP_STATUS.CQ_TAIL (f q : Nat) : Fld := ⟨0x10040028 + 0x200000 * f + 0x40 * q, 47, 32, 0⟩
/-- R435: HIF_QP_STATUS bits 55:48, RO. -/
def HIF_QP_STATUS.CAUSE (f q : Nat) : Fld := ⟨0x10040028 + 0x200000 * f + 0x40 * q, 55, 48, 0⟩
/-- R435: HIF_QP_OUT_STATUS bits 31:0, RO. -/
def HIF_QP_OUT_STATUS.PI (f q : Nat) : Fld := ⟨0x10040030 + 0x200000 * f + 0x40 * q, 31, 0, 0⟩
/-- R435: HIF_QP_OUT_STATUS bits 40:32, RO. -/
def HIF_QP_OUT_STATUS.PENDING_EVENTS (f q : Nat) : Fld := ⟨0x10040030 + 0x200000 * f + 0x40 * q, 40, 32, 0⟩
/-- R436: FEN_VALUE bits 63:0, RO. -/
def FEN_VALUE.VALUE (n : Nat) : Fld := ⟨0x2c0000 + 0x8 * n, 63, 0, 0⟩
/-- R436: FEN_RESET bits 13:0, WO. -/
def FEN_RESET.FENCE : Fld := ⟨0x2e0000, 13, 0, 0⟩
/-- R436: FEN_STATUS bits 12:0, RO. -/
def FEN_STATUS.WAITS : Fld := ⟨0x2e0008, 12, 0, 0⟩
/-- R436: FEN_SIGNALS bits 47:0, RO. -/
def FEN_SIGNALS.COUNT : Fld := ⟨0x2e0010, 47, 0, 0⟩
/-- R436: FEN_STALE_SETS bits 47:0, RO. -/
def FEN_STALE_SETS.COUNT : Fld := ⟨0x2e0018, 47, 0, 0⟩
/-- R436: FEN_TIMEOUTS bits 47:0, RO. -/
def FEN_TIMEOUTS.COUNT : Fld := ⟨0x2e0020, 47, 0, 0⟩
/-- R462: ALM_STAGE_CTRL bits 2:0, WO. -/
def ALM_STAGE_CTRL.OP : Fld := ⟨0xb0000, 2, 0, 0⟩
/-- R462: ALM_STAGE_ADDR bits 47:6, RW. -/
def ALM_STAGE_ADDR.ADDR : Fld := ⟨0xb0008, 47, 6, 0⟩
/-- R462: ALM_STAGE_GEN bits 31:0, RW. -/
def ALM_STAGE_GEN.GEN : Fld := ⟨0xb0010, 31, 0, 0⟩
/-- R462: ALM_STAGE_STATUS bits 2:0, RO. -/
def ALM_STAGE_STATUS.STAGE_STATE : Fld := ⟨0xb0018, 2, 0, 0⟩
/-- R462: ALM_STAGE_STATUS bits 3:3, RO. -/
def ALM_STAGE_STATUS.BUSY : Fld := ⟨0xb0018, 3, 3, 0⟩
/-- R462: ALM_STAGE_STATUS bits 4:4, RO. -/
def ALM_STAGE_STATUS.DIRTY : Fld := ⟨0xb0018, 4, 4, 0⟩
/-- R462: ALM_STAGE_STATUS bits 5:5, RO. -/
def ALM_STAGE_STATUS.BOOT : Fld := ⟨0xb0018, 5, 5, 0⟩
/-- R462: ALM_STAGE_STATUS bits 15:8, RO. -/
def ALM_STAGE_STATUS.STATUS : Fld := ⟨0xb0018, 15, 8, 0⟩
/-- R462: ALM_STAGE_STATUS bits 27:16, RO. -/
def ALM_STAGE_STATUS.FAIL_SECTION : Fld := ⟨0xb0018, 27, 16, 0xfff⟩
/-- R462: ALM_STAGE_STATUS bits 31:28, RO. -/
def ALM_STAGE_STATUS.FAIL_CHECK : Fld := ⟨0xb0018, 31, 28, 0⟩
/-- R462: ALM_STAGE_STATUS bits 63:32, RO. -/
def ALM_STAGE_STATUS.GEN : Fld := ⟨0xb0018, 63, 32, 0⟩
/-- R462: ALM_COMMITTED bits 31:0, RO. -/
def ALM_COMMITTED.GEN : Fld := ⟨0xb0020, 31, 0, 0⟩
/-- R462: ALM_COMMITTED bits 63:32, RO. -/
def ALM_COMMITTED.APPLIES : Fld := ⟨0xb0020, 63, 32, 0⟩
/-- R462: ALM_WRITE_LOG bits 27:0, RO. -/
def ALM_WRITE_LOG.OFFSET : Fld := ⟨0xb0028, 27, 0, 0⟩
/-- R462: ALM_WRITE_LOG bits 47:28, RO. -/
def ALM_WRITE_LOG.COUNT : Fld := ⟨0xb0028, 47, 28, 0⟩
/-- R462: ALM_WRITE_LOG bits 63:63, W1C. -/
def ALM_WRITE_LOG.VALID : Fld := ⟨0xb0028, 63, 63, 0⟩
/-- R462: ALM_APPLY_LOG bits 15:0, RO. -/
def ALM_APPLY_LOG.REGION : Fld := ⟨0xb0030, 15, 0, 0⟩
/-- R462: ALM_APPLY_LOG bits 23:16, RO. -/
def ALM_APPLY_LOG.STATUS : Fld := ⟨0xb0030, 23, 16, 0⟩
/-- R462: ALM_APPLY_LOG bits 55:24, RO. -/
def ALM_APPLY_LOG.GEN : Fld := ⟨0xb0030, 55, 24, 0⟩
/-- R462: ALM_APPLY_LOG bits 63:63, W1C. -/
def ALM_APPLY_LOG.VALID : Fld := ⟨0xb0030, 63, 63, 0⟩
/-- R462: ALM_BOOT bits 31:0, RO. -/
def ALM_BOOT.A_GEN : Fld := ⟨0xb0038, 31, 0, 0⟩
/-- R462: ALM_BOOT bits 63:32, RO. -/
def ALM_BOOT.B_GEN : Fld := ⟨0xb0038, 63, 32, 0⟩
/-- R464: ALM_FW_CTRL bits 1:0, WO. -/
def ALM_FW_CTRL.OP : Fld := ⟨0xb0100, 1, 0, 0⟩
/-- R464: ALM_FW_ADDR bits 47:6, RW. -/
def ALM_FW_ADDR.ADDR : Fld := ⟨0xb0108, 47, 6, 0⟩
/-- R464: ALM_FW_STATUS bits 2:0, RO. -/
def ALM_FW_STATUS.SLOT_A : Fld := ⟨0xb0110, 2, 0, 0⟩
/-- R464: ALM_FW_STATUS bits 5:3, RO. -/
def ALM_FW_STATUS.SLOT_B : Fld := ⟨0xb0110, 5, 3, 0⟩
/-- R464: ALM_FW_STATUS bits 6:6, RO. -/
def ALM_FW_STATUS.RUNNING : Fld := ⟨0xb0110, 6, 6, 0⟩
/-- R464: ALM_FW_STATUS bits 7:7, RO. -/
def ALM_FW_STATUS.BUSY : Fld := ⟨0xb0110, 7, 7, 0⟩
/-- R464: ALM_FW_STATUS bits 15:8, RO. -/
def ALM_FW_STATUS.STATUS : Fld := ⟨0xb0110, 15, 8, 0⟩
/-- R464: ALM_FW_STATUS bits 47:32, RO. -/
def ALM_FW_STATUS.A_SVN : Fld := ⟨0xb0110, 47, 32, 0⟩
/-- R464: ALM_FW_STATUS bits 63:48, RO. -/
def ALM_FW_STATUS.B_SVN : Fld := ⟨0xb0110, 63, 48, 0⟩
/-- R490: REL_CFG bits 7:0, LT. -/
def REL_CFG.CH_UE_LIMIT : Fld := ⟨0xc0000, 7, 0, 4⟩
/-- R490: REL_CFG bits 15:8, LT. -/
def REL_CFG.STACK_CH_LIMIT : Fld := ⟨0xc0000, 15, 8, 4⟩
/-- R490: REL_CFG bits 18:16, LT. -/
def REL_CFG.RELOAD_CLASS : Fld := ⟨0xc0000, 18, 16, 1⟩
/-- R490: REL_UE_WINDOW bits 39:0, LT. -/
def REL_UE_WINDOW.CH_UE_WINDOW : Fld := ⟨0xc0008, 39, 0, 0x2255100⟩
/-- R490: REL_SCRUB bits 15:0, LT. -/
def REL_SCRUB.REPLICA_MBPS : Fld := ⟨0xc0010, 15, 0, 0x3e8⟩
/-- R490: REL_SCRUB bits 16:16, LT. -/
def REL_SCRUB.ENABLE : Fld := ⟨0xc0010, 16, 16, 1⟩
/-- R490: REL_CMD bits 3:0, WO. -/
def REL_CMD.OP : Fld := ⟨0xc0018, 3, 0, 0⟩
/-- R490: REL_CMD bits 31:16, WO. -/
def REL_CMD.TARGET : Fld := ⟨0xc0018, 31, 16, 0⟩
/-- R490: REL_CMD_STATUS bits 0:0, RO. -/
def REL_CMD_STATUS.BUSY : Fld := ⟨0xc0020, 0, 0, 0⟩
/-- R490: REL_CMD_STATUS bits 15:8, RO. -/
def REL_CMD_STATUS.STATUS : Fld := ⟨0xc0020, 15, 8, 0⟩
/-- R490: REL_CMD_STATUS bits 19:16, RO. -/
def REL_CMD_STATUS.ROW : Fld := ⟨0xc0020, 19, 16, 0⟩
/-- R490: REL_CKPT_STATUS bits 2:0, RO. -/
def REL_CKPT_STATUS.PHASE : Fld := ⟨0xc0028, 2, 0, 0⟩
/-- R490: REL_CKPT_STATUS bits 3:3, RO. -/
def REL_CKPT_STATUS.OP : Fld := ⟨0xc0028, 3, 3, 0⟩
/-- R490: REL_CKPT_STATUS bits 31:16, RO. -/
def REL_CKPT_STATUS.STAGED_GIB : Fld := ⟨0xc0028, 31, 16, 0⟩
/-- R490: REL_CKPT_STATUS bits 63:32, RO. -/
def REL_CKPT_STATUS.ID_LOW : Fld := ⟨0xc0028, 63, 32, 0⟩
/-- R490: REL_CKPT_TIMES bits 31:0, RO. -/
def REL_CKPT_TIMES.CAPTURE_US : Fld := ⟨0xc0030, 31, 0, 0⟩
/-- R490: REL_CKPT_TIMES bits 63:32, RO. -/
def REL_CKPT_TIMES.DURABLE_MS : Fld := ⟨0xc0030, 63, 32, 0⟩
/-- R490: REL_DF_WINDOW bits 15:0, LT. -/
def REL_DF_WINDOW.PERIOD : Fld := ⟨0xc0038, 15, 0, 0⟩
/-- R490: REL_DF_WINDOW bits 31:16, LT. -/
def REL_DF_WINDOW.PHASE : Fld := ⟨0xc0038, 31, 16, 0⟩
/-- R490: REL_DF_WINDOW bits 47:32, LT. -/
def REL_DF_WINDOW.LENGTH : Fld := ⟨0xc0038, 47, 32, 0⟩
/-- R490: REL_DF_WINDOW bits 48:48, LT. -/
def REL_DF_WINDOW.ENABLE : Fld := ⟨0xc0038, 48, 48, 1⟩
/-- R490: REL_DF_CFG bits 39:0, LT. -/
def REL_DF_CFG.BANK_TEST_TICKS : Fld := ⟨0xc0040, 39, 0, 0x927c0⟩
/-- R490: REL_DF_CFG bits 47:40, LT. -/
def REL_DF_CFG.FAB_EYE_MV : Fld := ⟨0xc0040, 47, 40, 0xc⟩
/-- R490: REL_DF_CFG bits 55:48, LT. -/
def REL_DF_CFG.FAB_EYE_UI : Fld := ⟨0xc0040, 55, 48, 0x10⟩
/-- R490: REL_DF_STATUS bits 31:0, RO. -/
def REL_DF_STATUS.OLDEST_MS : Fld := ⟨0xc0048, 31, 0, 0⟩
/-- R490: REL_DF_STATUS bits 63:32, RO. -/
def REL_DF_STATUS.PASSES : Fld := ⟨0xc0048, 63, 32, 0⟩
/-- R491: REL_REWRITES bits 47:0, RO. -/
def REL_REWRITES.COUNT : Fld := ⟨0xc0100, 47, 0, 0⟩
/-- R491: REL_DIVERGENCE bits 47:0, RO. -/
def REL_DIVERGENCE.COUNT : Fld := ⟨0xc0108, 47, 0, 0⟩
/-- R491: REL_PEN_RESETS bits 47:0, RO. -/
def REL_PEN_RESETS.COUNT : Fld := ⟨0xc0110, 47, 0, 0⟩
/-- R491: REL_GRAMMAR_RESETS bits 47:0, RO. -/
def REL_GRAMMAR_RESETS.COUNT : Fld := ⟨0xc0118, 47, 0, 0⟩
/-- R491: REL_STOPS_CLEARED bits 47:0, RO. -/
def REL_STOPS_CLEARED.COUNT : Fld := ⟨0xc0120, 47, 0, 0⟩
/-- R491: REL_TABLE_FAULTS bits 47:0, RO. -/
def REL_TABLE_FAULTS.COUNT : Fld := ⟨0xc0128, 47, 0, 0⟩
/-- R491: REL_POISON_OUT bits 47:0, RO. -/
def REL_POISON_OUT.COUNT : Fld := ⟨0xc0130, 47, 0, 0⟩
/-- R491: REL_CHANNELS_RETIRED bits 47:0, RO. -/
def REL_CHANNELS_RETIRED.COUNT : Fld := ⟨0xc0138, 47, 0, 0⟩
/-- R491: REL_DEEP_RETIRED bits 47:0, RO. -/
def REL_DEEP_RETIRED.COUNT : Fld := ⟨0xc0140, 47, 0, 0⟩
/-- R491: REL_TILE_OFFLINES bits 47:0, RO. -/
def REL_TILE_OFFLINES.COUNT : Fld := ⟨0xc0148, 47, 0, 0⟩
/-- R491: REL_RESHARD_BYTES bits 47:0, RO. -/
def REL_RESHARD_BYTES.COUNT : Fld := ⟨0xc0150, 47, 0, 0⟩
/-- R491: REL_HELD_WRITES bits 47:0, RO. -/
def REL_HELD_WRITES.COUNT : Fld := ⟨0xc0158, 47, 0, 0⟩
/-- R491: REL_CKPT_DONE bits 47:0, RO. -/
def REL_CKPT_DONE.COUNT : Fld := ⟨0xc0160, 47, 0, 0⟩
/-- R491: REL_CKPT_FAILED bits 47:0, RO. -/
def REL_CKPT_FAILED.COUNT : Fld := ⟨0xc0168, 47, 0, 0⟩
/-- R491: REL_CKPT_BLOCKS_LOST bits 47:0, RO. -/
def REL_CKPT_BLOCKS_LOST.COUNT : Fld := ⟨0xc0170, 47, 0, 0⟩
/-- R491: REL_DF_SLICES bits 47:0, RO. -/
def REL_DF_SLICES.COUNT : Fld := ⟨0xc0178, 47, 0, 0⟩
/-- R491: REL_DF_FAILS bits 47:0, RO. -/
def REL_DF_FAILS.COUNT : Fld := ⟨0xc0180, 47, 0, 0⟩
/-- R516: SEC_ID_STATUS bits 0:0, RO. -/
def SEC_ID_STATUS.PUF_OK : Fld := ⟨0xd0000, 0, 0, 0⟩
/-- R516: SEC_ID_STATUS bits 2:1, RO. -/
def SEC_ID_STATUS.PUF_RETRIES : Fld := ⟨0xd0000, 2, 1, 0⟩
/-- R516: SEC_ID_STATUS bits 3:3, RO. -/
def SEC_ID_STATUS.RECORD_OK : Fld := ⟨0xd0000, 3, 3, 0⟩
/-- R516: SEC_ID_STATUS bits 4:4, RO. -/
def SEC_ID_STATUS.RECORD_COPY : Fld := ⟨0xd0000, 4, 4, 0⟩
/-- R516: SEC_ID_STATUS bits 5:5, RO. -/
def SEC_ID_STATUS.CERT_OK : Fld := ⟨0xd0000, 5, 5, 0⟩
/-- R516: SEC_ID_STATUS bits 6:6, RO. -/
def SEC_ID_STATUS.OWNER_OK : Fld := ⟨0xd0000, 6, 6, 0⟩
/-- R516: SEC_ID_STATUS bits 15:8, RO. -/
def SEC_ID_STATUS.OWNER_KEYS : Fld := ⟨0xd0000, 15, 8, 0⟩
/-- R516: SEC_ID_STATUS bits 47:16, RO. -/
def SEC_ID_STATUS.OWNER_SVN : Fld := ⟨0xd0000, 47, 16, 0⟩
/-- R516: SEC_CFG bits 0:0, RW. -/
def SEC_CFG.LINK_OPEN : Fld := ⟨0xd0008, 0, 0, 0⟩
/-- R516: SEC_CFG bits 1:1, RW. -/
def SEC_CFG.IDE_REQUIRED : Fld := ⟨0xd0008, 1, 1, 0⟩
/-- R516: SEC_CFG bits 2:2, RW. -/
def SEC_CFG.LOCK : Fld := ⟨0xd0008, 2, 2, 0⟩
/-- R516: SEC_CFG bits 14:8, RW. -/
def SEC_CFG.MIRROR_JOB : Fld := ⟨0xd0008, 14, 8, 0⟩
/-- R516: SEC_TRUST_ADDR bits 47:6, RW. -/
def SEC_TRUST_ADDR.ADDR : Fld := ⟨0xd0010, 47, 6, 0⟩
/-- R516: SEC_TRUST_COUNT bits 16:0, RW. -/
def SEC_TRUST_COUNT.COUNT : Fld := ⟨0xd0018, 16, 0, 0⟩
/-- R516: SEC_KX_CTRL bits 2:0, WO. -/
def SEC_KX_CTRL.OP : Fld := ⟨0xd0020, 2, 0, 0⟩
/-- R516: SEC_KX_CTRL bits 9:3, WO. -/
def SEC_KX_CTRL.JOB : Fld := ⟨0xd0020, 9, 3, 0⟩
/-- R516: SEC_KX_CTRL bits 23:12, WO. -/
def SEC_KX_CTRL.PEER : Fld := ⟨0xd0020, 23, 12, 0⟩
/-- R516: SEC_KX_ADDR bits 47:6, RW. -/
def SEC_KX_ADDR.ADDR : Fld := ⟨0xd0028, 47, 6, 0⟩
/-- R516: SEC_KX_STATUS bits 0:0, RO. -/
def SEC_KX_STATUS.BUSY : Fld := ⟨0xd0030, 0, 0, 0⟩
/-- R516: SEC_KX_STATUS bits 15:8, RO. -/
def SEC_KX_STATUS.STATUS : Fld := ⟨0xd0030, 15, 8, 0⟩
/-- R516: SEC_KX_STATUS bits 22:16, RO. -/
def SEC_KX_STATUS.PENDING : Fld := ⟨0xd0030, 22, 16, 0⟩
/-- R516: SEC_KX_STATUS bits 45:32, RO. -/
def SEC_KX_STATUS.PAIRS : Fld := ⟨0xd0030, 45, 32, 0⟩
/-- R516: SEC_KEYS bits 22:0, RO. -/
def SEC_KEYS.SESSION_KEYS : Fld := ⟨0xd0038, 22, 0, 0⟩
/-- R516: SEC_KEYS bits 63:48, RO. -/
def SEC_KEYS.MODEL_KEYS : Fld := ⟨0xd0038, 63, 48, 0⟩
/-- R516: SEC_JOB bits 0:0, RO. -/
def SEC_JOB.OPEN (j : Nat) : Fld := ⟨0xd0100 + 0x8 * j, 0, 0, 0⟩
/-- R516: SEC_JOB bits 28:16, RO. -/
def SEC_JOB.PEERS (j : Nat) : Fld := ⟨0xd0100 + 0x8 * j, 28, 16, 0⟩
/-- R516: SEC_JOB bits 63:32, RO. -/
def SEC_JOB.RATCHETS (j : Nat) : Fld := ⟨0xd0100 + 0x8 * j, 63, 32, 0⟩
/-- R517: SEC_AUTH_FAILS bits 47:0, RO. -/
def SEC_AUTH_FAILS.COUNT : Fld := ⟨0xd0500, 47, 0, 0⟩
/-- R517: SEC_KX_FAILS bits 47:0, RO. -/
def SEC_KX_FAILS.COUNT : Fld := ⟨0xd0508, 47, 0, 0⟩
/-- R517: SEC_LINK_FAILS bits 47:0, RO. -/
def SEC_LINK_FAILS.COUNT : Fld := ⟨0xd0510, 47, 0, 0⟩
/-- R517: SEC_REPLAYS bits 47:0, RO. -/
def SEC_REPLAYS.COUNT : Fld := ⟨0xd0518, 47, 0, 0⟩
/-- R517: SEC_UNWRAP_FAILS bits 47:0, RO. -/
def SEC_UNWRAP_FAILS.COUNT : Fld := ⟨0xd0520, 47, 0, 0⟩
/-- R517: SEC_IDE_BLOCKED bits 47:0, RO. -/
def SEC_IDE_BLOCKED.COUNT : Fld := ⟨0xd0528, 47, 0, 0⟩
/-- R517: SEC_SPDM_ERRORS bits 47:0, RO. -/
def SEC_SPDM_ERRORS.COUNT : Fld := ⟨0xd0530, 47, 0, 0⟩
/-- R538: MGT_STATUS bits 1:0, RO. -/
def MGT_STATUS.FW_STATE : Fld := ⟨0xe0000, 1, 0, 0⟩
/-- R538: MGT_STATUS bits 15:8, RO. -/
def MGT_STATUS.PCIE_EID : Fld := ⟨0xe0000, 15, 8, 0⟩
/-- R538: MGT_STATUS bits 23:16, RO. -/
def MGT_STATUS.I3C_EID : Fld := ⟨0xe0000, 23, 16, 0⟩
/-- R538: MGT_STATUS bits 30:24, RO. -/
def MGT_STATUS.I3C_ADDR : Fld := ⟨0xe0000, 30, 24, 0⟩
/-- R538: MGT_STATUS bits 47:32, RO. -/
def MGT_STATUS.RESTARTS : Fld := ⟨0xe0000, 47, 32, 0⟩
/-- R538: MGT_CAP bits 9:0, LT. -/
def MGT_CAP.HOST_CAP_W : Fld := ⟨0xe0008, 9, 0, 0x2ee⟩
/-- R538: MGT_CAP bits 25:16, RO. -/
def MGT_CAP.MGMT_CAP_W : Fld := ⟨0xe0008, 25, 16, 0x2ee⟩
/-- R538: MGT_CAP bits 41:32, RO. -/
def MGT_CAP.APPLIED_W : Fld := ⟨0xe0008, 41, 32, 0x2ee⟩
/-- R538: MGT_CAP bits 57:48, RO. -/
def MGT_CAP.W0_W : Fld := ⟨0xe0008, 57, 48, 0xa0⟩
/-- R538: MGT_POWER bits 15:0, RO. -/
def MGT_POWER.MEAN_DW : Fld := ⟨0xe0010, 15, 0, 0⟩
/-- R538: MGT_POWER bits 31:16, RO. -/
def MGT_POWER.PEAK_DW : Fld := ⟨0xe0010, 31, 16, 0⟩
/-- R538: MGT_ENERGY bits 63:0, RO. -/
def MGT_ENERGY.ENERGY_MJ : Fld := ⟨0xe0018, 63, 0, 0⟩
/-- R538: MGT_LEVERS bits 0:0, RO. -/
def MGT_LEVERS.L1 : Fld := ⟨0xe0020, 0, 0, 0⟩
/-- R538: MGT_LEVERS bits 5:1, RO. -/
def MGT_LEVERS.L2_STEPS : Fld := ⟨0xe0020, 5, 1, 0⟩
/-- R538: MGT_LEVERS bits 15:8, RO. -/
def MGT_LEVERS.L3_HELD : Fld := ⟨0xe0020, 15, 8, 0⟩
/-- R538: MGT_LEVERS bits 16:16, RO. -/
def MGT_LEVERS.L4 : Fld := ⟨0xe0020, 16, 16, 0⟩
/-- R538: MGT_LEVERS bits 17:17, RO. -/
def MGT_LEVERS.POWER : Fld := ⟨0xe0020, 17, 17, 0⟩
/-- R538: MGT_LEVERS bits 63:32, RO. -/
def MGT_LEVERS.CHANGES : Fld := ⟨0xe0020, 63, 32, 0⟩
/-- R538: MGT_TEMP bits 31:0, RO. -/
def MGT_TEMP.TILE_C : Fld := ⟨0xe0028, 31, 0, 0⟩
/-- R538: MGT_TEMP bits 39:32, RO. -/
def MGT_TEMP.HUB_C : Fld := ⟨0xe0028, 39, 32, 0⟩
/-- R538: MGT_TEMP bits 47:40, RO. -/
def MGT_TEMP.DEEP_C : Fld := ⟨0xe0028, 47, 40, 0⟩
/-- R538: MGT_MCTP_DROPS bits 47:0, RO. -/
def MGT_MCTP_DROPS.COUNT : Fld := ⟨0xe0030, 47, 0, 0⟩
/-- R538: MGT_DOMAIN_POWER bits 15:0, RO. -/
def MGT_DOMAIN_POWER.MEAN_DW (d : Nat) : Fld := ⟨0xe0100 + 0x8 * d, 15, 0, 0⟩
/-- R538: MGT_DOMAIN_POWER bits 31:16, RO. -/
def MGT_DOMAIN_POWER.PEAK_DW (d : Nat) : Fld := ⟨0xe0100 + 0x8 * d, 31, 16, 0⟩
/-- R539: DBG_TRACE_BASE bits 0:0, RW. -/
def DBG_TRACE_BASE.ENABLE : Fld := ⟨0xf0000, 0, 0, 0⟩
/-- R539: DBG_TRACE_BASE bits 1:1, RW. -/
def DBG_TRACE_BASE.STOP_MODE : Fld := ⟨0xf0000, 1, 1, 0⟩
/-- R539: DBG_TRACE_BASE bits 47:12, RW. -/
def DBG_TRACE_BASE.ADDR : Fld := ⟨0xf0000, 47, 12, 0⟩
/-- R539: DBG_TRACE_SIZE bits 4:0, RW. -/
def DBG_TRACE_SIZE.LOG2 : Fld := ⟨0xf0008, 4, 0, 0xa⟩
/-- R539: DBG_TRACE_FILTER bits 15:0, LT. -/
def DBG_TRACE_FILTER.EVENTS : Fld := ⟨0xf0010, 15, 0, 0xffff⟩
/-- R539: DBG_TRACE_FILTER bits 23:16, LT. -/
def DBG_TRACE_FILTER.PARTITION : Fld := ⟨0xf0010, 23, 16, 0xff⟩
/-- R539: DBG_TRACE_FILTER bits 31:24, LT. -/
def DBG_TRACE_FILTER.FUNCTION : Fld := ⟨0xf0010, 31, 24, 0⟩
/-- R539: DBG_TRACE_FILTER bits 32:32, LT. -/
def DBG_TRACE_FILTER.ALL_FN : Fld := ⟨0xf0010, 32, 32, 1⟩
/-- R539: DBG_TRACE_FILTER bits 36:33, LT. -/
def DBG_TRACE_FILTER.TILE_MASK : Fld := ⟨0xf0010, 36, 33, 0xf⟩
/-- R539: DBG_TRACE_LAYER bits 15:0, LT. -/
def DBG_TRACE_LAYER.LAYER_LO : Fld := ⟨0xf0018, 15, 0, 0⟩
/-- R539: DBG_TRACE_LAYER bits 31:16, LT. -/
def DBG_TRACE_LAYER.LAYER_HI : Fld := ⟨0xf0018, 31, 16, 0xffff⟩
/-- R539: DBG_TRACE_LAYER bits 47:32, LT. -/
def DBG_TRACE_LAYER.OPERATOR : Fld := ⟨0xf0018, 47, 32, 0⟩
/-- R539: DBG_TRACE_STATUS bits 31:0, RO. -/
def DBG_TRACE_STATUS.WRITTEN : Fld := ⟨0xf0020, 31, 0, 0⟩
/-- R539: DBG_TRACE_STATUS bits 32:32, RO. -/
def DBG_TRACE_STATUS.WRAPPED : Fld := ⟨0xf0020, 32, 32, 0⟩
/-- R539: DBG_TRACE_STATUS bits 33:33, RO. -/
def DBG_TRACE_STATUS.STOPPED : Fld := ⟨0xf0020, 33, 33, 0⟩
/-- R539: DBG_TRACE_STATUS bits 63:40, RO. -/
def DBG_TRACE_STATUS.DROPPED : Fld := ⟨0xf0020, 63, 40, 0⟩
/-- R539: DBG_DUMP_CTRL bits 1:0, WO. -/
def DBG_DUMP_CTRL.OP : Fld := ⟨0xf0100, 1, 0, 0⟩
/-- R539: DBG_DUMP_CTRL bits 13:4, WO. -/
def DBG_DUMP_CTRL.SLOT : Fld := ⟨0xf0100, 13, 4, 0⟩
/-- R539: DBG_DUMP_ADDR bits 47:12, RW. -/
def DBG_DUMP_ADDR.ADDR : Fld := ⟨0xf0108, 47, 12, 0⟩
/-- R539: DBG_DUMP_STATUS bits 0:0, RO. -/
def DBG_DUMP_STATUS.BUSY : Fld := ⟨0xf0110, 0, 0, 0⟩
/-- R539: DBG_DUMP_STATUS bits 15:8, RO. -/
def DBG_DUMP_STATUS.STATUS : Fld := ⟨0xf0110, 15, 8, 0⟩
/-- R539: DBG_DUMP_STATUS bits 25:16, RO. -/
def DBG_DUMP_STATUS.HELD : Fld := ⟨0xf0110, 25, 16, 0⟩
/-- R539: DBG_DUMP_STATUS bits 41:32, RO. -/
def DBG_DUMP_STATUS.LATEST : Fld := ⟨0xf0110, 41, 32, 0x3ff⟩
/-- R539: DBG_DUMP_CFG bits 15:0, LT. -/
def DBG_DUMP_CFG.ENGINE_STALL_MS : Fld := ⟨0xf0118, 15, 0, 0x64⟩
/-- R539: DBG_DUMPS_DROPPED bits 47:0, RO. -/
def DBG_DUMPS_DROPPED.COUNT : Fld := ⟨0xf0200, 47, 0, 0⟩
/-- R539: DBG_ENGINE_STALLS bits 47:0, RO. -/
def DBG_ENGINE_STALLS.COUNT : Fld := ⟨0xf0208, 47, 0, 0⟩
/-- R539: DBG_TRACE_RECORDS bits 47:0, RO. -/
def DBG_TRACE_RECORDS.COUNT : Fld := ⟨0xf0210, 47, 0, 0⟩
/-- R29: HUB_PART_ID bits 63:48, RO. -/
def HUB_PART_ID.VENDOR_CODE : Fld := ⟨0x0, 63, 48, 0x554d⟩
/-- R29: HUB_PART_ID bits 47:32, RO. -/
def HUB_PART_ID.PART_CODE : Fld := ⟨0x0, 47, 32, 0x1728⟩
/-- R29: HUB_PART_ID bits 31:24, RO. -/
def HUB_PART_ID.STEPPING : Fld := ⟨0x0, 31, 24, 0⟩
/-- R29: HUB_PART_ID bits 23:16, RO. -/
def HUB_PART_ID.POWER_GRADE : Fld := ⟨0x0, 23, 16, 0x4b⟩
/-- R30: HUB_DOMAIN_STATUS bits 3:0, RO. -/
def HUB_DOMAIN_STATUS.TILE_ONLINE : Fld := ⟨0x8, 3, 0, 0⟩
/-- R30: HUB_DOMAIN_STATUS bits 7:4, RO. -/
def HUB_DOMAIN_STATUS.TILE_DRAINING : Fld := ⟨0x8, 7, 4, 0⟩
/-- R30: HUB_DOMAIN_STATUS bits 11:8, RO. -/
def HUB_DOMAIN_STATUS.TILE_PRESENT : Fld := ⟨0x8, 11, 8, 0xf⟩
/-- R30: HUB_DOMAIN_STATUS bits 12:12, RO. -/
def HUB_DOMAIN_STATUS.HUB_OK : Fld := ⟨0x8, 12, 12, 0⟩
/-- R30: HUB_DOMAIN_STATUS bits 13:13, RO. -/
def HUB_DOMAIN_STATUS.MGT_RUNNING : Fld := ⟨0x8, 13, 13, 0⟩
/-- R30: HUB_DOMAIN_STATUS bits 14:14, RO. -/
def HUB_DOMAIN_STATUS.DEEP_DEGRADED : Fld := ⟨0x8, 14, 14, 0⟩
/-- R30: HUB_DOMAIN_STATUS bits 39:16, RO. -/
def HUB_DOMAIN_STATUS.STACK_ONLINE : Fld := ⟨0x8, 39, 16, 0⟩
/-- R31: HUB_DOMAIN_CHANGE bits 3:0, W1C. -/
def HUB_DOMAIN_CHANGE.TILE_CHANGED : Fld := ⟨0x10, 3, 0, 0⟩
/-- R31: HUB_DOMAIN_CHANGE bits 27:4, W1C. -/
def HUB_DOMAIN_CHANGE.STACK_CHANGED : Fld := ⟨0x10, 27, 4, 0⟩
/-- R31: HUB_DOMAIN_CHANGE bits 28:28, W1C. -/
def HUB_DOMAIN_CHANGE.MGT_CHANGED : Fld := ⟨0x10, 28, 28, 0⟩
/-- R31: HUB_DOMAIN_CHANGE bits 29:29, W1C. -/
def HUB_DOMAIN_CHANGE.DEEP_CHANGED : Fld := ⟨0x10, 29, 29, 0⟩
/-- R32: HUB_BAR4_DISCARD bits 47:0, RO. -/
def HUB_BAR4_DISCARD.COUNT : Fld := ⟨0x18, 47, 0, 0⟩
/-- R32: HUB_BAR4_DISCARD bits 63:48, RO. -/
def HUB_BAR4_DISCARD.LAST_REGION : Fld := ⟨0x18, 63, 48, 0⟩
/-- R58: SES_CTRL bits 0:0, RWS. -/
def SES_CTRL.EVICT_EN : Fld := ⟨0x30000, 0, 0, 0⟩
/-- R58: SES_CTRL bits 1:1, RWS. -/
def SES_CTRL.EXPIRE_EN : Fld := ⟨0x30000, 1, 1, 0⟩
/-- R58: SES_CTRL bits 2:2, RO. -/
def SES_CTRL.INIT_DONE : Fld := ⟨0x30000, 2, 2, 0⟩
/-- R58: SES_CTRL bits 15:4, RO. -/
def SES_CTRL.MODULE_ID : Fld := ⟨0x30000, 15, 4, 0xfff⟩
/-- R60: SES_CLASS_CFG bits 10:0, RWS. -/
def SES_CLASS_CFG.RESERVE_GIB (c : Nat) : Fld := ⟨0x30100 + 0x8 * c, 10, 0, 0⟩
/-- R60: SES_CLASS_CFG bits 26:16, RWS. -/
def SES_CLASS_CFG.KV_CAP (c : Nat) : Fld := ⟨0x30100 + 0x8 * c, 26, 16, 0x20⟩
/-- R60: SES_CLASS_CFG bits 29:28, RWS. -/
def SES_CLASS_CFG.DEMOTE (c : Nat) : Fld := ⟨0x30100 + 0x8 * c, 29, 28, 0⟩
/-- R60: SES_CLASS_CFG bits 30:30, RWS. -/
def SES_CLASS_CFG.HOST_PARK (c : Nat) : Fld := ⟨0x30100 + 0x8 * c, 30, 30, 0⟩
/-- R60: SES_CLASS_CFG bits 38:32, RWS. -/
def SES_CLASS_CFG.DEEP_SHARE (c : Nat) : Fld := ⟨0x30100 + 0x8 * c, 38, 32, if c = 0 then 25 else 0⟩
/-- R197: ARY_PART_STATUS bits 10:0, RO. -/
def ARY_PART_STATUS.ARRAYS (p : Nat) : Fld := ⟨0x140c00 + 0x8 * p, 10, 0, 0⟩
/-- R197: ARY_PART_STATUS bits 19:16, RO. -/
def ARY_PART_STATUS.TILES (p : Nat) : Fld := ⟨0x140c00 + 0x8 * p, 19, 16, 0⟩
/-- R197: ARY_PART_STATUS bits 20:20, RO. -/
def ARY_PART_STATUS.DEFINED (p : Nat) : Fld := ⟨0x140c00 + 0x8 * p, 20, 20, 0⟩
/-- R197: ARY_PART_STATUS bits 21:21, RO. -/
def ARY_PART_STATUS.SWAPPING (p : Nat) : Fld := ⟨0x140c00 + 0x8 * p, 21, 21, 0⟩
/-- R197: ARY_PART_STATUS bits 22:22, RO. -/
def ARY_PART_STATUS.DEGRADED (p : Nat) : Fld := ⟨0x140c00 + 0x8 * p, 22, 22, 0⟩
/-- R197: ARY_PART_STATUS bits 23:23, RO. -/
def ARY_PART_STATUS.CLASS0 (p : Nat) : Fld := ⟨0x140c00 + 0x8 * p, 23, 23, 0⟩
/-- R197: ARY_PART_STATUS bits 47:32, RO. -/
def ARY_PART_STATUS.STEP_FAILS (p : Nat) : Fld := ⟨0x140c00 + 0x8 * p, 47, 32, 0⟩
/-- R197: ARY_PART_STATUS bits 63:48, RO. -/
def ARY_PART_STATUS.SWAPS (p : Nat) : Fld := ⟨0x140c00 + 0x8 * p, 63, 48, 0⟩
/-- R245: SEL_LAST_REJECT bits 15:0, RO. -/
def SEL_LAST_REJECT.LAYER (tt : Nat) : Fld := ⟨0x1c0040 + 0x10000 * tt, 15, 0, 0⟩
/-- R245: SEL_LAST_REJECT bits 31:16, RO. -/
def SEL_LAST_REJECT.OPERATOR (tt : Nat) : Fld := ⟨0x1c0040 + 0x10000 * tt, 31, 16, 0⟩
/-- R245: SEL_LAST_REJECT bits 40:32, RO. -/
def SEL_LAST_REJECT.ARRAY (tt : Nat) : Fld := ⟨0x1c0040 + 0x10000 * tt, 40, 32, 0⟩
/-- R245: SEL_LAST_REJECT bits 43:41, RO. -/
def SEL_LAST_REJECT.CHECK (tt : Nat) : Fld := ⟨0x1c0040 + 0x10000 * tt, 43, 41, 0⟩
/-- R245: SEL_LAST_REJECT bits 63:63, W1C. -/
def SEL_LAST_REJECT.VALID (tt : Nat) : Fld := ⟨0x1c0040 + 0x10000 * tt, 63, 63, 0⟩
/-- R463: ALM_REGION bits 31:0, RO. -/
def ALM_REGION.COMMITTED_GEN (r : Nat) : Fld := ⟨0xb1000 + 0x8 * r, 31, 0, 0⟩
/-- R463: ALM_REGION bits 32:32, RO. -/
def ALM_REGION.CHANGED (r : Nat) : Fld := ⟨0xb1000 + 0x8 * r, 32, 32, 0⟩
/-- R463: ALM_REGION bits 33:33, RO. -/
def ALM_REGION.INDEPENDENT (r : Nat) : Fld := ⟨0xb1000 + 0x8 * r, 33, 33, 0⟩
/-- R463: ALM_REGION bits 34:34, RO. -/
def ALM_REGION.IN_USE (r : Nat) : Fld := ⟨0xb1000 + 0x8 * r, 34, 34, 0⟩
/-- R463: ALM_REGION bits 35:35, RO. -/
def ALM_REGION.COMPLETING (r : Nat) : Fld := ⟨0xb1000 + 0x8 * r, 35, 35, 0⟩
/-- R560: HUB_BOOT_STATUS bits 3:0, RO. -/
def HUB_BOOT_STATUS.STAGE : Fld := ⟨0x20, 3, 0, 0⟩
/-- R560: HUB_BOOT_STATUS bits 15:8, RO. -/
def HUB_BOOT_STATUS.STOP_CODE : Fld := ⟨0x20, 15, 8, 0⟩
/-- R560: HUB_BOOT_STATUS bits 18:16, RO. -/
def HUB_BOOT_STATUS.LAST_RESET : Fld := ⟨0x20, 18, 16, 0⟩
/-- R560: HUB_BOOT_STATUS bits 26:24, RO. -/
def HUB_BOOT_STATUS.SLOT_ID : Fld := ⟨0x20, 26, 24, 0⟩
/-- R560: HUB_BOOT_STATUS bits 47:32, RO. -/
def HUB_BOOT_STATUS.HUB_OK_MS : Fld := ⟨0x20, 47, 32, 0⟩
/-- R561: HUB_EDGE_CFG bits 1:0, RW. -/
def HUB_EDGE_CFG.OD_EDGE : Fld := ⟨0x28, 1, 0, 2⟩
/-- R561: HUB_EDGE_CFG bits 3:2, RW. -/
def HUB_EDGE_CFG.I3C_EDGE : Fld := ⟨0x28, 3, 2, 1⟩

end Sys2Proof.Machine
end

