-- ==== Sys2Proof/Machine/State.lean ====
section
/-!
DEFINITION. Sys2Proof/Machine/State.lean: everything the spec gives the module, as plain data, and the state after reset.
Registers are kept field by field in `regs`, under the numbers of Machine/Regs.lean: a field not listed holds its reset value.
-/
namespace Sys2Proof.Machine

/-- Power pins, rails and the standby domain (R542, R543, R552, R553). -/
structure Power where
  p54v : Bool := true
  pwrEn : Bool := true
  rails : Bool := true
  perst : Bool := false
  modRst : Bool := false
  tripLatch : Bool := false
  brownoutLatch : Bool := false
  hubFaultPending : Bool := false
  critical : List Nat := []
  slotId : Nat := 0
deriving DecidableEq, Repr

/-- The cadence input and the epoch machinery (R64 to R73). Times are in 1/64 ns. -/
structure Cadence where
  lastEdge : Option Nat := none
  lastReal : Option Nat := none
  lastSynthetic : Bool := false
  synthSinceReal : Bool := false
  nextSynth : Nat := 0
  intervals : List Nat := []
  edges : Nat := 0
  realEdges : Nat := 0
  written : Option (Nat × Bool) := none
  frames : List (Nat × Nat × Nat) := []
  bcast : Option (Nat × Nat) := none
deriving DecidableEq, Repr

/-- One ephemeris table (R78): its undispatched entries in ring order, the ring index of the first, and, while the head is a
waiting FENCE_WAIT, the edge count at which the wait is abandoned (0: never). -/
structure EphTable where
  entries : List EphEntry := []
  head : Nat := 0
  blocked : Option Nat := none
deriving DecidableEq, Repr

/-- An event (R270) with the record header fields that go with it. -/
structure Ev where
  code : Nat
  src : Nat
  status : Nat
  arg32 : Nat
  arg64 : Nat
  tick : Nat
  handle : Nat := 0
  turnId : Nat := 0
  hostTag : Nat := 0
deriving DecidableEq, Repr

/-- A trace record (R528). -/
structure Trc where
  tick : Nat
  layer : Nat := 0
  oper : Nat := 0
  array : Nat := 0xFFFF
  event : Nat
  part : Nat := 0xFF
  src : Nat
  fn : Nat := 0
  flags : Nat := 0
  ns : Nat := 0
  arg : Nat := 0
deriving DecidableEq, Repr

/-- A hang-dump slot (R533): its header, the SRAM bytes written with the draw of the open ones, the array's registers, code memory and DMA
queue, and the history of the tap. -/
structure Dump where
  kind : Nat
  src : Nat
  complete : Bool := false
  exported : Bool := false
  beforeReset : Bool := false
  tick : Nat
  array : Nat := 0xFFFF
  part : Nat := 0xFF
  layer : Nat := 0
  oper : Nat := 0
  elapsed : Nat := 0
  seq : Nat
  kernel : Nat := 0
  ns : Nat := 0
  sram : Store Byte := []
  draw : Nat := 0
  regs : Option Nat := none
  code : List Byte := []
  dma : List Dma := []
  hist : List Trc := []
deriving DecidableEq, Repr

/-- An output record (R268): header fields and payload before padding. -/
structure Rec where
  type : Nat
  flags : Nat
  turnId : Nat
  handle : Nat
  payload : List Byte
deriving DecidableEq, Repr

/-- A completion entry as written (R413), with the function and queue pair it went to and its ring slot. -/
structure Cpl where
  fn : Nat
  qp : Nat
  slot : Nat
  cmdId : Nat
  sqHead : Nat
  status : Nat
  phase : Bool
  forwarded : Bool
  opcode : Nat
  handle : Nat
  result0 : Nat
  result1 : Nat
deriving DecidableEq, Repr

/-- A queue pair's state beside its registers (R405 to R408). `recs` are records waiting to be written, `evs` events that
found no space (at most 256); `resv` is ring space reserved for draws (R271). -/
structure Qp where
  sqTail : Nat := 0
  cqHead : Nat := 0
  outCi : Nat := 0
  phase : Bool := true
  recs : List Rec := []
  evs : List Rec := []
  resv : Nat := 0
deriving DecidableEq, Repr

/-- A command the intake has started or fetched and that has not completed (R407, R411, R416). -/
structure Started where
  h : Hdr
  opcode : Nat
deriving DecidableEq, Repr

/-- An unsatisfied FENCE_WAIT command (R428). `limit` is the edge count at which it times out, 0 for none. -/
structure FWait where
  h : Hdr
  fence : Nat
  value : Nat
  limit : Nat
deriving DecidableEq, Repr

/-- A session command held under R20 (table entry W of R41), to be evaluated when the session's transition ends. A RESUME keeps its two times
and whether the conditions of R52 have held since its doorbell. -/
inductive HeldCmd where
  | destroy (h : Hdr)
  | appendText (h : Hdr) (length : Nat) (buf : Buf)
  | appendTokens (h : Hdr) (count : Nat) (buf : Buf)
  | generate (h : Hdr)
  | toolWait (h : Hdr) (wake ttl : Nat)
  | resume (h : Hdr) (t us : Nat) (held : Bool)
  | park (h : Hdr) (tier demote region : Nat)
  | migrate (h : Hdr) (target demote region : Nat)
  | migratePeer (h : Hdr) (dest : Nat) (ok : Nat) (reserved : Option Nat)
  | cancel (h : Hdr)
  | setSampling (h : Hdr) (p : Sampling) (withSeed withMax : Bool)
  | setGrammar (h : Hdr) (gid : Nat)
  | setStops (h : Hdr) (buf : Buf) (stopLen incl : Nat)
  | startTransit (i kind flags demote region deadline table idx : Nat) (e : EphEntry)
deriving DecidableEq, Repr

/-- A class-0 RESUME of a resident session that waits for channels to return (R56): slot, command, measured time, and whether the bound of R52
still holds for it. -/
structure C0Wait where
  idx : Nat
  h : Hdr
  us : Nat
  bound : Bool
deriving DecidableEq, Repr

/-- A transit, waiting or active (R128 to R132). `origin`: 0 command that returns the session READY, 1 command or ephemeris
that returns it to PREV_STATE, 2 eviction. `dest`: the chunks of the destination once they are allocated; `placed` says that a
revival has its pool space; `eph` is the ephemeris entry that started it, with its table and ring index. -/
structure Transit where
  idx : Nat
  kind : Nat
  cls : Nat
  origin : Nat
  demote : Nat := 0
  region : Nat := 0xFFFF
  fill : Bool := false
  deadline : Nat := 0
  requester : Option (Hdr × Nat) := none
  slot : Option Nat := none
  chunk : Nat := 0
  total : Nat := 0
  dest : List Nat := []
  destTier : Nat := 0
  nonce : Nat := 0
  stop : Bool := false
  lost : Bool := false
  c0Bound : Bool := false
  placed : Bool := true
  eph : Option (Nat × Nat × EphEntry) := none
deriving DecidableEq, Repr

/-- An outgoing peer migration (R152 to R157), of a session or of an embedding block (table, part, block), whose `idx` is no slot and
whose updates go to `ulog` with their apply tick (R308). `unsent` are the chunks of the pass under way, `send` their 64 KiB ranges from pass 2
on, `dirty` the ranges written since it began; `base` and `bytes` are a block's rows. `phase`: 1 pre-copy, 2 pre-copy ended, 3 armed, 4 switch requested. -/
structure Migration where
  entry : Nat
  tag : Nat
  idx : Nat
  dest : Nat
  newHandle : Nat
  cls : Nat
  block : Option (Nat × Nat × Nat) := none
  ulog : List (Nat × EmbItem) := []
  phase : Nat := 1
  passes : Nat := 1
  dirty : List Nat := []
  unsent : Nat := 0
  send : List Nat := []
  base : Nat := 0
  bytes : Nat := 0
  log : List Desc := []
  notify : Option (Nat × Nat × Nat) := none
  limit : Nat := 0
deriving DecidableEq, Repr

/-- A tombstone's forwarding data (R156): slot, new handle, edge count at which the window ends; or the block that moved, with its
new home in place of the handle (R308). -/
structure Tomb where
  idx : Nat
  newHandle : Nat
  limit : Nat
  block : Option (Nat × Nat × Nat) := none
deriving DecidableEq, Repr

/-- A fabric message the module has sent (R371): type, destination module, the numbers it carries, and its data. -/
structure Msg where
  type : Nat
  dst : Nat
  args : List Nat
  data : List Byte := []
deriving DecidableEq, Repr

/-- A bound model (R198, R423, R424): the fields of its attention record and manifest, and what MODEL_BIND fixed. `layers`
holds WINDOW, HOME_TILE and DENSE of each layer; `blocks` the tile, stack pair and digest of each weight block, `alts` the placements
of three-tile layouts (R477) and `manifest` the manifest's digest; `written` the blocks written so far, `copy` their deep-tier
copies and `copyList` the chunks reserved for them; `direct` the partitions on the direct append path (R212). -/
structure Model where
  tokSet : Nat := 0
  vocab : Nat := 0
  kvHeads : Nat := 0
  qPerKv : Nat := 0
  decodeClass : Nat := 0
  prefillClass : Nat := 0
  headDim : Nat := 0
  scale : Nat := 0
  sparseThresh : Nat := 0
  selPages : Nat := 0
  spanSel : Nat := 0
  layers : List (Nat × Nat × Bool) := []
  blocks : List (Nat × Nat × Nat) := []
  written : List Nat := []
  modelId : Nat := 0
  shard : Nat := 0
  recordAddr : Nat := 0
  copyChunks : Nat := 0
  alts : List (Nat × Nat × Nat × Nat) := []
  manifest : Nat := 0
  copyList : List Nat := []
  copy : Store (List Byte) := []
  direct : List Nat := []
  weightAllocs : List Alloc := []
deriving DecidableEq, Repr

/-- A launch that waits or whose step runs (R83): table, ring index, entry, the edge count at its dispatch, and whether it had to
wait there. -/
structure Launch where
  table : Nat
  idx : Nat
  e : EphEntry
  edge : Nat
  busy : Bool := false
deriving DecidableEq, Repr

/-- A kernel that does not come from a step (R335). Class 8 stands for none. `ref` numbers the query, or the segment, it serves. -/
structure Kern where
  cls : Nat
  fn : Nat
  queued : Nat
  op : Nat
  layer : Nat := 0
  ref : Nat := 0
  skips : Nat := 0
deriving DecidableEq, Repr

/-- A session of a running step (R333): STATUS 0 RUN, 1 SKIPPED, 2 OVER; 3 for a step of an aborted function. `late` says that its mask had not come when its SAMPLE
kernel ran (R252), `noPage` that a page could not be allocated, `reserved` that its ring space is reserved (R271). `outcome` is
what the decoding unit decided: 0 nothing drawn, 1 a token, 2 a token suppressed, 3 turn ended without a draw; `token` and
`reason` (0xFF none) go with it. -/
structure SesRun where
  idx : Nat
  handle : Nat
  start : Nat
  count : Nat
  stageOff : Nat
  status : Nat
  params : Desc
  stops : List (List Byte)
  held : Bool := false
  poisoned : Bool := false
  late : Bool := false
  noPage : Bool := false
  reserved : Bool := false
  outcome : Option Nat := none
  token : Nat := 0
  reason : Nat := 0xFF
  noFinite : Bool := false
deriving DecidableEq, Repr

/-- A running step (R332 to R336). `ranks` is the map it began with (R456), `delayed` says that its first kernel waits for channels
to return (R210). `next` counts the kernels of the list already started; `interNs` the time taken by kernels
admitted at the step's own class. -/
structure Step where
  launch : Launch
  plan : Nat
  cls : Nat
  eff : Nat
  stage : Nat
  hdrs : List Nat
  next : Nat := 0
  runs : List SesRun
  interNs : Nat := 0
  waited : Bool := false
  ranks : List Nat := []
  delayed : Bool := false
deriving DecidableEq, Repr

/-- A kernel header as read (R178). -/
structure KHdr where
  magic : Nat := 0
  layer : Nat := 0
  op : Nat := 0
  boundNs : Nat := 0
  ranks : Nat := 0
  format : Nat := 0
  flags : Nat := 0
  codeAddr : Nat := 0
  codeBytes : Nat := 0
  wbufKib : Nat := 0
  args : Nat := 0
  argsBytes : Nat := 0
  workKib : Nat := 0
  digest : List Byte := []
deriving DecidableEq, Repr

/-- The kernel a partition runs. `hdr` is its header's address for a kernel of the step, `ranks` the arrays it runs on, 0xFFFF for one
that a hang has halted; `hung` says that there is such a one (R185). -/
structure Running where
  ofStep : Bool
  hdr : Nat := 0
  kern : Kern
  ranks : List Nat := []
  hung : Bool := false
  overrun : Bool := false
  reset : Bool := false
  remote : Bool := false
  lostRows : Bool := false
  ran : Bool := false
deriving DecidableEq, Repr

/-- A spare replacement in progress (R191): rank, failed array, spare under test, and how far it is: 1 spare in test, 2 test
passed, 3 rank changed. -/
structure Swap where
  rank : Nat
  failed : Nat
  spare : Nat
  phase : Nat := 1
deriving DecidableEq, Repr

/-- A committed partition (R176, R177): its record, the live rank map (tile × 512 + physical index), and what it runs. `incoming` are
the arrays it waits for, with the partition each leaves (R456); `reconf` says that a structural reconfiguration is in progress
(R457), `reload` that its resident regions are to be reloaded (R455); `head` is the header of its last step kernel, which divides the
SRAM of its arrays into regions (R163). -/
structure Part where
  model : Nat := 0xFF
  ranks : List Nat := []
  floorMhz : Nat := 0
  stepBound : Nat := 0
  prefillAllow : Nat := 0
  residentKib : Nat := 0
  step : Option Step := none
  waiting : List Launch := []
  queue : List Kern := []
  running : Option Running := none
  swaps : List Swap := []
  incoming : List (Nat × Nat) := []
  reconf : Bool := false
  reload : Bool := false
  head : KHdr := {}
deriving DecidableEq, Repr

/-- An embedding table of the committed generation (R296). -/
structure EmbTable where
  layout : Nat
  format : Nat
  flags : Nat
  dim : Nat
  blockLog2 : Nat
  home : Nat
  seed : Nat
  rowsA : Nat
  rowsB : Nat
  mapA : Nat
  mapB : Nat
deriving DecidableEq, Repr

/-- A row of an embedding table: table, part, row. -/
structure EmbRow where
  table : Nat
  part : Nat
  row : Nat
deriving DecidableEq, Repr

/-- A replica of a row on a tile (R303), valid or still being copied. -/
structure Replica where
  tile : Nat
  row : EmbRow
  valid : Bool
  chan : Nat
  addr : Nat
  bytes : Nat
deriving DecidableEq, Repr

/-- Updates that wait for an apply pass at their home (R305): apply tick, source module, order of arrival, table, descriptors. A batch of
this module's own carries its command, a remote one its message identifier; `late` says that it came after its pass. -/
structure EmbBatch where
  tick : Nat
  src : Nat
  seq : Nat
  table : Nat
  items : List EmbItem
  own : Option Hdr := none
  msg : Nat := 0
  late : Bool := false
deriving DecidableEq, Repr

/-- An EMB_UPDATE not yet completed (R307): whether its local part waits, and for each remote home that has not answered its
descriptors. `lost` are descriptors not applied. -/
structure EmbJob where
  h : Hdr
  tick : Nat
  localWaits : Bool
  remote : List (Nat × List Nat)
  lost : List Nat := []
  msg : Nat
  limit : Nat
deriving DecidableEq, Repr

/-- An EMB_LOOKUP that waits for remote rows (R301): where its result goes, its bags as weight and rows, the rows read so far as FP32
elements, and the rows asked of each module. -/
structure EmbLook where
  h : Hdr
  table : Nat
  fmt : Nat
  out : Nat
  bags : List (List (Nat × List (Nat × Nat)))
  got : List ((Nat × Nat) × List Nat)
  need : List (Nat × List (Nat × Nat))
  msg : Nat
  limit : Nat
deriving DecidableEq, Repr

/-- A hotness entry (R302). -/
structure HotEnt where
  row : EmbRow
  count : Nat
deriving DecidableEq, Repr

/-- A scan parameter block (R116). -/
structure ScanPar where
  mask : Nat
  mat : Nat
  lo0 : Nat
  hi0 : Nat
  lo1 : Nat
  hi1 : Nat
  m : Nat
  thresh : Nat
  lut : List Byte
  rest : Bool
deriving DecidableEq, Repr

/-- An abort that waits for kernels to drain (R432): the function, the commands it completes, the entries discarded, and whether it is part
of a function-level reset. -/
structure Abort where
  fn : Nat
  reqs : List Hdr
  discarded : Nat
  reset : Bool
deriving DecidableEq, Repr

/-- A vector index of the committed generation (R311). `next` and `freed` are its free list: slots never used, and slots freed since,
oldest first (R318). -/
structure VecIndex where
  metric : Nat
  dim : Nat
  m : Nat
  degree : Nat
  home : Nat
  stride : Nat
  stackSet : Nat
  part : Nat
  graphCh : Nat
  flatCh : Nat
  idmapLog2 : Nat
  maxSlots : Nat
  codebook : Nat
  slotTab : Nat
  segTab : Nat
  idmap : Nat
  next : Nat := 0
  freed : List Nat := []
  repairs : List (Nat × Nat) := []
deriving DecidableEq, Repr

/-- A search of a graph segment (R320): lists of (d8, slot), the frontier's with a mark on expanded records. -/
structure VecTrav where
  seg : Nat
  begun : Bool := false
  frontier : List (Nat × Nat × Bool) := []
  results : List (Nat × Nat) := []
  visited : List Nat := []
  overflow : Bool := false
  done : Bool := false
deriving DecidableEq, Repr

/-- A flat scan of a query (R322): waiting for its channel, issued, or done with its (slot, d8) pairs. -/
structure VecScan where
  seg : Nat
  state : Nat := 0
  thresh : Nat
  again : Nat := 0
  hits : List (Nat × Nat) := []
deriving DecidableEq, Repr

/-- A query in progress (R323 to R325). `par` is its filter and table, `q` and `lo` the scale and the sum of the lo_m as FP32. -/
structure VecQuery where
  id : Nat
  h : Hdr
  index : Nat
  q0 : Nat
  k : Nat
  ef : Nat
  par : ScanPar
  q : Nat
  lo : Nat
  result : Nat
  travs : List VecTrav := []
  scans : List VecScan := []
  scanned : Nat := 0
  stale : Nat := 0
  truncated : Bool := false
  poisoned : Bool := false
deriving DecidableEq, Repr

/-- An accepted VEC_UPSERT or VEC_DELETE not yet in effect (R318): the items' slots with the slot
each replaces, or the slots to delete and how many identifiers were not found. -/
structure VecJob where
  h : Hdr
  index : Nat
  edge : Nat
  del : Bool
  slots : List (Nat × Option Nat) := []
  missing : Nat := 0
deriving DecidableEq, Repr

/-- A compaction (R326): the run, the new segment, the slots to copy, those built, the edge count after the last one, and the publish
tick once it is published. -/
structure VecCompact where
  index : Nat
  run : List Nat
  seg : Nat
  todo : List Nat
  built : List Nat := []
  edge : Nat := 0
  publish : Option Nat := none
deriving DecidableEq, Repr

/-- A bank operation queued on a channel (R114): its descriptor, the stack and channel it belongs to, who issued it (0 the PF, 1 the
vector-search unit for query `ref`, 2 the dark-frame test, 3 a paging unit for slot `ref` / 4,096 and span `ref` % 4,096), what it has done so far, and the flags of R117. `acq` says that a
COPY has begun to acquire its channels. -/
structure BankOp where
  op : Nat
  tag : Nat
  src : Nat
  dst : Nat
  len : Nat
  stride : Nat
  a : Nat
  b : Nat
  issuer : Nat := 0
  ref : Nat := 0
  acq : Bool := false
  ran : Bool := false
  matched : Nat := 0
  written : Nat := 0
  scanned : Nat := 0
  pos : Nat := 0
  throttled : Bool := false
  suspended : Bool := false
  par : Option ScanPar := none
  hits : List (Nat × Nat) := []
deriving DecidableEq, Repr

/-- Span summaries that the paging unit has formed anew by bank operations (R209): session, span, the layers and heads still to issue, and how many
operations are in progress. -/
structure SpanJob where
  idx : Nat
  span : Nat
  todo : List (Nat × Nat)
  left : Nat := 0
deriving DecidableEq, Repr

/-- A checkpoint in progress (R478 to R483): its descriptor, the barrier tick, whether a barrier entry started it, and its phase: 1
stopping, 2 capture, 3 pack, 4 mirror, 5 restore. `data` is what the capture read, `chunks` the image's chunks, and `heldW` the
writes held until the capture ends (R481). -/
structure Ckpt where
  op : Nat
  cls : Nat
  mirrorOn : Bool
  remote : Bool
  jobKey : Nat
  id : Nat
  mirror : Nat
  source : Nat
  capFence : Nat
  durFence : Nat
  ranges : List (Nat × Nat)
  parts : List Nat
  tick : Nat
  barrier : Bool
  phase : Nat := 1
  requester : Option Hdr := none
  eph : Option (Nat × Nat × EphEntry) := none
  data : List (List Byte) := []
  chunks : List Nat := []
  staging : List Alloc := []
  heldW : List (Nat × List Byte) := []
deriving DecidableEq, Repr

/-- A checkpoint image held here (R482): the saving module, its identifier, the barrier tick, the region table and the data, whether
it is durable, the chunks it occupies, the blocks marked lost (R474), and its NONCE with the job key it is encrypted under. -/
structure CkptImage where
  module : Nat
  id : Nat
  tick : Nat
  jobKey : Nat
  ranges : List (Nat × Nat)
  data : List (List Byte)
  chunks : List Nat
  durable : Bool
  lost : List Nat := []
  nonce : Nat := 0
  key : Nat := 0
deriving DecidableEq, Repr

/-- A frame a link has to send (R363), and the number of its message on the link. -/
structure LinkFrame where
  vc : Nat
  colour : Nat
  first : Bool
  last : Bool
  data : List Byte
  msg : Nat
deriving DecidableEq, Repr

/-- A message on a link that is not yet delivered on the hop (R373): its frames still to send. -/
structure LinkMsg where
  num : Nat
  unit : TmUnit
  left : List LinkFrame
deriving DecidableEq, Repr

/-- A message being received on a virtual channel. `drop`: its policer dropped it, or it is not for this module to hear. -/
structure MsgPart where
  data : List Byte
  colour : Nat
  drop : Bool
deriving DecidableEq, Repr

/-- A fabric link (R362 to R373). `txSeq` and `rxSeq` are the next numbers to send and to accept; `unacked` the retry buffer, oldest
first, and `resend` how far a go-back has come in it; `naks` those received for the oldest number; `credits` by virtual channel; `owed`
credits to return; `slots` counts frame slots of the present 256, with those VC7 and VC6 took. `drain`: 1 to retrain, 2 to retire;
`retrain` says that TRAINING is by a RETRAIN; `fails` the times of failed trainings in ms; `keys` the link keys of the handshake. -/
structure Link where
  txSeq : Nat
  rxSeq : Nat
  unacked : List LinkFrame := []
  resend : Option Nat := none
  naks : Nat := 0
  credits : List Nat := [0, 0, 0, 0, 0, 0, 0, 0]
  owed : List Nat := [0, 0, 0, 0, 0, 0, 0, 0]
  ackDue : Nat := 0
  nakDue : Bool := false
  gap : Bool := false
  msgs : List LinkMsg := []
  next : Nat := 0
  partials : Store MsgPart := []
  slots : Nat := 0
  slots7 : Nat := 0
  slots6 : Nat := 0
  turn : Nat := 0
  drain : Nat := 0
  retrain : Bool := false
  retry : Bool := false
  fails : List Nat := []
  keys : Option Nat := none
deriving DecidableEq, Repr

/-- An ordered flow as received (R372): source and flow, the next sequence number, and early messages. -/
structure Flow where
  src : Nat
  flow : Nat
  next : Nat
  held : List (Nat × Nat × List Byte) := []
deriving DecidableEq, Repr

/-- A proposed view (R377): its members and number, the proposer, who has accepted, and the edge count of the proposal. -/
structure Proposal where
  members : List Nat
  number : Nat
  proposer : Nat
  accepts : List Nat
  edge : Nat
deriving DecidableEq, Repr

/-- A directory shard this module is a replica of (R382): its term, log length, the edge of the last renewal seen, the edge from which
the leader's lease runs, the renewal sent with its acknowledgements, the highest term voted in, the candidacy, whether
the replicas ahead have yielded, and the leader last heard. -/
structure Shard where
  term : Nat := 0
  len : Nat := 0
  renewed : Nat := 0
  lease : Nat := 0
  sent : Option (Nat × List Nat) := none
  voted : Nat := 0
  cand : Option (Nat × List Nat) := none
  yielded : Bool := false
  leader : Nat := 0xFFF
deriving DecidableEq, Repr

/-- A commit the leader has appended and a majority has not stored yet (R384). -/
structure DirPend where
  shard : Nat
  index : Nat
  src : Nat
  msg : Nat
  op : DirOp
  es : List DirEntry
  acks : List Nat
deriving DecidableEq, Repr

/-- What an outstanding directory request is for: a command's retry hint, an adoption (slot, module removed), a local copy to
reconcile (R379), an abandonment, or a removal. -/
inductive DirFor where
  | hint (h : Hdr) (op : Nat)
  | adopt (slot removed : Nat)
  | reconcile (idx : Nat)
  | abandon (tag : Nat)
  | other
deriving DecidableEq, Repr

/-- A directory request of this module that has no answer yet (R383). -/
structure DirWait where
  id : Nat
  key : Nat
  use : DirFor
  limit : Nat
deriving DecidableEq, Repr

/-- A mirror held for another module (R387): its source, the handle at its park, the nonce, the session as its image holds it, the
session key, the deep-tier chunks it takes, how many of the chunks sent have come, and the edge count of the last news. -/
structure Mirror where
  src : Nat
  handle : Nat
  nonce : Nat
  d : Desc
  x : Sess
  key : Nat
  chunks : List Nat
  got : Nat := 0
  total : Nat
  news : Nat
deriving DecidableEq, Repr

/-- An incoming migration (R152 to R154): source and tag, the slot reserved and its new handle, what it needs, the session, its chunks and
its log. `ready`: the log is applied, and the directory's answer is awaited. -/
structure Incoming where
  src : Nat
  tag : Nat
  idx : Nat
  handle : Nat
  parked : Bool := false
  bytes : Nat := 0
  chunks : List Nat := []
  d : Desc
  x : Option Sess := none
  data : Store (List Byte) := []
  log : List Desc := []
  block : Option (Nat × Nat × Nat) := none
  blockAddr : Nat := 0
  ulog : List (Nat × EmbItem) := []
  ready : Bool := false
deriving DecidableEq, Repr

/-- The keys of a job with a peer (R505 to R509): sending and receiving key with their parity, the next MSG_ID to send, the identifiers
accepted lately with the highest, and the previous receiving key, the edge count up to which it serves, and its identifiers. -/
structure Pair where
  job : Nat
  peer : Nat
  tx : Nat
  rx : Nat
  txPar : Bool := false
  rxPar : Bool := false
  msgId : Nat := 1
  top : Nat := 0
  seen : List Nat := []
  old : Option (Nat × Nat × Nat × List Nat) := none
deriving DecidableEq, Repr

/-- Traffic, the fabric, membership and the directory. -/
structure Net where
  /-- Traffic (R339 to R351): units queued by port, share credit by 8 × port + class (a DEEP channel counting as port 32 + channel),
  round-robin deficits and the node served last, tokens of enabled shapers by register offset, buckets of enabled policers (Tc, and Te
  or Tp), and what the last read with an effect returned. -/
  tmQ : Store (List TmUnit) := []
  tmShare : Store Int := []
  tmDeficit : Store Nat := []
  tmLast : Store Nat := []
  tokens : Store Int := []
  pol : Store (Nat × Nat) := []
  readOut : Nat := 0
  /-- Links by port, frames sent newest first with their port, messages received newest first with their port, and flows. -/
  links : Store Link := []
  wire : List (Nat × List Byte) := []
  inbox : List (Nat × List Byte) := []
  flows : List Flow := []
  /-- Membership (R376 to R379): members in rising order, VIEW_ID, the edge count of each module's last heartbeat, modules that asked to
  leave and to join, the proposal, the last proposal heard of (edge, proposer), epoch frames seen, the edge at which the module
  became ISOLATED, and whether a view without this module was applied while it was isolated. -/
  members : List Nat := []
  viewId : Nat := 0
  heard : Store Nat := []
  leavers : List Nat := []
  joiners : List Nat := []
  proposal : Option Proposal := none
  lastProp : Option (Nat × Nat) := none
  epochSeen : List (Nat × Nat) := []
  isoEdge : Nat := 0
  wasRemoved : Bool := false
  /-- The directory (R380 to R386): shards, entries, commits in progress, requests without answer and their next number, tags whose
  SWITCH is refused, tags committed, and migrations whose abandonment no leader has settled. -/
  shards : Store Shard := []
  dirEnts : List DirEntry := []
  dirPend : List DirPend := []
  dirWait : List DirWait := []
  dirSeq : Nat := 0
  deadTags : List Nat := []
  doneTags : List Nat := []
  unresolved : List Migration := []
  /-- Mirrors held (R387), one still arriving beside the one it replaces; incoming migrations. -/
  mirrors : List Mirror := []
  incoming : List Incoming := []
  /-- Drops noticed of a chunk or batch, by message identifier, with the edge of the last (R374). -/
  dropTries : Store (Nat × Nat) := []
  /-- COLLECTIVE data received and not consumed, oldest first: source and bytes. -/
  collIn : List (Nat × List Byte) := []
  /-- Job keys by job × 4,096 + peer. -/
  pairs : Store Pair := []
deriving DecidableEq, Repr

/-- A key agreement offered and not completed (R506): job, peer, JOB_ID, the edge count of the offer, and a number that stands for its
secrets. -/
structure Offer where
  job : Nat
  peer : Nat
  jobId : Nat
  edge : Nat
  secret : Nat
deriving DecidableEq, Repr

/-- A model key held for a slot (R515). -/
structure ModelKey where
  modelId : Nat
  digest : Nat
  key : Nat
deriving DecidableEq, Repr

/-- A management-firmware slot of the flash (R460): state, SVN, and a number that stands for the image's digest. -/
structure FwSlot where
  st : Nat := 0
  svn : Nat := 0
  digest : Nat := 0
deriving DecidableEq, Repr

/-- The Almanac, security and management beside their registers. -/
structure Adm where
  /-- Staged sections by region (empty: COUNT 0), the image that LOAD took, committed sections by region (R439: none, or what generation
  0 gives), PAGE_CLASS_EN and its shadow (R444), and the BUILD_ID of the last image applied. -/
  stage : Store (List Byte) := []
  image : List Byte := []
  held : Store (List Byte) := []
  pageEn : Nat := 0x7F
  pageEnSh : Nat := 0x7F
  buildId : Nat := 0
  /-- Flash: the Almanac boot slots (R459), the firmware slots and the running one (R460). -/
  bootA : List Byte := []
  bootB : List Byte := []
  fwA : FwSlot := { st := 2 }
  fwB : FwSlot := {}
  fwRun : Nat := 0
  /-- An activation that runs, and the state of a PLDM update (R461, R522): 0 none, 1 components, 2 ready, 3 transfer, 4 verified and written. -/
  fwActivating : Bool := false
  pldmPhase : Nat := 0
  /-- The governor (R352, R353): 100 MHz steps by tile, consecutive ticks over the cap with lever 3 full and below 95 % of it, and whether
  POWER is set by the former. -/
  l2 : List Nat := [0, 0, 0, 0]
  govOver : Nat := 0
  govUnder : Nat := 0
  govForced : Bool := false
  offers : List Offer := []
  modelKeys : Store ModelKey := []
  /-- Flash: the owner record's two slots (R498), as the number of keys and the SVN. -/
  ownA : Option (Nat × Nat) := none
  ownB : Option (Nat × Nat) := none
  /-- Management (R520 to R525): the PLDM terminus identifier, the event receiver as binding and endpoint, the sensor values of the last
  refresh, thresholds (six, warning, critical and fatal, high then low) and which are crossed, and the messages sent, newest
  first: binding, type, numbers. -/
  tid : Nat := 0
  evRecv : Option (Nat × Nat) := none
  sens : Store Nat := []
  thresh : Store (List (Option Int)) := []
  crossed : Store (List Bool) := []
  mgtOut : List (Nat × Nat × List Nat) := []
  /-- SPDM secured sessions, by number with their transport and whether the handshake has finished (R513), and the keys of IDE streams (R512). -/
  spdm : List (Nat × Nat × Bool) := []
  ide : Store Nat := []
deriving DecidableEq, Repr

/-- Why the module stops. -/
inductive Fault where
  /-- No command raises it in this model: every failure the spec describes has an effect. Safe. -/
  | none
deriving DecidableEq, Repr

/-- Why a command has no meaning. -/
inductive Refusal where
  /-- Raised by the dispatch for a command whose meaning is not written yet. Safe. -/
  | notModelled (mnemonic : String)
deriving DecidableEq, Repr

/-- The whole state of the module, and the queue of commands that wait. -/
structure State where
  /-- Commands waiting, first in, first out. -/
  pending : List Instr := []
  /-- The model's own: draws of free values so far. -/
  fresh : Nat := 0
  /-- Start-ups so far, which index the random generations of R51. -/
  boots : Nat := 0
  pow : Power := {}
  /-- Register fields that differ from reset, by `fkey`. -/
  regs : Store Nat := []
  /-- LT fields written and not yet in effect (R5, R75). -/
  ltPend : Store Nat := []
  /-- Shadow values of RWS fields that differ from the committed ones (R5, R440). -/
  shadow : Store Nat := []
  /-- Writes to an offline tile's instance, in effect when the tile returns (R567). -/
  heldWr : Store Nat := []
  /-- Values an offline tile's instance still shows for shared registers (R567). -/
  oldView : Store Nat := []
  cad : Cadence := {}
  eph : Store EphTable := []
  fenWaits : List FWait := []
  /-- Descriptors that differ from their start-up value, by index. -/
  desc : Store Desc := []
  sess : Store Sess := []
  /-- Free list (R34): the slots from this index on have never been used. -/
  freeNext : Nat := 0
  /-- Free list: slots freed since, oldest first. -/
  freed : List Nat := []
  /-- Bytes of the pool in use (R46). -/
  poolBytes : Nat := 0
  /-- Bytes of the pool in use by class. -/
  clsBytes : Store Nat := []
  /-- Bytes allocated by channel (R571), channel 32 × stack + channel. -/
  chUsed : Store Nat := []
  /-- Runs that these allocations take, address and bytes, by rising address; pages take the 2 MiB extents that hold them (R203). -/
  runs : List (Nat × Nat) := []
  /-- Page extents by address: the byte size of their pages, and the places taken (R203). -/
  exts : Store (Nat × List Nat) := []
  /-- Writes that wait for channels in PROCESSOR mode, oldest first (R110). -/
  chanWait : List (Nat × List Byte) := []
  /-- Class-0 resumes and deep-tier bytes admitted lately (R55): time in µs and bytes. -/
  c0Window : List (Nat × Nat) := []
  heldCmds : List (Nat × HeldCmd) := []
  /-- Class-0 resumes of resident sessions that wait for channels to return (R56). -/
  c0Wait : List C0Wait := []
  dueLate : List Nat := []
  queues : Store Qp := []
  started : List Started := []
  /-- The queue pair of each class that the intake has fetched from last (R411). -/
  fetchLast : Store Nat := []
  /-- Completion entries written, newest first. -/
  cpl : List Cpl := []
  /-- Output records written, newest first, with function and queue pair. -/
  recOut : List (Nat × Nat × Rec) := []
  /-- Events held for the PF's queue, oldest first (R409). -/
  evHeld : List Ev := []
  /-- Events written into the PF's event queue, newest first. -/
  evOut : List Ev := []
  evqPi : Nat := 0
  evqCi : Nat := 0
  /-- Entries not yet covered by an interrupt, by function × 128 + vector (R410). -/
  coal : Store Nat := []
  /-- BAR4 size the host has set, in GiB, 1 to 64 (R400). -/
  bar4Gib : Nat := 1
  /-- NumVFs of the SR-IOV capability (R403). -/
  numVfs : Nat := 0
  /-- MSI-X tables (R401), 8 bytes at a time: function × 4,096 + place. -/
  msixTab : Store Nat := []
  /-- MSI-X vectors fired, newest first: function and vector. -/
  msix : List (Nat × Nat) := []
  /-- Bonded-tier bytes that differ from zero (R123), by address. -/
  mem : List Host.Cell := []
  /-- Deep-tier bytes that differ from zero, by logical address. -/
  deepMem : List Host.Cell := []
  transits : List Transit := []
  migs : List Migration := []
  migSeq : Nat := 0
  tombs : List Tomb := []
  /-- Old and new handles of switched sessions, newest first (R156). -/
  hints : List (Nat × Nat) := []
  /-- Sizes of the model-copy and checkpoint areas of the committed tier map (R101, R443). -/
  modelCopyGib : Nat := 0
  ckptGib : Nat := 0
  /-- Deep-tier logical chunks allocated: chunk, channel × 2^19 + slot (R100). -/
  chunkMap : Store Nat := []
  /-- Chunks being copied (R104). -/
  moving : List Nat := []
  /-- 64 KiB units taken in host regions: region × 2^24 + unit. -/
  hostUnits : Store Nat := []
  /-- Bound models by slot. -/
  models : Store Model := []
  /-- Extents of the session key table in use (R502), with their addresses. -/
  keyExts : Store Nat := []
  /-- Page fetches queued and in flight, by tile × 8 + class: session and page position in its list (R223). -/
  fetchQ : List (Nat × Nat × Nat) := []
  /-- Page fetches in flight, in the same form. -/
  fetchFly : List (Nat × Nat × Nat) := []
  /-- The root caches of the paging units by tile, most recently used first (R207), and the span summaries being formed (R209). -/
  rootCache : Store (List Nat) := []
  spanJobs : List SpanJob := []
  /-- Channels asked to return to MEMORY mode (R112). -/
  returnReq : List Nat := []
  /-- Raw channels that committed vector indexes name (GRAPH_CH and FLAT_CH, R571). -/
  vecChans : List Nat := []
  /-- Committed partitions by number (R175). -/
  parts : Store Part := []
  /-- Eviction is under way (R47). -/
  evicting : Bool := false
  /-- Tokenizer sets of the committed generation, as their bytes (R276). -/
  tokSets : Store (List Byte) := []
  /-- Compiled grammars by slot, as their bytes (R287). -/
  grams : Store (List Byte) := []
  /-- Sessions whose grammar mask is to be formed, oldest first (R293). -/
  maskQ : List Nat := []
  /-- Bank operations by channel, oldest first (R118). -/
  bankQ : Store (List BankOp) := []
  /-- NaN inputs that the last SUMMARY_RECOMPUTE of the PF returned with its status (R117), by stack. -/
  bnkNan : Store Nat := []
  /-- Edge count of a deep-tier channel's last training, where later than start-up (R103). -/
  deepTrained : Store Nat := []
  /-- Trainings the channel under retraining has failed, the channel whose retraining was abandoned last, the chunks evacuated from it, and retired channels still to evacuate. -/
  deepFails : Nat := 0
  deepSkip : Option Nat := none
  evacuated : List Nat := []
  deepLeaving : List Nat := []
  /-- Edge counts of recent uncorrectable codewords by stack channel, and of reads by deep-tier channel (R472). -/
  ueLog : Store (List Nat) := []
  deepUeLog : Store (List Nat) := []
  /-- Uncorrectable codewords of the bonded tier not rewritten since (R97), by codeword number; tokenizer sets and grammar slots whose
  store has one (R467). -/
  poison : List Nat := []
  badToks : List Nat := []
  badGrams : List Nat := []
  /-- Places in the spare region that hold the remap of a channel: by channel (R118). -/
  remaps : Store Nat := []
  /-- Channel rebuilds and returns in progress: channel, whether it is a return, whether by command (R473). -/
  rebuilds : List (Nat × Bool × Bool) := []
  /-- Consecutive pattern-test failures by test channel, the next pattern, and the edge count of the last round (R472, R488). -/
  testFails : Store Nat := []
  testPat : Nat := 0
  testLast : Nat := 0
  /-- A tile leaving service: tile, whether planned, sessions lost (R475). -/
  tileDrain : Option (Nat × Bool × Nat) := none
  /-- Slices of the present dark-frame pass by array (R486). -/
  dfPass : Store Nat := []
  /-- The checkpoint in progress, and the images held, oldest first (R482). -/
  ckpt : Option Ckpt := none
  ckptImages : List CkptImage := []
  /-- Embedding tables by number, hotness tables by tile × 2^16 + entry, the edge count of each tile's last halving, and replicas,
  oldest first (R296, R302, R303). -/
  embTabs : Store EmbTable := []
  hot : Store HotEnt := []
  hotLast : Store Nat := []
  replicas : List Replica := []
  /-- Update batches that wait for an apply pass, and how many have arrived; commands that wait for a pass or for remote homes. -/
  embQ : List EmbBatch := []
  embSeq : Nat := 0
  embJobs : List EmbJob := []
  embLooks : List EmbLook := []
  /-- Blocks that have moved away, with their new homes (R308). -/
  embMoved : List ((Nat × Nat × Nat) × Nat) := []
  /-- Vector indexes, queries (numbered by `vecSeq`), accepted updates oldest first, and compactions. -/
  vecs : Store VecIndex := []
  vecQs : List VecQuery := []
  vecSeq : Nat := 0
  vecJobs : List VecJob := []
  vecCompacts : List VecCompact := []
  /-- Aborts whose kernels still drain, oldest first. -/
  aborts : List Abort := []
  /-- Results written to host memory, newest first: function, address, bytes (R417). -/
  hostOut : List (Nat × Nat × List Byte) := []
  /-- Trace records of all taps, newest first (R530). -/
  traces : List Trc := []
  /-- Hang-dump slots in use (R533), and dumps taken since power-up. -/
  dumps : Store Dump := []
  dumpSeq : Nat := 0
  /-- What a known-answer test is for, by array: 1 RETURN, 2 replacement in a partition, 3 replacement outside one; else start-up. -/
  arrTests : Store Nat := []
  /-- Arrays that retire when their running kernel ends, and whether an ARY_CMD waits for it (R194). -/
  retireWait : List (Nat × Bool) := []
  /-- Array SRAM bytes written, by array × 2^21 + offset; any other byte is open (R184), by the draw of the array's last reset. -/
  sram : Store Byte := []
  sramDraw : Store Nat := []
  /-- Arrays whose accumulators and vector registers a kernel has left open, with their draw; those of any other array are cleared (R161,
  R184). -/
  arrDraw : Store Nat := []
  /-- Code memory and DMA queue of arrays (R161): the transfers that a kernel has issued and that have not ended, of which the first 16 are
  outstanding. -/
  codeMem : Store (List Byte) := []
  dmaQ : Store (List Dma) := []
  /-- What the resident region of each rank holds, weights and constants (R163, R191): a byte of rank r of partition p under
  (p × 2,048 + r) × 2^21 + offset. -/
  resid : Store Byte := []
  /-- Fabric messages sent, newest first. -/
  fabOut : List Msg := []
  /-- Commands forwarded to a peer and not answered: header, opcode, new handle (R156). -/
  fwdWait : List (Hdr × Nat × Nat) := []
  /-- Holders the directory has answered for handles of other modules (R35, R383). -/
  dirKnown : Store Nat := []
  net : Net := {}
  adm : Adm := {}
deriving DecidableEq, Repr

/-- The module right after reset: powered, released from reset, every register at its reset value (R8), nothing held. -/
def State.reset : State := {}

end Sys2Proof.Machine
end

