-- ==== Sys2Proof/Machine/Ops.lean ====
section
/-!
DEFINITION. Sys2Proof/Machine/Ops.lean: the named operations over registers, descriptors, pool and memory that every
command's meaning is built from.
-/
namespace Sys2Proof.Machine

/-! ## Registers -/

/-- The value of a register field: what was last put there, or its reset value (R8). -/
def rd (f : Fld) (s : State) : Nat := sgetD s.regs (fkey f) f.rst

/-- Put a value into a register field, cut to the field's width. -/
def wr (f : Fld) (v : Nat) (s : State) : State :=
  { s with regs := sset s.regs (fkey f) (v % 2 ^ fwidth f) }

/-- The largest value a field holds. -/
def fmax (f : Fld) : Nat := 2 ^ fwidth f - 1

/-- Add to a counter field, which saturates at all ones. -/
def bump (f : Fld) (n : Nat) (s : State) : State := wr f (satAdd (fwidth f) (rd f s) n) s

/-- Take from a field that counts things held, down to 0. -/
def drop (f : Fld) (n : Nat) (s : State) : State := wr f (rd f s - n) s

/-- Raise a field that records a maximum, which saturates. -/
def raise (f : Fld) (v : Nat) (s : State) : State :=
  wr f (max (rd f s) (min v (fmax f))) s

/-- Whether a one-bit field is set. -/
def isSet (f : Fld) (s : State) : Bool := rd f s = 1

/-- Whether bit `i` of a field is set. -/
def rdBit (f : Fld) (i : Nat) (s : State) : Bool := bitOf (rd f s) i

/-- Write bit `i` of a field. -/
def wrBit (f : Fld) (i : Nat) (b : Bool) (s : State) : State :=
  let v := rd f s
  wr f (v - (if bitOf v i then 2 ^ i else 0) + (if b then 2 ^ i else 0)) s

/-- The sidereal count (R66). -/
def now (s : State) : Nat := rd SID_COUNT.COUNT s

/-- Powered and not held in reset (R553): any other module ignores every command but a change of its power or reset pins. -/
def live (s : State) : Bool := s.pow.p54v && s.pow.rails && !s.pow.perst && !s.pow.modRst

/-- The hub engines serve commands: HUB_OK is set and start-up has not stopped (R556, R559). -/
def serving (s : State) : Bool :=
  live s && isSet HUB_DOMAIN_STATUS.HUB_OK s && rd HUB_BOOT_STATUS.STOP_CODE s == 0

/-- A meaning that leaves an unpowered or held module as it is. -/
def whenLive (s : State) (f : State → State) : Host.Outcome State Fault Refusal :=
  .next (if live s then f s else s)

/-- A meaning that leaves a module that does not serve commands as it is. -/
def whenServing (s : State) (f : State → State) : Host.Outcome State Fault Refusal :=
  .next (if serving s then f s else s)

/-- IDE_REQUIRED is set and no stream is established: the host link carries configuration requests alone (R512). -/
def ideShut (s : State) : Bool := isSet SEC_CFG.IDE_REQUIRED s && s.adm.ide.isEmpty
/-- What a memory request of the host does, unless the endpoint discards and counts it (R512). -/
def tlpIn (f : State → State) (s : State) : State := if ideShut s then bump SEC_IDE_BLOCKED.COUNT 1 s else f s

/-- A fresh free value's draw number, and the state after the draw. -/
def draw (s : State) : Nat × State := (s.fresh, { s with fresh := s.fresh + 1 })

/-! ## Bytes -/

/-- The `n` bytes of a number, least significant first (R9). -/
def leBytes : Nat → Nat → List Byte
  | 0, _ => []
  | n + 1, v => BitVec.ofNat 8 v :: leBytes n (v / 256)

/-- The number that little-endian bytes spell. -/
def leNat : List Byte → Nat
  | [] => 0
  | b :: r => b.toNat + 256 * leNat r

/-- The number held in `n` bytes at an offset of a structure. -/
def field (bs : List Byte) (off n : Nat) : Nat := leNat ((bs.drop off).take n)

/-! ## Memory -/

/-- The byte of a memory at an address: zero where nothing is listed. -/
def cellGet : List Host.Cell → Nat → Byte
  | [], _ => 0#8
  | (k, v) :: r, a => if a = k then v else cellGet r a

/-- Write one byte, keeping the listed addresses rising and no zero byte listed. -/
def cellSet : List Host.Cell → Nat → Byte → List Host.Cell
  | [], a, v => if v = 0#8 then [] else [(a, v)]
  | (k, w) :: r, a, v =>
    if a < k then (if v = 0#8 then (k, w) :: r else (a, v) :: (k, w) :: r)
    else if a = k then (if v = 0#8 then r else (a, v) :: r)
    else (k, w) :: cellSet r a v

/-- Write a run of bytes. -/
def cellsSet (m : List Host.Cell) : Nat → List Byte → List Host.Cell
  | _, [] => m
  | a, b :: r => cellsSet (cellSet m a b) (a + 1) r

/-- Clear a run of addresses to the value an unlisted one reads as. -/
def cellsClear (m : List Host.Cell) (a n : Nat) : List Host.Cell :=
  m.filter (fun c => !(decide (a ≤ c.1) && decide (c.1 < a + n)))

/-- The canonical form of a memory: addresses strictly rising, no listed byte zero. -/
def Memory.wf : List Host.Cell → Bool
  | [] => true
  | [(_, v)] => v != 0#8
  | (a, v) :: (b, w) :: r => (v != 0#8) && decide (a < b) && Memory.wf ((b, w) :: r)

/-- First address past the bonded tier (R91): 1,728 GiB. -/
def bondedEnd : Nat := 0x1B0_0000_0000
/-- Base and end of the deep tier's logical addresses (R91). -/
def deepBase : Nat := 0x1000_0000_0000
def deepEnd : Nat := 0x1300_0000_0000

/-- A byte of the bonded or deep tier; an address with no tier reads as zero. -/
def memByte (s : State) (a : Nat) : Byte :=
  if a < bondedEnd then cellGet s.mem a
  else if deepBase ≤ a ∧ a < deepEnd then cellGet s.deepMem a else 0#8

/-- `n` bytes from an address. -/
def memRead (s : State) : Nat → Nat → List Byte
  | _, 0 => []
  | a, n + 1 => memByte s a :: memRead s (a + 1) n

/-- A run of bytes meets an uncorrectable codeword (R97). -/
def poisonIn (a n : Nat) (s : State) : Bool := s.poison.any fun k => decide (64 * k < a + n) && decide (a < 64 * k + 64)
/-- Uncorrectable codewords after a write: those that it covers whole are written anew. -/
def cured (a n : Nat) (ks : List Nat) : List Nat := ks.filter fun k => !(decide (a ≤ 64 * k) && decide (64 * k + 64 ≤ a + n))
/-- Write a run of bytes to the bonded tier. -/
def memWrite (a : Nat) (bs : List Byte) (s : State) : State :=
  { s with mem := cellsSet s.mem a bs, poison := cured a bs.length s.poison }
/-- Write zeros over a run of the bonded tier. -/
def memClear (a n : Nat) (s : State) : State := { s with mem := cellsClear s.mem a n, poison := cured a n s.poison }
/-- A read of a codeword finds it uncorrectable: counted, recorded, and noted toward the retirement of its channel (R97, R472). `bytes` is
how many bytes are in error, 0xFF where they were not located. -/
def noteUe (a bytes : Nat) (s : State) : State :=
  let st := a / 0x12_0000_0000
  let g := 32 * st + a % 0x12_0000_0000 / 0x9000_0000
  let s := bump (MEM_ECC_COUNTS.UNCORRECTABLE (st / 6) (st % 6)) 1 s
  let s := wr (MEM_ERR_LOG.VALID (st / 6)) 1 (wr (MEM_ERR_LOG.BYTES (st / 6)) bytes (wr (MEM_ERR_LOG.ADDR (st / 6)) a s))
  let old := ((sget s.ueLog g).getD []).filter fun e => decide (s.cad.edges < e + rd REL_UE_WINDOW.CH_UE_WINDOW s)
  { s with ueLog := sset s.ueLog g (s.cad.edges :: old) }
/-- A consumer reads a run: its uncorrectable codewords are counted (R97); how many bytes of each are in error is open. -/
def readBad (a n : Nat) (s : State) : State :=
  (s.poison.filter fun k => decide (64 * k < a + n) && decide (a < 64 * k + 64)).foldl
    (fun s k => noteUe (64 * k) (Config.openNat s.fresh) { s with fresh := s.fresh + 1 }) s
/-- A read of a run finds a codeword uncorrectable that it now holds as such (R97): which one is open. -/
def spoil (a n : Nat) (s : State) : State :=
  { s with poison := ((a / 64 + Config.openNat s.fresh % max 1 (ceilDiv n 64)) :: s.poison).eraseDups, fresh := s.fresh + 1 }
/-- As `spoil`, where the read does find one. -/
def spoilIf (c : Bool) (a n : Nat) (s : State) : State := if c && decide (a + n ≤ bondedEnd) then spoil a n s else s
/-- Codewords of a run are rewritten with good data (R467). -/
def mendCodes (a n : Nat) (s : State) : State := { s with poison := s.poison.filter fun k => !(decide (64 * k < a + n) && decide (a < 64 * k + 64)) }
/-- A run is read, and rewritten where it was poisoned. -/
def mendRead (a n : Nat) (s : State) : State := mendCodes a n (readBad a n s)
/-- Copied check columns: a codeword that was uncorrectable at the source is so at the destination (R115). -/
def copyBad (src dst n : Nat) (s : State) : State :=
  { s with poison := ((s.poison.filter fun k => decide (src ≤ 64 * k) && decide (64 * k < src + n)).map fun k => k - src / 64 + dst / 64) ++ s.poison }
/-- A COPY of a run of the bonded tier, uncorrectable codewords with it. -/
def copyMem (src dst n : Nat) (s : State) : State :=
  let t := memWrite dst (memRead s src n) s
  if poisonIn src n s then copyBad src dst n t else t

/-- Write a run of bytes to the deep tier. -/
def deepWrite (a : Nat) (bs : List Byte) (s : State) : State := { s with deepMem := cellsSet s.deepMem a bs }

/-- Stack of a bonded address, its channel in the stack, and the stack-local offset (R92). -/
def stackOf (a : Nat) : Nat := a / 0x12_0000_0000
def stackOff (a : Nat) : Nat := a % 0x12_0000_0000
def chanOf (a : Nat) : Nat := stackOff a / 0x9000_0000
/-- The channel of an address, numbered 32 × stack + channel. -/
def gchan (a : Nat) : Nat := 32 * stackOf a + chanOf a
/-- First address of a channel so numbered. -/
def gchanBase (g : Nat) : Nat := (g / 32) * 0x12_0000_0000 + (g % 32) * 0x9000_0000
/-- Bytes of a channel: 2.25 GiB. -/
def chanBytes : Nat := 0x9000_0000
/-- Tile of a stack (R13). -/
def tileOf (stack : Nat) : Nat := stack / 6

/-! ## Trace (R528 to R530) -/

/-- The filter admits a record. -/
def traceAdmits (r : Trc) (s : State) : Bool :=
  rdBit DBG_TRACE_FILTER.EVENTS (r.event / 256) s &&
    (rd DBG_TRACE_FILTER.PARTITION s == 0xFF || rd DBG_TRACE_FILTER.PARTITION s == r.part) &&
    (isSet DBG_TRACE_FILTER.ALL_FN s || rd DBG_TRACE_FILTER.FUNCTION s == r.fn) &&
    decide (rd DBG_TRACE_LAYER.LAYER_LO s ≤ r.layer) && decide (r.layer ≤ rd DBG_TRACE_LAYER.LAYER_HI s) &&
    (rd DBG_TRACE_LAYER.OPERATOR s == 0 || rd DBG_TRACE_LAYER.OPERATOR s == r.oper) &&
    (r.array == 0xFFFF || rdBit DBG_TRACE_FILTER.TILE_MASK (r.array / 512) s)

def trcBytes (r : Trc) : List Byte :=
  leBytes 8 r.tick ++ leBytes 2 r.layer ++ leBytes 2 r.oper ++ leBytes 2 r.array ++ leBytes 2 r.event ++ leBytes 1 r.part ++
    leBytes 1 r.src ++ leBytes 1 r.fn ++ leBytes 1 r.flags ++ leBytes 4 r.ns ++ leBytes 8 r.arg

/-- Produce a trace record: into the tap's history, and, where enabled and admitted, into the trace ring. The ns within the tick
are left open. -/
def trace (r : Trc) (s : State) : State :=
  let r := { r with tick := now s, ns := Config.openNat s.fresh % 2 ^ 32 }
  let s := { s with fresh := s.fresh + 1, traces := r :: s.traces }
  if !(isSet DBG_TRACE_BASE.ENABLE s && traceAdmits r s) || isSet DBG_TRACE_STATUS.STOPPED s then s
  else
    let w := rd DBG_TRACE_STATUS.WRITTEN s
    let n := 2 ^ rd DBG_TRACE_SIZE.LOG2 s
    if isSet DBG_TRACE_BASE.STOP_MODE s && decide (n ≤ w) then wr DBG_TRACE_STATUS.STOPPED 1 s
    else
      let s := memWrite (rd DBG_TRACE_BASE.ADDR s * 4096 + 32 * (w % n)) (trcBytes r) s
      let s := if w + 1 = n ∧ ¬ isSet DBG_TRACE_BASE.STOP_MODE s then wr DBG_TRACE_STATUS.WRAPPED 1 s else s
      bump DBG_TRACE_RECORDS.COUNT 1 (wr DBG_TRACE_STATUS.WRITTEN ((w + 1) % 2 ^ 32) s)

/-! ## Channels and allocation (R94, R95, R571) -/

def chRaw (g : Nat) (s : State) : Bool := rdBit (MEM_CH_CFG.RAW (g / 192) ((g / 32) % 6)) (g % 32) s
def chRetired (g : Nat) (s : State) : Bool := rdBit (MEM_CH_STATUS.RETIRED (g / 192) ((g / 32) % 6)) (g % 32) s
def chProcessor (g : Nat) (s : State) : Bool := rdBit (MEM_CH_STATUS.PROCESSOR (g / 192) ((g / 32) % 6)) (g % 32) s
def spareGib (st : Nat) (s : State) : Nat := rd (MEM_CH_CFG.SPARE_GIB (st / 6) (st % 6)) s
/-- Where a stack begins and ends, and where its spare region begins (R95). -/
def stackBase (st : Nat) : Nat := st * 0x12_0000_0000
def stackEnd (st : Nat) : Nat := stackBase st + 0x12_0000_0000
def spareStart (st : Nat) (s : State) : Nat := stackEnd st - spareGib st s * 0x4000_0000
/-- A channel no part of which lies in its stack's spare region (R95). -/
def chOutsideSpare (g : Nat) (s : State) : Bool := 9 * (g % 32 + 1) ≤ 4 * (72 - spareGib (g / 32) s)
/-- A channel that lies wholly inside the spare region: a test channel (R95). -/
def chTest (g : Nat) (s : State) : Bool := 4 * (72 - spareGib (g / 32) s) ≤ 9 * (g % 32)
def tilePresent (t : Nat) (s : State) : Bool := rdBit HUB_DOMAIN_STATUS.TILE_PRESENT t s
def tileOnline (t : Nat) (s : State) : Bool := rdBit HUB_DOMAIN_STATUS.TILE_ONLINE t s
def stackOnline (st : Nat) (s : State) : Bool := rdBit HUB_DOMAIN_STATUS.STACK_ONLINE st s
/-- A channel that may hold protected allocations: never channel 0, never in the spare region (R571). -/
def chProtectedOk (g : Nat) (s : State) : Bool := g % 32 != 0 && !chRaw g s && chOutsideSpare g s
/-- A channel that holds data: its stack is online, and it is not retired without a remap (R473, R475). -/
def chUp (g : Nat) (s : State) : Bool := stackOnline (g / 32) s && (!chRetired g s || (sget s.remaps g).isSome)
/-- Reads of some runs find codewords of them uncorrectable (R97): of `bad`, those that lie there in a protected channel. -/
def foundBad (runs : List (Nat × Nat)) (bad : List Nat) (s : State) : State :=
  let hit := bad.filter fun k => !chRaw (gchan (64 * k)) s && runs.any fun e => decide (64 * k < e.1 + e.2) && decide (e.1 < 64 * k + 64)
  { s with poison := (hit ++ s.poison).eraseDups }
/-- Corrections that a stack's dies and its controller made (R96, R97). -/
def countFixed (st ondie fixed : Nat) (s : State) : State :=
  bump (MEM_ECC_COUNTS.CORRECTED (st / 6) (st % 6)) fixed (bump (MEM_ECC_COUNTS.ONDIE (st / 6) (st % 6)) ondie s)
/-- Those of some reads, by stack. -/
def corrections (l : List (Nat × Nat × Nat)) (s : State) : State :=
  l.foldl (fun s e => if 24 ≤ e.1 ∨ ¬ stackOnline e.1 s then s else countFixed e.1 e.2.1 e.2.2 s) s
/-- The channels of a tile's stacks, numbered as `gchan`. -/
def tileChans (t : Nat) : List Nat := (List.range 192).map (· + 192 * t)
/-- Bytes allocated in a channel. -/
def chFill (g : Nat) (s : State) : Nat := sgetD s.chUsed g 0

/-- Enter a run of bytes in a list of runs that rises by address. -/
def runIns (r : Nat × Nat) : List (Nat × Nat) → List (Nat × Nat)
  | [] => [r]
  | x :: l => if r.1 < x.1 then r :: x :: l else x :: runIns r l
/-- A run meets none of a list. -/
def runFree (a n : Nat) (l : List (Nat × Nat)) : Bool := l.all fun r => decide (a + n ≤ r.1) || decide (r.1 + r.2 ≤ a)
/-- The lowest address from `a` that is a multiple of `al` and leaves `n` bytes below `lim` clear of rising runs. -/
def runGap (n al lim : Nat) : Nat → List (Nat × Nat) → Option Nat
  | a, [] => if a + n ≤ lim then some a else none
  | a, r :: l => if a + n ≤ r.1 then some a else runGap n al lim (max a (al * ceilDiv (r.1 + r.2) al)) l
/-- A place for `n` bytes in a channel, at a multiple of `al`: the device's choice (R203), within the channel and clear of its other allocations. -/
def placeIn (g n al : Nat) (s : State) : Option Nat :=
  let b := gchanBase g
  let c := b + al * (Config.place s.fresh g % ((chanBytes - n) / al + 1))
  let mine := s.runs.filter fun r => decide (b ≤ r.1) && decide (r.1 < b + chanBytes)
  if chanBytes < n then none else if runFree c n mine then some c else runGap n al (b + chanBytes) b mine

/-- Of the channels that a row permits, the least-filled one with room, the lowest number on a tie (R571, R145). -/
def leastFilled (cands : List Nat) (room : Nat → Bool) (s : State) : Option Nat :=
  cands.foldl (fun best g =>
    if chUp g s && room g then
      match best with
      | none => some g
      | some b => if chFill g s < chFill b s ∨ (chFill g s = chFill b s ∧ g < b) then some g else best
    else best) none

/-- Count bytes into a channel, and show it in MEM_CH_USED (R571). -/
def chanCount (g bytes : Nat) (s : State) : State :=
  wrBit (MEM_CH_USED.ALLOCATED (g / 192) ((g / 32) % 6)) (g % 32) true { s with chUsed := sset s.chUsed g (chFill g s + bytes) }
/-- Take bytes out of a channel's count again. -/
def chanLess (g bytes : Nat) (s : State) : State :=
  let left := chFill g s - bytes
  wrBit (MEM_CH_USED.ALLOCATED (g / 192) ((g / 32) % 6)) (g % 32) (left != 0) { s with chUsed := sset s.chUsed g left }
/-- An allocation takes a run of a channel. -/
def chanTake (g a bytes : Nat) (s : State) : State := chanCount g bytes { s with runs := runIns (a, bytes) s.runs }
/-- An allocation gives its run back. -/
def chanGive (g a bytes : Nat) (s : State) : State := chanLess g bytes { s with runs := s.runs.erase (a, bytes) }

/-- Place an allocation in one of the permitted channels: the channel, the address and the state after. -/
def allocIn (cands : List Nat) (bytes : Nat) (s : State) : Option (Nat × Nat × State) :=
  (leastFilled cands (fun g => (placeIn g bytes 64 s).isSome) s).bind fun g =>
    (placeIn g bytes 64 s).map fun a => (g, a, chanTake g a bytes { s with fresh := s.fresh + 1 })

/-! ### Page extents (R203) -/

/-- Bytes of the extent that a page of `n` bytes lies in: 2 MiB, or the page's size rounded up to a multiple of it. -/
def extBytes (n : Nat) : Nat := 0x20_0000 * ceilDiv n 0x20_0000
/-- First address of the extent of a page. -/
def extOf (a : Nat) : Nat := a / 0x20_0000 * 0x20_0000
/-- A place for a page of `n` bytes in a channel: a free one of an extent that holds pages of that size, else a new extent's first. -/
def pageSlot (g n : Nat) (s : State) : Option Nat :=
  (s.exts.findSome? fun e =>
    if gchan e.1 = g ∧ e.2.1 = n then ((List.range (0x20_0000 / n)).find? fun k => !e.2.2.contains k).map fun k => e.1 + n * k else none).orElse
    fun _ => placeIn g (extBytes n) 0x20_0000 s
/-- A page takes its place; the first of an extent takes the extent. -/
def pageTake (g a n : Nat) (s : State) : State :=
  match sget s.exts (extOf a) with
  | some e => chanCount g n { s with exts := sset s.exts (extOf a) (n, (a - extOf a) / n :: e.2) }
  | none => chanCount g n { s with exts := sset s.exts (extOf a) (n, [(a - extOf a) / n]), runs := runIns (extOf a, extBytes n) s.runs }
/-- A page gives its place back; the last of an extent gives the extent back. -/
def pageGive (g a n : Nat) (s : State) : State :=
  match sget s.exts (extOf a) with
  | some e =>
    let left := e.2.erase ((a - extOf a) / n)
    chanLess g n (if left = [] then { s with exts := sdel s.exts (extOf a), runs := s.runs.erase (extOf a, extBytes n) }
      else { s with exts := sset s.exts (extOf a) (n, left) })
  | none => chanLess g n s
/-- Place a page in one of the permitted channels. -/
def allocPage (cands : List Nat) (n : Nat) (s : State) : Option (Nat × Nat × State) :=
  (leastFilled cands (fun g => (pageSlot g n s).isSome) s).bind fun g =>
    (pageSlot g n s).map fun a => (g, a, pageTake g a n { s with fresh := s.fresh + 1 })

/-! ## Writes by engines (R110, R481) -/

/-- Channels that a run of the bonded tier touches. -/
def runChans (a n : Nat) : List Nat := if n = 0 then [] else (List.range (gchan (a + n - 1) - gchan a + 1)).map (· + gchan a)
/-- A request for the run waits in the controller's queue: a channel of it is in PROCESSOR mode (R110). -/
def chansOwned (a n : Nat) (s : State) : Bool := (runChans a n).any fun g => chProcessor g s
/-- Bytes from an address overlap a range of a checkpoint whose capture has not ended (R481). -/
def capHeld (a n : Nat) (s : State) : Bool :=
  s.ckpt.any fun c => c.op == 0 && decide (c.phase ≤ 2) && c.ranges.any fun r => decide (r.1 < a + n) && decide (a < r.1 + r.2)
/-- A write that capture may hold back: it then waits until the capture ends, and is counted (R481). Bank units write so. -/
def unitWrite (a : Nat) (bs : List Byte) (s : State) : State :=
  match s.ckpt with
  | some c =>
    if capHeld a bs.length s then bump REL_HELD_WRITES.COUNT 1 { s with ckpt := some { c with heldW := c.heldW ++ [(a, bs)] } }
    else memWrite a bs s
  | none => memWrite a bs s
/-- A write by an engine: while a channel of it is in PROCESSOR mode it waits in the controller's queue (R110). -/
def engWrite (a : Nat) (bs : List Byte) (s : State) : State :=
  if chansOwned a bs.length s then { s with chanWait := s.chanWait ++ [(a, bs)] } else unitWrite a bs s
/-- The controller serves the writes that waited for channels now in MEMORY mode, oldest first (R110). -/
def serveWaits (s : State) : State :=
  if s.chanWait = [] then s
  else (s.chanWait.filter fun w => !chansOwned w.1 w.2.length s).foldl (fun s w => unitWrite w.1 w.2 s)
    { s with chanWait := s.chanWait.filter fun w => chansOwned w.1 w.2.length s }
def setProcessor (g : Nat) (b : Bool) (s : State) : State := wrBit (MEM_CH_STATUS.PROCESSOR (g / 192) ((g / 32) % 6)) (g % 32) b s
/-- Those of some channels that are in PROCESSOR mode are asked to return (R112). -/
def askReturn (chans : List Nat) (s : State) : State :=
  { s with returnReq := s.returnReq ++ (chans.filter fun g => chProcessor g s && !s.returnReq.contains g).eraseDups }

/-! ## The capacity pool (R46) -/

def classBytes (c : Nat) (s : State) : Nat := sgetD s.clsBytes c 0
def poolSize (s : State) : Nat := rd SES_POOL_SIZE.POOL_MIB s * 0x10_0000
/-- The part of a class's reservation that it does not hold. -/
def unheld (c : Nat) (s : State) : Nat := rd (SES_CLASS_CFG.RESERVE_GIB c) s * 0x4000_0000 - classBytes c s
/-- What the other classes' reservations keep free for them. -/
def keptFor (c : Nat) (s : State) : Nat := (((List.range 8).filter (· != c)).map (unheld · s)).sum
/-- Whether the pool supplies a request of a class (R46). -/
def canSupply (c n : Nat) (s : State) : Bool := decide (s.poolBytes + n + keptFor c s ≤ poolSize s)
/-- A class holds more than its reservation (R47). -/
def overReserve (c : Nat) (s : State) : Bool := decide (rd (SES_CLASS_CFG.RESERVE_GIB c) s * 0x4000_0000 < classBytes c s)

def showPool (c : Nat) (s : State) : State :=
  wr (SES_CLASS_USAGE.USED_MIB c) (ceilDiv (classBytes c s) 0x10_0000)
    (wr SES_POOL_USED.USED_MIB (ceilDiv s.poolBytes 0x10_0000) s)
/-- Draw bytes of the pool for a class. -/
def charge (c n : Nat) (s : State) : State :=
  showPool c { s with poolBytes := s.poolBytes + n, clsBytes := sset s.clsBytes c (classBytes c s + n) }
/-- Give bytes back to the pool. -/
def refund (c n : Nat) (s : State) : State :=
  showPool c { s with poolBytes := s.poolBytes - n, clsBytes := sset s.clsBytes c (classBytes c s - n) }

/-- The size of a class's per-session cap in bytes; class 0's is at most 2 GiB (R48). -/
def kvCap (c : Nat) (s : State) : Nat :=
  let v := rd (SES_CLASS_CFG.KV_CAP c) s * 0x400_0000
  if c = 0 then min v 0x8000_0000 else v

/-! ## Descriptors (R33, R34, R37) -/

def hHome (h : Nat) : Nat := bitsOf h 63 52
def hIndex (h : Nat) : Nat := bitsOf h 51 30
def hGen (h : Nat) : Nat := bitsOf h 29 0
def mkHandle (home index gen : Nat) : Nat := home * 2 ^ 52 + index * 2 ^ 30 + gen
/-- Slots of the descriptor table. -/
def slots : Nat := 0x40_0000
/-- The generation a slot holds after start-up: never 0 (R51). -/
def startGen (boot i : Nat) : Nat := Config.firstGen boot i % 0x3FFF_FFFF + 1
/-- The generation after one (R34). -/
def nextGen (g : Nat) : Nat := if g ≥ 0x3FFF_FFFF then 1 else g + 1

/-- Session states (R39). -/
def stFree : Nat := 0
def stReady : Nat := 1
def stActive : Nat := 2
def stWaiting : Nat := 3
def stTransit : Nat := 4
def stDeep : Nat := 5
def stHost : Nat := 6
def stFrozen : Nat := 7
def stExpired : Nat := 8

/-- The descriptor of a slot. -/
def descOf (i : Nat) (s : State) : Desc := sgetD s.desc i { handle := mkHandle 0 i (startGen s.boots i) }
def sessOf (i : Nat) (s : State) : Sess := sgetD s.sess i {}
def putSess (i : Nat) (x : Sess) (s : State) : State := { s with sess := sset s.sess i x }
def modSess (i : Nat) (f : Sess → Sess) (s : State) : State := putSess i (f (sessOf i s)) s

/-- Count one descriptor out of or into the counters of its state, class and function (R59, R61, R63, R434). -/
def countDesc (d : Desc) (up : Bool) (s : State) : State :=
  let k := fun f s => if up then bump f 1 s else drop f 1 s
  let s := k (SES_STATE_COUNT.COUNT d.st) s
  if d.st = stFree then s
  else k (HIF_FN_STATUS.SESSIONS d.fn) (k (SES_CLASS_USAGE.SESSIONS d.cls) (k SES_POOL_USED.SESSIONS s))

/-- The FLAGS of a descriptor (R38). -/
def descFlags (d : Desc) : Nat :=
  b2n d.turnPending + 2 * b2n d.cancelPending + 4 * b2n d.includeStop + 8 * b2n d.tokenOutput + 16 * b2n d.hostParkOk +
    32 * b2n d.migrated + 64 * b2n d.penOverflow + 128 * b2n d.capHit + 256 * b2n d.dataLost
/-- The 256 bytes of a descriptor (R37), little-endian (R9). -/
def descBytes (d : Desc) : List Byte :=
  leBytes 8 d.handle ++ leBytes 1 d.st ++ leBytes 1 d.prev ++ leBytes 1 d.cls ++ leBytes 1 d.fn ++ leBytes 1 d.model ++ leBytes 1 d.kvFormat ++
    leBytes 2 (descFlags d) ++ leBytes 8 d.ptRoot ++ leBytes 8 d.parkAddr ++ leBytes 8 d.kvBytes ++ leBytes 4 d.tokenCount ++ leBytes 4 d.turnId ++
    leBytes 4 d.turnTokens ++ leBytes 4 d.maxTokens ++ leBytes 8 d.ttl ++ leBytes 8 d.lastActive ++ leBytes 8 d.wakeHint ++ leBytes 8 d.createTick ++
    leBytes 8 d.seed ++ leBytes 8 d.rngCounter ++ leBytes 4 d.temperature ++ leBytes 4 d.topP ++ leBytes 4 d.minP ++ leBytes 4 d.repPenalty ++
    leBytes 4 d.presencePenalty ++ leBytes 4 d.frequencyPenalty ++ leBytes 2 d.topK ++ leBytes 2 d.decMode ++ leBytes 4 d.keySlot ++
    leBytes 8 d.penTable ++ leBytes 2 d.grammarId ++ leBytes 2 d.grammarDepth ++ leBytes 4 d.grammarState ++ leBytes 8 d.grammarStack ++
    leBytes 8 d.stopBlock ++ leBytes 8 d.stopLen ++ leBytes 2 d.mirrorModule ++ leBytes 1 d.outQueue ++ leBytes 1 d.lastEnd ++
    leBytes 4 d.transitTag ++ leBytes 8 d.usageTokens ++ leBytes 8 d.hostTag ++ leBytes 56 0
/-- Where the primary and the second copy of a descriptor lie (R25, R93). -/
def descAddr (i : Nat) (second : Bool) : Nat :=
  let g := i / 16
  (g + (if second then 12 else 0)) % 24 * 0x12_0000_0000 + (if second then 0x300_0000 else 0) + g / 24 * 4096 + i % 16 * 256
/-- Both copies of a descriptor are written anew, whatever their codewords held. -/
def cureDesc (i : Nat) (ks : List Nat) : List Nat := cured (descAddr i false) 256 (cured (descAddr i true) 256 ks)

/-- Write a descriptor, both copies (R25), and move the counters with it. A session that migrates has the change appended to its
log (R153). A change of state is traced (R529). -/
def putDesc (i : Nat) (d : Desc) (s : State) : State :=
  let s := if (descOf i s).st = d.st then s
    else trace { tick := 0, event := 0x0301, src := 0x04, fn := d.fn, flags := 1 + 2 * d.cls, arg := d.handle } s
  let s := countDesc d true (countDesc (descOf i s) false s)
  { s with desc := sset s.desc i d, poison := cureDesc i s.poison,
           migs := s.migs.map fun m => if m.idx = i then { m with log := m.log ++ [d] } else m }
def modDesc (i : Nat) (f : Desc → Desc) (s : State) : State := putDesc i (f (descOf i s)) s

/-- A run of a session's pages or tables is written: the 64 KiB ranges it touches are dirty for the session's migration (R153). -/
def markDirty (i a n : Nat) (s : State) : State :=
  if s.migs = [] then s
  else { s with migs := s.migs.map fun m => if m.idx = i ∧ m.block = none then
      { m with dirty := (m.dirty ++ (List.range (ceilDiv (a % 65536 + n) 65536)).map (· + a / 65536)).eraseDups } else m }
/-- As `markDirty`, for `n` bytes at an offset of a session's allocation of a kind. -/
def dirtyKind (i kind off n : Nat) (s : State) : State :=
  match (sessOf i s).allocs.find? (·.kind == kind) with
  | some a => markDirty i (a.addr + off) n s
  | none => s

/-- The head of the free list (R34). -/
def freeHead (s : State) : Option Nat := if s.freeNext < slots then some s.freeNext else s.freed.head?
/-- Take the head off the free list. -/
def popFree (s : State) : State :=
  if s.freeNext < slots then { s with freeNext := s.freeNext + 1 } else { s with freed := s.freed.tail }

/-- Make a slot FREE: every field zero but HANDLE, the next generation, and the slot at the tail of the free list (R34). -/
def freeSlot (i : Nat) (s : State) : State :=
  let s := putDesc i { handle := mkHandle 0 i (nextGen (hGen (descOf i s).handle)) } s
  { s with sess := sdel s.sess i, freed := s.freed ++ [i] }

/-! ## Statuses (R414) and events (R270) -/

def sOk : Nat := 0x00
def sPartial : Nat := 0x01
def sBusy : Nat := 0x02
def sRejected : Nat := 0x03
def sNotFound : Nat := 0x04
def sExpired : Nat := 0x05
def sAborted : Nat := 0x06
def sGrammarStall : Nat := 0x07
def sDropped : Nat := 0x08
def sCapacity : Nat := 0x09
def sAuthFail : Nat := 0x0A
def sTimeout : Nat := 0x0B
def sCadenceLost : Nat := 0x0C

/-- Padded length of a record in the ring (R268). -/
def recSize (r : Rec) : Nat := 16 + 16 * ceilDiv r.payload.length 16
/-- The bytes of a record (R268). -/
def recBytes (r : Rec) : List Byte :=
  leBytes 1 r.type ++ leBytes 1 r.flags ++ leBytes 2 r.payload.length ++ leBytes 4 r.turnId ++ leBytes 8 r.handle ++
    r.payload ++ List.replicate (16 * ceilDiv r.payload.length 16 - r.payload.length) 0#8
/-- An event as a record (R270). -/
def evRec (e : Ev) : Rec :=
  { type := 4, flags := 0, turnId := e.turnId, handle := e.handle,
    payload := leBytes 1 e.status ++ leBytes 1 e.src ++ leBytes 2 e.code ++ leBytes 4 e.arg32 ++ leBytes 8 e.tick ++
      leBytes 8 e.hostTag ++ leBytes 8 e.arg64 }

def qpKey (fn qp : Nat) : Nat := fn * 64 + qp
def qpOf (fn qp : Nat) (s : State) : Qp := sgetD s.queues (qpKey fn qp) {}
def putQp (fn qp : Nat) (q : Qp) (s : State) : State := { s with queues := sset s.queues (qpKey fn qp) q }

/-- Count entries toward a function's MSI-X vector, and fire it when its threshold is met (R410). Vector 64 of F0 is the
event queue's. -/
def coalesce (fn vec n : Nat) (s : State) : State :=
  let intEn := if vec = 64 then rd HIF_EVQ_CFG.INT_EN s else rd (HIF_QP_CTRL.INT_EN fn vec) s
  let lim := max 1 (if vec = 64 then rd HIF_EVQ_CFG.COAL_ENTRIES s else rd (HIF_QP_CTRL.COAL_ENTRIES fn vec) s)
  let us := if vec = 64 then rd HIF_EVQ_CFG.COAL_US s else rd (HIF_QP_CTRL.COAL_US fn vec) s
  let c := sgetD s.coal (fn * 128 + vec) 0 + n
  if intEn = 1 ∧ 0 < c ∧ (lim ≤ c ∨ us = 0) then
    { s with coal := sset s.coal (fn * 128 + vec) 0, msix := (fn, vec) :: s.msix }
  else { s with coal := sset s.coal (fn * 128 + vec) c }

/-- Ring size of the PF's event queue in bytes, and its free space (R409). -/
def evqSize (s : State) : Nat := 2 ^ rd HIF_EVQ_CFG.LOG2 s
def evqFree (s : State) : Nat := evqSize s - (s.evqPi + 2 ^ 32 - s.evqCi) % 2 ^ 32

/-- Write one event into the PF's event queue. -/
def evqWrite (e : Ev) (s : State) : State :=
  coalesce 0 64 1 { s with evOut := e :: s.evOut, evqPi := (s.evqPi + 48) % 2 ^ 32 }

/-- The event queue can take an event now. -/
def evqRoom (s : State) : Bool :=
  isSet HIF_EVQ_BASE.ENABLE s && !ideShut s && decide (16 ≤ rd HIF_EVQ_CFG.LOG2 s) && decide (rd HIF_EVQ_CFG.LOG2 s ≤ 24) && decide (48 ≤ evqFree s)

/-- Post an event to the PF (R409): written at once where the queue has room and nothing is held back, else held back, up to
1,024 events; a further one is dropped and counted. -/
def postEv (e : Ev) (s : State) : State :=
  if s.evHeld = [] ∧ evqRoom s then evqWrite e s
  else if s.evHeld.length < 1024 then { s with evHeld := s.evHeld ++ [e] }
  else bump HIF_EVENT_DROPS.COUNT 1 s

/-- The PlatformEventMessage that supplements an event (R525): sent to the event receiver while the complex runs. -/
def platformEv (e : Ev) (s : State) : State :=
  match s.adm.evRecv with
  | some (b, eid) =>
    if [0x0001, 0x001A, 0x001B, 0x0021, 0x0024].contains e.code ∧ rd HUB_DOMAIN_STATUS.MGT_RUNNING s = 1 then
      { s with adm.mgtOut := (b, 1, 0x0A :: eid :: (evRec e).payload.map (·.toNat)) :: s.adm.mgtOut }
    else s
  | none => s
/-- Post an event that names no session to the PF. -/
def postPf (code src status arg32 arg64 : Nat) (s : State) : State :=
  let e : Ev := { code := code, src := src, status := status, arg32 := arg32, arg64 := arg64, tick := now s }
  platformEv e (postEv e s)

/-- Free space of a queue pair's output ring beyond what is written, queued and reserved (R408, R271). -/
def ringFree (fn qp : Nat) (s : State) : Nat :=
  let q := qpOf fn qp s
  2 ^ rd (HIF_QP_OUT.LOG2 fn qp) s - (rd (HIF_QP_OUT_STATUS.PI fn qp) s + 2 ^ 32 - q.outCi) % 2 ^ 32
    - ((q.recs.map recSize).sum + q.resv)

/-- Queue a record for a queue pair's ring; its space is held. -/
def queueRec (fn qp : Nat) (r : Rec) (s : State) : State :=
  let q := qpOf fn qp s
  putQp fn qp { q with recs := q.recs ++ [r] } s

/-- Post an event to a queue pair's ring (R408): an event that finds no space waits, and a 257th is dropped and counted. -/
def postRing (fn qp : Nat) (r : Rec) (s : State) : State :=
  let q := qpOf fn qp s
  if q.evs = [] ∧ recSize r ≤ ringFree fn qp s then queueRec fn qp r s
  else if q.evs.length < 256 then
    wr (HIF_QP_OUT_STATUS.PENDING_EVENTS fn qp) (q.evs.length + 1) (putQp fn qp { q with evs := q.evs ++ [r] } s)
  else bump HIF_EVENT_DROPS.COUNT 1 s

/-- The event of a session, with the fields the session gives it. -/
def sesEv (d : Desc) (code src status arg32 arg64 tick : Nat) : Ev :=
  { code := code, src := src, status := status, arg32 := arg32, arg64 := arg64, tick := tick,
    handle := d.handle, turnId := d.turnId, hostTag := d.hostTag }

/-- Post an event that concerns a session to the ring of its OUT_QUEUE (R270). -/
def postSes (i code src status arg32 arg64 : Nat) (s : State) : State :=
  let d := descOf i s
  postRing d.fn d.outQueue (evRec (sesEv d code src status arg32 arg64 (now s))) s

/-- Post an event to the PF that names a session in HANDLE. -/
def postPfSes (i code src status arg32 arg64 : Nat) (s : State) : State :=
  postEv (sesEv (descOf i s) code src status arg32 arg64 (now s)) s

/-! ## Domain status (R30, R31) -/

/-- The EVENT of a change of HUB_DOMAIN_CHANGE. -/
def changeEvent (s : State) : State :=
  postPf 0x0001 0x01 sOk 0 (rd HUB_DOMAIN_CHANGE.TILE_CHANGED s + rd HUB_DOMAIN_CHANGE.STACK_CHANGED s * 2 ^ 4 +
    rd HUB_DOMAIN_CHANGE.MGT_CHANGED s * 2 ^ 28 + rd HUB_DOMAIN_CHANGE.DEEP_CHANGED s * 2 ^ 29) s
/-- Set bits of HUB_DOMAIN_CHANGE; where any goes from 0 to 1 an EVENT goes to the PF. -/
def latchChange (f : Fld) (mask : Nat) (s : State) : State :=
  let v := rd f s
  let n := v ||| mask
  if n = v then s else changeEvent (wr f n s)
/-- One update of a tile's bits, and of those of its stacks where it moves them, with one EVENT (R30, R31). -/
def setDomain (t : Nat) (online draining : Bool) (sts : Option Bool) (s : State) : State :=
  let tm := if rdBit HUB_DOMAIN_STATUS.TILE_ONLINE t s = online ∧ rdBit HUB_DOMAIN_STATUS.TILE_DRAINING t s = draining then 0 else 2 ^ t
  let st := match sts with
    | some b => ((List.range 6).map (· + 6 * t)).filter fun k => rdBit HUB_DOMAIN_STATUS.STACK_ONLINE k s != b
    | none => []
  let new := (rd HUB_DOMAIN_CHANGE.TILE_CHANGED s ||| tm, rd HUB_DOMAIN_CHANGE.STACK_CHANGED s ||| (st.map (2 ^ ·)).sum)
  let hit := new != (rd HUB_DOMAIN_CHANGE.TILE_CHANGED s, rd HUB_DOMAIN_CHANGE.STACK_CHANGED s)
  let s := wrBit HUB_DOMAIN_STATUS.TILE_ONLINE t online (wrBit HUB_DOMAIN_STATUS.TILE_DRAINING t draining s)
  let s := st.foldl (fun s k => wrBit HUB_DOMAIN_STATUS.STACK_ONLINE k (sts.getD false) s) s
  let s := wr HUB_DOMAIN_CHANGE.TILE_CHANGED new.1 (wr HUB_DOMAIN_CHANGE.STACK_CHANGED new.2 s)
  if hit then changeEvent s else s

def setTileOnline (t : Nat) (b : Bool) (s : State) : State :=
  if rdBit HUB_DOMAIN_STATUS.TILE_ONLINE t s = b then s
  else latchChange HUB_DOMAIN_CHANGE.TILE_CHANGED (2 ^ t) (wrBit HUB_DOMAIN_STATUS.TILE_ONLINE t b s)
def setTileDraining (t : Nat) (b : Bool) (s : State) : State :=
  if rdBit HUB_DOMAIN_STATUS.TILE_DRAINING t s = b then s
  else latchChange HUB_DOMAIN_CHANGE.TILE_CHANGED (2 ^ t) (wrBit HUB_DOMAIN_STATUS.TILE_DRAINING t b s)
def setStackOnline (st : Nat) (b : Bool) (s : State) : State :=
  if rdBit HUB_DOMAIN_STATUS.STACK_ONLINE st s = b then s
  else latchChange HUB_DOMAIN_CHANGE.STACK_CHANGED (2 ^ st) (wrBit HUB_DOMAIN_STATUS.STACK_ONLINE st b s)
def setMgtRunning (b : Bool) (s : State) : State :=
  if rd HUB_DOMAIN_STATUS.MGT_RUNNING s = b2n b then s
  else latchChange HUB_DOMAIN_CHANGE.MGT_CHANGED 1 (wr HUB_DOMAIN_STATUS.MGT_RUNNING (b2n b) s)
def setDeepDegraded (b : Bool) (s : State) : State :=
  if rd HUB_DOMAIN_STATUS.DEEP_DEGRADED s = b2n b then s
  else latchChange HUB_DOMAIN_CHANGE.DEEP_CHANGED 1 (wr HUB_DOMAIN_STATUS.DEEP_DEGRADED (b2n b) s)

/-! ## Fences and completions (R413, R426 to R429) -/

def fences : Nat := 0x4000
def fenceVal (n : Nat) (s : State) : Nat := rd (FEN_VALUE.VALUE n) s

/-- Apply SET (mode 0) or ADD (mode 1) to a fence (R427). -/
def fenceApply (n mode v : Nat) (s : State) : State :=
  let cur := fenceVal n s
  let s := bump FEN_SIGNALS.COUNT 1 s
  if mode = 0 then
    if cur < v then wr (FEN_VALUE.VALUE n) v s else bump FEN_STALE_SETS.COUNT 1 s
  else wr (FEN_VALUE.VALUE n) (satAdd 64 cur v) s

/-- A function may name a fence (R404): F0 every one, a VF those of its own range. -/
def mayFence (fn n : Nat) (s : State) : Bool :=
  decide (n < fences) && (fn == 0 ||
    (decide (rd (HIF_FN_CFG.FENCE_FIRST fn) s ≤ n) &&
      decide (n < rd (HIF_FN_CFG.FENCE_FIRST fn) s + rd (HIF_FN_CFG.FENCE_COUNT fn) s)))

def sameCmd (a b : Hdr) : Bool := a.fn == b.fn && a.qp == b.qp && a.cmdId == b.cmdId
/-- Take a command off the list of started ones. -/
def unstart (h : Hdr) : List Started → List Started
  | [] => []
  | x :: r => if sameCmd x.h h then r else x :: unstart h r

def qpState (fn qp : Nat) (s : State) : Nat := rd (HIF_QP_STATUS.STATE fn qp) s

/-- A queue pair enters ERROR (R406, R435): its cause, the count, and event 0x0014 to the PF. -/
def qpError (fn qp cause : Nat) (s : State) : State :=
  postPf 0x0014 0x13 sRejected (fn * 256 + qp) cause
    (bump HIF_QP_ERRORS.COUNT 1 (wr (HIF_QP_STATUS.CAUSE fn qp) cause (wr (HIF_QP_STATUS.STATE fn qp) 3 s)))

/-- A memory request for a queue pair is discarded for want of an IDE stream: cause 2 (R512). -/
def ideFault (fn qp : Nat) (s : State) : State :=
  let s := bump SEC_IDE_BLOCKED.COUNT 1 s
  if qpState fn qp s = 3 then s else qpError fn qp 2 s

/-- A command has ended: it is no longer started, and it is counted, REJECTED ones once more (R437). -/
def countCpl (h : Hdr) (status : Nat) (s : State) : State :=
  let s := bump HIF_COMMANDS.COUNT 1 { s with started := unstart h s.started }
  if status = sRejected then bump HIF_REJECTS.COUNT 1 s else s
/-- Put a completion entry into its ring (R407, R413). The slot is CQ_TAIL; the phase turns when the tail wraps. -/
def ringCpl (h : Hdr) (op status handle r0 r1 : Nat) (fwd : Bool) (s : State) : State :=
  let q := qpOf h.fn h.qp s
  let t := rd (HIF_QP_STATUS.CQ_TAIL h.fn h.qp) s
  let wrap := decide (2 ^ rd (HIF_QP_CQ.LOG2 h.fn h.qp) s ≤ t + 1)
  let c : Cpl := { fn := h.fn, qp := h.qp, slot := t, cmdId := h.cmdId, sqHead := rd (HIF_QP_STATUS.SQ_HEAD h.fn h.qp) s,
                   status := status, phase := q.phase, forwarded := fwd, opcode := op, handle := handle,
                   result0 := r0, result1 := r1 }
  coalesce h.fn h.qp 1
    (wr (HIF_QP_STATUS.CQ_TAIL h.fn h.qp) (if wrap then 0 else t + 1)
      (putQp h.fn h.qp { q with phase := if wrap then !q.phase else q.phase } { s with cpl := c :: s.cpl }))
/-- Write a completion entry. On a queue pair in ERROR, or disabled, nothing is written (R435). A command that another module
forwarded has queue pair 64 + that module and is answered there by a RESPONSE (R156). -/
def writeCpl (h : Hdr) (op status handle r0 r1 : Nat) (fwd : Bool) (s : State) : State :=
  if 64 ≤ h.qp then { s with fabOut := { type := 0x13, dst := h.qp - 64, args := [h.cmdId, status, handle, r0, r1] } :: s.fabOut }
  else if qpState h.fn h.qp s = 3 then bump HIF_COMPLETION_DROPS.COUNT 1 (countCpl h status s)
  else if qpState h.fn h.qp s = 0 then countCpl h status s
  else if ideShut s then bump HIF_COMPLETION_DROPS.COUNT 1 (ideFault h.fn h.qp (countCpl h status s))
  else if h.cplFault then bump HIF_COMPLETION_DROPS.COUNT 1 (qpError h.fn h.qp 3 (countCpl h status s))
  else ringCpl h op status handle r0 r1 fwd (countCpl h status s)

/-- FENCE_DONE after a completion (R429), of a fence that the function may name (R404). -/
def fenceDone (h : Hdr) (s : State) : State := if h.fenceDone && mayFence h.fn h.fence s then fenceApply h.fence 1 1 s else s

/-- A FENCE_WAIT's condition holds. -/
def waitMet (s : State) (w : FWait) : Bool := decide (w.value ≤ fenceVal w.fence s)

/-- Complete the FENCE_WAIT commands whose fence has been reached, oldest first, and those that their own FENCE_DONE then
satisfies (R428, R429). -/
def settleWaits : Nat → State → State
  | 0, s => s
  | n + 1, s =>
    match s.fenWaits.find? (waitMet s) with
    | none => s
    | some w =>
      let s := { s with fenWaits := s.fenWaits.erase w }
      let s := wr FEN_STATUS.WAITS s.fenWaits.length s
      settleWaits n (fenceDone w.h (writeCpl w.h 0x21 sOk 0 (fenceVal w.fence s) 0 false s))

/-- Signal a fence and complete what waits on it. -/
def signalFence (n mode v : Nat) (s : State) : State :=
  let s := fenceApply n mode v s
  settleWaits s.fenWaits.length s

/-- Complete a command: the entry, then its FENCE_DONE, then the waits that this satisfies. -/
def completeFull (h : Hdr) (op status handle r0 r1 : Nat) (fwd : Bool) (s : State) : State :=
  let s := fenceDone h (writeCpl h op status handle r0 r1 fwd s)
  settleWaits s.fenWaits.length s

/-- Complete a command at this module. -/
def complete (h : Hdr) (op status handle r0 r1 : Nat) (s : State) : State :=
  completeFull h op status handle r0 r1 false s

/-- Complete a command that has no result to carry. -/
def refuse (h : Hdr) (op status : Nat) (s : State) : State := complete h op status h.handle 0 0 s

/-! ## Queues of the bank units (R118) -/

/-- The bank operations queued on a channel, oldest first, and its head. -/
def bankOps (g : Nat) (s : State) : List BankOp := (sget s.bankQ g).getD []
def setBankOps (g : Nat) (l : List BankOp) (s : State) : State :=
  { s with bankQ := if l.isEmpty then sdel s.bankQ g else sset s.bankQ g l }
def bankHead (g : Nat) (s : State) : Option BankOp := (bankOps g s).head?

end Sys2Proof.Machine
end

