-- ==== Sys2Proof/Machine/Flags.lean ====
section
/-!
DEFINITION. Sys2Proof/Machine/Flags.lean: the status flags the module computes from the rest of its state: the class-0
conditions of R52, the cadence state of R67, the levels of its output pins.
-/
namespace Sys2Proof.Machine

/-- Cadence states (R67). -/
def cNoPulse : Nat := 0
def cUnaligned : Nat := 1
def cLocked : Nat := 2
def cHoldover : Nat := 3
def cFreewheel : Nat := 4

/-- The measured period P in 1/16 ns, rounded down (R65); 0 while it is not valid. -/
def periodQ (s : State) : Nat := 16 * s.cad.intervals.sum / s.cad.intervals.length
/-- The cadence is locked in the sense of condition 4 of R52 (R69). -/
def cadenceLocked (s : State) : Bool := rd SID_STATUS.STATE s == cLocked || rd SID_STATUS.STATE s == cHoldover

/-- Deep-tier channel `k` is in service (R126). -/
def deepOnline (k : Nat) (s : State) : Bool :=
  if k < 64 then rdBit DPT_ONLINE_LO.ONLINE k s else rdBit DPT_ONLINE_HI.ONLINE (k - 64) s
def deepRetired (k : Nat) (s : State) : Bool :=
  if k < 64 then rdBit DPT_RETIRED_LO.RETIRED k s else rdBit DPT_RETIRED_HI.RETIRED (k - 64) s
def setDeepOnline (k : Nat) (b : Bool) (s : State) : State :=
  if k < 64 then wrBit DPT_ONLINE_LO.ONLINE k b s else wrBit DPT_ONLINE_HI.ONLINE (k - 64) b s
def setDeepRetired (k : Nat) (b : Bool) (s : State) : State :=
  if k < 64 then wrBit DPT_RETIRED_LO.RETIRED k b s else wrBit DPT_RETIRED_HI.RETIRED (k - 64) b s
/-- Channels in service, less a channel in the draining or training phase of R103 (the n of R102). -/
def deepServing (s : State) : Nat :=
  let n := ((List.range 96).filter (deepOnline · s)).length
  let p := rd DPT_RETRAIN_STATUS.PHASE s
  if p = 2 ∨ p = 3 then n - 1 else n
/-- Class `c`'s scaled share of a deep-tier channel's time, in hundredths of a percent of the whole (R102). -/
def scaledShare (c : Nat) (s : State) : Nat :=
  let n := deepServing s
  if n = 0 then 10001 else rd (SES_CLASS_CFG.DEEP_SHARE c) s * 9600 / n

/-- Some committed partition has CLASS0 set (R45). -/
def haveClass0Part (s : State) : Bool :=
  (List.range 255).any fun p => isSet (ARY_PART_STATUS.DEFINED p) s && isSet (ARY_PART_STATUS.CLASS0 p) s

/-- A module-wide part of condition 1 of R52 fails (NO_RESERVE of R62). -/
def noReserve (s : State) : Bool :=
  rd (SES_CLASS_CFG.RESERVE_GIB 0) s == 0 || rd (SES_CLASS_CFG.DEEP_SHARE 0) s == 0 || decide (10000 < scaledShare 0 s) ||
    rd (TM_CLASS.SHARE 0 0) s == 0 || rd (TM_CLASS.SHARE 1 0) s == 0 || !haveClass0Part s

/-- A structural reconfiguration of a class-0 partition's region, or a spare replacement in one, is in progress (condition 5 of R52,
R192, R457). -/
def c0Reconfig (s : State) : Bool :=
  (s.parts.any fun p => p.2.reconf) ||
    (List.range 255).any fun p => isSet (ARY_PART_STATUS.CLASS0 p) s && isSet (ARY_PART_STATUS.SWAPPING p) s

/-- Conditions 1 and 3 to 6 of R52 for a session: ARMED, a committed CLASS0 partition of its model, KV_BYTES within the cap. -/
def c0Holds (i : Nat) (s : State) : Bool :=
  isSet SES_C0_STATUS.ARMED s && decide ((descOf i s).kvBytes ≤ kvCap 0 s) &&
    (List.range 255).any fun p => isSet (ARY_PART_STATUS.CLASS0 p) s && isSet (ARY_PART_STATUS.DEFINED p) s &&
      ((sgetD s.parts p {}).model == (descOf i s).model)
/-- The class-0 resumes in progress that no longer meet R52 lose the bound, and count as UNGUARANTEED (R52, R62); a held RESUME is judged when it is
applied. -/
def c0Unbind (s : State) : State :=
  let n := (s.transits.filter fun t => t.c0Bound && !c0Holds t.idx s).length + (s.c0Wait.filter fun w => w.bound && !c0Holds w.idx s).length
  if n = 0 then s
  else bump SES_C0_COUNTS.UNGUARANTEED n { s with
    transits := s.transits.map fun t => { t with c0Bound := t.c0Bound && c0Holds t.idx s },
    c0Wait := s.c0Wait.map fun w => { w with bound := w.bound && c0Holds w.idx s } }
/-- Held RESUMEs note that a condition of R52 failed after their doorbell. -/
def c0Mark (s : State) : State :=
  { s with heldCmds := s.heldCmds.map fun c => match c.2 with
      | .resume h t us ok => (c.1, .resume h t us (ok && c0Holds c.1 s))
      | _ => c }
/-- Recompute SES_C0_STATUS (R62) from the state; POWER is kept as the governor left it. A condition that fails ends the bound of the resumes in
progress. -/
def c0Refresh (s : State) : State :=
  let nr := noReserve s
  let cd := !cadenceLocked s
  let rc := c0Reconfig s
  let pw := isSet SES_C0_STATUS.POWER s
  c0Mark (c0Unbind (wr SES_C0_STATUS.ARMED (b2n (!nr && !cd && !rc && !pw))
    (wr SES_C0_STATUS.RECONFIG (b2n rc) (wr SES_C0_STATUS.CADENCE (b2n cd) (wr SES_C0_STATUS.NO_RESERVE (b2n nr) s)))))

/-- Change the cadence state (R68): the state code, CADENCE of SES_C0_STATUS (R69) and, where the table gives one, the EVENT. -/
def setCadence (till : Nat) (status : Option Nat) (s : State) : State :=
  let s := c0Refresh (wr SID_STATUS.STATE till s)
  match status with
  | none => s
  | some st => postPf 0x0002 0x02 st till (now s) s

/-- ALERT_N is low (R542): a critical limit is exceeded, start-up has stopped, or a hub fault is pending. -/
def alertLow (s : State) : Bool :=
  s.pow.critical != [] || rd HUB_BOOT_STATUS.STOP_CODE s != 0 || s.pow.hubFaultPending
/-- THERM_TRIP_N is low (R552). -/
def thermTripLow (s : State) : Bool := s.pow.tripLatch
/-- PWR_GOOD is high (R554): the main rails are on. -/
def pwrGood (s : State) : Bool := s.pow.p54v && s.pow.rails
/-- Transition time of the open-drain outputs and of I3C_SDA, in ns (R548, R561). -/
def edgeNs (code : Nat) : Nat := if code = 0 then 2 else if code = 1 then 5 else 10

end Sys2Proof.Machine
end

