-- ==== Sys2Proof/Machine/DirTable.lean ====
section
/-!
DEFINITION. Sys2Proof/Machine/DirTable.lean: the directory's placement and store (R380 to R386), and the requests that other units make
of it.
-/
namespace Sys2Proof.Machine

/-! ## Placement (R381) -/

def mix64 (x : Nat) : Nat :=
  let x := x % 2 ^ 64
  let x := ((x ^^^ (x >>> 33)) * 0xFF51AFD7ED558CCD) % 2 ^ 64
  let x := ((x ^^^ (x >>> 33)) * 0xC4CEB9FE1A85EC53) % 2 ^ 64
  x ^^^ (x >>> 33)
def shardOf (type keyA keyB : Nat) : Nat := mix64 (mix64 (keyA ^^^ type) ^^^ keyB) / 2 ^ 52
def weightOf (shard m : Nat) : Nat := mix64 (shard * 4096 ||| m)
/-- The three members of greatest weight, in descending order. -/
def replicasOf (shard : Nat) (members : List Nat) : List Nat :=
  (sortBy (fun a b => decide (weightOf shard b ≤ weightOf shard a)) members).take 3

def selfId (s : State) : Nat := rd SES_CTRL.MODULE_ID s
def shardState (k : Nat) (s : State) : Shard := sgetD s.net.shards k {}
def putShard (k : Nat) (x : Shard) (s : State) : State := { s with net.shards := sset s.net.shards k x }
/-- This module leads a shard and its lease is valid. -/
def leads (k : Nat) (s : State) : Bool :=
  rd DIR_SELF.STATE s == 2 && rd (DIR_SHARD.ROLE k) s == 2 &&
    decide (s.cad.edges < (shardState k s).lease + rd DIR_TIMING.LEASE_TICKS s)
def majority (n : Nat) : Nat := n / 2 + 1

/-! ## The store -/

def entryShard (e : DirEntry) : Nat := shardOf e.type e.keyA e.keyB
def sameKey (a b : DirEntry) : Bool := a.type == b.type && a.keyA == b.keyA && a.keyB == b.keyB
def findEntry (type keyA keyB : Nat) (s : State) : Option DirEntry :=
  s.net.dirEnts.find? fun e => e.type == type && e.keyA == keyA && e.keyB == keyB
/-- Show what the store holds, in all and of one shard (R394). -/
def showStore (k : Nat) (s : State) : State :=
  wr DIR_STORE.USED s.net.dirEnts.length (wr (DIR_SHARD.ENTRIES k) ((s.net.dirEnts.filter fun e => entryShard e == k).length) s)
/-- Commit an entry: its VERSION rises, and a SESSION entry gets its EXPIRE_TICK (R380). -/
def storePut (s : State) (e : DirEntry) : State :=
  let v := ((s.net.dirEnts.find? (sameKey e)).map (·.version)).getD 0
  let e := { e with version := (v + 1) % 2 ^ 32, expire := if e.type = 1 then e.commit + rd DIR_ENTRY_TTL.SESSION_ENTRY_TICKS s else 0 }
  showStore (entryShard e) { s with net.dirEnts := s.net.dirEnts.filter (fun x => !sameKey e x) ++ [e] }
def storeDel (type keyA keyB : Nat) (s : State) : State :=
  showStore (shardOf type keyA keyB)
    { s with net.dirEnts := s.net.dirEnts.filter fun x => !(x.type == type && x.keyA == keyA && x.keyB == keyB) }
/-- Follow VALUE through at most 4 entries (R380). -/
def chase (s : State) : Nat → DirEntry → DirEntry
  | 0, e => e
  | n + 1, e => match findEntry e.type e.value e.keyB s with
    | some f => if e.type = 1 ∧ f.value ≠ e.value then chase s n f else e
    | none => e

/-! ## Requests of this module (R383) -/

/-- The lookup cache keeps 65,536 results. -/
def cacheHolder (handle holder : Nat) (s : State) : State :=
  let c := if s.dirKnown.length < 65536 then s.dirKnown else s.dirKnown.tail
  { s with dirKnown := sset c handle holder }
def opArgs : DirOp → List Nat
  | .lookup => [0]
  | .put => [1]
  | .putIf v => [2, v]
  | .delete => [3]
  | .switch t => [4, t]
  | .abandon t => [5, t]
/-- Send a request to the shard's first replica and wait for its answer. -/
def dirSend (use : DirFor) (op : DirOp) (type keyA keyB value : Nat) (s : State) : State :=
  let k := shardOf type keyA keyB
  let dst := ((replicasOf k s.net.members).filter (· != selfId s)).head?.getD (selfId s)
  { s with net.dirSeq := s.net.dirSeq + 1,
           net.dirWait := s.net.dirWait ++ [{ id := s.net.dirSeq, key := keyA, use := use, limit := s.cad.edges + rd DIR_TIMING.LOOKUP_WAIT s }],
           fabOut := { type := 0x04, dst := dst, args := s.net.dirSeq :: type :: keyA :: keyB :: value :: opArgs op } :: s.fabOut }

/-- A command's handle is of another module (R35): NOT_FOUND with the holder as hint, from the cache or this module's own shard; else a
lookup is sent and the completion waits for it. Without a view, or isolated, the lookup counts as unanswered. -/
def foreignHandle (h : Hdr) (op : Nat) (s : State) : State :=
  let done := fun (hint : Nat) (s : State) => complete h op sNotFound (hint * 2 ^ 52) 0 0 s
  let k := shardOf 1 h.handle 0
  match sget s.dirKnown h.handle with
  | some m => done m s
  | none =>
    if leads k s then
      match findEntry 1 h.handle 0 s with
      | some e => done (chase s 3 e).holder (bump DIR_LOOKUPS.COUNT 1 s)
      | none => done 0xFFF (bump DIR_LOOKUPS.COUNT 1 s)
    else if rd DIR_SELF.STATE s = 2 then dirSend (.hint h op) .lookup 1 h.handle 0 0 s
    else if rd DIR_SELF.STATE s = 3 then done 0xFFF (bump DIR_LOOKUP_TIMEOUTS.COUNT 1 s)
    else done 0xFFF s

/-- A session that the directory lists under an older handle is gone: its entry is removed (R386). -/
def dropEntry (key : Nat) (s : State) : State :=
  if leads (shardOf 1 key 0) s then storeDel 1 key 0 s
  else if rd DIR_SELF.STATE s = 2 then dirSend .other .delete 1 key 0 0 s else s

end Sys2Proof.Machine
end

