-- ==== Sys2Proof/Machine/Operands.lean ====
section
/-!
DEFINITION. Sys2Proof/Machine/Operands.lean: how a command's operands are read and checked: data buffers, the intake checks of
R415, the handle check of R35, the state table of R41, and the layouts of structures that commands name.
-/
namespace Sys2Proof.Machine

/-- The first `n` bytes of a command's buffer (R417): `none` where a host read fails, or where a bonded-tier range has no tier or reads poisoned. -/
def bufRead (h : Hdr) (b : Buf) (n : Nat) (s : State) : Option (List Byte) :=
  if h.bondedBuf then (if b.addr + n ≤ bondedEnd ∧ ¬ poisonIn b.addr n s then some (memRead s b.addr n) else none)
  else if ideShut s then none else b.data.map (·.take n)

/-- A buffer read fails: counted in HIF_HOST_FAULTS (R417), its uncorrectable codewords as R97 has it. -/
def bufLost (h : Hdr) (b : Buf) (n : Nat) (s : State) : State :=
  bump HIF_HOST_FAULTS.COUNT 1 (if h.bondedBuf then readBad b.addr n s else if ideShut s then ideFault h.fn h.qp s else s)
/-- A command whose buffer read fails ends REJECTED (R417). -/
def bufFault (h : Hdr) (b : Buf) (n op : Nat) (s : State) : State := refuse h op sRejected (bufLost h b n s)

/-- Commands only the PF may issue (R415, check 1). -/
def pfOnly (op : Nat) : Bool := op == 0x30 || op == 0x31 || op == 0x40 || op == 0x41
/-- Opcodes that name a session (R412). -/
def namesSession (op : Nat) : Bool := decide (2 ≤ op) && decide (op ≤ 0x0D)

/-- Checks 1 to 3 of R415, a FENCE without FENCE_DONE counting as a nonzero reserved field; `bad` says that an operand holds a code its table does not define. -/
def intakeFails (h : Hdr) (op : Nat) (bad : Bool) (s : State) : Bool :=
  (pfOnly op && h.fn != 0) || bad || (h.bondedBuf && h.fn != 0) || (!namesSession op && h.handle != 0) ||
    (h.fenceDone && !mayFence h.fn h.fence s) || (!h.fenceDone && h.fence != 0)

/-- The commands of a queue that the intake took before this one and that have not completed. -/
def earlier (h : Hdr) : List Started → List Started
  | [] => []
  | x :: r => if sameCmd x.h h then [] else (if x.h.fn = h.fn ∧ x.h.qp = h.qp then [x] else []) ++ earlier h r

/-- A command may start (R416): an entry with BARRIER set only after every earlier entry of its queue, and no entry while an
earlier FENCE_WAIT of its queue waits. -/
def mayStart (h : Hdr) (s : State) : Bool :=
  let e := earlier h s.started
  (!h.barrier || e.isEmpty) && !(e.any (·.opcode == 0x21)) &&
    !(s.fenWaits.any fun w => w.h.fn == h.fn && w.h.qp == h.qp && !sameCmd w.h h)

/-- A command is carried out: the module serves commands, its queue pair runs and entries are fetched on a supported link (R398),
or the intake had taken it before, and it may start. -/
def cmdRuns (h : Hdr) (s : State) : Bool :=
  serving s && ((qpState h.fn h.qp s == 1 && (isSet HIF_LINK.SUPPORTED s || s.started.any fun x => sameCmd x.h h)) || (qpState h.fn h.qp s == 3 && s.started.any fun x => sameCmd x.h h)) && mayStart h s

/-- Outcome of the checks a handle meets (R35): the slot, the retry hint of NOT_FOUND, or a handle of another module. -/
inductive HandleCheck where
  | found (i : Nat)
  | foreign
  | missing (hint : Nat)
deriving DecidableEq, Repr

/-- The hint cache's answer for an old handle (R156): the new handle's module. -/
def hintOf (handle : Nat) (s : State) : Nat :=
  match s.hints.find? (fun p => p.1 == handle) with
  | some (_, n) => hHome n
  | none => 0xFFF

/-- The checks of R35 in their order. -/
def handleCheck (fn handle : Nat) (s : State) : HandleCheck :=
  if hHome handle ≠ rd SES_CTRL.MODULE_ID s then .foreign
  else
    let i := hIndex handle
    let d := descOf i s
    if d.st = stFree ∨ hGen d.handle ≠ hGen handle then .missing (hintOf handle s)
    else if (fn ≠ 0 ∧ d.fn ≠ fn) ∨ rd (HIF_FN_STATUS.STATE d.fn) s = 3 then .missing 0xFFF
    else .found i

/-- The entries of the state table R41. -/
inductive Admit where
  | apply | okNop | busy | rejected | expired | hold | onOmit | stopTransit
deriving DecidableEq, Repr

/-- R41: what a command meets in each state. -/
def judge (op : Nat) (d : Desc) : Admit :=
  if d.st = stExpired then .expired
  else if d.st = stTransit then (if op = 0x02 then .stopTransit else .hold)
  else match op with
  | 0x02 => if d.st = stActive then .onOmit else .apply
  | 0x03 | 0x04 => if d.st = stActive then .busy else if d.st = stReady ∨ d.st = stWaiting then .apply else .rejected
  | 0x05 => if d.st = stReady then (if d.turnPending then .busy else .apply) else if d.st = stWaiting then .apply else .rejected
  | 0x06 =>
    if d.st = stReady then (if d.turnPending then .rejected else .apply)
    else if d.st = stActive then .busy else if d.st = stFrozen then .rejected else .apply
  | 0x07 => if d.st = stActive then .okNop else .apply
  | 0x08 | 0x09 => if d.st = stActive then .busy else if d.st = stFrozen then .rejected else .apply
  | 0x0A => if d.st = stReady ∨ d.st = stActive then .apply else .okNop
  | 0x0B => if d.st = stFrozen then .rejected else .apply
  | 0x0C | 0x0D => if d.st = stActive then .busy else if d.st = stFrozen then .rejected else .apply
  | _ => .rejected

/-! ## FP32 operands (R249) -/

/-- An FP32 bit pattern is a NaN. -/
def f32NaN (v : Nat) : Bool := decide (0x7F80_0000 < v % 0x8000_0000)
/-- A number that orders FP32 patterns as their values do (−0 and +0 equal). -/
def f32Key (v : Nat) : Int := if v < 0x8000_0000 then (v : Int) else -((v - 0x8000_0000 : Nat) : Int)
/-- `lo ≤ v ≤ hi` as FP32 values, a NaN outside every range. -/
def f32In (lo hi v : Nat) : Bool := !f32NaN v && decide (f32Key lo ≤ f32Key v) && decide (f32Key v ≤ f32Key hi)

/-- Every sampling field lies in its range (R249): 2^−10 ≤ TEMPERATURE ≤ 2^7, 0 < TOP_P ≤ 1, 0 ≤ MIN_P < 1,
2^−4 ≤ REP_PENALTY ≤ 2^4, both other penalties within ±8, TOP_K ≤ 1,024, DEC_MODE only bits 2:0. -/
def samplingOk (p : Sampling) : Bool :=
  f32In 0x3A80_0000 0x4300_0000 p.temperature && f32In 0x0000_0001 0x3F80_0000 p.topP && f32In 0 0x3F7F_FFFF p.minP &&
    f32In 0x3D80_0000 0x4180_0000 p.repPenalty && f32In 0xC100_0000 0x4100_0000 p.presencePenalty &&
    f32In 0xC100_0000 0x4100_0000 p.frequencyPenalty && decide (p.topK ≤ 1024) && decide (p.decMode < 8)

/-- The neutral values of R249, MAX_TOKENS 0 and SEED 0. -/
def samplingNeutral : Sampling :=
  { temperature := 0x3F80_0000, topP := 0x3F80_0000, minP := 0, repPenalty := 0x3F80_0000, presencePenalty := 0,
    frequencyPenalty := 0, topK := 0, decMode := 0, maxTokens := 0, seed := 0 }

/-- The 48 bytes of a sampling block, laid out as bytes 0x10 to 0x3F of SET_SAMPLING (R419, R420). -/
def samplingOf (bs : List Byte) : Sampling :=
  { temperature := field bs 0 4, topP := field bs 4 4, minP := field bs 8 4, repPenalty := field bs 12 4,
    presencePenalty := field bs 16 4, frequencyPenalty := field bs 20 4, topK := field bs 24 2, decMode := field bs 26 2,
    maxTokens := field bs 28 4, seed := field bs 32 8 }

/-- The bytes of one ephemeris entry (R79). -/
def entryOf (bs : List Byte) : EphEntry :=
  { tick := field bs 0 8, action := field bs 8 1, flags := field bs 9 1, target := field bs 10 2, tag := field bs 12 4,
    opA := field bs 16 8, opB := field bs 24 8 }
/-- An ephemeris entry as its 32 bytes. -/
def entryBytes (e : EphEntry) : List Byte :=
  leBytes 8 e.tick ++ leBytes 1 e.action ++ leBytes 1 e.flags ++ leBytes 2 e.target ++ leBytes 4 e.tag ++ leBytes 8 e.opA ++
    leBytes 8 e.opB

/-- Cut a run of bytes into `n` pieces of `k` bytes. -/
def pieces (k : Nat) : Nat → List Byte → List (List Byte)
  | 0, _ => []
  | n + 1, bs => bs.take k :: pieces k n (bs.drop k)

end Sys2Proof.Machine
end

