-- ==== Sys2Proof/Machine/TextEngine.lean ====
section
/-!
DEFINITION. Sys2Proof/Machine/TextEngine.lean: tokenization, detokenization, the grammar automaton and its masks (R275 to R295).
A tokenizer set and a compiled grammar are held as the bytes of their images, and read at the offsets their headers give.
-/
namespace Sys2Proof.Machine

/-! ## Splitting (R278, R279) -/

/-- One unit of the input: its bytes and its codepoint, `none` for a byte of class 15. -/
structure TxtUnit where
  bytes : List Byte
  cp : Option Nat
deriving DecidableEq, Repr

/-- A continuation byte's six bits. -/
def contBits (b : Byte) : Option Nat := if b.toNat / 64 = 2 then some (b.toNat % 64) else none

/-- Continuation bits of the next `n` bytes, appended to `acc`. -/
def contRun : Nat → Nat → List Byte → Option Nat
  | 0, acc, _ => some acc
  | _ + 1, _, [] => none
  | n + 1, acc, b :: r => match contBits b with
    | some v => contRun n (acc * 64 + v) r
    | none => none

/-- The codepoint at the head of the input and its length in bytes; `none` where no valid UTF-8 sequence starts. -/
def utf8Head : List Byte → Option (Nat × Nat)
  | [] => none
  | b :: r =>
    let v := b.toNat
    if v < 0x80 then some (v, 1)
    else if 0xC0 ≤ v ∧ v < 0xE0 then
      match contRun 1 (v % 32) r with
      | some c => if 0x80 ≤ c then some (c, 2) else none
      | none => none
    else if 0xE0 ≤ v ∧ v < 0xF0 then
      match contRun 2 (v % 16) r with
      | some c => if 0x800 ≤ c ∧ ¬ (0xD800 ≤ c ∧ c ≤ 0xDFFF) then some (c, 3) else none
      | none => none
    else if 0xF0 ≤ v ∧ v < 0xF8 then
      match contRun 3 (v % 8) r with
      | some c => if 0x10000 ≤ c ∧ c ≤ 0x10FFFF then some (c, 4) else none
      | none => none
    else none

/-- The units of an input (R278); `n` bounds the bytes left. -/
def txtUnits : Nat → List Byte → List TxtUnit
  | 0, _ => []
  | _, [] => []
  | n + 1, b :: r =>
    match utf8Head (b :: r) with
    | some (c, k) => { bytes := (b :: r).take k, cp := some c } :: txtUnits n ((b :: r).drop k)
    | none => { bytes := [b], cp := none } :: txtUnits n r

/-- Class of a unit from the two-level class map (R278). -/
def txtClass (ts : List Byte) (u : TxtUnit) : Nat :=
  match u.cp with
  | none => 15
  | some x =>
    let off := field ts 0x18 4
    let leaf := field ts (off + 2 * (x / 256)) 2
    let byte := field ts (off + 8704 + 128 * leaf + (x % 256) / 2) 1
    if x % 2 = 0 then byte % 16 else byte / 16

/-- The pair rule of two classes (R279). -/
def pairRule (ts : List Byte) (a b : Nat) : Nat := field ts (field ts 0x1C 4 + 16 * a + b) 1

/-- Whether any rule places a boundary in the gap between units of classes `a` and `b` followed by class `c`. -/
def gapBreaks (ts : List Byte) (a b : Nat) (c : Option Nat) : Bool :=
  if a = 15 ∨ b = 15 then true
  else pairRule ts a b == 1 ||
    (match c with
     | some c => c != 15 && pairRule ts b c == 2
     | none => false)

/-- Gather units into pieces: `cur` is the piece so far, `size` its bytes; counts the cuts at MAX_PIECE. -/
def gatherPieces (ts : List Byte) (maxPiece : Nat) :
    List (TxtUnit × Nat) → List TxtUnit → Nat → Nat → List (List TxtUnit) × Nat
  | [], cur, _, cuts => (if cur.isEmpty then [] else [cur], cuts)
  | (u, c) :: r, cur, size, cuts =>
    let n := u.bytes.length
    let long := maxPiece < size + n ∧ cur ≠ []
    let cur' := if long then [u] else cur ++ [u]
    let size' := if long then n else size + n
    let cuts' := if long then cuts + 1 else cuts
    let brk : Bool := match r with
      | [] => false
      | (_, b) :: r2 => gapBreaks ts c b (r2.head?.map (·.2))
    let rest := if brk then gatherPieces ts maxPiece r [] 0 cuts' else gatherPieces ts maxPiece r cur' size' cuts'
    let first := (if long then [cur] else []) ++ (if brk then [cur'] else [])
    (first ++ rest.1, rest.2)

/-! ## Symbols and merging (R280 to R282) -/

/-- Token of a byte in the byte map. -/
def byteTok (ts : List Byte) (b : Byte) : Nat := field ts (field ts 0x20 4 + 4 * b.toNat) 4

/-- Linear probe of the character table for a codepoint. -/
def charProbe (ts : List Byte) (x : Nat) : Nat → Nat → Option Nat
  | 0, _ => none
  | n + 1, i =>
    let a := field ts 0x24 4 + 8 * i
    let k := field ts a 4
    if k = 0xFFFF_FFFF then none
    else if k = x then some (field ts (a + 4) 4)
    else charProbe ts x n ((i + 1) % 2 ^ field ts 0x38 1)
def charFind (ts : List Byte) (x : Nat) : Option Nat :=
  let lg := field ts 0x38 1
  charProbe ts x (2 ^ lg) ((x * 0x9E37_79B1 % 2 ^ 32) / 2 ^ (32 - lg))

/-- Symbols of one unit, and the bytes that fell back to the byte map (R280). -/
def unitSyms (ts : List Byte) (u : TxtUnit) : List Nat × Nat :=
  if field ts 5 1 = 0 then (u.bytes.map (byteTok ts), 0)
  else match u.cp.bind (charFind ts) with
    | some t => ([t], 0)
    | none => (u.bytes.map (byteTok ts), u.bytes.length)

/-- Linear probe of the merge table for a pair: result and rank (R281). -/
def mergeProbe (ts : List Byte) (l r : Nat) : Nat → Nat → Option (Nat × Nat)
  | 0, _ => none
  | n + 1, i =>
    let a := field ts 0x28 4 + 16 * i
    let k := field ts a 4
    if k = 0xFFFF_FFFF then none
    else if k = l ∧ field ts (a + 4) 4 = r then some (field ts (a + 8) 4, field ts (a + 12) 4)
    else mergeProbe ts l r n ((i + 1) % 2 ^ field ts 0x39 1)
def mergeFind (ts : List Byte) (l r : Nat) : Option (Nat × Nat) :=
  let lg := field ts 0x39 1
  mergeProbe ts l r (2 ^ lg) ((((l * 0x9E37_79B1 % 2 ^ 32) ^^^ (r * 0x85EB_CA77 % 2 ^ 32))) / 2 ^ (32 - lg))

/-- The pair of lowest rank, leftmost on equal ranks: position, result, rank. -/
def bestMerge (ts : List Byte) : Nat → List Nat → Option (Nat × Nat × Nat)
  | i, a :: b :: r =>
    let rest := bestMerge ts (i + 1) (b :: r)
    match mergeFind ts a b with
    | none => rest
    | some (res, rank) =>
      match rest with
      | none => some (i, res, rank)
      | some (j, res', rank') => if rank ≤ rank' then some (i, res, rank) else some (j, res', rank')
  | _, _ => none

/-- Replace the pair at a position by one symbol. -/
def mergeAt : Nat → Nat → List Nat → List Nat
  | 0, res, _ :: _ :: r => res :: r
  | n + 1, res, a :: r => a :: mergeAt n res r
  | _, _, l => l

/-- The merge loop of R282; each round removes a symbol, so the symbol count bounds the rounds. -/
def mergeLoop (ts : List Byte) : Nat → List Nat → List Nat
  | 0, l => l
  | n + 1, l => match bestMerge ts 0 l with
    | none => l
    | some (i, res, _) => mergeLoop ts n (mergeAt i res l)

/-- What tokenization of a command's bytes gives (R283), with what its counters take. -/
structure Tokenized where
  toks : List Nat
  fallback : Nat
  invalid : Nat
  cuts : Nat
deriving DecidableEq, Repr

def tokenize (ts : List Byte) (bs : List Byte) : Tokenized :=
  let us := (txtUnits bs.length bs).map fun u => (u, txtClass ts u)
  let (ps, cuts) := gatherPieces ts (field ts 6 2) us [] 0 0
  let syms := ps.map fun p => p.map (unitSyms ts)
  { toks := (syms.map fun p => let l := (p.map (·.1)).flatten; mergeLoop ts l.length l).flatten,
    fallback := ((syms.map fun p => (p.map (·.2)).sum)).sum,
    invalid := (us.filter (·.2 == 15)).length, cuts := cuts }

/-! ## Detokenization (R285, R286) -/

/-- Walk PARENT links to the root, each edge in front of what is gathered. -/
def trieWalk (ts : List Byte) : Nat → Nat → List Byte → List Byte
  | 0, _, acc => acc
  | n + 1, node, acc =>
    let a := field ts 0x2C 4 + 32 * node
    let edge := (ts.drop (field ts 0x30 4 + field ts (a + 0x10) 4)).take (field ts (a + 0x14) 2)
    let p := field ts a 4
    if p = 0xFFFF_FFFF then edge ++ acc else trieWalk ts n p (edge ++ acc)

/-- The bytes of a token; a token with no bytes gives none. -/
def tokBytes (ts : List Byte) (t : Nat) : List Byte :=
  let node := field ts (field ts 0x34 4 + 4 * t) 4
  if node = 0xFFFF_FFFF then [] else trieWalk ts 1025 node []

/-! ## Grammars (R287 to R292) -/

/-- A state record's place, and its fields. -/
def gState (g : List Byte) (q : Nat) : Nat := field g 0x10 4 + 32 * q
def gReturn (g : List Byte) (q : Nat) : Bool := bitOf (field g (gState g q + 6) 2) 0
def gAccept (g : List Byte) (q : Nat) : Bool := bitOf (field g (gState g q + 6) 2) 1

/-- The first transition of a kind that covers a byte: TARGET and RETURN. -/
def gTrans (g : List Byte) (q kind b : Nat) : Option (Nat × Nat) :=
  let first := field g (gState g q) 4
  let n := field g (gState g q + 4) 2
  ((List.range n).map fun k => field g 0x14 4 + 16 * (first + k)).findSome? fun a =>
    if field g (a + 2) 1 = kind ∧ field g a 1 ≤ b ∧ b ≤ field g (a + 1) 1 then some (field g (a + 4) 4, field g (a + 8) 4)
    else none

/-- Outcome of one byte of a walk: the new configuration, or a rejection that says whether it was for excess moves. -/
inductive WalkRes where
  | ok (q : Nat) (stack : List Nat)
  | reject (loops : Bool)
deriving DecidableEq, Repr

/-- One byte (R290); the number is how many moves of kinds 2 and 3 are left. -/
def walkByte (g : List Byte) (b : Nat) : Nat → Nat → List Nat → WalkRes
  | n, q, st =>
    match gTrans g q 0 b with
    | some (t, _) => .ok t st
    | none =>
      match n with
      | 0 => if (gTrans g q 1 b).isSome ∧ st.length ≠ field g 0x24 2 ∨ ((gTrans g q 1 b).isNone ∧ gReturn g q ∧ st ≠ [])
             then .reject true else .reject false
      | n + 1 =>
        match gTrans g q 1 b with
        | some (t, r) => if st.length = field g 0x24 2 then .reject false else walkByte g b n t (r :: st)
        | none =>
          match gReturn g q, st with
          | true, p :: rest => walkByte g b n p rest
          | _, _ => .reject false

/-- A run of bytes from a configuration. -/
def walkBytes (g : List Byte) : List Byte → Nat → List Nat → WalkRes
  | [], q, st => .ok q st
  | b :: r, q, st => match walkByte g b.toNat 8 q st with
    | .ok q' st' => walkBytes g r q' st'
    | .reject l => .reject l

/-- ACCEPT with depth 0 is reached by returns alone (R291, step 3). -/
def acceptsEnd (g : List Byte) : Nat → List Nat → Bool
  | q, [] => gAccept g q
  | q, p :: r => gReturn g q && acceptsEnd g p r

/-- The dead state (R291). -/
def gDead : Nat := 0xFFFF_FFFF

/-- Tokens listed by the ranges of a state, and its dependent tokens. -/
def gRangeToks (g : List Byte) (q : Nat) : List Nat :=
  ((List.range (field g (gState g q + 12) 4)).map fun k =>
    let a := field g 0x18 4 + 8 * (field g (gState g q + 8) 4 + k)
    (List.range (field g (a + 4) 4)).map (· + field g a 4)).flatten
def gDepToks (g : List Byte) (q : Nat) : List Nat :=
  (List.range (field g (gState g q + 0x14) 2)).map fun k => field g (field g 0x1C 4 + 4 * (field g (gState g q + 0x10) 4 + k)) 4

/-- The mask of a configuration (R291), and the bytes its walks rejected for excess moves. -/
def maskOf (ts g : List Byte) (vocab : Nat) (ends : List Nat) (q : Nat) (st : List Nat) : Mask × Nat :=
  if q = gDead then ({ allowed := [], empty := true }, 0)
  else
    let walks := (gDepToks g q).map fun t => (t, walkBytes g (tokBytes ts t) q st)
    let deps := walks.filterMap fun p => match p.2 with
      | .ok _ _ => some p.1
      | _ => none
    let loops := (walks.filter fun p => p.2 == .reject true).length
    let toks := (gRangeToks g q ++ deps).filter fun t => decide (t < vocab) && !(tokBytes ts t).isEmpty && !ends.contains t
    let all := toks ++ (if acceptsEnd g q st then ends.filter (· < vocab) else [])
    ({ allowed := all, empty := all.isEmpty }, loops)

/-- Tokenizer set of a model slot, and the set's bytes. -/
def modelSet (m : Nat) (s : State) : List Byte := sgetD s.tokSets (rd (TXT_MODEL.SET m) s) []
/-- The end tokens of a model slot (R273). -/
def modelEnds (m : Nat) (s : State) : List Nat :=
  [rd (DEC_END.END0 m) s, rd (DEC_END.END1 m) s, rd (DEC_END.END2 m) s].filter (· != 0xF_FFFF)

def showMaskQ (s : State) : State :=
  raise TXT_MASK_STATUS.MAX_QUEUED s.maskQ.length (wr TXT_MASK_STATUS.QUEUED s.maskQ.length s)

/-- Ask the mask unit for a session's mask (R251, R293); a mask already formed for the next draw is replaced. -/
def requestMask (i : Nat) (s : State) : State :=
  let s := modSess i (fun x => { x with mask := none }) s
  if (descOf i s).grammarId = 0xFFFF then { s with maskQ := s.maskQ.filter (· != i) }
  else showMaskQ { s with maskQ := s.maskQ.filter (· != i) ++ [i] }

/-- A session's allocation of a kind holds an uncorrectable codeword. -/
def allocBad (i kind : Nat) (s : State) : Option Alloc := (sessOf i s).allocs.find? fun a => a.kind == kind && poisonIn a.addr a.bytes s
/-- A grammar pushdown stack that reads poisoned (R467): the grammar is dead, and the next draw meets an EMPTY mask. -/
def mendGrammar (i : Nat) (s : State) : State :=
  match allocBad i 5 s with
  | none => s
  | some a =>
    let s := bump REL_GRAMMAR_RESETS.COUNT 1 (mendRead a.addr a.bytes s)
    modDesc i (fun d => { d with grammarState := gDead })
      (modSess i (fun x => { x with gstack := [], mask := some { allowed := [], empty := true } }) s)
/-- The tokenizer set of a model slot reads poisoned (R467). -/
def tokBad (m : Nat) (s : State) : Bool := s.badToks.contains (rd (TXT_MODEL.SET m) s)

/-- The mask unit forms the mask of the first request in its queue and sends it to the decoding tile (R291, R293). A poisoned set or
grammar gives an EMPTY one (R467). -/
def formNextMask (s : State) : State :=
  match s.maskQ with
  | [] => s
  | i :: rest =>
    let s := mendGrammar i s
    let d := descOf i s
    if tokBad d.model s || s.badGrams.contains d.grammarId then
      modSess i (fun x => { x with mask := some { allowed := [], empty := true } })
        (bump TXT_MASKS.COUNT 1 (bump REL_TABLE_FAULTS.COUNT 1 (showMaskQ { s with maskQ := rest })))
    else
    let g := sgetD s.grams d.grammarId []
    let (m, loops) := maskOf (modelSet d.model s) g (rd (DEC_MODEL.VOCAB d.model) s) (modelEnds d.model s) d.grammarState (sessOf i s).gstack
    let s := showMaskQ { s with maskQ := rest }
    let s := bump TXT_MASKS.COUNT 1 (bump TXT_GRAM_LOOPS.COUNT loops s)
    modSess i (fun x => { x with mask := some m }) s

/-- GRAMMAR_MASK (R291). -/
def execGrammarMask (s : State) : Host.Outcome State Fault Refusal := whenServing s formNextMask

/-- A committed token walks the grammar (R292): the new configuration, or the dead state where a byte is rejected. -/
def grammarCommit (i tok : Nat) (s : State) : State :=
  let d := descOf i s
  if d.grammarId = 0xFFFF ∨ (modelEnds d.model s).contains tok then s
  else
    let g := sgetD s.grams d.grammarId []
    match walkBytes g (tokBytes (modelSet d.model s) tok) d.grammarState (sessOf i s).gstack with
    | .ok q st =>
      dirtyKind i 5 0 4096 (modDesc i (fun d => { d with grammarState := q, grammarDepth := st.length }) (modSess i (fun x => { x with gstack := st }) s))
    | .reject l =>
      let s := if l then bump TXT_GRAM_LOOPS.COUNT 1 s else s
      bump TXT_GRAM_OVERFLOW.COUNT 1 (modDesc i (fun d => { d with grammarState := gDead }) s)

/-! ## Loading grammars (R288) -/

/-- A compiled grammar's header and references are in range (R287), against a held tokenizer set. -/
def gramOk (g : List Byte) (s : State) : Bool :=
  let n := field g 8 4
  let bytes := field g 0x20 4
  let ts := sgetD s.tokSets (field g 6 1) []
  let vocab := field ts 8 4
  field g 0 4 == 0x4752_4D31 && field g 4 2 == 1 && field g 7 1 == 0 && decide (1 ≤ n) && decide (n ≤ 2 ^ 24) &&
    decide (field g 0xC 4 < n) && decide (bytes ≤ 0x100_0000) && decide (1 ≤ field g 0x24 2) && decide (field g 0x24 2 ≤ 1024) &&
    (g.drop 0x26).take 26 == List.replicate 26 0#8 && (sget s.tokSets (field g 6 1)).isSome &&
    (List.range n).all fun q =>
      let a := gState g q
      decide (a + 32 ≤ bytes) && decide (field g (a + 0x14) 2 ≤ 4096) && decide (field g (a + 0x18) 4 ≤ 16384) &&
        field g (a + 0x16) 2 == 0 && field g (a + 0x1C) 4 == 0 && decide (field g (a + 6) 2 < 4) &&
        (List.range (field g (a + 4) 2)).all (fun k =>
          let t := field g 0x14 4 + 16 * (field g a 4 + k)
          decide (t + 16 ≤ bytes) && decide (field g (t + 2) 1 ≤ 1) && decide (field g (t + 4) 4 < n) &&
            (field g (t + 2) 1 == 0 || decide (field g (t + 8) 4 < n)) && field g (t + 3) 1 == 0 && field g (t + 12) 4 == 0) &&
        (List.range (field g (a + 12) 4)).all (fun k =>
          let r := field g 0x18 4 + 8 * (field g (a + 8) 4 + k)
          decide (r + 8 ≤ bytes) && decide (field g r 4 + field g (r + 4) 4 ≤ vocab)) &&
        (gDepToks g q).all (· < vocab) &&
        decide (field g 0x1C 4 + 4 * (field g (a + 0x10) 4 + field g (a + 0x14) 2) ≤ bytes) &&
        decide (((gDepToks g q).map fun t => (tokBytes ts t).length).sum = field g (a + 0x18) 4)

def gramStoreBytes (s : State) : Nat := (s.grams.map fun p => p.2.length).sum
/-- A session that is not FREE names a grammar slot (R288). -/
def gramInUse (slot : Nat) (s : State) : Bool := s.desc.any fun p => p.2.st != stFree && p.2.grammarId == slot

def gramDone (status : Nat) (s : State) : State :=
  wr TXT_GRAM_STATUS.STATUS status (wr TXT_GRAM_STATUS.BUSY 0
    (wr TXT_GRAM_STATUS.LOADED s.grams.length
      (wr TXT_GRAM_STATUS.STORE_USED_MIB (ceilDiv (gramStoreBytes s) 0x10_0000) s)))

/-- LOAD of the compiled grammar at a bonded-tier address (R288); where several statuses apply, REJECTED, then BUSY, then CAPACITY (DESIGN CHOICE, log 167). -/
def gramLoad (slot addr : Nat) (s : State) : State :=
  let g := memRead s addr (field (memRead s addr 0x40) 0x20 4)
  if !gramOk g s then gramDone sRejected s
  else if gramInUse slot s then gramDone sBusy s
  else if rd TXT_GRAM_STATUS.STORE_MIB s * 0x10_0000 < gramStoreBytes { s with grams := sdel s.grams slot } + g.length then
    gramDone sCapacity s
  else gramDone sOk { s with grams := sset s.grams slot g, badGrams := s.badGrams.filter (· != slot) }

/-- UNLOAD of a slot (R288). -/
def gramUnload (slot : Nat) (s : State) : State :=
  if (sget s.grams slot).isNone then gramDone sOk s
  else if gramInUse slot s then gramDone sBusy s
  else gramDone sOk { s with grams := sdel s.grams slot, badGrams := s.badGrams.filter (· != slot) }

/-- GRAM_LOAD (R288): a write of TXT_GRAM_LOAD with OP 1. -/
def execGramLoad (slot addr : Nat) (s : State) : Host.Outcome State Fault Refusal := whenServing s (gramLoad slot addr)
/-- GRAM_UNLOAD (R288): a write of TXT_GRAM_LOAD with OP 2. -/
def execGramUnload (slot : Nat) (s : State) : Host.Outcome State Fault Refusal := whenServing s (gramUnload slot)

end Sys2Proof.Machine
end

