-- ==== Sys2Proof/Machine/SessionOps.lean ====
section
/-!
DEFINITION. Sys2Proof/Machine/SessionOps.lean: what the session table unit does to a session, shared by commands, transits, batch
steps and expiry: storage and its release, turn ends, expiry, queueing of transits, and the frame every session command has.
-/
namespace Sys2Proof.Machine

/-! ## Storage (R200 to R211) -/

def modelOf (m : Nat) (s : State) : Model := sgetD s.models m {}
/-- Home tile of a layer of a model. -/
def homeTile (m : Model) (l : Nat) : Nat := ((m.layers.drop l).head?.getD (0, 0, false)).2.1
/-- Tokens per page and pages per span of a page class (R201). -/
def pageTokens (c : Nat) : Nat := 16 * 2 ^ c
def pagesPerSpan (c : Nat) : Nat := 1024 / pageTokens c
/-- Bytes of a page of a class in FP8 (R202). -/
def pageBytes (m : Model) (c : Nat) : Nat := 2 * m.kvHeads * pageTokens c * m.headDim
/-- Bytes of a page narrowed from FP8 to a format (R142). -/
def narrowBytes (fp8 fmt : Nat) : Nat := if fmt = 1 then fp8 / 32 * 25 else if fmt = 2 then fp8 / 32 * 17 else fp8
def leafBytes (m : Model) (c : Nat) : Nat := m.layers.length * (16 + 16 * pagesPerSpan c)
/-- Bytes of the summary blocks of one span over all layers (R208). -/
def summaryBytes (m : Model) (c : Nat) : Nat :=
  if m.sparseThresh = 0 then 0 else m.layers.length * m.kvHeads * (pagesPerSpan c + 1) * 4 * m.headDim
def rootBytes (cap : Nat) : Nat := 64 + 16 * cap

/-- Page class of a span. -/
def spanCls (x : Sess) (sp : Nat) : Nat := ((x.spans.drop sp).head?.map (·.cls)).getD 0
/-- The pages that the positions from `start` on lie in: layer, span, slot. -/
def pagesNeeded (m : Model) (spans : List Span) (start count : Nat) : List (Nat × Nat × Nat) :=
  if count = 0 then []
  else ((List.range spans.length).zip spans |>.map fun (sp, x) =>
    ((List.range (pagesPerSpan x.cls)).filter fun k =>
      decide (sp * 1024 + k * pageTokens x.cls < start + count) && decide (start < sp * 1024 + (k + 1) * pageTokens x.cls)).flatMap
        fun k => (List.range m.layers.length).map fun l => (l, sp, k)).flatten
/-- A page of a session that is allocated. -/
def hasPage (x : Sess) (w : Nat × Nat × Nat) : Bool := x.pages.any fun p => p.layer == w.1 && p.span == w.2.1 && p.slot == w.2.2
/-- A session's spans, with those that positions up to `n` open; each of the latter has DECODE_CLASS. -/
def spansTo (m : Model) (x : Sess) (n : Nat) : List Span :=
  x.spans ++ List.replicate (ceilDiv n 1024 - x.spans.length) { leafAddr := 0, cls := m.decodeClass }
/-- What the `n` positions reserved beyond the committed `c` take of the pool: the pages not yet allocated, whole, in FP8, with the leaves and summary
blocks of the spans they open (R211), and the page bytes among it. -/
def reserveNeed (m : Model) (x : Sess) (c n : Nat) : Nat × Nat :=
  let spans := spansTo m x (c + n)
  let pages := (((pagesNeeded m spans c n).filter fun w => !hasPage x w).map fun w => pageBytes m (((spans.drop w.2.1).head?.map (·.cls)).getD 0)).sum
  (pages + (spans.length - x.spans.length) * (leafBytes m m.decodeClass + summaryBytes m m.decodeClass), pages)

/-- Most positions of a context (R201). -/
def maxPositions : Nat := 2097152

/-- Channels where the protected state of a model's sessions may lie (R571). -/
def protChans (m : Model) (s : State) : List Nat := (tileChans (homeTile m 0)).filter fun g => chProtectedOk g s
/-- Channels where pages of a layer may lie. A class-0 session's are in MEMORY mode (R56). -/
def pageChans (m : Model) (l cls : Nat) (s : State) : List Nat :=
  (tileChans (homeTile m l)).filter fun g => chProtectedOk g s && (cls != 0 || !chProcessor g s)
/-- Raw channels of a layer's home tile that no index names (R571). -/
def summaryChans (m : Model) (l : Nat) (s : State) : List Nat :=
  (tileChans (homeTile m l)).filter fun g => g % 32 != 0 && chRaw g s && !(s.vecChans.contains g)

/-- Allocate a piece of a session's state in one of some channels, drawing its bytes from the pool. -/
def allocStateIn (chans : List Nat) (i kind bytes : Nat) (s : State) : Option (Nat × State) :=
  match allocIn chans bytes s with
  | none => none
  | some (g, a, s) =>
    some (a, charge (descOf i s).cls bytes (modSess i (fun x => { x with allocs := { kind := kind, chan := g, addr := a, bytes := bytes } :: x.allocs }) s))
/-- Allocate a piece of a session's protected state, drawing its bytes from the pool. -/
def allocState (i kind bytes : Nat) (s : State) : Option (Nat × State) :=
  allocStateIn (protChans (modelOf (descOf i s).model s) s) i kind bytes s

/-- Give back one allocation. -/
def freeAlloc (cls : Nat) (s : State) (a : Alloc) : State := refund cls a.bytes (chanGive a.chan a.addr a.bytes s)

/-- Give back a session's allocations of one kind. -/
def freeKind (i kind : Nat) (s : State) : State :=
  let x := sessOf i s
  let s := (x.allocs.filter (·.kind == kind)).foldl (freeAlloc (descOf i s).cls) s
  modSess i (fun x => { x with allocs := x.allocs.filter (·.kind != kind) }) s

/-- Keep the pending-input buffer at the size of the pending tokens (R203). Where neither the pool nor a channel has room for it, it stays as it was. -/
def fitPending (i : Nat) (s : State) : State :=
  let t := freeKind i 6 s
  let n := 4 * (sessOf i s).pendTok.length
  if n = 0 then t else if !canSupply (descOf i s).cls n t then s
  else match allocState i 6 n t with
    | some (_, t) => t
    | none => s

/-- A session's reservation gives up to `n` bytes back to the pool, for what is now allocated (R211). -/
def drawResv (i n : Nat) (s : State) : State :=
  let k := min (sessOf i s).resvBytes n
  refund (descOf i s).cls k (modSess i (fun x => { x with resvBytes := x.resvBytes - k }) s)
/-- After a commit the reservation covers the positions still reserved, and no more (R213). -/
def fitReserve (i : Nat) (s : State) : State :=
  let x := sessOf i s
  let need := (reserveNeed (modelOf (descOf i s).model s) x (descOf i s).tokenCount x.resvTokens).1
  drawResv i (x.resvBytes - need) s

/-! ## Root caches (R207) -/

/-- The tiles whose paging units serve a session: those where partitions of its model have arrays. -/
def rootTiles (i : Nat) (s : State) : List Nat :=
  (List.range 4).filter fun t => s.parts.any fun q => q.2.model == (descOf i s).model && q.2.ranks.any fun a => a / 512 == t
def rootOn (t i : Nat) (s : State) : Bool := (sgetD s.rootCache t []).contains i
/-- Show a tile's root cache. -/
def showRoots (t : Nat) (s : State) : State :=
  let l := sgetD s.rootCache t []
  wr (KVP_ROOT_CACHE.ENTRIES t) l.length (wr (KVP_ROOT_CACHE.CLASS0 t) (l.filter fun i => (descOf i s).cls == 0).length s)
/-- A root cache takes an entry: 32,768 at most. A full one loses the entry used least recently of those that are not class 0's; where there is none, a
class-0 session's entry replaces another's, and one of another class is not taken. -/
def rootEnter (cap i : Nat) (c0 : Nat → Bool) (l : List Nat) : List Nat :=
  if l.contains i then i :: l.erase i
  else if l.length < cap then i :: l
  else match (l.reverse.find? fun j => !c0 j), c0 i with
    | some j, _ => i :: l.erase j
    | none, true => i :: l.dropLast
    | none, false => l
/-- A session's root enters the cache of a tile, or is used there. -/
def rootUse (i t : Nat) (s : State) : State :=
  showRoots t { s with rootCache := sset s.rootCache t (rootEnter 32768 i (fun j => (descOf j s).cls == 0) (sgetD s.rootCache t [])) }
/-- The session enters the paging units' root caches: at batch-ready, and at a launch that names it. -/
def cacheRoot (i : Nat) (s : State) : State := (rootTiles i s).foldl (fun s t => rootUse i t s) s
/-- A kernel's arrays on a tile read the root: a miss is counted and loads it. -/
def rootRead (i : Nat) (s : State) (t : Nat) : State := rootUse i t (if rootOn t i s then s else bump (KVP_ROOT_CACHE.MISSES t) 1 s)
/-- A session that leaves the bonded tier leaves the root caches. -/
def dropRoot (i : Nat) (s : State) : State :=
  (List.range 4).foldl (fun s t => if rootOn t i s then showRoots t { s with rootCache := sset s.rootCache t ((sgetD s.rootCache t []).erase i) } else s) s

/-! ## Span summaries (R209) -/

/-- The operation that forms the span summary of a layer and head. -/
def spanOp (i sp layer h : Nat) (a : Alloc) (s : State) : BankOp :=
  let d := (modelOf (descOf i s).model s).headDim
  let n := pagesPerSpan (spanCls (sessOf i s) sp)
  let base := a.addr + h * (n + 1) * 4 * d
  { op := 5, tag := layer * 64 + h, src := base, dst := base + n * 4 * d, len := n * d / 16, stride := 4 * d, a := 1, b := 0, issuer := 3,
    ref := i * 4096 + sp }
/-- Issue one operation of a job, where its channel's queue has room. -/
def spanIssue (j : SpanJob) (acc : SpanJob × State) (w : Nat × Nat) : SpanJob × State :=
  match (sessOf j.idx acc.2).allocs.find? fun a => a.kind == 7 && a.layer == w.1 && a.span == j.span with
  | none => acc
  | some a =>
    if 16 ≤ (bankOps a.chan acc.2).length then ({ acc.1 with todo := acc.1.todo ++ [w] }, acc.2)
    else ({ acc.1 with left := acc.1.left + 1 },
      setBankOps a.chan (bankOps a.chan acc.2 ++ [spanOp j.idx j.span w.1 w.2 a acc.2]) acc.2)
/-- The paging units issue what they can of the operations that wait. -/
def issueSpans (s : State) : State :=
  s.spanJobs.foldl (fun s j =>
    let (j', s) := j.todo.foldl (spanIssue j) ({ j with todo := [] }, s)
    { s with spanJobs := s.spanJobs.map fun x => if x = j then j' else x }) s
/-- The spans of a session that are full, and have no valid summary and no job for one, get their job. -/
def startSpans (i : Nat) (s : State) : State :=
  let m := modelOf (descOf i s).model s
  let x := sessOf i s
  if m.sparseThresh = 0 then s
  else
    let due := (List.range x.spans.length).filter fun sp => ((x.spans.drop sp).head?.map fun e => e.fill == 1024 && !e.sumValid).getD false &&
      !(s.spanJobs.any fun j => j.idx == i && j.span == sp)
    if due = [] then s
    else issueSpans { s with spanJobs := s.spanJobs ++ due.map fun sp =>
      { idx := i, span := sp, todo := (List.range m.layers.length).flatMap fun l => (List.range m.kvHeads).map fun h => (l, h) } }
/-- An operation of a job has ended, or is to be issued again. -/
def spanBack (o : BankOp) (again : Bool) (s : State) : State :=
  { s with spanJobs := s.spanJobs.map fun j => if j.idx = o.ref / 4096 ∧ j.span = o.ref % 4096 then
      { j with left := j.left - 1, todo := if again then j.todo ++ [(o.tag / 64, o.tag % 64)] else j.todo } else j }
/-- The jobs of a session end with its storage: its operations leave the queues, and the channels they leave are asked to return. -/
def dropSpans (i : Nat) (s : State) : State :=
  if s.spanJobs.any (fun j => j.idx == i) then
    let mine := fun (o : BankOp) => o.issuer == 3 && o.ref / 4096 == i
    let hit := s.bankQ.filter fun q => q.2.any mine
    askReturn (hit.map (·.1)) (hit.foldl (fun s q => setBankOps q.1 (q.2.filter fun o => !mine o) s) { s with spanJobs := s.spanJobs.filter (·.idx != i) })
  else s

/-- A page that lies in the bonded tier. -/
def resident (p : Page) : Bool := !p.deepHeld

/-- Give back everything a session holds in the bonded tier (row 5 of R138): pages, page tables, summaries, penalty table, stop
block, grammar stack, pending input, and what is left of its reservation. -/
def releaseBonded (i : Nat) (s : State) : State :=
  let x := sessOf i s
  let c := (descOf i s).cls
  let s := (x.pages.filter resident).foldl (fun s p => refund c p.bytes (pageGive p.chan p.addr p.bytes s)) s
  let s := x.allocs.foldl (freeAlloc c) s
  let s := refund c x.resvBytes s
  let s := dropSpans i (dropRoot i (putSess i { x with allocs := [], resvBytes := 0 } s))
  { s with fetchQ := s.fetchQ.filter (fun f => f.2.1 != i), fetchFly := s.fetchFly.filter (fun f => f.2.1 != i) }

/-- Bytes a session would take again in the bonded tier on a full revival (row 2 of R144). -/
def reviveBytes (i : Nat) (s : State) : Nat :=
  let x := sessOf i s
  let d := descOf i s
  let m := modelOf d.model s
  (x.pages.map (·.bytes)).sum + (x.spans.map fun p => leafBytes m p.cls + summaryBytes m p.cls).sum + rootBytes x.spanCap +
    32832 + 512 + (if d.grammarId = 0xFFFF then 0 else 4096) + 4 * x.pendTok.length +
    (reserveNeed m x d.tokenCount x.resvTokens).1

/-! ## Deep-tier and host-tier space (R99 to R101, R107, R108) -/

/-- Whether a deep-tier chunk is free, and the count of allocated chunks. -/
def chunkFree (s : State) (k : Nat) : Bool := (sget s.chunkMap k).isNone
def deepUsed (s : State) : Nat := s.chunkMap.length
/-- Show the deep tier's capacity (R101, R126). -/
def showDeep (s : State) : State := wr DPT_CAPACITY.USED_MIB (ceilDiv (deepUsed s * 65536) 0x10_0000) s
/-- The deep tier can take `n` more chunks of parked images (R101). -/
def deepRoom (n : Nat) (s : State) : Bool := decide ((deepUsed s + n) * 65536 ≤ rd DPT_CAPACITY.ALLOC_MIB s * 0x10_0000)
/-- First logical chunk of the parking pool: past the hang-dump, model-copy and checkpoint areas. -/
def parkBase (s : State) : Nat := 0x1_0000 + (s.modelCopyGib + s.ckptGib) * 0x4000
/-- Logical chunks of the deep tier. -/
def deepChunks : Nat := 50331648

/-- A run of `n` numbers from `base` up to `limit` that a rising list of used ones leaves free, lowest first. -/
def firstGap (n limit : Nat) : Nat → List Nat → Option Nat
  | base, [] => if base + n ≤ limit then some base else none
  | base, u :: r => if u < base then firstGap n limit base r
                    else if base + n ≤ u then some base else firstGap n limit (u + 1) r

/-- The place of a run of `n` units: the device's choice (R203), free among the runs that are free. -/
def pickRun (n base limit : Nat) (used : List Nat) (s : State) : Option Nat :=
  let g := base + Config.openNat s.fresh % (limit - base)
  if g + n ≤ limit ∧ used.all (fun u => decide (u < g) || decide (g + n ≤ u)) then some g else firstGap n limit base used

/-- A deep-tier channel serves and is not being drained or trained. -/
def deepServes (c : Nat) (s : State) : Bool :=
  deepOnline c s && !(rd DPT_RETRAIN_STATUS.CHANNEL s == c && (rd DPT_RETRAIN_STATUS.PHASE s == 2 || rd DPT_RETRAIN_STATUS.PHASE s == 3))
def slotTaken (c sl : Nat) (s : State) : Bool := s.chunkMap.any fun p => p.2 == c * 2 ^ 19 + sl
/-- A free slot of a channel, if it has one. -/
def freeSlotOn (c : Nat) (s : State) : Option Nat :=
  firstGap 1 524288 0 (sortNats ((s.chunkMap.filter fun p => p.2 / 2 ^ 19 == c).map (·.2 % 2 ^ 19)))
/-- Where a logical chunk is put (R99, R103): its home where that serves and is free, else a free slot elsewhere. -/
def deepPlace (k : Nat) (s : State) : Option Nat :=
  if deepServes (k % 96) s && !slotTaken (k % 96) (k / 96) s then some ((k % 96) * 2 ^ 19 + k / 96)
  else (List.range 96).findSome? fun c =>
    if deepServes c s then (freeSlotOn c s).map fun sl => c * 2 ^ 19 + sl else none
/-- Mark logical chunks allocated (R100). -/
def takeChunks (ks : List Nat) (s : State) : Option State :=
  ks.foldl (fun o k => o.bind fun s => (deepPlace k s).map fun v => { s with chunkMap := sset s.chunkMap k v }) (some s)
/-- Allocate a run of `n` chunks between two logical chunk numbers. -/
def allocDeep (n lo hi : Nat) (s : State) : Option (List Nat × State) :=
  if !deepRoom n s then none
  else match pickRun n lo hi (s.chunkMap.map (·.1)) s with
    | none => none
    | some c =>
      let ks := (List.range n).map (· + c)
      (takeChunks ks { s with fresh := s.fresh + 1 }).map fun s => (ks, showDeep s)
/-- Give back logical chunks. -/
def freeDeep (ks : List Nat) (s : State) : State :=
  showDeep { s with chunkMap := s.chunkMap.filter fun p => !ks.contains p.1 }

/-- The deep-tier channel that holds a logical chunk (R99, R100). -/
def chunkChan (c : Nat) (s : State) : Nat := sgetD s.chunkMap c ((c % 96) * 2 ^ 19 + c / 96) / 2 ^ 19
/-- The chunk whose map entry lies at an address of the chunk-map areas of channel 0 (R93). -/
def mapEntryAt (a : Nat) : Nat :=
  let o := stackOff a - 0x600_0000
  1024 * (24 * (o % 0x80_0000 / 4096) + (if 0x80_0000 ≤ o then (stackOf a + 12) % 24 else stackOf a)) + o % 4096 / 4
/-- Where the copies of a chunk's map entry lie (R93). -/
def mapAddr (c : Nat) (second : Bool) : Nat :=
  let h := c / 1024
  (h + (if second then 12 else 0)) % 24 * 0x12_0000_0000 + (if second then 0x680_0000 else 0x600_0000) + h / 24 * 4096 + c % 1024 * 4
/-- A copy of a structure reads: its tile is online, and it is not poisoned. -/
def copyReads (a n : Nat) (s : State) : Bool := stackOnline (stackOf a) s && !poisonIn a n s
/-- Neither copy of a chunk's map entry reads. -/
def mapLost (c : Nat) (s : State) : Bool := !copyReads (mapAddr c false) 4 s && !copyReads (mapAddr c true) 4 s
/-- Of two copies, one reads poisoned and the other well: it is rewritten (R467). -/
def mendCopies (a b n : Nat) (s : State) : State :=
  if s.poison = [] then s
  else if copyReads b n s && stackOnline (stackOf a) s && poisonIn a n s then bump REL_REWRITES.COUNT 1 (mendRead a n s)
  else if copyReads a n s && stackOnline (stackOf b) s && poisonIn b n s then bump REL_REWRITES.COUNT 1 (mendRead b n s)
  else s
/-- A chunk's map entry is read; a poisoned copy is rewritten from the other (DEDUCED, log 168). -/
def readMap (c : Nat) (s : State) : State := mendCopies (mapAddr c false) (mapAddr c true) 4 s
/-- A chunk goes over its channel's link (R105): how many errors its link ECC corrects, and how many of the two repeats a read takes, is open. -/
def linkUse (c : Nat) (s : State) : State :=
  let k := chunkChan c s
  bump (DPT_ERR.LINK_CORRECTED k) (Config.openNat s.fresh) (bump (DPT_ERR.RETRIES k) (Config.openNat (s.fresh + 1) % 3) { s with fresh := s.fresh + 2 })

/-- The 64 KiB units of a host region (R108): UNITS counts 2 MiB. -/
def regionSize (r : Nat) (s : State) : Nat := 32 * rd (HIF_HTIER_SIZE.UNITS r) s
/-- Units of a host region in use. -/
def regionUnits (r : Nat) (s : State) : List Nat := (s.hostUnits.filter fun p => p.1 / 2 ^ 24 == r).map (·.1 % 2 ^ 24)
def showRegion (r : Nat) (s : State) : State :=
  wr (HIF_HTIER_SIZE.USED_MIB r) (ceilDiv ((regionUnits r s).length * 65536) 0x10_0000) s
/-- Allocate units in one host region. -/
def allocRegion (n r : Nat) (s : State) : Option (Nat × List Nat × State) :=
  if !isSet (HIF_HTIER_BASE.ENABLE r) s then none
  else match pickRun n 0 (regionSize r s) (regionUnits r s) s with
    | none => none
    | some u =>
      let us := (List.range n).map (· + u)
      some (r, us, showRegion r { s with fresh := s.fresh + 1, hostUnits := us.foldl (fun m k => sset m (r * 2 ^ 24 + k) 1) s.hostUnits })
/-- Allocate units in the region named, or in any enabled one (R132). -/
def allocHost (n region : Nat) (s : State) : Option (Nat × List Nat × State) :=
  if region = 0xFFFF then (List.range 64).findSome? fun r => allocRegion n r s else allocRegion n region s
def freeHost (r : Nat) (us : List Nat) (s : State) : State :=
  showRegion r { s with hostUnits := s.hostUnits.filter fun p => !(p.1 / 2 ^ 24 == r && us.contains (p.1 % 2 ^ 24)) }

/-- Allocated chunks that lie on a channel. -/
def chunksOn (k : Nat) (s : State) : List Nat := (s.chunkMap.filter fun p => p.2 / 2 ^ 19 == k).map (·.1)

/-- A deep-tier channel is retired (R472, R474): out of service, its chunks to be evacuated. -/
def retireDeep (k : Nat) (s : State) : State :=
  let s := bump REL_DEEP_RETIRED.COUNT 1 (setDeepOnline k false (setDeepRetired k true s))
  c0Refresh (setDeepDegraded true { s with deepLeaving := s.deepLeaving ++ [k], moving := s.moving ++ chunksOn k s })
/-- An uncorrectable read of a deep-tier channel: counted, and the channel retired at the limit (R105, R472). -/
def deepUe (k : Nat) (s : State) : State :=
  let s := bump (DPT_ERR.UNCORRECTABLE k) 1 s
  let old := ((sget s.deepUeLog k).getD []).filter fun e => decide (s.cad.edges < e + rd REL_UE_WINDOW.CH_UE_WINDOW s)
  let s := { s with deepUeLog := sset s.deepUeLog k (s.cad.edges :: old) }
  if deepOnline k s ∧ max 1 (rd REL_CFG.CH_UE_LIMIT s) ≤ old.length + 1 then retireDeep k s else s
/-- The deep tier can take a run of `n` chunks of the parking pool (R101): within ALLOC_MIB, at consecutive logical chunks, with a slot for each on
a serving channel. -/
def deepFits (n : Nat) (s : State) : Bool :=
  deepRoom n s && (firstGap n deepChunks (parkBase s) (s.chunkMap.map (·.1))).isSome &&
    decide (n ≤ ((List.range 96).map fun c => if deepServes c s then 524288 - (s.chunkMap.filter fun p => p.2 / 2 ^ 19 == c).length else 0).sum)
/-- A host region has room for a run of `n` units: the one named, or any enabled one. -/
def hostFits (n region : Nat) (s : State) : Bool :=
  (if region = 0xFFFF then List.range 64 else [region]).any fun r =>
    isSet (HIF_HTIER_BASE.ENABLE r) s && (firstGap n (regionSize r s) 0 (regionUnits r s)).isSome

/-- A parked image's chunks are released. -/
def releaseImage (i : Nat) (s : State) : State :=
  match (sessOf i s).image with
  | none => s
  | some im =>
    let s := if im.tier = 0 then freeDeep im.chunks s else freeHost im.region im.chunks s
    modSess i (fun x => { x with image := none }) s

/-- Where a slot's entry of the session key table lies (R502). -/
def keyAt (i : Nat) (s : State) : Option Nat := (sget s.keyExts (i / 32768)).map (· + 64 * (i % 32768))
/-- A slot's entry of the session key table is written: a new codeword (R502). -/
def wroteKey (i : Nat) (s : State) : State := (keyAt i s).elim s fun a => memClear a 64 s
/-- Erase a session's key: its entry is zeroed (R503). -/
def dropKey (i : Nat) (s : State) : State :=
  if (sessOf i s).key.isSome then wroteKey i (drop SEC_KEYS.SESSION_KEYS 1 (modSess i (fun x => { x with key := none, imported := false }) s)) else s
/-- A new session key in a slot's entry (R503, R504). -/
def giveKey (i key : Nat) (imported : Bool) (s : State) : State :=
  bump SEC_KEYS.SESSION_KEYS 1 (wroteKey i (modSess i (fun x => { x with key := some key, imported := imported }) s))
/-- An unwrap finds the entry poisoned (R503). -/
def unwrapFails (i : Nat) (s : State) : Bool := (keyAt i s).any fun a => poisonIn a 64 s

/-- A session that ends leaves the directory (R386), and its mirror is dropped (R387). -/
def unlist (i : Nat) (s : State) : State :=
  let x := sessOf i s
  let s := match x.dirKey with
    | some k => dropEntry k s
    | none => s
  let s := if x.mirrored then { s with fabOut := { type := 0x17, dst := (descOf i s).mirrorModule, args := [0, (descOf i s).handle] } :: s.fabOut } else s
  modSess i (fun x => { x with dirKey := none, mirrored := false }) s

/-! ## Turn ends and state changes (R40) -/

/-- The payload of a TURN_END record (R269). -/
def turnEndRec (d : Desc) (x : Sess) (reason tick : Nat) (noFinite : Bool) (trim : Nat) (stopIdx : Nat) : Rec :=
  { type := 3, flags := 0, turnId := d.turnId, handle := d.handle,
    payload := leBytes 1 reason ++
      leBytes 1 (b2n x.partialTok + 2 * b2n d.capHit + 4 * b2n noFinite + 8 * b2n d.penOverflow) ++
      leBytes 1 stopIdx ++ leBytes 1 0 ++ leBytes 4 d.turnTokens ++ leBytes 4 trim ++
      leBytes 4 d.tokenCount ++ leBytes 8 (if d.tokenOutput then 0 else x.outBytes) ++ leBytes 8 tick }

/-- Cut a run of released bytes or ids into records of the largest size (R268). -/
def textRecs (d : Desc) (flags : Nat) (bs : List Byte) : List Rec :=
  (pieces 1008 (ceilDiv bs.length 1008) bs).map fun p => { type := 1, flags := flags, turnId := d.turnId, handle := d.handle, payload := p }

/-- Queue records of a session for its ring, in order (R271). -/
def queueRecs (i : Nat) (rs : List Rec) (s : State) : State :=
  let d := descOf i s
  rs.foldl (fun s r => queueRec d.fn d.outQueue r s) s

/-- A session's tables that read poisoned (R467): the grammar stack, the penalty table, rewritten empty with OVERFLOW set, and the
stop block, whose loss releases the held bytes as an EOS does. -/
def mendTables (i : Nat) (s : State) : State :=
  let s := mendGrammar i s
  let s := match allocBad i 3 s with
    | none => s
    | some a =>
      let s := modSess i (fun x => { x with pen := [], penDropped := 0 }) (bump REL_PEN_RESETS.COUNT 1 (mendRead a.addr a.bytes s))
      modDesc i (fun d => { d with penOverflow := true }) s
  match allocBad i 4 s with
  | none => s
  | some a =>
    let s := bump REL_STOPS_CLEARED.COUNT 1 (mendRead a.addr a.bytes s)
    let d := descOf i s
    let x := sessOf i s
    let held := if d.tokenOutput then [] else x.stream.drop x.released
    let s := modSess i (fun x => { x with stops := [], outBytes := x.outBytes + held.length, released := x.stream.length }) s
    queueRecs i (textRecs d 2 held) (modDesc i (fun d => { d with stopLen := 0 }) s)

/-- End a turn (R40, R260, R265): the held bytes, the TURN_END record, LAST_END, TURN_PENDING and CANCEL_PENDING cleared,
LAST_ACTIVE set; an ACTIVE session becomes READY. -/
def endTurn (i reason : Nat) (noFinite : Bool) (trim stopIdx : Nat) (s : State) : State :=
  let d := { descOf i s with capHit := (descOf i s).capHit && reason == 2 }
  let x := sessOf i s
  let flush := (reason = 0 ∨ reason = 2 ∨ reason = 3) ∧ !d.tokenOutput
  let held := if flush then x.stream.drop x.released else []
  let x := { x with outBytes := x.outBytes + held.length, released := x.stream.length }
  let s := putSess i x s
  let s := if held.isEmpty then s else queueRecs i (textRecs d 2 held) s
  let s := queueRecs i [turnEndRec d x reason (now s) noFinite trim stopIdx] s
  let s := { s with maskQ := s.maskQ.filter (· != i) }
  let s := modSess i (fun x => { x with mask := none }) s
  putDesc i { d with lastEnd := reason, turnPending := false, cancelPending := false, lastActive := now s,
                     st := if d.st = stActive then stReady else d.st } s

/-! ## Ends of transits and of held commands -/

/-- An ephemeris action fails (R85): counted, with event 0x0005. -/
def actionFail (table idx : Nat) (e : EphEntry) (status : Nat) (s : State) : State :=
  postPf 0x0005 0x03 status e.tag (table * 2 ^ 48 + idx) (bump EPH_EVENTS.ACTION_FAILS 1 s)
/-- An ephemeris action completes: event 0x0003 where it asked for one (R79). -/
def actionDone (table idx : Nat) (e : EphEntry) (s : State) : State :=
  if bitOf e.flags 0 then postPf 0x0003 0x03 sOk e.tag (table * 2 ^ 48 + idx) s else s

def activeTransit (i : Nat) (s : State) : Bool := s.transits.any fun t => t.idx == i && t.slot.isSome && t.kind != 6
def queuedTransits (s : State) : Nat := (s.transits.filter (·.slot.isNone)).length
def showTransits (s : State) : State :=
  let act := s.transits.filter (·.slot.isSome)
  wr TRN_STATUS.ACTIVE act.length (wr TRN_STATUS.QUEUED (queuedTransits s)
    (wr TRN_STATUS.C0_ACTIVE (act.filter (·.cls == 0)).length s))
/-- An active transit's end is traced with the bytes it moved (R529). -/
def endTraced (t : Transit) (s : State) : State :=
  if t.slot.isSome then
    trace { tick := 0, event := 0x0402, src := 0x05, fn := (descOf t.idx s).fn, flags := 1 + 2 * t.cls, arg := 65536 * t.chunk } s
  else s
/-- Transits leave the lists, those that were active with a trace record. -/
def cutTransits (p : Transit → Bool) (s : State) : State :=
  showTransits ((s.transits.filter p).foldl (fun s t => endTraced t s) { s with transits := s.transits.filter fun t => !p t })
def dropTransit (t : Transit) (s : State) : State := cutTransits (· == t) s
def setTransit (old new : Transit) (s : State) : State :=
  { s with transits := s.transits.map fun t => if t == old then new else t }

/-- Release what a transit has allocated at its destination. -/
def releaseDest (t : Transit) (s : State) : State :=
  if t.kind = 3 ∨ t.kind = 4 then
    if t.placed then modDesc t.idx (fun d => { d with ptRoot := 0 })
      (modSess t.idx (fun x => { x with pages := x.pages.map fun p => { p with deepHeld := true, addr := 0, chan := 0 } }) (releaseBonded t.idx s))
    else s
  else if t.destTier = 0 then freeDeep t.dest s else freeHost t.region t.dest s

/-- A transit ends without its effect: its requester gets the status. -/
def failTransit (t : Transit) (status : Nat) (s : State) : State :=
  let s := dropTransit t s
  match t.requester, t.eph with
  | some (h, op), _ => refuse h op status s
  | none, some (tb, ix, e) => actionFail tb ix e status s
  | none, none => s

/-- Every transit of a session but a migration's ends with a status for who asked for it, what it had allocated at its destination given back. -/
def endTransits (i status : Nat) (s : State) : State :=
  (s.transits.filter fun t => t.idx == i && t.kind != 7).foldl (fun s t =>
    failTransit t status (if t.slot.isSome ∧ t.kind ≠ 6 then releaseDest t s else s)) s

/-- The hint cache's answer for an old handle (R156) goes with NOT_FOUND. -/
def notFound (h : Hdr) (op : Nat) (s : State) : State := complete h op sNotFound (hintOf h.handle s * 2 ^ 52) 0 0 s
/-- The header and the opcode of a held command. -/
def heldHdr : HeldCmd → Option (Hdr × Nat)
  | .destroy h => some (h, 0x02)
  | .appendText h _ _ => some (h, 0x03)
  | .appendTokens h _ _ => some (h, 0x04)
  | .generate h => some (h, 0x05)
  | .toolWait h _ _ => some (h, 0x06)
  | .resume h _ _ _ => some (h, 0x07)
  | .park h _ _ _ => some (h, 0x08)
  | .migrate h _ _ _ => some (h, 0x09)
  | .migratePeer h _ _ _ => some (h, 0x09)
  | .cancel h => some (h, 0x0A)
  | .setSampling h _ _ _ => some (h, 0x0B)
  | .setGrammar h _ => some (h, 0x0C)
  | .setStops h _ _ _ => some (h, 0x0D)
  | .startTransit _ _ _ _ _ _ _ _ _ => none
/-- The commands held on a slot that became FREE are evaluated against that (R35, R41): their handle no longer names a session. -/
def failHeld (i : Nat) (s : State) : State :=
  let cs := s.heldCmds.filter (·.1 == i)
  cs.foldl (fun s c => match heldHdr c.2, c.2 with
    | some (h, op), _ => notFound h op s
    | none, .startTransit _ _ _ _ _ _ tb ix e => actionFail tb ix e sNotFound s
    | none, _ => s) { s with heldCmds := s.heldCmds.filter (fun c => c.1 != i) }

/-- The class-0 resumes that wait on a session end with it (R40, R41). -/
def endResumes (i status : Nat) (s : State) : State :=
  (s.c0Wait.filter (·.idx == i)).foldl (fun s w => refuse w.h 0x07 status s) { s with c0Wait := s.c0Wait.filter fun w => w.idx != i }
/-- A session enters EXPIRED (R40): everything it holds is released; its EVENT waits for EXPIRED_EVENT_WRITE, and a SESSION_DESTROY that waited finds it
EXPIRED (R41). -/
def expireSession (i : Nat) (lost : Bool) (s : State) : State :=
  let s := unlist i (releaseImage i (releaseBonded i (endResumes i (if lost then sDropped else sExpired) s)))
  let s := if lost then bump SES_DATA_DROPPED.COUNT 1 s else s
  let s := match (sessOf i s).destroyWait with
    | some h => modSess i (fun x => { x with destroyWait := none }) (refuse h 0x02 sExpired s)
    | none => s
  let s := modSess i (fun x => { x with pages := [], spans := [] }) s
  modDesc i (fun d => { d with st := stExpired, dataLost := d.dataLost || lost, ptRoot := 0, parkAddr := 0, kvBytes := 0,
                               turnPending := false, cancelPending := false, transitTag := 0xFFFF_FFFF }) s

/-- State lost (R40): EXPIRED with DATA_LOST, for any session that is neither FREE nor EXPIRED. -/
def loseSession (i : Nat) (s : State) : State :=
  let st := (descOf i s).st
  if st = stFree ∨ st = stExpired then s
  else expireSession i true (cutTransits (fun t => t.idx == i) (endTransits i sDropped s))

/-- The session table unit reads a descriptor (R25, R467): from the primary, or from the second copy while the primary's tile is offline or the primary
reads poisoned, which is then rewritten. Where neither copy reads, the state is lost. -/
def readDesc (i : Nat) (s : State) : State :=
  if s.poison = [] then s
  else
    let a := descAddr i false
    let b := descAddr i true
    let up := fun a => stackOnline (stackOf a) s
    if up a && !poisonIn a 256 s then s
    else if up b && !poisonIn b 256 s then (if up a then bump REL_REWRITES.COUNT 1 (mendRead a 256 s) else s)
    else loseSession i (mendRead a 256 (mendRead b 256 s))

/-- A session becomes FROZEN by a fault (R40): EVENT 0x0007 to the owner. -/
def freezeFault (i : Nat) (s : State) : State :=
  let d := descOf i s
  if d.st = stFree ∨ d.st = stExpired then s
  else postSes i 0x0007 0x04 sAborted d.st 0 (putDesc i { d with st := stFrozen } s)

/-- A session falls due (R49). -/
def isDue (i : Nat) (s : State) : Bool :=
  let d := descOf i s
  d.ttl != 0 && decide (d.lastActive + d.ttl ≤ now s)
/-- A state in which a due session expires (R49). -/
def mayExpire (d : Desc) : Bool :=
  (d.st == stReady && !d.turnPending) || d.st == stWaiting || d.st == stDeep || d.st == stHost

/-- Expire a due session (R49, R50): counted, and counted as slipped when its due tick has passed. -/
def expireDue (i : Nat) (s : State) : State :=
  let d := descOf i s
  if isSet SES_CTRL.EXPIRE_EN s && isDue i s && mayExpire d then
    let late := now s - (d.lastActive + d.ttl)
    let s := if late = 0 then s else raise SES_EXPIRE_SLIP.MAX late (bump SES_EXPIRE_SLIP.COUNT 1 s)
    bump SES_EXPIRIES.COUNT 1 (expireSession i false s)
  else s

/-- A slot becomes FREE with everything of its session released (R40, R503). A transit of it ends ABORTED, and the commands it held find no
session. -/
def freeSession (i : Nat) (s : State) : State :=
  let s := cutTransits (fun t => t.idx == i) (endTransits i sAborted s)
  let s := unlist i (dropKey i (releaseImage i (releaseBonded i (endResumes i sAborted s))))
  failHeld i (freeSlot i { s with maskQ := s.maskQ.filter (· != i) })

/-- An established key of MIRROR_JOB for a peer (R504). -/
def hasKey (peer : Nat) (s : State) : Bool :=
  rd SEC_CFG.MIRROR_JOB s != 0 && (sget s.net.pairs (rd SEC_CFG.MIRROR_JOB s * 4096 + peer)).isSome

/-! ## Queueing transits (R128 to R130) -/

def activeT (s : State) : List Transit := s.transits.filter (·.slot.isSome)
/-- A slot may be given to a transit of a class. -/
def slotFor (cls : Nat) (s : State) : Bool :=
  decide ((activeT s).length < 1024) &&
    (cls == 0 || decide (((activeT s).filter (·.cls != 0)).length < 1024 - rd TRN_CFG.C0_SLOTS s))
/-- One of the free slots, which one being the device's choice. -/
def pickSlot (s : State) : Nat :=
  let free := (List.range 1024).filter fun k => !(s.transits.any fun t => t.slot == some k)
  (free.drop (Config.openNat s.fresh % free.length)).head?.getD 0
/-- Queue a transit; `none` where the queues are full. -/
def queueTransit (t : Transit) (s : State) : Option State :=
  if 65536 ≤ queuedTransits s then none else some (showTransits { s with transits := s.transits ++ [t] })

/-- Payload offsets of pages, each a multiple of 64 B, after the metadata section (R136), and where the payload ends. -/
def payloadOffs : Nat → List Nat → List Nat
  | _, [] => []
  | o, n :: r => 64 * ceilDiv o 64 :: payloadOffs (64 * ceilDiv o 64 + n) r
def payloadEnd : Nat → List Nat → Nat
  | o, [] => o
  | o, n :: r => payloadEnd (64 * ceilDiv o 64 + n) r
/-- Chunks of an image (R134): 64 B header and payload, the pages with what pads them, in 65,520 B pieces. -/
def imageChunks (metaLen : Nat) (pages : List Nat) : Nat := ceilDiv (64 + payloadEnd metaLen pages) 65520
/-- Bytes of the metadata section of a session's image (R136): everything before the first page. -/
def metaSize (i : Nat) (s : State) : Nat :=
  let x := sessOf i s
  let d := descOf i s
  let m := modelOf d.model s
  let n := 256 + rootBytes x.spanCap + (x.spans.map fun p => leafBytes m p.cls + summaryBytes m p.cls).sum + 32832 +
    (if d.grammarId = 0xFFFF then 0 else 4096) + 512 + 4 * x.pendTok.length
  if x.pages = [] then n else 64 * ceilDiv n 64
/-- Demotion that a park applies: the class policy for 0xFF, an invalid class value as none (R60, R132). -/
def demoteOf (cls demote : Nat) (s : State) : Nat :=
  let v := if demote = 0xFF then rd (SES_CLASS_CFG.DEMOTE cls) s else demote
  if v = 3 then 0 else v
/-- Sizes of a session's pages after a demotion (R140, R142): a page at or narrower than the target is kept. -/
def narrowedKv (i fmt : Nat) (s : State) : List Nat :=
  let x := sessOf i s
  let m := modelOf (descOf i s).model s
  x.pages.map fun p =>
    if p.fmt < fmt then narrowBytes (pageBytes m ((x.spans.drop p.span).head?.map (·.cls) |>.getD 0)) fmt else p.bytes
/-- Whether the deep tier can allocate a session's image at a demotion (R149). -/
def deepTakes (i fmt : Nat) (s : State) : Bool := deepFits (imageChunks (metaSize i s) (narrowedKv i fmt s)) s
/-- Whether a host region can take it. -/
def hostTakes (i fmt : Nat) (s : State) : Bool := hostFits (imageChunks (metaSize i s) (narrowedKv i fmt s)) 0xFFFF s

/-! ## The frame of a session command (R35, R41, R154, R156) -/

/-- Forward a command that names a tombstone: sent to the destination as FWD_CMD; its answer completes it (R156). -/
def forwardCmd (h : Hdr) (op : Nat) (args : List Nat) (data : List Byte) (newHandle : Nat) (s : State) : State :=
  bump TRN_FORWARDED.COUNT 1
    { s with fwdWait := s.fwdWait ++ [(h, op, newHandle)],
             fabOut := { type := 0x12, dst := hHome newHandle, args := op :: newHandle :: h.fn :: args, data := data } :: s.fabOut }

/-- As `forwardCmd`, with the bytes of the command's buffer, read here. -/
def forwardBuf (h : Hdr) (op : Nat) (args : List Nat) (buf : Option (Buf × Nat)) (newHandle : Nat) (s : State) : State :=
  match buf with
  | none => forwardCmd h op args [] newHandle s
  | some b => match bufRead h b.1 b.2 s with
    | none => bufFault h b.1 b.2 op s
    | some bs => forwardCmd h op args bs newHandle s

/-- A session is held by an armed switch (R154). -/
def armed (i : Nat) (s : State) : Bool := s.migs.any fun m => m.idx == i && decide (3 ≤ m.phase)
/-- A session's class-0 RESUME waits for its channels (R56), which holds the session under R20. -/
def resuming (i : Nat) (s : State) : Bool := s.c0Wait.any (·.idx == i)
/-- A session is in pre-copy (R153). -/
def preCopying (i : Nat) (s : State) : Bool := s.migs.any fun m => m.idx == i && decide (m.phase ≤ 2)

/-- Output of an ACTIVE session is suppressed (R43): CANCEL_PENDING set, TOKEN_COUNT frozen, the bytes held back discarded. -/
def suppress (i : Nat) (s : State) : State :=
  modSess i (fun x => { x with released := x.stream.length, cancelCount := (descOf i s).tokenCount }) (modDesc i (fun d => { d with cancelPending := true }) s)

/-- What every session command does before its own effect: intake checks, handle, tombstone, hold, state table. `held` is the
form in which it is held, `nop` its results where R41 has it complete with OK and no change, `body` its effect on the slot. -/
def sessionCmd (h : Hdr) (op : Nat) (bad : Bool) (args : List Nat) (buf : Option (Buf × Nat)) (held : HeldCmd) (nop : Desc → Nat × Nat)
    (body : Nat → State → State) (s : State) : State :=
  if intakeFails h op bad s then refuse h op sRejected s
  else match handleCheck h.fn h.handle s with
  | .missing hint => complete h op sNotFound (hint * 2 ^ 52) 0 0 s
  | .foreign => foreignHandle h op s
  | .found i =>
    let d := descOf i s
    match s.tombs.find? (fun t => t.idx == i) with
    | some t => forwardBuf h op args buf t.newHandle s
    | none =>
      if armed i s || resuming i s then { s with heldCmds := s.heldCmds ++ [(i, held)] }
      else match judge op d with
      | .apply => body i s
      | .okNop => let (a, b) := nop d; complete h op sOk d.handle a b s
      | .busy => refuse h op sBusy s
      | .rejected => refuse h op sRejected s
      | .expired => refuse h op sExpired s
      | .hold => { s with heldCmds := s.heldCmds ++ [(i, held)] }
      | .onOmit =>
        if (sessOf i s).destroyWait.isSome then { s with heldCmds := s.heldCmds ++ [(i, held)] }
        else modSess i (fun x => { x with destroyWait := some h }) (suppress i s)
      | .stopTransit =>
        if (sessOf i s).destroyWait.isSome then { s with heldCmds := s.heldCmds ++ [(i, held)] }
        else modSess i (fun x => { x with destroyWait := some h })
          { s with transits := s.transits.map fun t => if t.idx = i ∧ t.kind ≠ 6 then { t with stop := true } else t }

end Sys2Proof.Machine
end

