-- ==== Sys2Proof/Machine/Layouts.lean ====
section
/-!
DEFINITION. Sys2Proof/Machine/Layouts.lean: the bytes of what State keeps as structures: page tables (R204, R205), penalty tables (R253), parked images
(R134 to R137), chunk-map entries (R100), and what a read of the bonded or deep tier finds there (R21, R93).
-/
namespace Sys2Proof.Machine

/-- `n` zero bytes. -/
def zeros (n : Nat) : List Byte := List.replicate n 0#8

/-! ## Page tables (R204, R205) -/

/-- A span entry. -/
def spanEntry (e : Span) : List Byte := leBytes 6 e.leafAddr ++ leBytes 1 e.cls ++ leBytes 1 (1 + 2 * b2n e.sumValid) ++ leBytes 2 e.fill ++ zeros 6
/-- A root block: header and span entries. -/
def rootBlock (d : Desc) (sums : Bool) (resv cap : Nat) (spans : List Span) (pages : List Page) : List Byte :=
  leBytes 4 0x4B56_5254 ++ leBytes 1 d.model ++ leBytes 1 (b2n sums) ++ leBytes 2 spans.length ++ leBytes 4 d.tokenCount ++ leBytes 4 resv ++
    leBytes 4 pages.length ++ leBytes 4 (pages.filter (·.deepHeld)).length ++ leBytes 2 cap ++ zeros 38 ++
    spans.flatMap spanEntry ++ zeros (16 * (cap - spans.length))
/-- A page entry: the address of a resident page, the payload offset of a deep-held one. -/
def pageEntry (off : Nat) (p : Page) : List Byte :=
  leBytes 6 (if p.deepHeld then off else p.addr) ++ leBytes 1 p.fmt ++ leBytes 1 (1 + 2 * b2n p.deepHeld + 4 * b2n p.fetching) ++ leBytes 4 p.bytes ++ zeros 4
/-- The row of a layer in a leaf. `offs` are the payload offsets of the pages, `sum` the address of the row's summary block. -/
def leafRow (layer sp cls sum : Nat) (offs : List Nat) (pages : List Page) : List Byte :=
  leBytes 6 sum ++ zeros 10 ++ (List.range (pagesPerSpan cls)).flatMap fun k =>
    match (List.zip (offs ++ List.replicate pages.length 0) pages).find? fun p => p.2.layer == layer && p.2.span == sp && p.2.slot == k with
    | some p => pageEntry p.1 p.2
    | none => zeros 16
/-- A leaf: the rows of all layers of a span. -/
def leafBlock (layers sp cls : Nat) (sums : Nat → Nat) (offs : List Nat) (pages : List Page) : List Byte :=
  (List.range layers).flatMap fun l => leafRow l sp cls (sums l) offs pages

/-! ## Penalty table (R253) -/

def penBytes (pen : List (Nat × Nat)) (overflow : Bool) (dropped : Nat) : List Byte :=
  leBytes 4 0x5045_4E31 ++ leBytes 2 pen.length ++ leBytes 2 (b2n overflow) ++ leBytes 4 dropped ++ zeros 52 ++
    (pen.flatMap fun p => leBytes 4 p.1 ++ leBytes 2 p.2 ++ zeros 2) ++ zeros (8 * (4096 - pen.length))

/-! ## Parked images (R134 to R137) -/

/-- The image header (R135). -/
def imageHeader (im : Image) : List Byte :=
  leBytes 4 0x5452_4E31 ++ leBytes 2 1 ++ leBytes 1 im.kvFormat ++ leBytes 1 (b2n im.sparseOk) ++ leBytes 8 im.handle ++ leBytes 8 im.nonce ++
    leBytes 4 im.chunks.length ++ leBytes 4 im.metaBytes ++ leBytes 8 (payloadEnd im.metaBytes (im.pageData.map (·.length)) - im.metaBytes) ++
    leBytes 4 im.pageData.length ++ zeros 4 ++ leBytes 8 im.writeTick ++ zeros 8
/-- What a revival checks of the header of slot `i`'s image (R144, row 3): MAGIC, VERSION, CHUNKS and the index of HANDLE. -/
def imageHeaderOk (i : Nat) (im : Image) : Bool :=
  let h := imageHeader im
  field h 0 4 == 0x5452_4E31 && field h 4 2 == 1 && field h 0x18 4 == imageChunks im.metaBytes (im.pageData.map (·.length)) && hIndex (field h 8 8) == i
/-- Bytes padded to a multiple of 64. -/
def padded (bs : List Byte) : List Byte := bs ++ zeros (64 * ceilDiv bs.length 64 - bs.length)
/-- The metadata section (R136): descriptor, page table, penalty table, grammar stack, stop block, pending input, summaries. -/
def metaBytes (layers : Nat) (offs : List Nat) (sums : List (List Byte)) (x : Snap) : List Byte :=
  descBytes x.d ++ rootBlock x.d (!sums.isEmpty) x.resvTokens x.spanCap x.spans x.pages ++
    ((List.range x.spans.length).zip x.spans).flatMap (fun e => leafBlock layers e.1 e.2.cls (fun _ => 0) offs x.pages) ++
    penBytes x.pen x.d.penOverflow x.penDropped ++
    (if x.d.grammarId = 0xFFFF then [] else x.gstack.flatMap (leBytes 4) ++ zeros (4096 - 4 * x.gstack.length)) ++
    x.stops.flatten ++ zeros (512 - x.stops.flatten.length) ++ x.pendTok.flatMap (leBytes 4) ++ sums.flatten
/-- The payload stream of an image (R136): the metadata section and the pages, each at a multiple of 64 B. -/
def payload (layers : Nat) (im : Image) : List Byte :=
  let md := ((im.saved.map (metaBytes layers im.pageOffs (im.sumData.map (·.2.2))))).getD []
  im.pageData.foldl (fun acc p => padded acc ++ p) md
/-- The plain piece of the payload that chunk `k` holds (R134). -/
def chunkPlain (layers k : Nat) (im : Image) : List Byte :=
  if k = 0 then (payload layers im).take 65456 else ((payload layers im).drop (65520 * k - 64)).take 65520
/-- Chunk `k` of an image as it lies in its tier (R134, R137): encrypted under the session key with NONCE and `k`, the header as additional data, and the tag
last; chunk 0 has the header before it in plain text. -/
def imageChunk (layers key k : Nat) (im : Image) : List Byte :=
  let c := Config.seal key im.nonce k (imageHeader im) (chunkPlain layers k im)
  if k = 0 then imageHeader im ++ c else c

/-! ## A session as it lies now, and what a migration sends of it (R136, R153) -/

/-- The bytes of a session's page `k` as they lie now: in the bonded tier, or in its image while deep-held. -/
def pageNow (x : Sess) (k : Nat) (p : Page) (s : State) : List Byte :=
  if p.deepHeld then ((x.image.map fun im => ((im.pageData.drop k).head?).getD [])).getD [] else memRead s p.addr p.bytes

/-- What a session holds, as an image saves it: the descriptor in the state `st`, and `pages` as they lie in the image. -/
def snapOf (i st : Nat) (pages : List Page) (s : State) : Snap :=
  let x := sessOf i s
  { d := { descOf i s with st := st }, pendTok := x.pendTok, resvTokens := x.resvTokens, spanCap := x.spanCap, spans := x.spans, pages := pages,
    pen := x.pen, penDropped := x.penDropped, stops := x.stops, gstack := x.gstack }
/-- The payload stream of a resident session as it lies now. -/
def livePayload (i : Nat) (s : State) : List Byte :=
  let x := sessOf i s
  let m := modelOf (descOf i s).model s
  let pages := (List.range x.pages.length).zip x.pages |>.map fun q => pageNow x q.1 q.2 s
  let offs := payloadOffs (metaSize i s) (pages.map (·.length))
  let sums := (x.allocs.filter (·.kind == 7)).map fun a => memRead s a.addr a.bytes
  pages.foldl (fun acc p => padded acc ++ p) (metaBytes m.layers.length offs sums (snapOf i (descOf i s).st x.pages s))
/-- What pass 1 of a migration sends, 64 KiB at a time: the parked image as it lies, the payload stream of a resident session, or a block's rows. -/
def passOne (m : Migration) (s : State) : List (List Byte) :=
  match m.block, (sessOf m.idx s).image with
  | some _, _ => let bs := memRead s m.base m.bytes
    pieces 65536 (ceilDiv bs.length 65536) bs
  | none, some im =>
    if (descOf m.idx s).st = stDeep ∨ (descOf m.idx s).st = stHost then
      (List.range im.chunks.length).map fun k => imageChunk (modelOf (descOf m.idx s).model s).layers.length ((sessOf m.idx s).key.getD 0) k im
    else let bs := livePayload m.idx s
      pieces 65536 (ceilDiv bs.length 65536) bs
  | none, none => let bs := livePayload m.idx s
    pieces 65536 (ceilDiv bs.length 65536) bs
/-- How many chunks pass 1 has. -/
def passOneLen (i : Nat) (s : State) : Nat :=
  match (sessOf i s).image with
  | some im => if (descOf i s).st = stDeep ∨ (descOf i s).st = stHost then im.chunks.length
    else ceilDiv (payloadEnd (metaSize i s) ((sessOf i s).pages.map (·.bytes))) 65536
  | none => ceilDiv (payloadEnd (metaSize i s) ((sessOf i s).pages.map (·.bytes))) 65536
/-- The chunks a pass sends, as messages 0x10: those of pass 1, or the ranges dirty at its start. -/
def passMsgs (m : Migration) (s : State) : List Msg :=
  let cs := if m.passes = 1 then passOne m s else m.send.map fun r => memRead s (65536 * r) 65536
  (List.range cs.length).zip cs |>.map fun c =>
    { type := 0x10, dst := m.dest, args := [m.tag, m.passes, if m.passes = 1 then c.1 else (m.send[c.1]?).getD 0], data := c.2 }

/-! ## Checkpoint images (R482) -/

/-- The 64 KiB blocks of an image's data, range by range. -/
def ckptBlocks (data : List (List Byte)) : List (List Byte) := data.flatMap fun b => pieces 65536 (ceilDiv b.length 65536) b
/-- Bytes of a block's record (R482). -/
def recordLen (b : List Byte) : Nat := 4 * ceilDiv (20 + min (Config.compress b).length b.length) 4
/-- Where the records of an image begin (R482). -/
def recordOffs (m : CkptImage) : List Nat :=
  (((ckptBlocks m.data).map recordLen).foldl (fun (acc : List Nat × Nat) n => (acc.1 ++ [acc.2], acc.2 + n)) ([], 64 + 16 * m.ranges.length)).1
def packedBytes (data : List (List Byte)) : Nat := ((ckptBlocks data).map recordLen).sum
/-- Chunks of an image of some regions and packed bytes (R134, R482). -/
def ckptChunks (regions packed : Nat) : Nat := ceilDiv (64 + 16 * regions + packed) 65520
/-- The record of a block: its stored length with bit 31 where it is stored raw, the first 16 B of its digest, the block, and padding to 4 B. -/
def blockRecord (b : List Byte) : List Byte :=
  let z := Config.compress b
  let raw := decide (b.length ≤ z.length)
  let d := if raw then b else z.take b.length
  leBytes 4 (d.length + 2 ^ 31 * b2n raw) ++ leBytes 16 (Config.digest b % 2 ^ 128) ++ d ++ zeros (4 * ceilDiv d.length 4 - d.length)
/-- The image header: MAGIC, VERSION, and from 0x06 the module, the identifier, NONCE, the barrier tick, CHUNKS, REGIONS and the two byte totals. -/
def ckptHeader (m : CkptImage) : List Byte :=
  leBytes 4 0x434B_494D ++ leBytes 2 1 ++ leBytes 2 m.module ++ leBytes 8 m.id ++ leBytes 8 m.nonce ++ leBytes 8 m.tick ++ leBytes 4 m.chunks.length ++
    leBytes 2 m.ranges.length ++ leBytes 8 ((m.data.map (·.length)).sum) ++ leBytes 8 (packedBytes m.data) ++ zeros 10
/-- The payload: the region table, then a record for each 64 KiB block in range order. -/
def ckptPayload (m : CkptImage) : List Byte :=
  (m.ranges.flatMap fun r => leBytes 8 r.1 ++ leBytes 8 r.2) ++ (ckptBlocks m.data).flatMap blockRecord
/-- Chunk `k` of an image as it lies in the checkpoint area: as `imageChunk`, under the job key. -/
def ckptChunk (k : Nat) (m : CkptImage) : List Byte :=
  let plain := if k = 0 then (ckptPayload m).take 65456 else ((ckptPayload m).drop (65520 * k - 64)).take 65520
  let c := Config.seal m.key m.nonce k (ckptHeader m) plain
  if k = 0 then ckptHeader m ++ c else c

/-! ## What memory shows (R21, R93, R100) -/

/-- The chunk-map entry of a logical chunk (R100). -/
def chunkEntry (k : Nat) (s : State) : List Byte :=
  match sget s.chunkMap k with
  | some v => leBytes 4 (v / 2 ^ 19 + v % 2 ^ 19 * 2 ^ 7 + b2n (s.moving.contains k) * 2 ^ 26 + 2 ^ 27)
  | none => leBytes 4 0
/-- The bytes of a piece of a session's state that State keeps as a structure: root, leaf, penalty table, grammar stack, pending input. -/
def allocBytes (i : Nat) (a : Alloc) (s : State) : List Byte :=
  let d := descOf i s
  let x := sessOf i s
  let m := modelOf d.model s
  let offs := (x.image.map (·.pageOffs)).getD []
  match a.kind with
  | 1 => rootBlock d (m.sparseThresh != 0) x.resvTokens x.spanCap x.spans x.pages
  | 2 => match x.spans.findIdx? (·.leafAddr == a.addr) with
    | some sp => leafBlock m.layers.length sp ((x.spans[sp]?).map (·.cls) |>.getD 0)
        (fun l => ((x.allocs.find? fun b => b.kind == 7 && b.layer == l && b.span == sp).map (·.addr)).getD 0) offs x.pages
    | none => []
  | 3 => penBytes x.pen d.penOverflow x.penDropped
  | 5 => x.gstack.flatMap (leBytes 4)
  | 6 => x.pendTok.flatMap (leBytes 4)
  | _ => []
/-- The structure of some session that covers a bonded address. -/
def tableByte (a : Nat) (s : State) : Option Byte :=
  s.sess.findSome? fun p => (p.2.allocs.find? fun b => [1, 2, 3, 5, 6].contains b.kind && decide (b.addr ≤ a) && decide (a < b.addr + b.bytes)).map fun b =>
    ((allocBytes p.1 b s)[a - b.addr]?).getD 0#8
/-- A byte of the descriptor and chunk-map areas of channel 0 (R93): granule `g` lies in stack `g` mod 24, its second copy 12 stacks on. -/
def systemByte (a : Nat) (s : State) : Option Byte :=
  let o := stackOff a
  let g := 24 * (o % 0x300_0000 / 4096) + (if 0x300_0000 ≤ o then (stackOf a + 12) % 24 else stackOf a)
  if o < 0x600_0000 then (if g < 262144 then (descBytes (descOf (16 * g + o % 4096 / 256) s))[o % 256]? else none)
  else if o < 0x700_0000 then (chunkEntry (mapEntryAt a) s)[o % 4]?
  else none
/-- An entry of the session key table (R502): the key wrapped under the key-wrapping key of this start-up, GEN and FLAGS. -/
def keyEntry (i : Nat) (s : State) : List Byte :=
  match (sessOf i s).key with
  | some k => (Config.seal (Config.kdf s.boots []) 0 i [] (leBytes 32 k)).take 40 ++ leBytes 4 (hGen (descOf i s).handle) ++
      leBytes 1 (1 + 2 * b2n (sessOf i s).imported) ++ zeros 19
  | none => zeros 64
/-- A byte of the session key table. -/
def keyByte (a : Nat) (s : State) : Option Byte :=
  (s.keyExts.find? fun e => decide (e.2 ≤ a) && decide (a < e.2 + 0x20_0000)).bind fun e =>
    (keyEntry (32768 * e.1 + (a - e.2) / 64) s)[(a - e.2) % 64]?
/-- What a read of a bonded address finds: the structure that lies there, or the memory's byte. -/
def bondedByte (a : Nat) (s : State) : Byte := (((systemByte a s).orElse fun _ => keyByte a s).orElse fun _ => tableByte a s).getD (memByte s a)
/-- What a read of `n` bytes through BAR4 at an offset returns (R21, R402): nothing outside the window; past the bonded tier, zeros. -/
def bar4Read (off n : Nat) (s : State) : List Byte :=
  let a := rd HIF_BAR4_WINDOW.ADDR s * 2 ^ 30 + off
  if s.bar4Gib * 2 ^ 30 < off + n then [] else (List.range n).map fun k => if bondedEnd ≤ a + k then 0#8 else bondedByte (a + k) s
/-- What a read of a deep-tier address finds: a chunk of a parked image or of a checkpoint image, or the memory's byte. -/
def deepByte (a : Nat) (s : State) : Byte :=
  let k := (a - deepBase) / 65536
  let saved := s.ckptImages.findSome? fun m => (m.chunks.findIdx? (· == k)).bind fun n => (ckptChunk n m)[(a - deepBase) % 65536]?
  (s.sess.findSome? fun p => p.2.image.bind fun im =>
    if im.tier = 0 then (im.chunks.findIdx? (· == k)).bind fun n =>
      (imageChunk (modelOf (descOf p.1 s).model s).layers.length (p.2.key.getD 0) n im)[(a - deepBase) % 65536]?
    else none).getD (saved.getD (memByte s a))

end Sys2Proof.Machine
end

