-- ==== Sys2Proof/Machine/Numerics.lean ====
section
/-!
DEFINITION. Sys2Proof/Machine/Numerics.lean: the number formats of R168 as exact values, the narrowing of R141 and R142, the
summaries of R208, and FP32 arithmetic rounded to nearest, ties to even (R170, R173).
-/
namespace Sys2Proof.Machine

/-! ## Exact values -/

/-- The value of an element: a NaN, an infinity, or (−1)^neg × m × 2^e. -/
inductive Val where
  | nan
  | inf (neg : Bool)
  | num (neg : Bool) (m : Nat) (e : Int)
deriving DecidableEq, Repr

/-- 2^e as a factor: `(n, d)` with 2^e = n / d. -/
def pow2 (e : Int) : Nat × Nat := if e ≥ 0 then (2 ^ e.toNat, 1) else (1, 2 ^ (-e).toNat)

/-- FP8 E4M3 (R168): the code S.1111.111 is the NaN. -/
def e4m3 (b : Nat) : Val :=
  let m := b % 8
  let x : Nat := b / 8 % 16
  if x = 15 ∧ m = 7 then .nan
  else if x = 0 then .num (b ≥ 128) m (-9) else .num (b ≥ 128) (8 + m) (x - 10)

/-- MXFP6 E3M2 and MXFP4 E2M1 elements with their E8M0 scale (R168). -/
def e3m2 (scale c : Nat) : Val :=
  if scale = 0xFF then .nan
  else
    let m := c % 4
    let x := c / 4 % 8
    if x = 0 then .num (c ≥ 32) m ((scale : Int) - 131) else .num (c ≥ 32) (4 + m) ((scale : Int) - 132 + x)
def e2m1 (scale c : Nat) : Val :=
  if scale = 0xFF then .nan
  else
    let m := c % 2
    let x := c / 2 % 4
    if x = 0 then .num (c ≥ 8) m ((scale : Int) - 128) else .num (c ≥ 8) (2 + m) ((scale : Int) - 129 + x)

/-! ## Narrowing (R141, R142) -/

/-- Magnitudes of the codes of a target format in its smallest step: 1/16 for E3M2, 1/2 for E2M1. -/
def codeMag (fmt c : Nat) : Nat :=
  if fmt = 1 then (if c / 4 = 0 then c % 4 else (4 + c % 4) * 2 ^ (c / 4 - 1))
  else (if c / 2 = 0 then c % 2 else (2 + c % 2) * 2 ^ (c / 2 - 1))

/-- Distance of n/d (in steps) from a code, times d. -/
def codeDist (fmt n d c : Nat) : Nat := (n - codeMag fmt c * d) + (codeMag fmt c * d - n)

/-- The code nearest n/d, ties to the even code, saturated at the largest. -/
def nearestCode (fmt n d : Nat) : Nat :=
  (List.range (if fmt = 1 then 32 else 8)).foldl (fun best c =>
    let a := codeDist fmt n d c
    let b := codeDist fmt n d best
    if a < b ∨ (a = b ∧ c % 2 = 0) then c else best) 0

/-- The larger magnitude of two finite values. -/
def magMax (a b : Nat × Int) : Nat × Int :=
  let lo := min a.2 b.2
  if a.1 * 2 ^ (a.2 - lo).toNat < b.1 * 2 ^ (b.2 - lo).toNat then b else a

/-- A block of 32 values narrowed to MXFP6 (1) or MXFP4 (2): scale byte and element codes. An infinity saturates to the largest code of the block's
scale, which the finite elements set (R172). -/
def narrowBlock (fmt : Nat) (vs : List Val) : Nat × List Nat :=
  let signBit := if fmt = 1 then 32 else 8
  let neg := fun v => match v with
    | Val.num n _ _ => n
    | Val.inf n => n
    | .nan => false
  if vs.any (fun v => v == .nan) then (0xFF, vs.map fun _ => 0)
  else
    let amax := vs.foldl (fun a v => match v with
      | .num _ m e => magMax a (m, e)
      | _ => a) (0, 0)
    if amax.1 = 0 then (0x7F, vs.map fun v => if neg v then signBit else 0)
    else
      let emax : Int := if fmt = 1 then 4 else 2
      let x : Int := (Nat.log2 amax.1 : Int) + amax.2 - emax
      let sc := if x < -127 then -127 else if 127 < x then 127 else x
      let step : Int := if fmt = 1 then 4 else 1
      (((sc + 127).toNat), vs.map fun v => match v with
        | .num n m e =>
          let (p, q) := pow2 (e - sc + step)
          nearestCode fmt (m * p) q + (if n then signBit else 0)
        | .inf n => signBit - 1 + (if n then signBit else 0)
        | .nan => 0)

/-- Bits of an element of a page format (R202). -/
def fmtBits (fmt : Nat) : Nat := if fmt = 1 then 6 else if fmt = 2 then 4 else 8

/-- Element codes of a block from its bytes, lowest bits first, and back. -/
def unpack (bits : Nat) : Nat → Nat → List Nat
  | 0, _ => []
  | n + 1, v => v % 2 ^ bits :: unpack bits n (v / 2 ^ bits)
def pack (bits : Nat) : List Nat → Nat
  | [] => 0
  | c :: r => c + 2 ^ bits * pack bits r

/-- Values of one block of 32 elements of a page. -/
def blockVals (fmt : Nat) (bs : List Byte) (scale : Nat) : List Val :=
  (unpack (fmtBits fmt) 32 (leNat bs)).map fun c => if fmt = 1 then e3m2 scale c else if fmt = 2 then e2m1 scale c else e4m3 c

/-- The blocks of one part of a page (elements, then scales): `n` blocks. -/
def partBlocks (fmt n : Nat) (elems scales : List Byte) : List (List Val) :=
  (List.range n).map fun k => blockVals fmt ((elems.drop (4 * fmtBits fmt * k)).take (4 * fmtBits fmt)) (field scales k 1)

/-- Bytes of one part of `n` blocks: elements and scales. -/
def partBytes (fmt n : Nat) : Nat := n * 4 * fmtBits fmt + (if fmt = 0 then 0 else n)

/-- One part narrowed: its bytes, and how many blocks held a NaN. -/
def narrowPart (src dst n : Nat) (bs : List Byte) : List Byte × Nat :=
  let blocks := (partBlocks src n bs (bs.drop (n * 4 * fmtBits src))).map (narrowBlock dst)
  ((blocks.map fun b => leBytes (4 * fmtBits dst) (pack (fmtBits dst) b.2)).flatten ++ blocks.map (fun b => BitVec.ofNat 8 b.1),
   (blocks.filter (·.1 == 0xFF)).length)

/-- A page of 2 × H parts of `n` blocks narrowed from one format to another; a page at or narrower than the target is kept (R140). -/
def narrowPage (src dst parts n : Nat) (bs : List Byte) : List Byte × Nat :=
  if dst ≤ src then (bs, 0)
  else
    let out := (List.range parts).map fun k => narrowPart src dst n ((bs.drop (partBytes src n * k)).take (partBytes src n))
    ((out.map (·.1)).flatten, (out.map (·.2)).sum)

/-! ## Summaries (R208, R209) -/

/-- `a < b` as values, −∞ below and +∞ above every number. -/
def valLt (a b : Val) : Bool :=
  match a, b with
  | .num n m e, .num n' m' e' =>
    let lo := min e e'
    let x : Int := (if n then -1 else 1) * (m * 2 ^ (e - lo).toNat : Nat)
    let y : Int := (if n' then -1 else 1) * (m' * 2 ^ (e' - lo).toNat : Nat)
    decide (x < y)
  | .inf n, .inf n' => n && !n'
  | .inf n, .num .. => n
  | .num .., .inf n => !n
  | _, _ => false

/-- A zero of a sign. -/
def isZero (neg : Bool) : Val → Bool
  | .num n m _ => n == neg && m == 0
  | _ => false
/-- `a < b` with +0 above −0 (R117). -/
def valBelow (a b : Val) : Bool := valLt a b || (isZero true a && isZero false b)
/-- The larger and the smaller of two values; a NaN gives way. -/
def valMax (a b : Val) : Val := if a = .nan then b else if b = .nan then a else if valBelow a b then b else a
def valMin (a b : Val) : Val := if a = .nan then b else if b = .nan then a else if valBelow b a then b else a

/-- BF16 code of a value that BF16 holds exactly. -/
def bf16 (v : Val) : Nat :=
  match v with
  | .nan => 0x7FC0
  | .inf n => if n then 0xFF80 else 0x7F80
  | .num n m e =>
    let s := if n then 0x8000 else 0
    if m = 0 then s
    else
      let k := Nat.log2 m
      let x : Int := k + e
      if x < -126 then s + (let (p, q) := pow2 (e + 133); m * p / q)
      else if 127 < x then s + 0x7F80
      else s + (x + 127).toNat * 128 + ((if k ≤ 7 then m * 2 ^ (7 - k) else m / 2 ^ (k - 7)) - 128)

/-- A BF16 code as a value. -/
def ofBf16 (c : Nat) : Val :=
  let n := decide (0x8000 ≤ c)
  let x : Nat := c / 128 % 256
  let m := c % 128
  if x = 255 then (if m = 0 then .inf n else .nan)
  else if x = 0 then .num n m (-133) else .num n (128 + m) ((x : Int) - 134)

/-- One element of a summary, a maximum or a minimum, folded with a key's (R209): a NaN is ignored, and the element is NaN only while every key so far
has been one there. `empty` is what it was set to before any key. -/
def foldElem (pick : Val → Val → Val) (empty : Nat) (c : Nat) (v : Val) : Nat :=
  if v = .nan then (if c = empty then 0x7FC0 else c) else if ofBf16 c = .nan then bf16 v else bf16 (pick (ofBf16 c) v)
/-- The summary of a page folded with a key row of D values: D maxima, then D minima, BF16. -/
def foldSummary (old : List Nat) (d : Nat) (row : List Val) : List Nat :=
  (old.take d).zipWith (foldElem valMax 0xFF80) row ++ (old.drop d).zipWith (foldElem valMin 0x7F80) row
/-- The summary of two summaries, maxima of maxima and minima of minima; a NaN gives way (R117). -/
def joinSummary (d : Nat) (a b : List Nat) : List Nat :=
  (a.take d).zipWith (fun x y => bf16 (valMax (ofBf16 x) (ofBf16 y))) (b.take d) ++
    (a.drop d).zipWith (fun x y => bf16 (valMin (ofBf16 x) (ofBf16 y))) (b.drop d)
/-- The summary of a page just allocated. -/
def emptySummary (d : Nat) : List Nat := List.replicate d 0xFF80 ++ List.replicate d 0x7F80
/-- A summary as bytes. -/
def summaryBs (cs : List Nat) : List Byte := (cs.map (leBytes 2)).flatten
def ofSummaryBs (d : Nat) (bs : List Byte) : List Nat := (pieces2 bs (2 * d))
where
  pieces2 (bs : List Byte) : Nat → List Nat
  | 0 => []
  | n + 1 => leNat (bs.take 2) :: pieces2 (bs.drop 2) n

/-- Key rows of head `h` of a page: positions × D values, from the page's bytes. -/
def pageKeys (fmt heads toks d h : Nat) (bs : List Byte) : List (List Val) :=
  let n := toks * d / 32
  let _ := heads
  let part := (bs.drop (2 * h * partBytes fmt n)).take (partBytes fmt n)
  let vals := (partBlocks fmt n part (part.drop (n * 4 * fmtBits fmt))).flatten
  (List.range toks).map fun r => (vals.drop (r * d)).take d

/-! ## FP32 -/

/-- An FP32 bit pattern as a value. -/
def ofF32 (c : Nat) : Val :=
  let n := decide (0x8000_0000 ≤ c)
  let x : Nat := c / 2 ^ 23 % 256
  let m : Nat := c % 2 ^ 23
  if x = 255 then (if m = 0 then .inf n else .nan)
  else if x = 0 then .num n m (-149) else .num n (2 ^ 23 + m) ((x : Int) - 150)

/-- n/d rounded to nearest, ties to even. -/
def roundDiv (n d : Nat) : Nat :=
  let q := n / d
  let r := n % d
  if 2 * r < d ∨ (2 * r = d ∧ q % 2 = 0) then q else q + 1

/-- FP32 pattern nearest (−1)^neg × (a / b) × 2^e, with b > 0. -/
def f32Round (neg : Bool) (a b : Nat) (e : Int) : Nat :=
  let s := if neg then 0x8000_0000 else 0
  if a = 0 then s
  else
    -- `x` is a lower bound of the exponent of the leading bit; at most one too low
    let x0 : Int := (Nat.log2 a : Int) - Nat.log2 b - 1 + e
    let geq := let (p, q) := pow2 (e - (x0 + 1)); decide (b * q ≤ a * p)
    let x := if geq then x0 + 1 else x0
    let lsb : Int := if x < -126 then -149 else x - 23
    let (p, q) := pow2 (e - lsb)
    let m := roundDiv (a * p) (b * q)
    let (m, lsb) := if 2 ^ 24 ≤ m then (m / 2, lsb + 1) else (m, lsb)
    if m < 2 ^ 23 then s + m
    else
      let y : Int := lsb + 150
      if 255 ≤ y then s + 0x7F80_0000 else s + y.toNat * 2 ^ 23 + (m - 2 ^ 23)

/-- FP32 pattern of a value, rounded. -/
def toF32 (v : Val) : Nat :=
  match v with
  | .nan => 0x7FC0_0000
  | .inf n => if n then 0xFF80_0000 else 0x7F80_0000
  | .num n m e => f32Round n m 1 e

/-- Exact sum of two values; exact zero sums are +0 unless both are negative. -/
def valAdd (a b : Val) : Val :=
  match a, b with
  | .nan, _ => .nan
  | _, .nan => .nan
  | .inf n, .inf n' => if n = n' then .inf n else .nan
  | .inf n, _ => .inf n
  | _, .inf n => .inf n
  | .num n m e, .num n' m' e' =>
    let lo := min e e'
    let x : Int := (if n then -1 else 1) * (m * 2 ^ (e - lo).toNat : Nat)
    let y : Int := (if n' then -1 else 1) * (m' * 2 ^ (e' - lo).toNat : Nat)
    if x + y = 0 then .num (n && n') 0 0 else .num (x + y < 0) (x + y).natAbs lo

def valNeg : Val → Val
  | .nan => .nan
  | .inf n => .inf !n
  | .num n m e => .num (!n) m e

/-- Exact product of two values; infinity times 0 is a NaN (R171). -/
def valMul (a b : Val) : Val :=
  match a, b with
  | .nan, _ => .nan
  | _, .nan => .nan
  | .inf n, .inf n' => .inf (n != n')
  | .inf n, .num n' m _ => if m = 0 then .nan else .inf (n != n')
  | .num n m _, .inf n' => if m = 0 then .nan else .inf (n != n')
  | .num n m e, .num n' m' e' => .num (n != n') (m * m') (e + e')

def f32Add (a b : Nat) : Nat := toF32 (valAdd (ofF32 a) (ofF32 b))
def f32Sub (a b : Nat) : Nat := toF32 (valAdd (ofF32 a) (valNeg (ofF32 b)))
def f32Mul (a b : Nat) : Nat := toF32 (valMul (ofF32 a) (ofF32 b))
/-- FP32 quotient. -/
def f32Div (a b : Nat) : Nat :=
  match ofF32 a, ofF32 b with
  | .nan, _ => 0x7FC0_0000
  | _, .nan => 0x7FC0_0000
  | .inf _, .inf _ => 0x7FC0_0000
  | .inf n, .num n' _ _ => toF32 (.inf (n != n'))
  | .num n _ _, .inf n' => toF32 (.num (n != n') 0 0)
  | .num n m e, .num n' m' e' =>
    if m' = 0 then (if m = 0 then 0x7FC0_0000 else toF32 (.inf (n != n'))) else f32Round (n != n') m m' (e - e')
/-- a < b and a ≤ b in FP32; false with a NaN. -/
def f32Lt (a b : Nat) : Bool := valLt (ofF32 a) (ofF32 b)
def f32Le (a b : Nat) : Bool := ofF32 a != .nan && ofF32 b != .nan && !valLt (ofF32 b) (ofF32 a)
/-- A natural number in FP32. -/
def f32OfNat (n : Nat) : Nat := f32Round false n 1 0
def f32Inf : Nat := 0x7F80_0000
def f32NegInf : Nat := 0xFF80_0000
/-- LOG2E, the FP32 number nearest log2 e; and the magnitude and the negative of a number. -/
def f32Log2e : Nat := 0x3FB8_AA3B
def f32Abs (a : Nat) : Nat := a % 0x8000_0000
def f32Neg (a : Nat) : Nat := if a < 0x8000_0000 then a + 0x8000_0000 else a - 0x8000_0000

/-! ## Other element formats (R168, R172) -/

/-- FP16 (1.5.10) as a value. -/
def ofFp16 (c : Nat) : Val :=
  let n := decide (0x8000 ≤ c)
  let x : Nat := c / 1024 % 32
  let m : Nat := c % 1024
  if x = 31 then (if m = 0 then .inf n else .nan) else if x = 0 then .num n m (-24) else .num n (1024 + m) ((x : Int) - 25)

/-- The code of a value in a format of `mb` mantissa bits and a bias, rounded to nearest, ties to even; what exceeds the largest code
`top` becomes `over`. The sign is bit `sb`. -/
def roundCode (mb : Nat) (bias : Int) (top ovr nan sb : Nat) (v : Val) : Nat :=
  match v with
  | .nan => nan
  | .inf n => ovr + (if n then 2 ^ sb else 0)
  | .num n m e =>
    let s := if n then 2 ^ sb else 0
    if m = 0 then s
    else
      let x : Int := (Nat.log2 m : Int) + e
      let lsb : Int := max x (1 - bias) - mb
      let (p, q) := pow2 (e - lsb)
      let r := roundDiv (m * p) q
      let (r, lsb) := if 2 ^ (mb + 1) ≤ r then (r / 2, lsb + 1) else (r, lsb)
      let c := if r < 2 ^ mb then r else (lsb + mb + bias).toNat * 2 ^ mb + (r - 2 ^ mb)
      s + (if top < c then ovr else c)

/-- An element of a table format (codes 0 to 3 of R168) as a value, and a value as an element. `sat` asks for saturation. -/
def elemVal (fmt c : Nat) : Val := if fmt = 0 then ofF32 c else if fmt = 1 then ofBf16 c else if fmt = 2 then ofFp16 c else e4m3 c
def elemCode (fmt : Nat) (sat : Bool) (v : Val) : Nat :=
  if fmt = 0 then roundCode 23 127 0x7F7F_FFFF (if sat then 0x7F7F_FFFF else 0x7F80_0000) 0x7FC0_0000 31 v
  else if fmt = 1 then roundCode 7 127 0x7F7F (if sat then 0x7F7F else 0x7F80) 0x7FC0 15 v
  else if fmt = 2 then roundCode 10 15 0x7BFF (if sat then 0x7BFF else 0x7C00) 0x7E00 15 v
  else roundCode 3 7 0x7E 0x7E 0x7F 7 v
def elemSize (fmt : Nat) : Nat := if fmt = 0 then 4 else if fmt = 1 ∨ fmt = 2 then 2 else 1

/-! ## Sums of more than one term (R174) -/

/-- The magnitude of a value times a natural number. -/
def valScale (k : Nat) (v : Val) : Val :=
  match v with
  | .num _ m e => .num false (k * m) e
  | .inf _ => .inf false
  | .nan => .nan

/-- The FP32 sum of exact terms: a NaN or two opposed infinities give NaN, one term its rounding, and more terms the free value where
it lies within the bound of R174, else the rounded exact sum. -/
def boundedSum (ts : List Val) (free : Nat) : Nat :=
  let x := ts.foldl valAdd (.num true 0 0)
  let abs := (ts.map (valScale 1)).foldl valAdd (.num false 0 0)
  match ts with
  | [] => 0
  | [_] => toF32 x
  | _ =>
    match x with
    | .num _ _ _ =>
      let err := valScale (100 * 2 ^ 24) (valAdd (ofF32 (free % 2 ^ 32)) (valNeg x))
      let lim := valScale (101 * (ts.length - 1)) abs
      if err ≠ .nan ∧ ¬ valLt lim err then free % 2 ^ 32 else toF32 x
    | _ => toF32 x

/-! ## The formats of the arrays (R168) -/

/-- FP8 E5M2. -/
def e5m2 (b : Nat) : Val :=
  let n := decide (128 ≤ b)
  let x : Nat := b / 4 % 32
  let m := b % 4
  if x = 31 then (if m = 0 then .inf n else .nan) else if x = 0 then .num n m (-16) else .num n (4 + m) ((x : Int) - 17)
/-- An MXFP6 E2M3 element with its scale. -/
def e2m3 (scale c : Nat) : Val :=
  if scale = 0xFF then .nan
  else
    let m := c % 8
    let x : Nat := c / 8 % 4
    if x = 0 then .num (c ≥ 32) m ((scale : Int) - 130) else .num (c ≥ 32) (8 + m) ((scale : Int) - 131 + x)
/-- A value times an E8M0 scale. -/
def mxScale (scale : Nat) (v : Val) : Val :=
  if scale = 0xFF then .nan
  else match v with
  | .num n m e => .num n m (e + scale - 127)
  | v => v
/-- INT8. -/
def int8 (b : Nat) : Val := if b < 128 then .num false b 0 else .num true (256 - b) 0

/-- Bits of an element of a format code. -/
def fmtWidth (fmt : Nat) : Nat :=
  if fmt = 0 then 32 else if fmt ≤ 2 then 16 else if fmt = 7 ∨ fmt = 8 then 6 else if fmt = 9 ∨ fmt = 10 then 4 else 8
/-- The formats with a block scale. -/
def fmtMx (fmt : Nat) : Bool := decide (5 ≤ fmt) && decide (fmt ≤ 9)
/-- An element of a format code, without its scale. -/
def elemOf (fmt c : Nat) : Val :=
  if fmt = 0 then ofF32 c else if fmt = 1 then ofBf16 c else if fmt = 2 then ofFp16 c else if fmt = 3 ∨ fmt = 5 then e4m3 c
  else if fmt = 4 ∨ fmt = 6 then e5m2 c else if fmt = 7 then e3m2 127 c else if fmt = 8 then e2m3 127 c
  else if fmt = 9 ∨ fmt = 10 then e2m1 127 c else int8 c
/-- Elements of an operand row with its scales: one E8M0 byte for each block of 32, or one FP32 for the row of FP4. -/
def scaledElems (fmt : Nat) (es scales : List Nat) : List Val :=
  if fmtMx fmt then ((List.range es.length).zip es).map fun e => mxScale (scales.getD (e.1 / 32) 0xFF) (elemOf fmt e.2)
  else if fmt = 10 then es.map fun e => valMul (ofF32 (scales.getD 0 0)) (elemOf fmt e)
  else es.map (elemOf fmt)

/-! ## The cell grid (R169, R170) -/

/-- MACs of a cell in a cycle for operands of two formats: those of the wider one. -/
def macs (a b : Nat) : Nat :=
  let r := fun f => if fmtWidth f = 16 then 1 else if fmtWidth f = 4 then 4 else 2
  min (r a) (r b)
/-- A value that leaves the FP32 range is rounded as FP32; any other is exact. -/
def f32Range (v : Val) : Val :=
  match v with
  | .num _ m e => if m = 0 ∨ (-126 ≤ (Nat.log2 m : Int) + e ∧ (Nat.log2 m : Int) + e < 128) then v else ofF32 (toF32 v)
  | v => v
/-- The products of one cycle, formed exactly; a block's sum of products is multiplied by its scales, 2^(a + b − 254), before it is added. -/
def cycleSum (ps : List (Val × Val)) : Val := (ps.map fun p => valMul p.1 p.2).foldl valAdd (.num true 0 0)
/-- One cycle of a cell: the sum of the products is added to the FP32 accumulator with one rounding. -/
def cellCycle (acc : Nat) (ps : List (Val × Val)) : Nat := toF32 (valAdd (ofF32 acc) (f32Range (cycleSum ps)))
/-- The dot product of a cell: one cycle where the terms fit, else in an order that is open, within the bound of R174. -/
def cellDot (rate : Nat) (ps : List (Val × Val)) (free : Nat) : Nat :=
  if ps.length ≤ rate then cellCycle 0 ps else boundedSum (ps.map fun p => valMul p.1 p.2) free
/-- An integer as a value. -/
def ofInt (z : Int) : Val := .num (decide (z < 0)) z.natAbs 0
/-- The INT32 accumulator after one more product: a sum beyond the range saturates. -/
def intCycle (acc : Int × Bool) (p : Int) : Int × Bool :=
  let z := acc.1 + p
  if 2147483647 < z then (2147483647, true) else if z < -2147483648 then (-2147483648, true) else (z, acc.2)
def intOf (b : Nat) : Int := if b < 128 then b else (b : Int) - 256
/-- A dot product of INT8 elements: exact, converted to FP32 as it leaves the accumulator, and whether it saturated. -/
def intDot (as bs : List Nat) : Nat × Bool :=
  let r := (as.zipWith (fun a b => intOf a * intOf b) bs).foldl intCycle (0, false)
  (toF32 (ofInt r.1), r.2)

/-! ## Output conversion (R172) -/

/-- The scale of an MX block for a largest exponent `emax`: as R141 gives for narrowing. Infinities do not set it. -/
def mxExp (emax : Int) (vs : List Val) : Int :=
  let amax := vs.foldl (fun a v => match v with
    | .num _ m e => magMax a (m, e)
    | _ => a) (0, 0)
  if amax.1 = 0 then 0
  else
    let x : Int := (Nat.log2 amax.1 : Int) + amax.2 - emax
    if x < -127 then -127 else if 127 < x then 127 else x
def divScale (x : Int) (v : Val) : Val :=
  match v with
  | .num n m e => .num n m (e - x)
  | v => v
/-- A block converted to an MX format: scale and element codes. -/
def mxBlock (fmt : Nat) (sat : Bool) (vs : List Val) : Nat × List Nat :=
  let six := fmt = 7 ∨ fmt = 8 ∨ fmt = 9
  if six ∧ vs.any (· == .nan) then (0xFF, vs.map fun _ => 0)
  else
    let x := mxExp (if fmt = 5 then 8 else if fmt = 6 then 15 else if fmt = 7 then 4 else 2) vs
    let code := fun v =>
      if fmt = 5 then roundCode 3 7 0x7E 0x7E 0x7F 7 v else if fmt = 6 then roundCode 2 15 0x7B (if sat then 0x7B else 0x7C) 0x7F 7 v
      else if fmt = 7 then roundCode 2 3 0x1F 0x1F 0 5 v else if fmt = 8 then roundCode 3 1 0x1F 0x1F 0 5 v else roundCode 1 1 7 7 0 3 v
    ((x + 127).toNat, vs.map fun v => code (divScale x v))
/-- INT8: rounded, saturated; a NaN is 0. -/
def int8Code (v : Val) : Nat :=
  match v with
  | .nan => 0
  | .inf n => if n then 128 else 127
  | .num n m e =>
    let (p, q) := pow2 e
    let r := roundDiv (m * p) q
    if n then (256 - min r 128) % 256 else min r 127
def int8Over (v : Val) : Bool :=
  match v with
  | .nan => false
  | .inf _ => true
  | .num n m e => decide ((if n then 128 else 127) < roundDiv (m * (pow2 e).1) (pow2 e).2)
/-- The largest finite magnitude of an output format that is no MX format. -/
def fmtTop (fmt : Nat) : Val :=
  if fmt = 0 then ofF32 0x7F7F_FFFF else if fmt = 1 then ofBf16 0x7F7F else if fmt = 2 then ofFp16 0x7BFF else if fmt = 3 then e4m3 0x7E
  else if fmt = 4 then e5m2 0x7B else .num false 127 0
/-- An element of a format that is no MX format. -/
def plainCode (fmt : Nat) (sat : Bool) (v : Val) : Nat :=
  if fmt ≤ 3 then elemCode fmt sat v else if fmt = 4 then roundCode 2 15 0x7B (if sat then 0x7B else 0x7C) 0x7F 7 v else int8Code v
/-- Blocks of 32. -/
def blocks32 (vs : List Val) : List (List Val) := (List.range ((vs.length + 31) / 32)).map fun k => (vs.drop (32 * k)).take 32
/-- Results in an output format: elements and scales, whether one saturated, whether one was a NaN. FP4 with a row scale is no output format. -/
def outElems (fmt : Nat) (sat : Bool) (vs : List Val) : List Nat × List Nat × Bool × Bool :=
  let nan := vs.any (· == .nan)
  if fmtMx fmt then
    let bs := (blocks32 vs).map (mxBlock fmt sat)
    let past := ((blocks32 vs).zip bs).any fun b => (b.1.zip b.2.2).any fun v =>
      let top := mxScale b.2.1 (elemOf fmt v.2)
      (sat || fmt != 6) && v.1 != .nan && top != .nan && valLt (valScale 1 top) (valScale 1 v.1) &&
        v.2 % 2 ^ (fmtWidth fmt - 1) == (if fmt = 5 then 0x7E else if fmt = 6 then 0x7B else 2 ^ (fmtWidth fmt - 1) - 1)
    ((bs.map (·.2)).flatten, bs.map (·.1), past, nan)
  else
    let past := if fmt = 11 then vs.any int8Over
      else (sat || fmt == 3) && vs.any fun v => v != .nan && valLt (fmtTop fmt) (valScale 1 (ofF32 (toF32 v)))
    (vs.map (plainCode fmt sat), [], past, nan)

/-! ## The vector unit (R173) -/

def f32Fma (a b c : Nat) : Nat := toF32 (valAdd (valMul (ofF32 a) (ofF32 b)) (ofF32 c))
/-- The largest positive finite FP32 code that a test, true up to some value, admits: found bit by bit. -/
def floorCode (le : Val → Bool) : Nat → Nat → Nat
  | 0, c => c
  | n + 1, c => floorCode le n (if c + 2 ^ n < 0x7F80_0000 ∧ le (ofF32 (c + 2 ^ n)) then c + 2 ^ n else c)
/-- A positive FP32 result within 2 ulp of the value that a test bounds from above; which one is open. -/
def near2 (le : Val → Bool) (free : Nat) : Nat := min 0x7F80_0000 (floorCode le 31 0 - 1 + free % 4)
/-- An exponent a × 2^f as a fraction of whole numbers: numerator and denominator. -/
def expFrac (n : Bool) (a : Nat) (f : Int) : Int × Nat :=
  let s : Int := if n then -1 else 1
  if f ≥ 0 then (s * (a * 2 ^ f.toNat : Nat), 1) else (s * (a : Nat), 2 ^ (-f).toNat)
/-- m^k × 2^(e × k) ≤ 2^t. -/
def powLe (m : Nat) (e : Int) (k : Nat) (t : Int) : Bool :=
  let d := t - e * k
  if d ≥ 0 then decide (m ^ k ≤ 2 ^ d.toNat) else decide (m = 0)
/-- 2^x, within 2 ulp. -/
def f32Exp2 (free x : Nat) : Nat :=
  match ofF32 x with
  | .nan => 0x7FC0_0000
  | .inf n => if n then 0 else f32Inf
  | .num n a f =>
    let (t, k) := expFrac n a f
    if 128 * (k : Int) ≤ t then f32Inf
    else near2 (fun c => match c with
      | .num _ m e => powLe m e k t
      | _ => false) free
/-- log2 x, within 2 ulp. -/
def f32Log2 (free x : Nat) : Nat :=
  match ofF32 x with
  | .nan => 0x7FC0_0000
  | .inf n => if n then 0x7FC0_0000 else f32Inf
  | .num n m e =>
    if m = 0 then f32NegInf else if n then 0x7FC0_0000
    else if 0 ≤ (Nat.log2 m : Int) + e then
      near2 (fun c => match c with
        | .num n a f => let (t, k) := expFrac false a f; !valLt (.num false 256 0) (.num n a f) && decide (2 ^ (t - e * k).toNat ≤ m ^ k)
        | _ => false) free
    else 0x8000_0000 + near2 (fun c => match c with
        | .num n a f => let (t, k) := expFrac false a f; !valLt (.num false 256 0) (.num n a f) && powLe m e k (-t)
        | _ => false) free
/-- 1 ÷ x, within 2 ulp. -/
def f32Recip (free x : Nat) : Nat :=
  match ofF32 x with
  | .nan => 0x7FC0_0000
  | .inf n => if n then 0x8000_0000 else 0
  | .num n m e =>
    let s := if n then 0x8000_0000 else 0
    if m = 0 then s + f32Inf
    else s + near2 (fun c => match c with
      | .num _ a f => powLe (a * m) (e + f) 1 0
      | _ => false) free
/-- 1 ÷ √x, within 2 ulp. -/
def f32Rsqrt (free x : Nat) : Nat :=
  match ofF32 x with
  | .nan => 0x7FC0_0000
  | .inf n => if n then 0x7FC0_0000 else 0
  | .num n m e =>
    if m = 0 then (if n then f32NegInf else f32Inf) else if n then 0x7FC0_0000
    else near2 (fun c => match c with
      | .num _ a f => powLe (a * a * m) (e + 2 * f) 1 0
      | _ => false) free

end Sys2Proof.Machine
end

