-- ==== Sys2Proof/Machine/Sessions.lean ====
section
/-!
DEFINITION. Sys2Proof/Machine/Sessions.lean: the session commands (R40, R41, R43, R249, R283, R288, R418 to R422), expiry and
eviction (R47 to R50).
-/
namespace Sys2Proof.Machine

/-! ## SESSION_CREATE (R34, R51, R249, R419) -/

/-- The extent of the session key table that serves a slot, taken from the pool when it is first used (R502). -/
def takeKeyExt (i : Nat) (s : State) : Option State :=
  let e := i / 32768
  if (sget s.keyExts e).isSome then some s
  else if poolSize s < s.poolBytes + 0x20_0000 + ((List.range 8).map (unheld · s)).sum then none
  else
    let cands := (List.range 768).filter fun g => tilePresent (g / 192) s && chProtectedOk g s
    match allocIn cands 0x20_0000 s with
    | none => none
    | some (_, a, s) =>
      let s := { s with keyExts := sset s.keyExts e a, poolBytes := s.poolBytes + 0x20_0000 }
      some (wr SES_POOL_USED.USED_MIB (ceilDiv s.poolBytes 0x10_0000) s)

/-- The sampling values a new session takes: those of its block, or the neutral ones (R419). -/
def createSampling (h : Hdr) (o : CreateOps) (s : State) : Option Sampling :=
  if o.sampling.addr = 0 then some samplingNeutral else (bufRead h o.sampling 48 s).map samplingOf

/-- Write the new descriptor, key and penalty table, and complete (R40, R254, R503). -/
def createFill (h : Hdr) (o : CreateOps) (p : Sampling) (i pt pen stop : Nat) (s : State) : State :=
  let gen := hGen (descOf i s).handle
  let home := rd SES_CTRL.MODULE_ID s
  let seed := if p.seed = 0 then Config.random s.fresh % 2 ^ 64 else p.seed
  let hp := if o.hostPark = 0 then isSet (SES_CLASS_CFG.HOST_PARK o.cls) s else o.hostPark == 2
  let d : Desc := {
    handle := mkHandle home i gen, st := stReady, prev := stReady, cls := o.cls, fn := h.fn, model := o.model,
    includeStop := o.includeStop, tokenOutput := o.tokenOutput, hostParkOk := hp, ptRoot := pt,
    maxTokens := p.maxTokens, ttl := if o.ttl = ones64 then rd (SES_CLASS_TUNE.DEFAULT_TTL o.cls) s else o.ttl,
    lastActive := now s, createTick := now s, seed := seed, temperature := p.temperature, topP := p.topP, minP := p.minP,
    repPenalty := p.repPenalty, presencePenalty := p.presencePenalty, frequencyPenalty := p.frequencyPenalty,
    topK := p.topK, decMode := p.decMode, keySlot := i, penTable := pen, grammarId := 0xFFFF, stopBlock := stop,
    mirrorModule := o.mirror, outQueue := o.outQueue, lastEnd := 0xFF, transitTag := 0xFFFF_FFFF, hostTag := o.hostTag }
  let key := Config.random (s.fresh + 1)
  let s := putDesc i d (popFree { s with fresh := s.fresh + 2 })
  let s := giveKey i key false s
  complete h 0x01 sOk d.handle (now s) 0 s

/-- Allocate the first page table, the penalty table and the stop block of a new session (R419). -/
def createAlloc (cls model i : Nat) (s : State) : Option (Nat × Nat × Nat × State) :=
  if !canSupply cls (rootBytes 16 + 32832 + 512) s then none
  else
    let s := { s with sess := sset s.sess i {}, desc := sset s.desc i { descOf i s with cls := cls, model := model } }
    match allocState i 1 (rootBytes 16) s with
    | none => none
    | some (pt, s) => match allocState i 3 32832 s with
      | none => none
      | some (pen, s) => match allocState i 4 512 s with
        | none => none
        | some (stop, s) => some (pt, pen, stop, { s with desc := sset s.desc i { descOf i s with cls := 0, model := 0 } })

/-- The checks of SESSION_CREATE in their order, then the session. -/
def sessionCreate (h : Hdr) (o : CreateOps) (s : State) : State :=
  let bad := o.hostPark == 3 || decide (3 < o.hostPark) || decide (0xFFF < o.mirror)
  if intakeFails h 0x01 bad s then refuse h 0x01 sRejected s
  else if !isSet SES_CTRL.INIT_DONE s then refuse h 0x01 sBusy s
  else if rd SES_CTRL.MODULE_ID s = 0xFFF then refuse h 0x01 sRejected s
  else if 7 < o.cls ∨ !rdBit (HIF_FN_CFG.CLASS_MASK h.fn) o.cls s ∨ 15 < o.model ∨ !isSet (HIF_MODEL.LOADED o.model) s ∨
      63 < o.outQueue ∨ !isSet (HIF_QP_CTRL.ENABLE h.fn o.outQueue) s ∨ o.mirror = rd SES_CTRL.MODULE_ID s then
    refuse h 0x01 sRejected s
  else match createSampling h o s with
  | none => bufFault h o.sampling 48 0x01 s
  | some p =>
    if !samplingOk p then refuse h 0x01 sRejected s
    else if rd (HIF_FN_CFG.SESSION_LIMIT h.fn) s ≤ rd (HIF_FN_STATUS.SESSIONS h.fn) s then refuse h 0x01 sCapacity s
    else match freeHead s with
    | none => refuse h 0x01 sCapacity s
    | some i =>
      match (takeKeyExt i s).bind (createAlloc o.cls o.model i) with
      | none => bump SES_CAPACITY_FAILS.COUNT 1 (refuse h 0x01 sCapacity s)
      | some (pt, pen, stop, s) => createFill h o p i pt pen stop s

/-! ## Commands on a session -/

/-- Set LAST_ACTIVE to the current tick (R49). -/
def touch (s : State) (d : Desc) : Desc := { d with lastActive := now s }

/-- Free a session by command and write its completion (R41). -/
def destroyNow (h : Hdr) (i : Nat) (s : State) : State :=
  let hd := (descOf i s).handle
  complete h 0x02 sOk hd 0 0 (freeSession i (modSess i (fun x => { x with destroyWait := none }) s))

/-- Abandon a session's outgoing migration (R157): the destination's reservation is released by message, the count rises. Where the directory has been
asked to move the entry, ABANDON goes to the shard's leader, which then refuses a late commit, and the case stays unresolved until it answers (R385). A
leader of its own that has committed the SWITCH finds nothing to abandon: the switch completes. -/
def abandonMig (i status : Nat) (event : Bool) (s : State) : State :=
  match s.migs.find? (fun m => m.idx == i) with
  | none => s
  | some m =>
    if m.phase = 4 ∧ s.net.doneTags.contains m.tag then s
    else
    let (ty, ka, kb) := match m.block with
      | some b => (3, b.1 * 256 + b.2.1, b.2.2)
      | none => (1, (descOf i s).handle, 0)
    let s := if m.phase ≠ 4 then s
      else if leads (shardOf ty ka kb) s then { s with net.deadTags := m.tag :: s.net.deadTags }
      else dirSend (.abandon m.tag) (.abandon m.tag) ty ka kb 0 { s with net.unresolved := s.net.unresolved ++ [m] }
    let s := { s with migs := s.migs.filter (fun m => m.idx != i),
                      fabOut := { type := 0x11, dst := m.dest, args := [6, m.tag] } :: s.fabOut }
    let s := cutTransits (fun t => t.idx == i && t.kind == 7) s
    let s := wr TRN_MIG_STATUS.OUT s.migs.length (bump TRN_MIG_ABANDONED.COUNT 1 s)
    if event then postPf 0x000A 0x05 status m.tag 0 s else s

def sessionDestroy (h : Hdr) (s : State) : State :=
  sessionCmd h 0x02 false [] none (.destroy h) (fun _ => (0, 0)) (fun i s => destroyNow h i (abandonMig i sAborted false s)) s

/-- Reserve pool capacity for `n` more positions (R48, R201, R211): `none` where the pool, the class cap or the context limit
refuses. -/
def reserveMore (i n : Nat) (s : State) : Option State :=
  let d := descOf i s
  let x := sessOf i s
  let m := modelOf d.model s
  let (need, pages) := reserveNeed m x d.tokenCount (x.resvTokens + n)
  let delta := need - x.resvBytes
  if maxPositions < d.tokenCount + x.resvTokens + n ∨ kvCap d.cls s < (x.pages.map (·.bytes)).sum + pages ∨
      !canSupply d.cls (delta + 4 * n) s then none
  else some (modSess i (fun x => { x with resvTokens := x.resvTokens + n, resvBytes := x.resvBytes + delta }) (charge d.cls delta s))

/-- Count one token in a session's penalty table (R254). -/
def penCount (i tok : Nat) (s : State) : State :=
  let x := sessOf i s
  match x.pen.findIdx? (·.1 == tok) with
  | some k => dirtyKind i 3 (64 + 8 * k) 8 (modSess i (fun x => { x with pen := x.pen.map fun p => if p.1 = tok then (p.1, satAdd 16 p.2 1) else p }) s)
  | none =>
    if x.pen.length < 4096 then
      dirtyKind i 3 (64 + 8 * x.pen.length) 8 (dirtyKind i 3 0 64 (modSess i (fun x => { x with pen := x.pen ++ [(tok, 1)] }) s))
    else
      let t := homeTile (modelOf (descOf i s).model s) 0
      bump (DEC_PEN_OVERFLOW.COUNT t) 1 (dirtyKind i 3 0 64
        (modSess i (fun x => { x with penDropped := satAdd 32 x.penDropped 1 }) (modDesc i (fun d => { d with penOverflow := true }) s)))

/-- Write the penalty table empty (R254). -/
def penClear (i : Nat) (s : State) : State :=
  dirtyKind i 3 0 32832 (modDesc i (fun d => { d with penOverflow := false }) (modSess i (fun x => { x with pen := [], penDropped := 0 }) s))

/-- Add tokens to a session's pending input (R40, R49, R211, R254): the whole of them, or CAPACITY. -/
def addTokens (h : Hdr) (op i : Nat) (toks : List Nat) (r1 : Desc → Nat) (s : State) : State :=
  let s := mendTables i s
  match reserveMore i toks.length s with
  | none => bump SES_CAPACITY_FAILS.COUNT 1 (refuse h op sCapacity s)
  | some s =>
    let s := modSess i (fun x => { x with pendTok := x.pendTok ++ toks }) s
    let s := modDesc i (fun d => { touch s d with wakeHint := if d.st = stWaiting then 0 else d.wakeHint, st := stReady }) s
    let s := if bitOf (descOf i s).decMode 0 then toks.foldl (fun s t => penCount i t s) s else s
    let s := fitPending i s
    let s := if op = 0x03 then bump TXT_TOKENS_IN.COUNT toks.length s else s
    complete h op sOk (descOf i s).handle toks.length (r1 (descOf i s)) s

def appendText (h : Hdr) (length : Nat) (buf : Buf) (s : State) : State :=
  sessionCmd h 0x03 false [length] (some (buf, length)) (.appendText h length buf) (fun _ => (0, 0)) (fun i s =>
    if length = 0 ∨ 0x400_0000 < length then refuse h 0x03 sRejected s
    else match bufRead h buf length s with
    | none => bufFault h buf length 0x03 s
    | some bs =>
      if tokBad (descOf i s).model s then refuse h 0x03 sDropped (bump REL_TABLE_FAULTS.COUNT 1 s)
      else
      let r := tokenize (modelSet (descOf i s).model s) bs
      let s := bump TXT_INTAKE_BYTES.COUNT bs.length (bump TXT_FALLBACK_BYTES.COUNT r.fallback
        (bump TXT_INVALID_UTF8.COUNT r.invalid (bump TXT_LONG_CUTS.COUNT r.cuts s)))
      addTokens h 0x03 i r.toks (fun d => d.tokenCount) s) s

def appendTokens (h : Hdr) (count : Nat) (buf : Buf) (s : State) : State :=
  sessionCmd h 0x04 false [count] (some (buf, 4 * count)) (.appendTokens h count buf) (fun _ => (0, 0)) (fun i s =>
    if count = 0 ∨ 0x100_0000 < count then complete h 0x04 sRejected h.handle 0 ones64 s
    else match bufRead h buf (4 * count) s with
    | none => bufFault h buf (4 * count) 0x04 s
    | some bs =>
      let toks := (pieces 4 count bs).map leNat
      let vocab := rd (DEC_MODEL.VOCAB (descOf i s).model) s
      match toks.findIdx? (vocab ≤ ·) with
      | some k => complete h 0x04 sRejected h.handle 0 k s
      | none => addTokens h 0x04 i toks (fun _ => ones64) s) s

/-- GENERATE on a READY or WAITING session (R40, R251, R254, R289). -/
def generateNow (h : Hdr) (i : Nat) (s : State) : State :=
  let s := modDesc i (fun d => { touch s d with
    wakeHint := if d.st = stWaiting then 0 else d.wakeHint, st := stReady, turnPending := true,
    turnId := (d.turnId + 1) % 2 ^ 32, turnTokens := 0 }) s
  let d := descOf i s
  let s := modSess i (fun x => { x with stream := [], released := 0, outBytes := 0, partialTok := false, stopHit := none }) s
  let s := if bitOf d.decMode 1 then penClear i s else s
  let s := if d.grammarId = 0xFFFF then s else
    modSess i (fun x => { x with gstack := [] })
      (modDesc i (fun d => { d with grammarState := field (sgetD s.grams d.grammarId []) 0xC 4, grammarDepth := 0 }) s)
  let s := requestMask i s
  complete h 0x05 sOk d.handle d.turnId 0 s
def generate (h : Hdr) (s : State) : State :=
  sessionCmd h 0x05 false [] none (.generate h) (fun _ => (0, 0)) (generateNow h) s

def toolWait (h : Hdr) (wake ttl : Nat) (s : State) : State :=
  sessionCmd h 0x06 false [wake, ttl] none (.toolWait h wake ttl) (fun _ => (0, 0)) (fun i s =>
    let s := modDesc i (fun d => { touch s d with wakeHint := wake, ttl := if ttl = 0 then d.ttl else ttl,
                                                  st := if d.st = stReady then stWaiting else d.st }) s
    let d := descOf i s
    complete h 0x06 sOk d.handle d.wakeHint d.ttl s) s

/-- Class-0 resumes admitted with doorbells within 1 ms of `t`, and the bytes of the deep-tier ones within 6 ms (R55). -/
def c0Recent (t : Nat) (s : State) : Nat × Nat :=
  ((s.c0Window.filter fun p => decide (t < p.1 + 1000) && decide (p.1 < t + 1000)).length,
    ((s.c0Window.filter fun p => decide (t < p.1 + 6000) && decide (p.1 < t + 6000)).map (·.2)).sum)
/-- A resume revives from the deep tier, or from the host tier: the session is parked there, or is FROZEN with its image there. -/
def fromTier (tier i : Nat) (s : State) : Bool :=
  let d := descOf i s
  d.st == (if tier = 0 then stDeep else stHost) ||
    (d.st == stFrozen && d.ptRoot == 0 && ((sessOf i s).image.map (·.tier)) == some tier)

/-- Whether the class-0 resume bound covers a resume with its doorbell at `t` µs (R52): the conditions on the module and the session, and the admitted
rate of R55. A host-tier image carries no bound. -/
def c0Guaranteed (i t : Nat) (s : State) : Bool :=
  let (n, b) := c0Recent t s
  c0Holds i s && decide (n < rd SES_C0_ADMIT.RES_PER_MS s) && !fromTier 1 i s &&
    (!fromTier 0 i s || decide (b + (descOf i s).kvBytes ≤ rd SES_C0_ADMIT.DEEP_MIB_6MS s * 0x10_0000))

/-- Enter a class-0 resume in the admission window (R55). -/
def c0Admit (i t : Nat) (s : State) : State :=
  { s with c0Window := (t, if fromTier 0 i s then (descOf i s).kvBytes else 0) :: s.c0Window.filter fun p => decide (t < p.1 + 6000) }

/-- A resume's measured time against its bound (R57): 1,500 µs resident, 6,000 µs from the deep tier. -/
def c0Measure (deep : Bool) (us : Nat) (s : State) : State :=
  if deep then
    let s := raise SES_C0_STATUS.WORST_DEEP_US us s
    if 6000 < us then bump SES_C0_COUNTS.VIOLATIONS 1 s else s
  else
    let s := raise SES_C0_STATUS.WORST_RES_US us s
    if 1500 < us then bump SES_C0_COUNTS.VIOLATIONS 1 s else s

/-- A session's state lies on a tile that is out of service, or on a codeword that reads poisoned, so a check of it finds it lost (R40, R475). -/
def stateLost (i : Nat) (s : State) : Bool :=
  let x := sessOf i s
  ((x.pages.filter resident).any fun p => !stackOnline (p.chan / 32) s || poisonIn p.addr p.bytes s) ||
    x.allocs.any fun a => !stackOnline (a.chan / 32) s || ((a.kind == 1 || a.kind == 2) && poisonIn a.addr a.bytes s)

/-- A resumed resident session is batch-ready: its root is loaded, a bound that held is measured, and the completion is written (R53, R57). -/
def resumeDone (w : C0Wait) (s : State) : State :=
  let s := cacheRoot w.idx s
  let s := if w.bound then c0Measure false w.us s else s
  complete w.h 0x07 sOk (descOf w.idx s).handle (now s) (descOf w.idx s).kvBytes s
/-- The channels of a session's page table, roots and leaves, and those of them that are in PROCESSOR mode. -/
def tabChans (i : Nat) (s : State) : List Nat := ((sessOf i s).allocs.filter fun a => a.kind == 1 || a.kind == 2).map (·.chan)
def tableAway (i : Nat) (s : State) : List Nat := (tabChans i s).filter fun g => chProcessor g s
/-- A RESUME of a resident session whose page table lies in channels in PROCESSOR mode waits, in class 0, for their return (R56, R112). -/
def resumeResident (w : C0Wait) (s : State) : State :=
  if (descOf w.idx s).cls = 0 ∧ tableAway w.idx s ≠ [] then askReturn (tableAway w.idx s) { s with c0Wait := s.c0Wait ++ [w] }
  else resumeDone w s

/-- RESUME on a slot (R40, R52, R53, R225): `t` is the doorbell's time and `us` the time to batch-ready of a resident session, µs; `held` says
that the conditions of R52 have held since the doorbell. -/
def resumeNow (h : Hdr) (t us : Nat) (held : Bool) (i : Nat) (s : State) : State :=
  let d := descOf i s
  let g := d.cls == 0 && held && c0Guaranteed i t s
  let count := fun (s : State) => if d.cls = 0 then (if g then c0Admit i t s else bump SES_C0_COUNTS.UNGUARANTEED 1 s) else s
  let resident := fun (s : State) => resumeResident { idx := i, h := h, us := us, bound := g } (modDesc i (touch s) s)
  if d.st = stReady then resident (count s)
  else if d.st = stWaiting then resident (modDesc i (fun d => { d with st := stReady, wakeHint := 0 }) (count s))
  else if d.st = stFrozen ∧ d.ptRoot ≠ 0 then
    if stateLost i s then refuse h 0x07 sDropped (loseSession i s)
    else resident (modDesc i (fun d => { d with st := stReady }) (count s))
  else match queueTransit { idx := i, kind := 3, cls := d.cls, origin := 0, requester := some (h, 0x07), c0Bound := g, deadline := 0 } (count s) with
    | some s => modDesc i (touch s) s
    | none => refuse h 0x07 sCapacity s
def resume (h : Hdr) (t us : Nat) (held : Bool) (s : State) : State :=
  sessionCmd h 0x07 false [] none (.resume h t us (held && c0Holds (hIndex h.handle) s)) (fun d => (d.lastActive, d.kvBytes)) (resumeNow h t us held) s

/-- Queue a transit for a command, or complete with CAPACITY where the queues are full (R130). -/
def startFor (h : Hdr) (op : Nat) (t : Transit) (s : State) : State :=
  match queueTransit { t with requester := some (h, op) } s with
  | some s => s
  | none => refuse h op sCapacity s

/-- A park of a resident session, or a move of a parked image, by command (R41 note 3, R107, R149, R150). -/
def parkNow (h : Hdr) (op tier demote region i : Nat) (s : State) : State :=
  let d := descOf i s
  let code := if tier = 1 then stDeep else stHost
  if preCopying i s then refuse h op sBusy s
  else if d.st = code then complete h op sOk d.handle d.kvBytes code s
  else if d.st = stDeep ∨ d.st = stHost then
    if tier = 2 ∧ !d.hostParkOk then refuse h op sRejected s
    else startFor h op { idx := i, kind := 5, cls := d.cls, origin := 1, region := region, destTier := tier - 1 } s
  else if tier = 2 ∧ (!d.hostParkOk ∨ deepTakes i (demoteOf d.cls demote s) s) then refuse h op sRejected s
  else startFor h op { idx := i, kind := tier, cls := d.cls, origin := 1, demote := demote, region := region, destTier := tier - 1 } s

def demoteBad (demote region : Nat) : Bool := !(demote == 0 || demote == 1 || demote == 2 || demote == 0xFF) ||
  (decide (63 < region) && region != 0xFFFF)

def park (h : Hdr) (tier demote region : Nat) (s : State) : State :=
  sessionCmd h 0x08 (!(tier == 1 || tier == 2) || demoteBad demote region) [tier, demote, region] none (.park h tier demote region)
    (fun d => (d.kvBytes, d.st)) (parkNow h 0x08 tier demote region) s

/-- MIGRATE to a tier (R421): to the bonded tier a revival that returns to PREV_STATE, otherwise as PARK. -/
def migrateNow (h : Hdr) (target demote region i : Nat) (s : State) : State :=
  let d := descOf i s
  if target = 0 then
    if preCopying i s then refuse h 0x09 sBusy s
    else if d.st = stDeep ∨ d.st = stHost then startFor h 0x09 { idx := i, kind := 3, cls := d.cls, origin := 1 } s
    else complete h 0x09 sOk d.handle d.kvBytes d.st s
  else parkNow h 0x09 target demote region i s
def migrate (h : Hdr) (target demote region : Nat) (s : State) : State :=
  sessionCmd h 0x09 (decide (2 < target) || (target != 0 && demoteBad demote region)) [target, demote, region] none
    (.migrate h target demote region) (fun d => (d.kvBytes, d.st)) (migrateNow h target demote region) s

/-- CANCEL (R43, R44): on an ACTIVE session output is suppressed from now; on a READY one a pending turn ends at once. -/
def cancelNow (h : Hdr) (i : Nat) (s : State) : State :=
  let d := descOf i s
  let s := if d.st = stActive then suppress i s
    else if d.turnPending then endTurn i 4 false 0 0xFF s else s
  complete h 0x0A sOk d.handle d.turnId 0 s
def cancel (h : Hdr) (s : State) : State :=
  sessionCmd h 0x0A false [] none (.cancel h) (fun d => (d.turnId, 0)) (cancelNow h) s

/-- SET_SAMPLING (R249, R420). -/
def setSampling (h : Hdr) (p : Sampling) (withSeed withMax : Bool) (s : State) : State :=
  sessionCmd h 0x0B false [p.temperature, p.topP, p.minP, p.repPenalty, p.presencePenalty, p.frequencyPenalty, p.topK, p.decMode,
      p.maxTokens, p.seed, b2n withSeed, b2n withMax] none (.setSampling h p withSeed withMax) (fun d => (d.rngCounter, 0)) (fun i s =>
    if !samplingOk p then refuse h 0x0B sRejected s
    else
      let s := modDesc i (fun d => { touch s d with
        temperature := p.temperature, topP := p.topP, minP := p.minP, repPenalty := p.repPenalty,
        presencePenalty := p.presencePenalty, frequencyPenalty := p.frequencyPenalty, topK := p.topK, decMode := p.decMode,
        maxTokens := if withMax then p.maxTokens else d.maxTokens, seed := if withSeed then p.seed else d.seed,
        rngCounter := if withSeed then 0 else d.rngCounter }) s
      let d := descOf i s
      complete h 0x0B sOk d.handle d.rngCounter 0 s) s

/-- SET_GRAMMAR (R288, R251). -/
def setGrammarNow (h : Hdr) (gid i : Nat) (s : State) : State :=
  let d := descOf i s
  let g := sgetD s.grams gid []
  let done := fun (s : State) =>
    let s := modDesc i (touch s) s
    let s := if d.turnPending then requestMask i s else s
    complete h 0x0C sOk d.handle gid 0 s
  if gid = 0xFFFF then
    done (modSess i (fun x => { x with gstack := [], mask := none })
      (modDesc i (fun d => { d with grammarId := 0xFFFF, grammarState := 0, grammarDepth := 0, grammarStack := 0 }) (freeKind i 5 s)))
  else if (sget s.grams gid).isNone ∨ field g 6 1 ≠ rd (TXT_MODEL.SET d.model) s then refuse h 0x0C sRejected s
  else
    let bind := fun (a : Nat) (s : State) =>
      done (modSess i (fun x => { x with gstack := [] })
        (modDesc i (fun d => { d with grammarId := gid, grammarState := field g 0xC 4, grammarDepth := 0, grammarStack := a }) s))
    if d.grammarStack ≠ 0 ∨ d.st = stDeep ∨ d.st = stHost then bind d.grammarStack s
    else if !canSupply d.cls 4096 s then bump SES_CAPACITY_FAILS.COUNT 1 (refuse h 0x0C sCapacity s)
    else match allocState i 5 4096 s with
      | none => bump SES_CAPACITY_FAILS.COUNT 1 (refuse h 0x0C sCapacity s)
      | some (a, s) => bind a s
def setGrammar (h : Hdr) (gid : Nat) (s : State) : State :=
  sessionCmd h 0x0C false [gid] none (.setGrammar h gid) (fun _ => (gid, 0)) (setGrammarNow h gid) s

/-- SET_STOPS (R262, R422): the stop block, its lengths and INCLUDE_STOP. -/
def setStops (h : Hdr) (buf : Buf) (stopLen incl : Nat) (s : State) : State :=
  sessionCmd h 0x0D (decide (2 < incl)) [stopLen, incl] (some (buf, 512)) (.setStops h buf stopLen incl) (fun _ => (0, 0)) (fun i s =>
    let lens := (leBytes 8 stopLen).map (·.toNat)
    if lens.any (64 < ·) then refuse h 0x0D sRejected s
    else match bufRead h buf 512 s with
    | none => bufFault h buf 512 0x0D s
    | some bs =>
      let s := modSess i (fun x => { x with stops := pieces 64 8 bs }) s
      let s := if (descOf i s).stopBlock = 0 then s else markDirty i (descOf i s).stopBlock 512 (memWrite (descOf i s).stopBlock bs s)
      let s := modDesc i (fun d => { touch s d with
        stopLen := stopLen, includeStop := if incl = 1 then false else if incl = 2 then true else d.includeStop }) s
      complete h 0x0D sOk (descOf i s).handle (lens.filter (0 < ·)).length 0 s) s

/-! ## Meanings of the rows -/

/-- Note a command as started, where the intake has not (R407). -/
def noteStarted (h : Hdr) (op : Nat) (s : State) : State :=
  if s.started.any (fun x => sameCmd x.h h) then s else { s with started := s.started ++ [{ h := h, opcode := op }] }

/-- A host command's row: carried out where its queue pair runs and it may start (R416). The session table unit reads the descriptor that a
session command names; MIGRATE of an embedding block names none. -/
def hostCmd (h : Hdr) (op : Nat) (s : State) (f : State → State) : Host.Outcome State Fault Refusal :=
  .next (if cmdRuns h s then f (noteStarted h op (if !namesSession op ∨ h.handle = 0 then s else readDesc (hIndex h.handle) s)) else s)

def execSessionCreate (h : Hdr) (o : CreateOps) (s : State) : Host.Outcome State Fault Refusal := hostCmd h 0x01 s (sessionCreate h o)
def execSessionDestroy (h : Hdr) (s : State) : Host.Outcome State Fault Refusal := hostCmd h 0x02 s (sessionDestroy h)
def execAppendText (h : Hdr) (length : Nat) (buf : Buf) (s : State) : Host.Outcome State Fault Refusal := hostCmd h 0x03 s (appendText h length buf)
def execAppendTokens (h : Hdr) (count : Nat) (buf : Buf) (s : State) : Host.Outcome State Fault Refusal := hostCmd h 0x04 s (appendTokens h count buf)
def execGenerate (h : Hdr) (s : State) : Host.Outcome State Fault Refusal := hostCmd h 0x05 s (generate h)
def execToolWait (h : Hdr) (wake ttl : Nat) (s : State) : Host.Outcome State Fault Refusal := hostCmd h 0x06 s (toolWait h wake ttl)
def execResume (h : Hdr) (t us : Nat) (s : State) : Host.Outcome State Fault Refusal := hostCmd h 0x07 s (resume h t us true)
def execPark (h : Hdr) (tier demote region : Nat) (s : State) : Host.Outcome State Fault Refusal := hostCmd h 0x08 s (park h tier demote region)
def execMigrate (h : Hdr) (target demote region : Nat) (s : State) : Host.Outcome State Fault Refusal :=
  hostCmd h 0x09 s (migrate h target demote region)
def execCancel (h : Hdr) (s : State) : Host.Outcome State Fault Refusal := hostCmd h 0x0A s (cancel h)
def execSetSampling (h : Hdr) (p : Sampling) (withSeed withMax : Bool) (s : State) : Host.Outcome State Fault Refusal :=
  hostCmd h 0x0B s (setSampling h p withSeed withMax)
def execSetGrammar (h : Hdr) (gid : Nat) (s : State) : Host.Outcome State Fault Refusal := hostCmd h 0x0C s (setGrammar h gid)
def execSetStops (h : Hdr) (buf : Buf) (stopLen incl : Nat) (s : State) : Host.Outcome State Fault Refusal :=
  hostCmd h 0x0D s (setStops h buf stopLen incl)

/-- SESSION_EXPIRY (R49): a due session expires where its state permits. -/
def execSessionExpiry (idx : Nat) (s : State) : Host.Outcome State Fault Refusal := whenServing s fun s => expireDue idx (readDesc idx s)

/-- EXPIRED_EVENT_WRITE (R40): once OUT_QUEUE has room the EVENT is written and the slot becomes FREE. -/
def expiredEvent (i : Nat) (s : State) : State :=
  let d := descOf i s
  let r := evRec (sesEv d 0x0008 0x04 (if d.dataLost then sDropped else sExpired) d.lastEnd d.lastActive (now s))
  if d.st = stExpired ∧ recSize r ≤ ringFree d.fn d.outQueue s ∧ qpState d.fn d.outQueue s = 1 then
    freeSession i (queueRec d.fn d.outQueue r s)
  else s
def execExpiredEventWrite (idx : Nat) (s : State) : Host.Outcome State Fault Refusal := whenServing s (expiredEvent idx)

/-! ## Eviction (R47) -/

/-- Pool usage at which eviction starts, and below which it stops, in 1/1,024 of the pool. -/
def evictAbove (s : State) : Bool := decide (rd SES_POOL_WM.HIGH s * poolSize s < s.poolBytes * 1024)
def evictMore (s : State) : Bool :=
  let h := rd SES_POOL_WM.HIGH s
  let l := rd SES_POOL_WM.LOW s
  let stop := if h ≤ l then h - 1 else l
  decide (stop * poolSize s ≤ s.poolBytes * 1024)

/-- Age of a session (R73). -/
def ageOf (d : Desc) (s : State) : Nat := now s - d.lastActive

/-- A session's state, hint and class make it an eviction candidate (R47, R153). -/
def evictable (i : Nat) (d : Desc) (s : State) : Bool :=
  ((d.st == stReady && !d.turnPending) || d.st == stWaiting) && !d.migrated &&
    (d.wakeHint == 0 || decide (now s + rd (SES_CLASS_TUNE.WAKE_GUARD d.cls) s < d.wakeHint)) && overReserve d.cls s &&
    !(s.transits.any fun t => t.idx == i && t.kind != 6) && !(s.migs.any fun m => m.idx == i)

/-- The destination an eviction finds (R47): deep tier, else the host tier where the session allows it. -/
def evictTier (i : Nat) (d : Desc) (s : State) : Option Nat :=
  if deepTakes i (demoteOf d.cls 0xFF s) s then some 1
  else if d.hostParkOk && hostTakes i (demoteOf d.cls 0xFF s) s then some 2 else none

/-- Of two candidates the one to go first: the older, then the higher class number, then the higher index. -/
def evictFirst (s : State) (a b : Nat × Desc) : Bool :=
  let x := ageOf a.2 s
  let y := ageOf b.2 s
  decide (y < x) || (x == y && (decide (b.2.cls < a.2.cls) || (a.2.cls == b.2.cls && decide (b.1 < a.1))))

def pickCandidate (s : State) (l : List (Nat × Desc)) : Option (Nat × Desc) :=
  l.foldl (fun best c => match best with
    | none => some c
    | some b => if evictFirst s c b then some c else some b) none

/-- The next session to evict: classes 1 to 7 first, class 0 only when none of those remains. -/
def nextVictim (s : State) : Option (Nat × Desc) :=
  let c := s.desc.filter fun p => evictable p.1 p.2 s && (evictTier p.1 p.2 s).isSome
  match pickCandidate s (c.filter (·.2.cls != 0)) with
  | some v => some v
  | none => pickCandidate s (c.filter (·.2.cls == 0))

/-- Queue one eviction; it counts when its park starts. -/
def evictOne (s : State) : State :=
  match nextVictim s with
  | none => s
  | some (i, d) =>
    match (evictTier i d s).bind fun k => queueTransit { idx := i, kind := k, cls := d.cls, origin := 2, demote := 0xFF, destTier := k - 1 } s with
    | some s => { s with evicting := true }
    | none => s

/-- EVICTION (R47): above HIGH, and from then on until usage falls below LOW, the next candidate is parked. -/
def execEviction (s : State) : Host.Outcome State Fault Refusal :=
  whenServing s fun s =>
    if isSet SES_CTRL.EVICT_EN s && (evictAbove s || (s.evicting && evictMore s)) then evictOne s else { s with evicting := false }

/-- TOMBSTONE_CLOSE (R40, R156): 256 edges after the switch tick the slot becomes FREE. -/
def closeTomb (i : Nat) (s : State) : State :=
  match s.tombs.find? (fun t => t.idx == i) with
  | none => s
  | some t =>
    if t.limit ≤ s.cad.edges then
      let s := { s with tombs := s.tombs.filter (fun t => t.idx != i) }
      let s := wr TRN_MIG_STATUS.TOMBSTONES s.tombs.length s
      if t.block = none then freeSession i s else s
    else s
def execTombstoneClose (idx : Nat) (s : State) : Host.Outcome State Fault Refusal := whenServing s (closeTomb idx)

end Sys2Proof.Machine
end

