-- ==== Sys2Proof/Machine/Decoding.lean ====
section
/-!
DEFINITION. Sys2Proof/Machine/Decoding.lean: the SAMPLE kernel's mask and penalties, the decoding unit's filters and draw, the commit
of a draw, and the text engine's output of it (R246 to R271).
-/
namespace Sys2Proof.Machine

/-! ## Partitions and array SRAM -/

def partOf (p : Nat) (s : State) : Part := sgetD s.parts p {}
def putPart (p : Nat) (x : Part) (s : State) : State := { s with parts := sset s.parts p x }
def modPart (p : Nat) (f : Part → Part) (s : State) : State := putPart p (f (partOf p s)) s
/-- The map a partition's kernels run under: a step ends under the map it began with (R456). -/
def curRanks (p : Nat) (s : State) : List Nat :=
  let x := partOf p s
  match x.step with
  | some st => st.ranks
  | none => x.ranks
/-- The array that holds a rank (R177). -/
def rankArr (p r : Nat) (s : State) : Nat := ((curRanks p s).drop r).head?.getD 0
/-- The decoding tile (R247). -/
def decTile (p : Nat) (s : State) : Nat := rankArr p 0 s / 512

/-- The draw of an array's open bytes: that of its last reset, else of the start-up (R184). -/
def sramDrawOf (s : State) (arr : Nat) : Nat := sgetD s.sramDraw arr (2 ^ 64 + s.boots)
/-- A byte of an array's SRAM: what was written there, else open (R184). -/
def sramByte (s : State) (arr off : Nat) : Byte :=
  match sget s.sram (arr * 2 ^ 21 + off) with
  | some b => b
  | none => Config.openByte (sramDrawOf s arr) (arr * 2 ^ 21 + off)
def sramRead (s : State) (arr : Nat) : Nat → Nat → List Byte
  | _, 0 => []
  | off, n + 1 => sramByte s arr off :: sramRead s arr (off + 1) n
def sramWrite (arr : Nat) : Nat → List Byte → State → State
  | _, [], s => s
  | off, b :: r, s => sramWrite arr (off + 1) r { s with sram := sset s.sram (arr * 2 ^ 21 + off) b }
/-- An array reset leaves its SRAM undefined (R184). -/
def sramLose (arr : Nat) (s : State) : State :=
  { s with sram := s.sram.filter (fun p => p.1 / 2 ^ 21 != arr), sramDraw := sset s.sramDraw arr s.fresh, fresh := s.fresh + 1 }

/-- The step of a partition, changed. -/
def modStep (p : Nat) (f : Step → Step) (s : State) : State := modPart p (fun x => { x with step := x.step.map f }) s
def modRun (p k : Nat) (f : SesRun → SesRun) (s : State) : State :=
  modStep p (fun st => { st with runs := st.runs.modify k f }) s
def runOf (p k : Nat) (s : State) : Option SesRun := (partOf p s).step.bind fun st => (st.runs.drop k).head?
/-- The operator a partition runs as a kernel of its step. -/
def runsOp (p op : Nat) (s : State) : Bool := ((partOf p s).running.map fun r => r.kern.op == op).getD false

/-! ## Stages 2 and 3: mask and penalties (R251 to R255) -/

/-- A logit after the mask and the penalties. -/
def adjustLogit (d : Desc) (pen : List (Nat × Nat)) (mask : Option Mask) (tok v : Nat) : Nat :=
  let masked := (mask.map fun m => !m.allowed.contains tok).getD false
  if masked then f32NegInf
  else if f32NaN v then v
  else match pen.find? (·.1 == tok) with
  | none => v
  | some (_, c) =>
    let v := if d.repPenalty = 0x3F80_0000 then v
      else if f32Lt 0 v then f32Div v d.repPenalty else f32Mul v d.repPenalty
    f32Sub (f32Sub v d.presencePenalty) (f32Mul d.frequencyPenalty (f32OfNat c))

/-- One rank's share of a session's logits, adjusted in place. -/
def sampleShare (d : Desc) (pen : List (Nat × Nat)) (mask : Option Mask) (arr off base : Nat) : Nat → State → State
  | 0, s => s
  | n + 1, s =>
    let s := sampleShare d pen mask arr off base n s
    sramWrite arr (off + 4 * n) (leBytes 4 (adjustLogit d pen mask (base + n) (leNat (sramRead s arr (off + 4 * n) 4)))) s

/-- SAMPLE (R246, R252): `rank` holds `count` FP32 logits of session `k` of the plan from token `base`, at `off` in its SRAM. A mask
that has not come makes the session late. -/
def sampleRun (p rank k off base count : Nat) (s : State) : State :=
  match runOf p k s with
  | none => s
  | some r =>
    if !runsOp p 0x0008 s || r.status != 0 then s
    else
      let x := sessOf r.idx s
      if r.params.grammarId ≠ 0xFFFF ∧ x.mask.isNone then modRun p k (fun r => { r with late := true }) s
      else sampleShare r.params x.pen x.mask (rankArr p rank s) off base count s
def execSample (part rank k off base count : Nat) (s : State) : Host.Outcome State Fault Refusal :=
  whenServing s (sampleRun part rank k off base count)

/-! ## Stage 5: the generator, the filters and the draw (R256 to R259) -/

/-- One round of Philox-4x32 on a counter of four words. -/
def philoxRound (k0 k1 : Nat) (c : Nat × Nat × Nat × Nat) : Nat × Nat × Nat × Nat :=
  let p0 := 0xD251_1F53 * c.1
  let p1 := 0xCD9E_8D57 * c.2.2.1
  (((p1 / 2 ^ 32) ^^^ c.2.1) ^^^ k0, p1 % 2 ^ 32, ((p0 / 2 ^ 32) ^^^ c.2.2.2) ^^^ k1, p0 % 2 ^ 32)
/-- `n` rounds, the key stepped between them. -/
def philoxRounds : Nat → Nat → Nat → Nat × Nat × Nat × Nat → Nat × Nat × Nat × Nat
  | 0, _, _, c => c
  | n + 1, k0, k1, c => philoxRounds n ((k0 + 0x9E37_79B9) % 2 ^ 32) ((k1 + 0xBB67_AE85) % 2 ^ 32) (philoxRound k0 k1 c)
/-- Word 0 of Philox-4x32-10 for a seed and counter (R258). -/
def philox (seed counter : Nat) : Nat :=
  (philoxRounds 10 (seed % 2 ^ 32) (seed / 2 ^ 32 % 2 ^ 32) (counter % 2 ^ 32, counter / 2 ^ 32 % 2 ^ 32, 0, 0)).1
/-- u of R258 in FP32. -/
def drawU (seed counter : Nat) : Nat := f32Round false (philox seed counter / 256) 1 (-24)

/-- A merged selection result (R233) as the decoding unit reads it. -/
structure SelRes where
  n : Nat
  sSel : Nat
  sOut : Nat
  ref : Nat
  entries : List (Nat × Nat)
deriving DecidableEq, Repr

def selResOf (bs : List Byte) : SelRes :=
  let n := field bs 0 2
  { n := n, sSel := field bs 8 4, sOut := field bs 12 4, ref := field bs 16 4,
    entries := (List.range n).map fun i => (field bs (32 + 8 * i) 4, field bs (36 + 8 * i) 4) }

/-- The weight of an entry (R256): 1 for the best value, 0 for −∞, else exp((v − REF) ÷ TEMPERATURE) by the exp2 of R173, which is open within its
bound. -/
def entryWeight (temp ref v free : Nat) : Nat :=
  if v = ref then 0x3F80_0000 else if v = f32NegInf then 0 else f32Exp2 (Config.openNat free) (f32Mul (f32Sub v ref) (f32Div f32Log2e temp))

/-- Entries with their weights and running sums. -/
def withSums : Nat → List (Nat × Nat) → List (Nat × Nat × Nat)
  | _, [] => []
  | acc, (t, w) :: r => let a := f32Add acc w; (t, w, a) :: withSums a r

/-- The kept set (R257), and whether no prefix reached TOP_P × Z. -/
def keptSet (d : Desc) (res : SelRes) (free : Nat) : List (Nat × Nat) × Bool :=
  let ws := res.entries.zip (List.range res.n) |>.map fun e => (e.1.1, entryWeight d.temperature res.ref e.1.2 (free + e.2))
  let sums := withSums 0 ws
  let goal := f32Mul d.topP (if d.topK = 0 then f32Add res.sSel res.sOut else res.sSel)
  let m := sums.findIdx? (fun x => f32Le goal x.2.2)
  let pre := match m with
    | some i => ws.take (i + 1)
    | none => ws
  let kept := pre.filter fun x => f32Le d.minP x.2 && x.2 != 0
  (if kept.isEmpty then ws.take 1 else kept, m.isNone && d.topK == 0)

/-- The draw among the kept entries (R259). -/
def drawToken (kept : List (Nat × Nat)) (u : Nat) : Nat :=
  let sums := withSums 0 kept
  let w := (sums.getLast?.map (·.2.2)).getD 0
  match sums.find? (fun x => f32Lt (f32Mul u w) x.2.2) with
  | some x => x.1
  | none => (kept.getLast?.map (·.1)).getD 0

/-! ## Stop strings (R262 to R267) -/

/-- The active stop strings with their indices. -/
def activeStops (stopLen : Nat) (stops : List (List Byte)) : List (Nat × List Byte) :=
  ((List.range 8).zip stops).filterMap fun p =>
    let n := stopLen / 256 ^ p.1 % 256
    if n = 0 then none else some (p.1, p.2.take n)

/-- The string that ends at byte `e` of a stream: the longest, then the lowest index. -/
def stopAt (acts : List (Nat × List Byte)) (stream : List Byte) (e : Nat) : Option (Nat × Nat) :=
  (acts.filter fun a => decide (a.2.length ≤ e) && ((stream.take e).drop (e - a.2.length) == a.2)).foldl (fun best a =>
    match best with
    | none => some (a.1, a.2.length)
    | some b => if b.2 < a.2.length then some (a.1, a.2.length) else best) none

/-- The occurrence that ends first among the bytes after the first `old` of a stream: end, index, length. -/
def stopFind (acts : List (Nat × List Byte)) (stream : List Byte) (old : Nat) : Option (Nat × Nat × Nat) :=
  (List.range (stream.length - old)).findSome? fun k =>
    let e := old + k + 1
    (stopAt acts stream e).map fun r => (e, r.1, r.2)

/-- Bytes held back for stop matching (R264): the longest suffix that is a proper prefix of an active string. -/
def stopHold (acts : List (Nat × List Byte)) (stream : List Byte) : Nat :=
  ((List.range 64).filter fun n => decide (n ≤ stream.length) &&
    acts.any fun a => decide (n < a.2.length) && (stream.drop (stream.length - n) == a.2.take n)).foldl max 0

/-- Bytes of a UTF-8 sequence by its lead byte; 0 for a byte that leads none. -/
def utf8Len (v : Nat) : Nat :=
  if 0xC2 ≤ v ∧ v < 0xE0 then 2 else if 0xE0 ≤ v ∧ v < 0xF0 then 3 else if 0xF0 ≤ v ∧ v < 0xF5 then 4 else 0
/-- A second byte that a lead byte admits. -/
def utf8Second (v w : Nat) : Bool :=
  decide ((if v = 0xE0 then 0xA0 else if v = 0xF0 then 0x90 else 0x80) ≤ w) && decide (w < (if v = 0xED then 0xA0 else if v = 0xF4 then 0x90 else 0xC0))
/-- Bytes of an incomplete UTF-8 sequence at the end of a run (R266): a lead byte with fewer continuation bytes than it calls for, none of which shows
the sequence to be invalid. What is a sequence is PRESUMED from the Unicode standard's table (log 139). -/
def utf8Hold (run : List Byte) : Nat :=
  let r := run.reverse
  ((List.range 3).findSome? fun k =>
    match (r.drop k).head? with
    | none => none
    | some b =>
      let rest := ((r.take k).reverse).map (·.toNat)
      let ok := (rest.head?.map (utf8Second b.toNat)).getD true && rest.all fun w => w / 64 == 2
      if ok && decide (k + 1 < utf8Len b.toNat) then some (k + 1) else none).getD 0

/-! ## What a step decides (R260) -/

/-- The ring can give a session's reservation (R271); a queue pair in ERROR stalls its draws (R435). -/
def ringReserve (d : Desc) (s : State) : Bool :=
  decide (2048 ≤ ringFree d.fn d.outQueue s) && qpState d.fn d.outQueue s != 3 && qpState d.fn d.outQueue s != 0

/-- Reserve 2,048 B, or give them back. -/
def reserveOut (d : Desc) (up : Bool) (s : State) : State :=
  let q := qpOf d.fn d.outQueue s
  putQp d.fn d.outQueue { q with resv := if up then q.resv + 2048 else q.resv - 2048 } s

/-- The end of a turn after a drawn token, in the order of R260: 0 EOS, 1 STOP, 2 MAX_TOKENS, 0xFF none. -/
def drawReason (r : SesRun) (i tok : Nat) (s : State) : Nat :=
  let d := descOf i s
  let x := sessOf i s
  if (modelEnds d.model s).contains tok then 0
  else
    let bs := tokBytes (modelSet d.model s) tok
    let acts := activeStops r.params.stopLen r.stops
    if (stopFind acts (x.stream ++ bs) x.stream.length).isSome then 1
    else if r.params.maxTokens ≠ 0 ∧ r.params.maxTokens ≤ d.turnTokens + 1 then 2 else 0xFF

/-- Row 5 of R260: one token is drawn, its ring space reserved. -/
def drawRow5 (p k : Nat) (r : SesRun) (res : SelRes) (s : State) : State :=
  let t := decTile p s
  let d := r.params
  let (kept, short) := keptSet d res s.fresh
  let tok := drawToken kept (drawU d.seed (descOf r.idx s).rngCounter)
  let s := { s with fresh := s.fresh + res.n }
  let s := if short then bump (DEC_TOPP_SHORT.COUNT t) 1 s else s
  let reason := drawReason r r.idx tok s
  modRun p k (fun r => { r with outcome := some 1, token := tok, reason := reason, reserved := true }) (reserveOut (descOf r.idx s) true s)

/-- An earlier session of the step is still to be decided: reservations are made in plan order (R271). -/
def drawWaits (p k : Nat) (s : State) : Bool :=
  ((partOf p s).step.map fun st => (st.runs.take k).any fun q => q.status == 0 && q.outcome.isNone && (descOf q.idx s).st == stActive).getD false
/-- DRAW (R260): the outcome of session `k` of the step, its merged result at `off` in rank 0's SRAM. -/
def drawRun (p k off : Nat) (s : State) : State :=
  match runOf p k s with
  | none => s
  | some r =>
    if r.status ≠ 0 ∨ r.outcome.isSome ∨ (descOf r.idx s).st ≠ stActive ∨ drawWaits p k s then s
    else
      let t := decTile p s
      let arr := rankArr p 0 s
      let res := selResOf (sramRead s arr off (32 + 8 * leNat (sramRead s arr off 2)))
      let set := fun (o reason : Nat) (nf : Bool) (s : State) =>
        modRun p k (fun r => { r with outcome := some o, reason := reason, noFinite := nf }) s
      if r.held then set 0 0xFF false (bump (KVP_HOLDS.COUNT t) 1 s)
      else if r.late then set 0 0xFF false (bump (DEC_MASK_LATE.COUNT t) 1 s)
      else if !ringReserve (descOf r.idx s) s then set 0 0xFF false (bump (DEC_OUT_STALLS.COUNT t) 1 s)
      else if r.noPage then set 3 2 false s
      else if ((sessOf r.idx s).mask.map (·.empty)).getD false then set 3 3 false (bump (DEC_GRAMMAR_STALLS.COUNT t) 1 s)
      else if res.n = 0 ∨ res.ref = f32NegInf then set 3 3 true (bump (DEC_NO_FINITE.COUNT t) 1 s)
      else drawRow5 p k r res s
def execDraw (part k off : Nat) (s : State) : Host.Outcome State Fault Refusal := whenServing s (drawRun part k off)

/-! ## Commit (R213, R254, R260, R261) -/

/-- Fill of the spans of a session with `n` committed positions. -/
def refill (n : Nat) (spans : List Span) : List Span :=
  (List.range spans.length).zip spans |>.map fun p => { p.2 with fill := min 1024 (n - 1024 * p.1) }

/-- The positions and the token of one session's draw become its state. -/
def commitDraw (p : Nat) (r : SesRun) (s : State) : State :=
  let t := decTile p s
  let i := r.idx
  let x := sessOf i s
  let n := r.start + r.count
  let s := penCount i r.token s
  let s := grammarCommit i r.token s
  let s := modSess i (fun y => { y with
    pendTok := r.token :: y.pendTok.drop r.count, resvTokens := y.resvTokens - r.count, spans := refill n y.spans, mask := none,
    drawn := some (r.token, r.reason, 0, 0, false) }) s
  let s := modDesc i (fun d => { d with
    tokenCount := n, kvBytes := (x.pages.map (·.bytes)).sum, rngCounter := (d.rngCounter + 1) % 2 ^ 64,
    turnTokens := d.turnTokens + 1, usageTokens := d.usageTokens + 1, lastActive := now s }) s
  bump (DEC_DRAWS.COUNT t) 1 (startSpans i (fitReserve i (fitPending i s)))

/-- Count a turn end on the decoding tile (R274). -/
def countEnd (t reason : Nat) (s : State) : State :=
  if reason = 0 then bump (DEC_EOS.COUNT t) 1 s
  else if reason = 1 then bump (DEC_STOPS.COUNT t) 1 s
  else if reason = 2 then bump (DEC_MAX_TOKENS.COUNT t) 1 s else s

/-- The end of a step for one of its sessions (R213, R260, R261). -/
def commitRun (p : Nat) (s : State) (r : SesRun) : State :=
  let d := descOf r.idx s
  let t := decTile p s
  if r.status ≠ 0 ∨ d.handle ≠ r.handle ∨ d.st ≠ stActive then (if r.reserved then reserveOut d false s else s)
  else
    let s := modDesc r.idx (fun d => { d with lastActive := now s }) s
    match r.outcome with
    | some 1 =>
      if d.cancelPending then
        let s := bump (DEC_SUPPRESSED.COUNT t) 1 (reserveOut d false (modDesc r.idx (fun d => { d with usageTokens := d.usageTokens + 1 }) s))
        if r.reason = 0xFF then s else endTurn r.idx 4 false 0 0xFF s
      else commitDraw p r s
    | some 3 =>
      if d.cancelPending then endTurn r.idx 4 false 0 0xFF s
      else
        let s := if r.noPage then bump SES_CAPACITY_FAILS.COUNT 1 (modDesc r.idx (fun d => { d with capHit := true }) s) else s
        countEnd t r.reason (endTurn r.idx r.reason r.noFinite 0 0xFF s)
    | _ => s

/-! ## The text engine's part (R263 to R268, R286) -/

/-- Release bytes of the turn stream up to `upTo`; the last record carries PARTIAL where asked. -/
def releaseText (i upTo : Nat) (cut : Bool) (s : State) : State :=
  let d := descOf i s
  let x := sessOf i s
  let bs := (x.stream.take upTo).drop x.released
  let s := putSess i { x with released := max x.released upTo, outBytes := x.outBytes + bs.length } s
  if bs.isEmpty then s
  else
    let rs := textRecs d 0 bs
    queueRecs i (rs.dropLast ++ (rs.getLast?.map fun r => { r with flags := b2n cut }).toList) s

/-- DETOKENIZE: a committed token's bytes join the turn stream; stop detection, holdback, records, the turn's end, and the request
for the next mask. -/
def detokenize (i : Nat) (s : State) : State :=
  let s := mendTables i s
  let x := sessOf i s
  let d := descOf i s
  match x.drawn with
  | none => s
  | some (tok, reason, _, _, _) =>
    let t := decTile x.actPart s
    let s := modSess i (fun x => { x with drawn := none }) (reserveOut d false s)
    if d.st ≠ stActive then s
    else if d.cancelPending then (if reason = 0xFF then s else endTurn i 4 false 0 0xFF s)
    else
      let bs := if reason = 0 then [] else tokBytes (modelSet d.model s) tok
      let stream := x.stream ++ bs
      let acts := activeStops d.stopLen x.stops
      let hit := if reason = 1 then stopFind acts stream x.stream.length else none
      let cut := (hit.map fun h => decide (h.1 < stream.length)).getD false
      let s := modSess i (fun x => { x with stream := stream, partialTok := cut }) s
      let s := bump TXT_DETOK_BYTES.COUNT bs.length s
      let s := if cut then bump (DEC_PARTIAL.COUNT t) 1 s else s
      let stopE := hit.map fun h => if d.includeStop then h.1 else h.1 - h.2.2
      let s := if d.tokenOutput then
          queueRecs i [{ type := 2, flags := b2n cut, turnId := d.turnId, handle := d.handle, payload := leBytes 4 tok }] s
        else match stopE with
        | some e => releaseText i e (cut && decide (x.stream.length < e)) s
        | none =>
          let upTo := stream.length - stopHold acts stream
          releaseText i (if bitOf d.decMode 2 then upTo else upTo - utf8Hold (stream.take upTo)) false s
      if reason = 0xFF then requestMask i s
      else
        let p := (sessOf i s).actPart
        let trim := (stopE.map (stream.length - ·)).getD 0
        let s := modSess i (fun x => { x with released := if reason = 1 then x.stream.length else x.released }) s
        countEnd (decTile p s) reason (endTurn i reason false trim ((hit.map (·.2.1)).getD 0xFF) (modDesc i (fun d => { d with capHit := false }) s))
def execDetokenize (idx : Nat) (s : State) : Host.Outcome State Fault Refusal := whenServing s (detokenize idx)

end Sys2Proof.Machine
end

