-- ==== Sys2Proof/Machine/Dma.lean ====
section
/-!
DEFINITION. Sys2Proof/Machine/Dma.lean: kernel headers and the SRAM regions they define, weight reads, the DMA engine of an array, and an
array's reset (R161, R163, R164, R178, R180, R184, R187, R470).
-/
namespace Sys2Proof.Machine

/-! ## Kernel headers and regions (R163, R178) -/

def khdrOf (b : List Byte) : KHdr :=
  { magic := field b 0 4, layer := field b 4 2, op := field b 6 2, boundNs := field b 8 4, ranks := field b 12 2, format := field b 14 1,
    flags := field b 15 1, codeAddr := field b 0x10 8, codeBytes := field b 0x18 4, wbufKib := field b 0x1C 4, args := field b 0x20 8,
    argsBytes := field b 0x28 4, workKib := field b 0x2C 4, digest := (b.drop 0x30).take 8 }

/-- The argument block of a rank (R178). -/
def argBlock (k : KHdr) (rank : Nat) : Nat := k.args + rank * (64 * ceilDiv k.argsBytes 64)

/-- Bytes of a region of some KiB: whole granules of 4 KiB (R163). -/
def granules (kib : Nat) : Nat := 4096 * ceilDiv kib 4
/-- The region of a partition's SRAM that an offset lies in: 0 resident, 1 and 2 the weight buffers, 3 working, 4 none of them. -/
def regionOf (p off : Nat) (s : State) : Nat :=
  let x := partOf p s
  let r := granules x.residentKib
  let w := granules x.head.wbufKib
  if off < r then 0 else if off < r + w then 1 else if off < r + 2 * w then 2 else if off < r + 2 * w + granules x.head.workKib then 3 else 4

/-- The arrays that a partition's kernel runs on, by rank, and the array of a rank that has not been halted. -/
def runRanks (p : Nat) (s : State) : List Nat := ((partOf p s).running.map (·.ranks)).getD []
def runArr (p r : Nat) (s : State) : Option Nat := ((runRanks p s)[r]?).filter fun a => decide (a < 2048)

/-! ## The memory a kernel may write (R180) -/

/-- A run of bytes lies inRun another. -/
def inRun (a n b m : Nat) : Bool := decide (b ≤ a) && decide (a + n ≤ b + m)
/-- A run lies in a page, or in other state, of a session. -/
def holdsRun (i a n : Nat) (s : State) : Bool :=
  ((sessOf i s).pages.any fun q => resident q && inRun a n q.addr q.bytes) || (sessOf i s).allocs.any fun q => inRun a n q.addr q.bytes
/-- A run lies in the memory that the kernel's argument blocks name (from an address in one of them to the end of its channel), in the weights of
the partition's model, or in the state of a session that the step runs. -/
def kernelMay (p a n : Nat) (s : State) : Bool :=
  let x := partOf p s
  let k := x.head
  let named := (List.range k.ranks).any fun r => (pieces 8 (k.argsBytes / 8) (memRead s (argBlock k r) k.argsBytes)).any fun b =>
    decide (0 < leNat b) && inRun a n (leNat b) (gchanBase (gchan (leNat b)) + chanBytes - leNat b)
  named || ((modelOf x.model s).weightAllocs.any fun w => w.kind == 8 && inRun a n w.addr w.bytes) ||
    ((x.step.map (·.runs)).getD []).any fun r => r.status == 0 && holdsRun r.idx a n s

/-- A kernel of a partition writes to the bonded tier: only a partition that a checkpoint names writes what its capture holds (R481). -/
def partWrite (p a : Nat) (bs : List Byte) (s : State) : State :=
  if s.ckpt.any (·.parts.contains p) then memWrite a bs s else engWrite a bs s
/-- What a kernel writes reaches the bonded tier where the contract of R180 lets it. -/
def kernelWrite (p a : Nat) (bs : List Byte) (s : State) : State :=
  if decide (a + bs.length ≤ bondedEnd) && kernelMay p a bs.length s then
    (((partOf p s).step.map (·.runs)).getD []).foldl (fun s r => if holdsRun r.idx a bs.length s then markDirty r.idx a bs.length s else s)
      (partWrite p a bs s)
  else s

/-- Enter bytes in the store of resident regions. -/
def residWrite : Nat → List Byte → State → State
  | _, [], s => s
  | k, b :: r, s => residWrite (k + 1) r { s with resid := sset s.resid k b }
/-- A kernel writes the SRAM of array `a`, rank `r` of its partition; it leaves the resident region as it was, but with RELOAD_RESIDENT (R178, R180). -/
def rankSram (p r a off : Nat) (bs : List Byte) (s : State) : State :=
  let bs := bs.take (2 ^ 21 - off)
  let n := granules (partOf p s).residentKib
  if bitOf (partOf p s).head.flags 1 then sramWrite a off bs (residWrite ((p * 2048 + r) * 2 ^ 21 + off) (bs.take (n - off)) s)
  else sramWrite a (max off n) (bs.drop (n - off)) s
def kernelSram (p r off : Nat) (bs : List Byte) (s : State) : State :=
  match runArr p r s with
  | none => s
  | some a => rankSram p r a off bs s
/-- The resident region of a rank is loaded into an array's SRAM (row 4 of R191). -/
def residLoad (p r a : Nat) (s : State) : State :=
  s.resid.foldl (fun s q => if q.1 / 2 ^ 21 = p * 2048 + r then sramWrite a (q.1 % 2 ^ 21) [q.2] s else s) s

/-! ## Weight blocks (R186, R187, R470) -/

/-- Bytes of a weight block. -/
def blockBytes : Nat := 65536
/-- The copies of a weight block, that of the lower-numbered stack first. -/
def blockPair (m : Model) (b : Nat) : Option (Alloc × Alloc) :=
  match m.weightAllocs.filter fun a => a.kind == 8 && a.layer == b with
  | [x, y] => some (if x.chan ≤ y.chan then (x, y) else (y, x))
  | _ => none
/-- A weight block is beyond recovery (R470): its model slot loses LOADED, event 0x001D tells. -/
def blockGone (slot k : Nat) (s : State) : State :=
  let m := modelOf slot s
  let w := m.written.filter (· != k)
  let s := { s with models := sset s.models slot { m with written := w } }
  postPf 0x001D 0x15 sDropped slot k (wr (HIF_MODEL.LOADED slot) 0 (wr (HIF_MODEL.BLOCKS_LOADED slot) w.length s))
/-- Both copies of a block are rewritten from the model copy, after its own digest has been checked (R470). -/
def reloadPair (slot k : Nat) (a b : Alloc) (s : State) : State :=
  let m := modelOf slot s
  let copy := sgetD m.copy k []
  if (m.blocks[k]?).map (·.2.2) = some (Config.digest copy) then bump REL_REWRITES.COUNT 2 (memWrite a.addr copy (memWrite b.addr copy s))
  else blockGone slot k ((m.copyList[k]?).elim s fun c => deepUe (chunkChan c s) s)
/-- A copy can be read: its channel serves, and is not being rebuilt. -/
def copyServes (a : Alloc) (s : State) : Bool := chUp a.chan s && !(s.rebuilds.any (·.1 == a.chan))
/-- A kernel reads a block (R187): the copy of its parity, or the other where that is poisoned or its channel is retired; a poisoned copy is
rewritten from the good one, and two bad ones from the model copy (R467). The copy read, and the state after the read. -/
def weightRead (slot b : Nat) (s : State) : Option Alloc × State :=
  match blockPair (modelOf slot s) b with
  | none => (none, s)
  | some (lo, hi) =>
    let x := if b % 2 = 0 then lo else hi
    let y := if b % 2 = 0 then hi else lo
    let bad := fun (a : Alloc) => poisonIn a.addr blockBytes s
    if copyServes x s && !bad x then (some x, s)
    else if copyServes y s && !bad y then
      (some y, if copyServes x s then memWrite x.addr (memRead s y.addr blockBytes) (readBad x.addr blockBytes s) else s)
    else
      let s := if copyServes x s then readBad x.addr blockBytes s else s
      let s := reloadPair slot b x y (if copyServes y s then readBad y.addr blockBytes s else s)
      (some (if copyServes x s then x else y), s)

/-! ## The DMA engine (R161, R164) -/

def dmaLen : Dma → Nat
  | .load _ _ n => n
  | .store _ _ n => n
  | .weights _ _ _ n => n
  | .peer _ _ _ n => n
/-- Source and destination of a transfer, as far as 4 KiB boundaries go; each SRAM begins at one. -/
def dmaEnds (p : Nat) (d : Dma) (s : State) : Nat × Nat :=
  match d with
  | .load off a _ => (a, off)
  | .store off a _ => (off, a)
  | .weights off b k _ => (((blockPair (modelOf (partOf p s).model s) b).map fun c => (if b % 2 = 0 then c.1 else c.2).addr + k).getD k, off)
  | .peer off _ dst _ => (off, dst)
/-- The pieces of a transfer: of 4 KiB or less, none across a 4 KiB boundary of its source or its destination. -/
def dmaCut : Nat → Nat → Nat → Nat → List Nat
  | 0, _, _, _ => []
  | f + 1, a, b, n =>
    if n = 0 then [] else
      let k := min n (min (4096 - a % 4096) (4096 - b % 4096))
      k :: dmaCut f (a + k) (b + k) (n - k)
def dmaPieces (p : Nat) (d : Dma) (s : State) : List Nat := dmaCut (dmaLen d) (dmaEnds p d s).1 (dmaEnds p d s).2 (dmaLen d)
/-- A transfer lies inRun what it names: SRAM, the bonded tier, a weight block of the array's own tile (R180). -/
def dmaFits (p a : Nat) (d : Dma) (s : State) : Bool :=
  match d with
  | .load off b n => decide (off + n ≤ 2 ^ 21) && decide (b + n ≤ bondedEnd)
  | .store off b n => decide (off + n ≤ 2 ^ 21) && decide (b + n ≤ bondedEnd)
  | .weights off b k n => decide (off + n ≤ 2 ^ 21) && decide (k + n ≤ blockBytes) &&
      (((modelOf (partOf p s).model s).blocks[b]?).map (·.1)) == some (a / 512)
  | .peer off _ dst n => decide (off + n ≤ 2 ^ 21) && decide (dst + n ≤ 2 ^ 21)
/-- Move the first `n` bytes of a transfer of rank `r` on array `a`. -/
def dmaMove (p r a : Nat) (d : Dma) (n : Nat) (s : State) : State :=
  if !dmaFits p a d s then s
  else match d with
  | .load off b _ => kernelSram p r off (memRead s b n) (readBad b n s)
  | .store off b _ => kernelWrite p b (sramRead s a off n) s
  | .weights off b k _ =>
    let (c, s) := weightRead (partOf p s).model b s
    c.elim s fun c => kernelSram p r off (memRead s (c.addr + k) n) s
  | .peer off q dst _ => kernelSram p q dst (sramRead s a off n) s
/-- The transfers that a kernel issues enter the queues of their arrays. -/
def dmaIssue (p : Nat) (ds : List (Nat × Dma)) (s : State) : State :=
  ds.foldl (fun s d => (runArr p d.1 s).elim s fun a => { s with dmaQ := sset s.dmaQ a (sgetD s.dmaQ a [] ++ [d.2]) }) s
/-- The transfers of a rank end, in order. -/
def dmaFinish (p r a : Nat) (s : State) : State :=
  (sgetD s.dmaQ a []).foldl (fun s d => dmaMove p r a d (dmaLen d) s) { s with dmaQ := sdel s.dmaQ a }
/-- The queue of an array is empty. -/
def dmaDrop (a : Nat) (s : State) : State := { s with dmaQ := sdel s.dmaQ a }
/-- The outstanding transfers of a rank stop, each after some of its pieces: how many is open. Those behind them have not begun. -/
def dmaStop (p r a : Nat) (s : State) : State :=
  ((sgetD s.dmaQ a []).take 16).foldl (fun s d =>
    let ps := dmaPieces p d s
    dmaMove p r a d ((ps.take (Config.openNat s.fresh % (ps.length + 1))).sum) { s with fresh := s.fresh + 1 }) s

/-! ## The rest of an array's state (R161, R184) -/

/-- Word `k` of the accumulators and vector registers of an array: the accumulators of cell c are words 16 × c to 16 × c + 15, lane l of vector
register v is word 4,096 + 64 × v + l. -/
def arrWord (a k : Nat) (s : State) : Nat := ((sget s.arrDraw a).map fun d => Config.openAt d k % 2 ^ 32).getD 0
/-- A kernel leaves the accumulators and vector registers of its arrays with values that depend on its code. -/
def arrDirty (as : List Nat) (s : State) : State := as.foldl (fun s a => { s with arrDraw := sset s.arrDraw a s.fresh, fresh := s.fresh + 1 }) s
/-- An array reset: accumulators, vector registers, DMA queue and code memory are cleared, the SRAM is left undefined. -/
def arrayReset (a : Nat) (s : State) : State :=
  sramLose a { s with arrDraw := sdel s.arrDraw a, codeMem := sdel s.codeMem a, dmaQ := sdel s.dmaQ a }

end Sys2Proof.Machine
end

