-- ==== Sys2Proof/Machine/Fences.lean ====
section
/-!
DEFINITION. Sys2Proof/Machine/Fences.lean: the fence commands (R426 to R429, R436).
-/
namespace Sys2Proof.Machine

/-- FENCE_SIGNAL: SET or ADD, completing with the fence's value after (R418, R427). -/
def fenceSignal (h : Hdr) (fence mode value : Nat) (s : State) : State :=
  if intakeFails h 0x20 (decide (1 < mode)) s then refuse h 0x20 sRejected s
  else if !mayFence h.fn fence s then refuse h 0x20 sRejected s
  else
    let s := signalFence fence mode value s
    complete h 0x20 sOk 0 (fenceVal fence s) 0 s
def execFenceSignal (h : Hdr) (fence mode value : Nat) (s : State) : Host.Outcome State Fault Refusal :=
  hostCmd h 0x20 s (fenceSignal h fence mode value)

/-- FENCE_WAIT: at once where the fence has its value, else held; a 4,097th completes with BUSY (R428). -/
def fenceWait (h : Hdr) (fence value timeout : Nat) (s : State) : State :=
  if intakeFails h 0x21 false s then refuse h 0x21 sRejected s
  else if !mayFence h.fn fence s then refuse h 0x21 sRejected s
  else if value ≤ fenceVal fence s then complete h 0x21 sOk 0 (fenceVal fence s) 0 s
  else if 4096 ≤ s.fenWaits.length then complete h 0x21 sBusy 0 (fenceVal fence s) 0 s
  else
    let s := { s with fenWaits := s.fenWaits ++ [{ h := h, fence := fence, value := value,
                                                   limit := if timeout = 0 then 0 else s.cad.edges + timeout }] }
    wr FEN_STATUS.WAITS s.fenWaits.length s
def execFenceWait (h : Hdr) (fence value timeout : Nat) (s : State) : Host.Outcome State Fault Refusal :=
  hostCmd h 0x21 s (fenceWait h fence value timeout)

/-- End one held wait with a status (R428, R432). -/
def endWait (w : FWait) (status : Nat) (s : State) : State :=
  let s := { s with fenWaits := s.fenWaits.erase w }
  complete w.h 0x21 status 0 (fenceVal w.fence s) 0 (wr FEN_STATUS.WAITS s.fenWaits.length s)

/-- FENCE_WAIT_TIMEOUT: the wait's tick edges have passed (R428). -/
def fenceWaitTimeout (fn qp cmdId : Nat) (s : State) : State :=
  match s.fenWaits.find? (fun w => w.h.fn == fn && w.h.qp == qp && w.h.cmdId == cmdId && w.limit != 0 &&
      decide (w.limit ≤ s.cad.edges)) with
  | none => s
  | some w => bump FEN_TIMEOUTS.COUNT 1 (endWait w sTimeout s)
def execFenceWaitTimeout (fn qp cmdId : Nat) (s : State) : Host.Outcome State Fault Refusal :=
  whenServing s (fenceWaitTimeout fn qp cmdId)

/-- FEN_RESET: the PF sets a fence to 0; its waits stay (R426, R428). -/
def fenReset (fence : Nat) (s : State) : State := if fence < fences then wr (FEN_VALUE.VALUE fence) 0 s else s
def execFenReset (fence : Nat) (s : State) : Host.Outcome State Fault Refusal := whenLive s (fenReset fence)

end Sys2Proof.Machine
end

