-- ==== Sys2Proof/Machine/Migration.lean ====
section
/-!
DEFINITION. Sys2Proof/Machine/Migration.lean: migration of a session to a peer module, as its source carries it out (R152 to R157),
and how an ephemeris action ends (R79, R85).
-/
namespace Sys2Proof.Machine

/-- The entry number a new migration takes: the lowest that none holds. -/
def newMigEntry (s : State) : Nat := ((List.range 256).find? fun e => !(s.migs.any fun m => m.entry == e)).getD 0
/-- The tag of a new migration (R152): the entry number, and above it a sequence number whose start is left open. -/
def newMigTag (s : State) : Nat := newMigEntry s + 256 * ((Config.migBase + s.migSeq) % 2 ^ 24)

/-- Enter a migration: a PEER transit, in a free slot at once or else in the queue (R129, R130), pass 1 begun, the set-up message sent (R153). `none` where
the transit queue is full. -/
def openMig (m : Migration) (key : List Nat) (s : State) : Option State :=
  let t : Transit := { idx := m.idx, kind := 7, cls := m.cls, origin := 1 }
  (if slotFor m.cls s then some (showTransits { s with fresh := s.fresh + 1, transits := s.transits ++ [{ t with slot := some (pickSlot s) }] })
   else queueTransit t s).map fun s =>
    wr TRN_MIG_STATUS.OUT (s.migs.length + 1)
      { s with migSeq := s.migSeq + 1, migs := s.migs ++ [m], fabOut := { type := 0x11, dst := m.dest, args := 1 :: m.tag :: key } :: s.fabOut }

/-- Accept a migration (R152): the completion carries the tag and the new handle. -/
def migrateAccept (h : Hdr) (dest i new : Nat) (s : State) : State :=
  let d := descOf i s
  let tag := newMigTag s
  match openMig { entry := newMigEntry s, tag := tag, idx := i, dest := dest, newHandle := new, cls := d.cls, unsent := passOneLen i s } [d.handle] s with
  | none => refuse h 0x09 sCapacity s
  | some s => complete h 0x09 sOk new tag dest s

/-- MIGRATE to a peer: the conditions of R152 in order, and then the key of R504. `answers`: the session's shard has a leader that answers; `reach`: the
destination is reachable; `free`: it has fewer than 256 incoming migrations; `reserved`: the handle it reserved, where it has room. While a transit of
the session is queued the command completes with BUSY, as a session has one transit at a time (R129). -/
def migratePeer (h : Hdr) (dest : Nat) (answers reach free : Bool) (reserved : Option Nat) (s : State) : State :=
  sessionCmd h 0x09 (decide (0xFFF < dest)) [3, dest] none (.migratePeer h dest (b2n answers + 2 * b2n reach + 4 * b2n free) reserved)
    (fun d => (d.kvBytes, d.st)) (fun i s =>
      if preCopying i s || (s.transits.any fun t => t.idx == i && t.kind != 6) then refuse h 0x09 sBusy s
      else if !answers || rd DIR_SELF.STATE s == 3 then refuse h 0x09 sTimeout s
      else if !reach then complete h 0x09 sNotFound (dest * 2 ^ 52) 0 0 s
      else if 256 ≤ s.migs.length ∨ !free then refuse h 0x09 sBusy s
      else match reserved with
        | none => refuse h 0x09 sCapacity s
        | some new => if hasKey dest s then migrateAccept h dest i new s else refuse h 0x09 sAuthFail s) s
def execMigratePeer (h : Hdr) (dest : Nat) (answers reach free : Bool) (reserved : Option Nat) (s : State) : Host.Outcome State Fault Refusal :=
  hostCmd h 0x09 s (migratePeer h dest answers reach free reserved)

/-- A migration's transit sends chunks, counted for its class (R160). -/
def sendChunks (m : Migration) (ms : List Msg) (n : Nat) (s : State) : State :=
  bump (TRN_CLASS_BYTES.BYTES m.cls) (65536 * n) { s with
    transits := s.transits.map fun t => if t.idx = m.idx ∧ t.kind = 7 then { t with chunk := t.chunk + n } else t,
    fabOut := ms.reverse ++ s.fabOut }
def setMig (tag : Nat) (f : Migration → Migration) (s : State) : State :=
  { s with migs := s.migs.map fun m => if m.tag = tag then f m else m }
/-- A migration's transit holds its slot. -/
def peerRuns (m : Migration) (s : State) : Bool := s.transits.any fun t => t.idx == m.idx && t.kind == 7 && t.slot.isSome

/-- PRECOPY_PASS_END (R153): the pass's chunks have gone; another pass, unless the ranges written after they were sent come to DIRTY_THRESH_MIB or less or the
passes are used up. `n`: how many of the ranges written during the pass had been sent before. -/
def passEnd (tag n : Nat) (s : State) : State :=
  match s.migs.find? (·.tag == tag) with
  | none => s
  | some m =>
    if m.phase ≠ 1 ∨ !peerRuns m s then s
    else
      let s := sendChunks m (passMsgs m s) m.unsent s
      let left := m.dirty.drop (m.dirty.length - n)
      let stop := left.length * 65536 ≤ rd TRN_TUNE.DIRTY_THRESH_MIB s * 0x10_0000 ∨ rd TRN_TUNE.PRECOPY_PASSES s ≤ m.passes
      setMig tag (fun m => { m with unsent := left.length, send := left, dirty := [], phase := if stop then 2 else 1, passes := m.passes + 1 }) s
def execPrecopyPassEnd (tag dirty : Nat) (s : State) : Host.Outcome State Fault Refusal := whenServing s (passEnd tag dirty)

/-- The action of a MIGRATION_SWITCH entry (R154): arms the switch and holds the session. -/
def actSwitch (table idx : Nat) (e : EphEntry) (s : State) : State :=
  match s.migs.find? (fun m => m.tag == e.opA && decide (m.phase ≤ 2)) with
  | none => actionFail table idx e sRejected s
  | some _ => setMig e.opA (fun m => { m with phase := 3, notify := if bitOf e.flags 0 then some (table, idx, e.tag) else none }) s

/-- MIGRATION_SWITCH_RUN (R154, rows 1 to 3): the held session no longer ACTIVE, the chunks dirty or not yet sent go out, and the log; the move of
the directory entry is asked for, and the acknowledgement has 32 tick edges. -/
def switchRun (tag : Nat) (s : State) : State :=
  match s.migs.find? (·.tag == tag) with
  | none => s
  | some m =>
    if m.phase = 3 ∧ peerRuns m s ∧ (m.block ≠ none ∨ (descOf m.idx s).st ≠ stActive) then
      let last := { m with send := (m.send ++ m.dirty).eraseDups }
      let s := sendChunks m (passMsgs last s) (if m.passes = 1 then m.unsent else last.send.length) s
      let s := setMig tag (fun m => { m with phase := 4, limit := s.cad.edges + 32, unsent := 0, send := [], dirty := [] }) s
      { s with fabOut := { type := 0x11, dst := m.dest, args := [3, tag, m.log.length + m.ulog.length], data := m.log.flatMap descBytes } :: s.fabOut }
    else s
def execMigrationSwitchRun (tag : Nat) (s : State) : Host.Outcome State Fault Refusal := whenServing s (switchRun tag)

/-- A held command sent on to the destination (R156), with the bytes of its buffer. -/
def forwardHeld (newHandle : Nat) (s : State) (c : HeldCmd) : State :=
  match c with
  | .destroy h => forwardCmd h 0x02 [] [] newHandle s
  | .appendText h n b => forwardBuf h 0x03 [n] (some (b, n)) newHandle s
  | .appendTokens h n b => forwardBuf h 0x04 [n] (some (b, 4 * n)) newHandle s
  | .generate h => forwardCmd h 0x05 [] [] newHandle s
  | .toolWait h w t => forwardCmd h 0x06 [w, t] [] newHandle s
  | .resume h _ _ _ => forwardCmd h 0x07 [] [] newHandle s
  | .park h t d r => forwardCmd h 0x08 [t, d, r] [] newHandle s
  | .migrate h t d r => forwardCmd h 0x09 [t, d, r] [] newHandle s
  | .migratePeer h d _ _ => forwardCmd h 0x09 [3, d] [] newHandle s
  | .cancel h => forwardCmd h 0x0A [] [] newHandle s
  | .setSampling h p a b => forwardCmd h 0x0B [p.temperature, p.topP, p.minP, p.repPenalty, p.presencePenalty, p.frequencyPenalty,
      p.topK, p.decMode, p.maxTokens, p.seed, b2n a, b2n b] [] newHandle s
  | .setGrammar h g => forwardCmd h 0x0C [g] [] newHandle s
  | .setStops h b l k => forwardBuf h 0x0D [l, k] (some (b, 512)) newHandle s
  | .startTransit _ _ _ _ _ _ tb ix e => actionFail tb ix e sNotFound s

/-- Enter a switched session's handles in the hint cache of 4,096 entries (R156). -/
def addHint (old new : Nat) (s : State) : State := { s with hints := ((old, new) :: s.hints).take 4096 }

/-- Rows 4 to 6 of R154: the leader's acknowledgement is the switch tick. -/
def switchCommit (m : Migration) (s : State) : State :=
  let i := m.idx
  let d := descOf i s
  let s := cutTransits (fun t => t.idx == i && t.kind == 7) { s with migs := s.migs.filter (·.tag != m.tag) }
  let s := showTransits (wr TRN_MIG_STATUS.OUT s.migs.length (bump TRN_MIGRATIONS.COUNT 1 s))
  let s := releaseImage i (releaseBonded i s)
  let s := modSess i (fun x => { x with pages := [], spans := [] }) s
  let s := putDesc i { d with st := stTransit, prev := d.st, migrated := true, ptRoot := 0, parkAddr := 0 } s
  let s := { s with tombs := { idx := i, newHandle := m.newHandle, limit := s.cad.edges + 256 } :: s.tombs }
  let s := addHint d.handle m.newHandle (wr TRN_MIG_STATUS.TOMBSTONES s.tombs.length s)
  let held := (s.heldCmds.filter (·.1 == i)).map (·.2)
  let s := held.foldl (forwardHeld m.newHandle) { s with heldCmds := s.heldCmds.filter (·.1 != i) }
  match m.notify with
  | some (_, _, tag) => postPfSes i 0x0009 0x05 sOk tag m.newHandle s
  | none => s

end Sys2Proof.Machine
end

