-- ==== Sys2Proof/Machine/Arrays.lean ====
section
/-!
DEFINITION. Sys2Proof/Machine/Arrays.lean: array states and their changes, known-answer tests, spare replacement, hangs and SRAM errors
(R165 to R167, R182 to R194, R472). An array is numbered tile × 512 + physical index.
-/
namespace Sys2Proof.Machine

/-! ## States (R165, R166) -/

def aEnabled : Nat := 0
def aSpare : Nat := 1
def aTesting : Nat := 2
def aRetired : Nat := 3
def aFrozen : Nat := 4

def arrState (a : Nat) (s : State) : Nat := rd (ARY_STATUS.STATE (a / 512) (a % 512)) s
def arrPart (a : Nat) (s : State) : Nat := rd (ARY_STATUS.PARTITION (a / 512) (a % 512)) s
def tileArrays (t : Nat) : List Nat := (List.range 352).map (· + 512 * t)

/-- Show a tile's array counts. -/
def showArrays (t : Nat) (s : State) : State :=
  let n := fun st => ((tileArrays t).filter fun a => arrState a s == st).length
  wr (ARY_COUNTS.ENABLED t) (n aEnabled) (wr (ARY_COUNTS.SPARE t) (n aSpare) (wr (ARY_COUNTS.RETIRED t) (n aRetired) s))
/-- Change an array's state. -/
def setArr (a st : Nat) (s : State) : State := showArrays (a / 512) (wr (ARY_STATUS.STATE (a / 512) (a % 512)) st s)
/-- Take an array out of the live map. -/
def unmapArr (a : Nat) (s : State) : State :=
  wr (ARY_STATUS.PARTITION (a / 512) (a % 512)) 0xFF (wr (ARY_STATUS.RANK (a / 512) (a % 512)) 0 s)
/-- The lowest-indexed SPARE array of a tile (R189). -/
def lowestSpare (t : Nat) (s : State) : Option Nat := (tileArrays t).find? fun a => arrState a s == aSpare

/-- A hang has stopped a partition until the replacement of the frozen array begins (R185). -/
def partFrozen (p : Nat) (s : State) : Bool := (partOf p s).ranks.any fun a => arrState a s == aFrozen

/-- Show SWAPPING of a partition, and with it RECONFIG of SES_C0_STATUS (R191, R192). -/
def showSwap (p : Nat) (s : State) : State :=
  c0Refresh (wr (ARY_PART_STATUS.SWAPPING p) (b2n ((partOf p s).swaps != [])) s)

/-- Begin the replacement of a retired array (R189, R191 row 1, R193): the lowest spare goes to its test, or the partition is DEGRADED. -/
def startSwap (p rank failed : Nat) (s : State) : State :=
  match lowestSpare (failed / 512) s with
  | none => wr (ARY_PART_STATUS.DEGRADED p) 1 s
  | some a =>
    let s := setArr a aTesting { s with arrTests := sset s.arrTests a 2 }
    showSwap p (modPart p (fun x => { x with swaps := x.swaps ++ [{ rank := rank, failed := failed, spare := a }] }) s)

/-- An element is retired or returned: event 0x001A with its kind and index (R492). An array's index has its tile in bits 10:9. -/
def elementEv (kind idx lost : Nat) (s : State) : State := postPf 0x001A 0x15 sOk (kind * 2 ^ 24 + idx) lost s

/-- Retire an array and start its replacement (R166, R189, R194). The live map keeps it until its rank moves (R191). DESIGN CHOICE (log 130): for
an ENABLED array in no partition the lowest spare of its tile is tested, and takes its enabled place. -/
def retireArr (a : Nat) (s : State) : State :=
  let st := arrState a s
  let p := arrPart a s
  let rank := rd (ARY_STATUS.RANK (a / 512) (a % 512)) s
  let s := elementEv 1 a 0 (setArr a aRetired s)
  if st = aSpare then s
  else if p ≠ 0xFF then startSwap p rank a s
  else if st = aEnabled then
    match lowestSpare (a / 512) s with
    | none => s
    | some b => setArr b aTesting { s with arrTests := sset s.arrTests b 3 }
  else s

/-- Retire an array now, or when its running kernel ends (R194, R487). -/
def retireWhenIdle (a : Nat) (s : State) : State :=
  if !isSet (ARY_STATUS.BUSY (a / 512) (a % 512)) s then retireArr a s
  else if s.retireWait.any (·.1 == a) then s else { s with retireWait := s.retireWait ++ [(a, false)] }

/-- The end of a command written to ARY_CMD of a tile. -/
def aryCmdDone (t status : Nat) (s : State) : State := wr (ARY_CMD_STATUS.STATUS t) status (wr (ARY_CMD_STATUS.BUSY t) 0 s)

/-- An array that waited to retire leaves the list, and a command that waited for it ends (R194). -/
def retireServed (a : Nat) (s : State) : State :=
  let cmd := s.retireWait.any (· == (a, true))
  let s := { s with retireWait := s.retireWait.filter (·.1 != a) }
  if cmd then aryCmdDone (a / 512) sOk s else s
/-- The arrays of a kernel that has ended, or has been reset, retire where they were to (R166, R194). -/
def retireWaiting (ranks : List Nat) (s : State) : State :=
  (s.retireWait.filter fun w => ranks.contains w.1).foldl (fun s w => retireServed w.1 (retireArr w.1 s)) s

/-- Count a failure toward an array's retirement, on the second of which it retires (R196, R472). -/
def countFail (a : Nat) (s : State) : State :=
  let s := bump (ARY_STATUS.FAILS (a / 512) (a % 512)) 1 s
  if 2 ≤ rd (ARY_STATUS.FAILS (a / 512) (a % 512)) s ∧ (arrState a s = aEnabled ∨ arrState a s = aSpare) then retireWhenIdle a s else s

/-! ## Known-answer tests (R166, R167, R191, R194) -/

/-- At start-up the 336 lowest-indexed passing arrays of a tile are ENABLED, the others SPARE (R166). -/
def rankPassed (t : Nat) (s : State) : State :=
  let passed := (tileArrays t).filter fun a => arrState a s == aEnabled || arrState a s == aSpare
  let s := (List.range passed.length).zip passed |>.foldl
    (fun s p => wr (ARY_STATUS.STATE t (p.2 % 512)) (if p.1 < 336 then aEnabled else aSpare) s) s
  showArrays t s

/-- KNOWN_ANSWER_TEST_DONE: the test of an array in TESTING ends. DESIGN CHOICE (log 131): a spare under test for a partition that no longer
lists the replacement is SPARE again where it passes. -/
def katDone (t n : Nat) (pass : Bool) (s : State) : State :=
  let a := t * 512 + n
  if 4 ≤ t ∨ 352 ≤ n ∨ arrState a s ≠ aTesting then s
  else
    let why := sgetD s.arrTests a 0
    let s := { s with arrTests := sdel s.arrTests a }
    if why = 1 then
      let s := if pass then elementEv 1 a 0 (setArr a aSpare s) else setArr a aRetired s
      wr (ARY_CMD_STATUS.BUSY t) 0 (wr (ARY_CMD_STATUS.STATUS t) sOk s)
    else if why = 2 then
      match (s.parts.find? fun p => p.2.swaps.any fun w => w.spare == a && w.phase == 1) with
      | none => setArr a (if pass then aSpare else aRetired) s
      | some (p, x) =>
        match x.swaps.find? (fun w => w.spare == a && w.phase == 1) with
        | none => s
        | some w =>
          if pass then modPart p (fun x => { x with swaps := x.swaps.map fun v => if v == w then { v with phase := 2 } else v }) s
          else
            let s := elementEv 1 a 0 (setArr a aRetired (modPart p (fun x => { x with swaps := x.swaps.erase w }) s))
            showSwap p (startSwap p w.rank w.failed s)
    else if why = 3 then
      if pass then setArr a aEnabled s
      else
        let s := elementEv 1 a 0 (setArr a aRetired s)
        match lowestSpare t s with
        | none => s
        | some b => setArr b aTesting { s with arrTests := sset s.arrTests b 3 }
    else if pass then rankPassed t (wr (ARY_STATUS.STATE t n) aSpare s) else setArr a aRetired s
def execKnownAnswerTestDone (tile n : Nat) (pass : Bool) (s : State) : Host.Outcome State Fault Refusal :=
  whenLive s (katDone tile n pass)

/-- RANK_MAP_SWAP (R177, R191 row 3): the spare takes the failed array's rank. -/
def rankSwap (p : Nat) (s : State) : State :=
  (partOf p s).swaps.foldl (fun s w =>
    if w.phase = 2 then
      let t := w.spare / 512
      let n := w.spare % 512
      let s := unmapArr w.failed s
      let s := setArr w.spare aEnabled (wr (ARY_STATUS.PARTITION t n) p (wr (ARY_STATUS.RANK t n) w.rank s))
      let swap := fun (l : List Nat) => l.map fun a => if a = w.failed then w.spare else a
      modPart p (fun x => { x with ranks := swap x.ranks, step := x.step.map fun st => { st with ranks := swap st.ranks },
                                   swaps := x.swaps.map fun v => if v == w then { v with phase := 3 } else v }) s
    else s) s
def execRankMapSwap (part : Nat) (s : State) : Host.Outcome State Fault Refusal := whenServing s (rankSwap part)

/-- The resident regions of every rank of a partition are loaded (R184, R455). One that no kernel has written since the partition was defined or
reshaped comes from weights and constants that the spec does not lay out, so that what it holds is open. -/
def reloadAll (p : Nat) (s : State) : State :=
  let as := (partOf p s).ranks
  ((List.range as.length).zip as).foldl (fun s a =>
    if s.resid.any (fun q => q.1 / 2 ^ 21 == p * 2048 + a.1) then residLoad p a.1 a.2 s else sramLose a.2 s) s
/-- RESIDENT_RELOAD_DONE (R191 rows 4 and 5): the resident region of the rank is in the spare's SRAM, SWAPPING clears and waiting launches may
start; the same for every rank after an array reset (R184). -/
def reloadDone (p : Nat) (s : State) : State :=
  let x := partOf p s
  let done := x.swaps.filter (·.phase == 3)
  let s :=
    if x.reload ∧ x.incoming = [] ∧ ¬ isSet (ALM_REGION.COMPLETING (0x10 + p)) s then modPart p (fun x => { x with reload := false }) (reloadAll p s)
    else s
  if done = [] then s
  else
    let s := done.foldl (fun s w => residLoad p w.rank w.spare s) s
    showSwap p (bump (ARY_PART_STATUS.SWAPS p) done.length (modPart p (fun x => { x with swaps := x.swaps.filter (·.phase != 3) }) s))
def execResidentReloadDone (part : Nat) (s : State) : Host.Outcome State Fault Refusal := whenServing s (reloadDone part)

/-! ## ARY_CMD (R194) -/

/-- ARY_RETIRE: an ENABLED array with a free spare on its tile retires after its running kernel, a SPARE one at once. DESIGN CHOICE (log 132): an
INDEX of 352 to 511 names no array, and is REJECTED, here and by ARY_RETURN. -/
def aryRetire (t n : Nat) (s : State) : State :=
  let a := t * 512 + n
  if 4 ≤ t ∨ isSet (ARY_CMD_STATUS.BUSY t) s then s
  else if 352 ≤ n then aryCmdDone t sRejected s
  else if arrState a s = aSpare then aryCmdDone t sOk (retireArr a s)
  else if arrState a s = aEnabled ∧ (lowestSpare t s).isSome then
    if isSet (ARY_STATUS.BUSY t n) s then
      wr (ARY_CMD_STATUS.BUSY t) 1 { s with retireWait := s.retireWait.filter (·.1 != a) ++ [(a, true)] }
    else aryCmdDone t sOk (retireArr a s)
  else aryCmdDone t sRejected s
def execAryRetire (tile n : Nat) (s : State) : Host.Outcome State Fault Refusal := whenServing s (aryRetire tile n)

/-- ARY_RETURN: a RETIRED array goes to its test; the command completes with OK when that ends. -/
def aryReturn (t n : Nat) (s : State) : State :=
  let a := t * 512 + n
  if 4 ≤ t ∨ isSet (ARY_CMD_STATUS.BUSY t) s then s
  else if n < 352 ∧ arrState a s = aRetired then
    wr (ARY_CMD_STATUS.BUSY t) 1 (wr (ARY_STATUS.FAILS t n) 0 (setArr a aTesting { s with arrTests := sset s.arrTests a 1 }))
  else aryCmdDone t sRejected s
def execAryReturn (tile n : Nat) (s : State) : Host.Outcome State Fault Refusal := whenServing s (aryReturn tile n)

/-! ## Failed steps (R190) -/

/-- Layer and operator of the kernel a partition runs. -/
def runningOp (p : Nat) (s : State) : Nat × Nat := ((partOf p s).running.map fun r => (r.kern.layer, r.kern.op)).getD (0, 0)

/-- Arrays start or stop showing BUSY. -/
def showBusy (as : List Nat) (b : Bool) (s : State) : State :=
  (as.filter fun a => decide (a < 2048)).foldl (fun s a => wr (ARY_STATUS.BUSY (a / 512) (a % 512)) (b2n b) s) s

/-- Show the scheduler's registers of a partition (R355). -/
def showSched (p : Nat) (s : State) : State :=
  let x := partOf p s
  let run := x.step.isSome
  wr (ARY_SCHED_STATUS.QUEUED p) x.queue.length
    (wr (ARY_SCHED_STATUS.WAITING p) (min 2 (if run || x.swaps != [] then x.waiting.length else x.waiting.length - 1))
      (wr (ARY_SCHED_STATUS.STEP_RUNNING p) (b2n run) (wr (ARY_SCHED_STATUS.EFF_CLASS p) ((x.step.map (·.eff)).getD 0) s)))

/-- An array that waited for partition `q` to end its step joins its new partition (R456). -/
def joinFrom (q : Nat) (s : State) : State :=
  s.parts.foldl (fun s px =>
    if px.2.incoming.any (fun a => a.2 == q) then
      let p := px.1
      let s := modPart p (fun x => { x with incoming := x.incoming.filter fun a => a.2 != q }) s
      ((List.range px.2.ranks.length).zip px.2.ranks).foldl (fun s ra =>
        if px.2.incoming.any (fun a => a.1 == ra.2 && a.2 == q) then
          wr (ARY_STATUS.PARTITION (ra.2 / 512) (ra.2 % 512)) p (wr (ARY_STATUS.RANK (ra.2 / 512) (ra.2 % 512)) ra.1 s)
        else s) s
    else s) s

/-- The reconfiguration of a partition that is gone, or no longer serves class 0, ends with its step (R457). -/
def endReconf (p : Nat) (s : State) : State :=
  if isSet (ARY_PART_STATUS.DEFINED p) s ∧ isSet (ARY_PART_STATUS.CLASS0 p) s then s
  else c0Refresh (modPart p (fun x => { x with reconf := false }) s)

/-- A step fails (R190): nothing is committed, its sessions stay ACTIVE, event 0x000B goes to the PF. -/
def failStep (p layer oper hdr : Nat) (s : State) : State :=
  match (partOf p s).step with
  | none => s
  | some st =>
    let s := st.runs.foldl (fun s r => if r.reserved then reserveOut (descOf r.idx s) false s else s) s
    let s := showSched p (modPart p (fun x => { x with step := none }) s)
    let s := trace { tick := 0, event := 0x0203, src := 0x09, part := p, layer := layer, oper := oper, arg := hdr } s
    endReconf p (joinFrom p (postPf 0x000B 0x09 sAborted p (layer * 2 ^ 16 + oper) (bump (ARY_PART_STATUS.STEP_FAILS p) 1 s)))

/-- The kernel of a partition is cut off on every rank: its transfers stop at a boundary (R164), its arrays are idle, and retire where they were to
(R166). -/
def haltRanks (p : Nat) (s : State) : State :=
  let ranks := runRanks p s
  let s := ((List.range ranks.length).zip ranks).foldl (fun s r => if r.2 < 2048 then dmaDrop r.2 (dmaStop p r.1 r.2 s) else s) s
  retireWaiting ranks (modPart p (fun x => { x with running := none }) (showBusy ranks false s))

/-! ## Watchdog, hangs, SRAM errors (R182, R185, R196) -/

/-- WATCHDOG_OVERRUN: a kernel passes 250 µs on rank `r`; it runs on. -/
def overrun (p r : Nat) (s : State) : State :=
  match (partOf p s).running, runArr p r s with
  | some k, some a =>
    let t := a / 512
    let s := bump (ARY_OVERRUNS.COUNT t) 1 (modPart p (fun x => { x with running := some { k with overrun := true } }) s)
    let s := wr (ARY_OVERRUN_LOG.LAYER t) k.kern.layer (wr (ARY_OVERRUN_LOG.OPERATOR t) k.kern.op
      (wr (ARY_OVERRUN_LOG.ARRAY t) (a % 512) (wr (ARY_OVERRUN_LOG.VALID t) 1 s)))
    trace { tick := 0, event := 0x0103, src := 0x09, part := p, layer := k.kern.layer, oper := k.kern.op, array := a, arg := k.hdr } s
  | _, _ => s
def execWatchdogOverrun (part rank : Nat) (s : State) : Host.Outcome State Fault Refusal := whenServing s (overrun part rank)

/-- The slot a dump takes (R534): the lowest free one, else the exported one of lowest SEQ. -/
def dumpSlot (s : State) : Option Nat :=
  match (List.range 1023).find? fun k => (sget s.dumps k).isNone with
  | some k => some k
  | none => (s.dumps.filter fun p => p.2.exported && p.2.complete).foldl (fun best p => match best with
    | none => some p
    | some b => if p.2.seq < b.2.seq then some p else best) none |>.map (·.1)
/-- HELD counts the slots with a complete dump (R539). -/
def showDumps (s : State) : State := wr DBG_DUMP_STATUS.HELD (s.dumps.filter fun p => p.2.complete).length s
/-- Logical chunks of a slot (R533). -/
def dumpChunks (k : Nat) : List Nat := (List.range 64).map (· + 64 * (k + 1))
/-- The chunks of a slot are ALLOCATED (R101, R106): each at home where that is free, else where `deepPlace` puts it. -/
def takeDump (k : Nat) (s : State) : State :=
  showDeep ((dumpChunks k).foldl (fun s c => if (sget s.chunkMap c).isSome then s
    else { s with chunkMap := sset s.chunkMap c ((deepPlace c s).getD ((c % 96) * 2 ^ 19 + c / 96)) }) s)
/-- A slot is free. -/
def freeDump (k : Nat) (s : State) : State := freeDeep (dumpChunks k) (showDumps { s with dumps := sdel s.dumps k })
/-- Start a dump in its slot, or drop it where no slot qualifies or the deep tier has no room for it (R101); the slot taken. At most 8 run at once, a
further one waits for its row. -/
def startDump (d : Dump) (s : State) : Option Nat × State :=
  match (dumpSlot s).filter fun k => (sget s.dumps k).isSome || deepRoom 64 s with
  | none => (none, bump DBG_DUMPS_DROPPED.COUNT 1 s)
  | some k =>
    let hub := d.array == 0xFFFF
    let mem := if hub then [] else (s.sram.filter fun p => p.1 / 2 ^ 21 == d.array).map fun p => (p.1 % 2 ^ 21, p.2)
    let hist := (s.traces.filter fun r => if hub then r.array == 0xFFFF else r.array != 0xFFFF && r.array / 512 == d.array / 512).take 16384
    let d := { d with seq := s.dumpSeq, tick := now s, ns := Config.openNat s.fresh % 2 ^ 32, sram := mem, draw := sramDrawOf s d.array, hist := hist,
                      regs := sget s.arrDraw d.array, code := sgetD s.codeMem d.array [], dma := sgetD s.dmaQ d.array [] }
    (some k, takeDump k (showDumps { s with dumps := sset s.dumps k d, dumpSeq := s.dumpSeq + 1, fresh := s.fresh + 1 }))

/-- HANG_DECLARED (R185): the array of rank `r` freezes, a step of its partition fails (R190), and the other ranks stop after their kernels.
Channels of its tile in PROCESSOR mode are asked to return (R112). -/
def hangDeclared (p r : Nat) (s : State) : State :=
  match (partOf p s).running, runArr p r s with
  | some k, some a =>
    let t := a / 512
    let s := dmaStop p r a s
    let s := bump (ARY_KERNEL_COUNTS.HANGS t) 1 (setArr a aFrozen (showBusy [a] false s))
    let s := modPart p (fun x => { x with running := some { k with hung := true, ranks := k.ranks.set r 0xFFFF } }) s
    let (slot, s) := startDump { kind := 1, src := 0x09, tick := 0, array := a, part := p, layer := k.kern.layer, oper := k.kern.op,
                                 elapsed := 1000, seq := 0, kernel := k.hdr } s
    let s := trace { tick := 0, event := 0x0104, src := 0x09, part := p, layer := k.kern.layer, oper := k.kern.op, array := a,
                     arg := slot.getD ones64 } s
    askReturn (tileChans t) (failStep p k.kern.layer k.kern.op k.hdr s)
  | _, _ => s
def execHangDeclared (part rank : Nat) (s : State) : Host.Outcome State Fault Refusal := whenServing s (hangDeclared part rank)

/-- A frozen array after its dump (R185, R191): reset, RETIRED, replaced. -/
def retireFrozen (a : Nat) (s : State) : State := retireServed a (retireArr a (arrayReset a s))

/-- SRAM_UNCORRECTABLE (R196): one failure of the array. A word of the working region fails the step that its partition runs (R190); that of the
resident region or of a weight buffer is read again from its source, so that the SRAM holds what it did. -/
def sramUe (t n off : Nat) (s : State) : State :=
  let a := t * 512 + n
  if 4 ≤ t ∨ 352 ≤ n then s
  else
    let s := wr (ARY_SRAM_ECC.LAST_ARRAY t) n (bump (ARY_SRAM_ECC.UNCORRECTABLE t) 1 s)
    let p := arrPart a s
    let s := if p ≠ 0xFF ∧ regionOf p off s = 3 then
        failStep p (runningOp p s).1 (runningOp p s).2 (((partOf p s).running.map (·.hdr)).getD 0) s
      else s
    countFail a s
def execSramUncorrectable (tile n off : Nat) (s : State) : Host.Outcome State Fault Refusal :=
  whenServing s (sramUe tile n off)

end Sys2Proof.Machine
end

