-- ==== Sys2Proof/Machine/Transits.lean ====
section
/-!
DEFINITION. Sys2Proof/Machine/Transits.lean: the transit engine (R128 to R151): slots, chunks, parks, revivals, moves, mirrors and
background fill, and the release of commands held while a transit ran.
-/
namespace Sys2Proof.Machine

/-! ## What a transit's end does -/

/-- A transit has done its work: deadline, completion, NOTIFY, and for an uncommanded park event 0x0006 (R138, R155, R270). -/
def finishTransit (t : Transit) (r0 r1 : Nat) (s : State) : State :=
  let s := dropTransit t s
  let late := now s - t.deadline
  let s := if t.deadline ≠ 0 ∧ 0 < late then raise TRN_DEADLINE_MISSES.MAX late (bump TRN_DEADLINE_MISSES.COUNT 1 s) else s
  let d := descOf t.idx s
  let s := match t.requester with
    | some (h, op) => complete h op sOk d.handle r0 r1 s
    | none => if t.kind ≤ 2 then postSes t.idx 0x0006 0x05 sOk d.st d.wakeHint s else s
  match t.eph with
  | some (tb, ix, e) => actionDone tb ix e s
  | none => s

/-! ## Commands held under R20 -/

/-- The transit that a START_TRANSIT entry names, on a session whose handle is found (R133): the outcomes of R41, with parks and moves
taken as PARK and revivals as RESUME. -/
def transitOn (i kind flags demote region deadline tb ix : Nat) (e : EphEntry) (s : State) : State :=
  let d := descOf i s
  let parked := d.st == stDeep || d.st == stHost
  let revive := kind == 3 || kind == 4
  let go := fun (k tier : Nat) =>
    (queueTransit { idx := i, kind := k, cls := d.cls, origin := 1, demote := demote, region := region, deadline := deadline,
                    fill := bitOf flags 0, destTier := tier, eph := some (tb, ix, e) } s).getD (actionFail tb ix e sCapacity s)
  if armed i s || resuming i s then { s with heldCmds := s.heldCmds ++ [(i, .startTransit i kind flags demote region deadline tb ix e)] }
  else match judge (if revive then 0x07 else 0x08) d with
  | .hold => { s with heldCmds := s.heldCmds ++ [(i, .startTransit i kind flags demote region deadline tb ix e)] }
  | .busy => actionFail tb ix e sBusy s
  | .rejected => actionFail tb ix e sRejected s
  | .expired => actionFail tb ix e sExpired s
  | .okNop => if kind = 4 then actionFail tb ix e sRejected s else actionDone tb ix e s
  | _ =>
    if preCopying i s && !revive then actionFail tb ix e sBusy s
    else if kind = 4 ∧ d.st ≠ stDeep then actionFail tb ix e sRejected s
    else if revive then (if parked || (d.st == stFrozen && d.ptRoot == 0) then go kind 0 else actionDone tb ix e s)
    else if kind = 5 then (if !parked || (d.st == stDeep && !d.hostParkOk) then actionFail tb ix e sRejected s else go 5 (b2n (d.st == stDeep)))
    else if d.st = (if kind = 1 then stDeep else stHost) then actionDone tb ix e s
    else if kind = 2 ∧ (!d.hostParkOk ∨ (!parked && deepTakes i (demoteOf d.cls demote s) s)) then actionFail tb ix e sRejected s
    else go (if parked then 5 else kind) (kind - 1)
/-- The action of a START_TRANSIT entry (R132, R133). -/
def actTransit (tb ix : Nat) (e : EphEntry) (s : State) : State :=
  let b := memRead s e.opA 32
  let kind := field b 8 1
  let demote := field b 0xA 1
  let region := field b 0xC 2
  if e.opA % 32 ≠ 0 ∨ bondedEnd < e.opA + 32 ∨ kind < 1 ∨ 5 < kind ∨ 1 < field b 9 1 ∨ field b 0xB 1 ≠ 0 ∨ field b 0xE 2 ≠ 0 ∨
      field b 0x18 8 ≠ 0 ∨ demoteBad demote region then actionFail tb ix e sRejected s
  else match handleCheck 0 (field b 0 8) s with
  | .found i =>
    if s.tombs.any (·.idx == i) then actionFail tb ix e sNotFound s
    else transitOn i kind (field b 9 1) demote region (field b 0x10 8) tb ix e s
  | _ => actionFail tb ix e sNotFound s

/-- Evaluate a held command against the state as it is now. -/
def runHeldCmd (c : HeldCmd) (s : State) : State :=
  match c with
  | .destroy h => sessionDestroy h s
  | .appendText h n b => appendText h n b s
  | .appendTokens h n b => appendTokens h n b s
  | .generate h => generate h s
  | .toolWait h w t => toolWait h w t s
  | .resume h t us ok => resume h t us ok s
  | .park h t d r => park h t d r s
  | .migrate h t d r => migrate h t d r s
  | .migratePeer h dest ok r => migratePeer h dest (bitOf ok 0) (bitOf ok 1) (bitOf ok 2) r s
  | .cancel h => cancel h s
  | .setSampling h p a b => setSampling h p a b s
  | .setGrammar h g => setGrammar h g s
  | .setStops h b l k => setStops h b l k s
  | .startTransit i kind flags demote region deadline tb ix e => transitOn i kind flags demote region deadline tb ix e s

/-- Apply the commands held for a session, oldest first, until one starts a new transition; `n` bounds them. -/
def runHeld (i : Nat) : Nat → State → State
  | 0, s => s
  | n + 1, s =>
    if (descOf i s).st = stTransit ∨ armed i s ∨ resuming i s then s
    else match s.heldCmds.find? (·.1 == i) with
    | none => s
    | some c => runHeld i n (runHeldCmd c.2 { s with heldCmds := s.heldCmds.erase c })
def releaseHeld (i : Nat) (s : State) : State := runHeld i s.heldCmds.length s

/-! ## Parks (R134 to R143) -/

/-- Blocks of 32 elements in one part of a page, and the parts of a page. -/
def partN (m : Model) (cls : Nat) : Nat := pageTokens cls * m.headDim / 32
/-- A page as it goes into an image: the page entry, its bytes, blocks that held a NaN. -/
def parkPage (m : Model) (x : Sess) (fmt : Nat) (s : State) (kp : Nat × Page) : Page × List Byte × Nat :=
  let (k, p) := kp
  let n := partN m (spanCls x p.span)
  let (bs, nan) := narrowPage p.fmt fmt (2 * m.kvHeads) n (pageNow x k p s)
  ({ p with fmt := max p.fmt fmt, bytes := bs.length, deepHeld := true, fetching := false, addr := 0, chan := 0 }, bs, nan)

/-- The summary block of a layer and span recomputed from its pages (R143, R208). -/
def summaryBlock (m : Model) (x : Sess) (sp layer : Nat) (pages : List (Page × List Byte)) : List Byte :=
  let c := spanCls x sp
  let fill := ((x.spans.drop sp).head?.map (·.fill)).getD 0
  let valid := ((x.spans.drop sp).head?.map (·.sumValid)).getD false
  ((List.range m.kvHeads).map fun h =>
    let sums := (List.range (pagesPerSpan c)).map fun i =>
      match pages.find? (fun p => p.1.span == sp && p.1.layer == layer && p.1.slot == i) with
      | none => emptySummary m.headDim
      | some (p, bs) =>
        ((pageKeys p.fmt m.kvHeads (pageTokens c) m.headDim h bs).take (fill - i * pageTokens c)).foldl
          (fun a r => foldSummary a m.headDim r) (emptySummary m.headDim)
    let span := match valid, sums with
      | true, a :: r => r.foldl (joinSummary m.headDim) a
      | _, _ => emptySummary m.headDim
    (sums.map summaryBs).flatten ++ summaryBs span).flatten

/-- The image a park writes of a session: what it holds, with the pages as they are in it. -/
def buildImage (i fmt : Nat) (t : Transit) (s : State) : Image × List Page × Nat :=
  let x := sessOf i s
  let m := modelOf (descOf i s).model s
  let out := (List.range x.pages.length).zip x.pages |>.map (parkPage m x fmt s)
  let pages := out.map (·.1)
  let data := out.map (·.2.1)
  let narrowed := (x.pages.zip pages).any fun p => p.1.fmt != p.2.fmt
  let sums := (x.allocs.filter (·.kind == 7)).map fun a =>
    (a.layer, a.span, if narrowed then summaryBlock m x a.span a.layer (pages.zip data) else memRead s a.addr a.bytes)
  let metaLen := metaSize i s
  ({ tier := t.destTier, region := t.region, chunks := t.dest, kvFormat := (pages.map (·.fmt)).foldl max 0,
     sparseOk := decide (m.sparseThresh ≠ 0), handle := (descOf i s).handle, nonce := t.nonce, metaBytes := metaLen,
     kvBytes := (pages.map (·.bytes)).sum, pageOffs := payloadOffs metaLen (pages.map (·.bytes)),
     pageData := data, sumData := sums, writeTick := now s,
     saved := some (snapOf i (descOf i s).prev pages s) }, pages, (out.map (·.2.2)).sum)

/-- The address that PARK_ADDR names for an image (R91, R108). -/
def imageAddr (im : Image) : Nat :=
  let c := im.chunks.head?.getD 0
  if im.tier = 0 then deepBase + c * 65536 else 2 ^ 63 + im.region * 2 ^ 56 + c * 65536

/-! ## Revivals (R144 to R147) -/

/-- The forced set of a layer (R147, R220): the page of position 0 and the two that hold the highest committed positions. -/
def forcedPage (x : Sess) (count : Nat) (p : Page) : Bool :=
  let c := spanCls x p.span
  let first := p.span * 1024 + p.slot * pageTokens c
  let mine := x.pages.filter fun q => q.layer == p.layer
  let firstOf := fun (q : Page) => q.span * 1024 + q.slot * pageTokens (spanCls x q.span)
  decide (first = 0) || (decide (first < count) &&
    decide ((mine.filter fun q => decide (firstOf q < count) && decide (first < firstOf q)).length < 2))

/-- Allocate one page of a session, with its pool bytes. -/
def placePage (m : Model) (cls : Nat) (p : Page) (s : State) : Option (Page × State) :=
  match allocPage (pageChans m p.layer cls s) p.bytes s with
  | none => none
  | some (g, a, s) => some ({ p with addr := a, chan := g, deepHeld := false, fetching := false }, charge cls p.bytes s)

/-- Allocate the pages a revival brings in; the others stay deep-held. -/
def placePages (m : Model) (cls : Nat) (bring : Page → Bool) : List Page → State → Option (List Page × State)
  | [], s => some ([], s)
  | p :: r, s =>
    if bring p then
      match placePage m cls p s with
      | none => none
      | some (p, s) => (placePages m cls bring r s).map fun (ps, s) => (p :: ps, s)
    else (placePages m cls bring r s).map fun (ps, s) => (p :: ps, s)

/-- Allocate a summary block in a raw channel of its layer's home tile (R208). -/
def allocSummary (i layer sp bytes : Nat) (s : State) : Option (Nat × State) :=
  let d := descOf i s
  match allocIn (summaryChans (modelOf d.model s) layer s) bytes s with
  | none => none
  | some (g, a, s) =>
    some (a, charge d.cls bytes (modSess i (fun x => { x with
      allocs := { kind := 7, chan := g, addr := a, bytes := bytes, layer := layer, span := sp } :: x.allocs }) s))

/-- Protected channels for a revival's tables: of a class-0 session, those in MEMORY mode (R56). -/
def tableChans (i : Nat) (s : State) : List Nat :=
  (protChans (modelOf (descOf i s).model s) s).filter fun g => (descOf i s).cls != 0 || !chProcessor g s

/-- Bytes of the pool a revival takes (R144 row 2); a sparse one takes only its resident pages' bytes. -/
def placeNeed (i : Nat) (sparse : Bool) (s : State) : Nat :=
  let x := sessOf i s
  let all := reviveBytes i s
  if sparse then all - ((x.pages.filter fun p => !forcedPage x (descOf i s).tokenCount p).map (·.bytes)).sum else all

/-- Give a reviving session its bonded-tier space: page table, penalty table, stop block, grammar stack, pending input, summaries,
pages and the reservation. `none` where the pool or its channels cannot supply it. -/
def placeSession (i : Nat) (sparse : Bool) (s : State) : Option State :=
  let d := descOf i s
  let x := sessOf i s
  let m := modelOf d.model s
  if !canSupply d.cls (placeNeed i sparse s) s then none
  else do
    let im ← x.image
    let table := fun (kind bytes : Nat) (s : State) => allocStateIn (tableChans i s) i kind bytes s
    let (root, s) ← table 1 (rootBytes x.spanCap) s
    let (pen, s) ← table 3 32832 s
    let (stop, s) ← table 4 512 s
    let (gst, s) ← if d.grammarId = 0xFFFF then some (0, s) else table 5 4096 s
    let s ← if x.pendTok = [] then some s else (table 6 (4 * x.pendTok.length) s).map (·.2)
    let (spans, s) ← x.spans.foldl (fun o sp => o.bind fun (l, s) => (table 2 (leafBytes m sp.cls) s).map fun (a, s) =>
      (l ++ [{ sp with leafAddr := a }], s)) (some (([] : List Span), s))
    let s ← im.sumData.foldl (fun o a => o.bind fun s => (allocSummary i a.1 a.2.1 a.2.2.length s).map (·.2)) (some s)
    let (pages, s) ← placePages m d.cls (fun p => !sparse || forcedPage x d.tokenCount p) x.pages s
    let resv := (reserveNeed m x d.tokenCount x.resvTokens).1
    let s := charge d.cls resv (modSess i (fun y => { y with spans := spans, pages := pages, resvBytes := resv }) s)
    some { s with desc := sset s.desc i { descOf i s with ptRoot := root, penTable := pen, stopBlock := stop, grammarStack := gst } }

/-- The metadata of an image lands (R144, row 5): the stop block's bytes and the summary blocks; the tables are what State holds. -/
def landMeta (i : Nat) (im : Image) (s : State) : State :=
  let x := sessOf i s
  let s := engWrite (descOf i s).stopBlock x.stops.flatten s
  im.sumData.foldl (fun s b => match x.allocs.find? fun a => a.kind == 7 && a.layer == b.1 && a.span == b.2.1 with
    | some a => engWrite a.addr b.2.2 s
    | none => s) s
/-- Write the bytes of page `k` of an image where the page has been placed. -/
def landPage (i : Nat) (im : Image) (s : State) (k : Nat) : State :=
  match (sessOf i s).pages[k]? with
  | some p => if p.deepHeld then s else engWrite p.addr ((im.pageData[k]?).getD []) s
  | none => s
/-- The chunk of an image that holds a payload offset (R134). -/
def chunkAt (o : Nat) : Nat := (64 + o) / 65520
/-- The last chunk that holds some of a page. -/
def lastChunk (im : Image) (k : Nat) : Nat := chunkAt ((im.pageOffs[k]?).getD 0 + ((im.pageData[k]?).map (·.length)).getD 0 - 1)
/-- The chunks of an image that a revival reads: all of them, or those of the metadata and of the pages that a sparse one brings (R147). -/
def readChunks (sparse : Bool) (x : Sess) (im : Image) : List Nat :=
  (List.range im.chunks.length).filter fun c => !sparse || decide (c ≤ chunkAt (im.metaBytes - 1)) ||
    (List.range x.pages.length).any fun k => !((x.pages[k]?).any (·.deepHeld)) && decide (chunkAt ((im.pageOffs[k]?).getD 0) ≤ c) && decide (c ≤ lastChunk im k)
/-- A chunk of a revival has been read and decrypted (R144, rows 4 and 5): the metadata lands with its last chunk, a page with its last. -/
def landChunk (i c : Nat) (im : Image) (s : State) : State :=
  let s := if c = chunkAt (im.metaBytes - 1) then landMeta i im s else s
  ((List.range im.pageData.length).filter fun k => lastChunk im k == c).foldl (landPage i im) s
/-- All of an image lands at once: where it did not come by chunks here. -/
def landAll (i : Nat) (im : Image) (s : State) : State := (List.range im.pageData.length).foldl (landPage i im) (landMeta i im s)

/-! ## Slots (R129, R130) -/

/-- The transit to be granted next: class 0 first, then the lowest class, first in first out, a session's second one waiting. -/
def nextGrant (s : State) : Option Transit :=
  (List.range 8).findSome? fun c =>
    if slotFor c s then s.transits.find? fun t => t.slot.isNone && t.cls == c && (t.kind == 6 || !activeTransit t.idx s) else none

/-- Put a session into IN_TRANSIT on a slot. -/
def enterTransit (t : Transit) (slot : Nat) (recordPrev : Bool) (s : State) : State :=
  modDesc t.idx (fun d => { d with prev := if recordPrev then d.st else d.prev, st := stTransit, transitTag := slot }) s
/-- Take a session out of IN_TRANSIT again. -/
def leaveTransit (i st : Nat) (s : State) : State := modDesc i (fun d => { d with st := st, transitTag := 0xFFFF_FFFF }) s

/-- Every channel that holds something of a session. -/
def allChans (i : Nat) (s : State) : List Nat := (((sessOf i s).pages.filter resident).map (·.chan)) ++ (sessOf i s).allocs.map (·.chan)
/-- The raw channels of a session's summaries that are in PROCESSOR mode. -/
def sumChans (i : Nat) (s : State) : List Nat := (((sessOf i s).allocs.filter (·.kind == 7)).map (·.chan)).filter fun g => chProcessor g s
/-- Rows 1 and 2 of R138 for a park: the session in transit, its destination allocated, a nonce drawn, and a class-0 session's channels asked to return (R112). A deep park of an eviction
that finds no room goes to the host tier where it may (R47), and the eviction counts as it starts. -/
def grantPark (t : Transit) (slot : Nat) (s : State) : State :=
  let d := descOf t.idx s
  if d.st ≠ stReady ∧ d.st ≠ stWaiting then
    failTransit t (if d.st = stActive then sBusy else if d.st = stExpired then sExpired else sRejected) s
  else
    let n := imageChunks (metaSize t.idx s) (narrowedKv t.idx (demoteOf d.cls t.demote s) s)
    let go := fun (kind tier region : Nat) (dest : List Nat) (s : State) =>
      let new := { t with slot := some slot, kind := kind, destTier := tier, region := region, dest := dest, total := n, nonce := Config.random s.fresh }
      let s := enterTransit t slot true (setTransit t new { s with fresh := s.fresh + 1 })
      let s := if t.cls = 0 then askReturn (allChans t.idx s) s else s
      showTransits (if t.origin = 2 then bump SES_EVICTIONS.COUNT 1 s else s)
    let host := fun (s : State) => if !d.hostParkOk then none else allocHost n t.region s
    if t.kind = 1 then
      match allocDeep n (parkBase s) deepChunks s with
      | some (ks, s) => go 1 0 0 ks s
      | none => if t.origin = 2 then match host s with
          | some (r, us, s) => go 2 1 r us s
          | none => failTransit t sCapacity s
        else failTransit t sCapacity s
    else if deepFits n s && t.origin != 2 then failTransit t sRejected s
    else match host s with
      | some (r, us, s) => go 2 1 r us s
      | none => failTransit t (if d.hostParkOk then sCapacity else sRejected) s

/-- The session key cannot be unwrapped: state lost (R40, R503). -/
def unwrapLost (t : Transit) (s : State) : State :=
  let s := bump SEC_UNWRAP_FAILS.COUNT 1 ((keyAt t.idx s).elim s fun a => readBad a 64 s)
  let s := match t.requester with
    | some (h, op) => refuse h op sDropped s
    | none => s
  releaseHeld t.idx (loseSession t.idx (dropTransit t s))

/-- Rows 2 and 5 of R144: the key is unwrapped, the pool space is taken where there is some, and, in class 0, the raw channels of the summaries are asked to return (R145). -/
def placeRevival (t : Transit) (s : State) : State :=
  if unwrapFails t.idx s then unwrapLost t s else
  match placeSession t.idx (t.kind == 4) s, (sessOf t.idx s).image with
  | some s, some im =>
    let s := setTransit t { t with placed := true, total := (readChunks (t.kind == 4) (sessOf t.idx s) im).length } s
    if t.cls = 0 then askReturn (sumChans t.idx s) s else s
  | _, _ => s

/-- A revival granted a slot (rows 1 and 2 of R144). A sparse one that may not be sparse runs in full (R147). -/
def grantRevive (t : Transit) (slot : Nat) (s : State) : State :=
  let d := descOf t.idx s
  match (sessOf t.idx s).image with
  | none =>
    -- the session landed meanwhile: a RESUME finds it as R41 says
    match t.requester with
    | some (h, op) => if d.st = stReady ∨ d.st = stActive then complete h op sOk d.handle (now s) d.kvBytes (dropTransit t s)
                      else failTransit t sRejected s
    | none => failTransit t sRejected s
  | some im =>
    if d.st ≠ stDeep ∧ d.st ≠ stHost ∧ d.st ≠ stFrozen then
      failTransit t (if d.st = stExpired then sExpired else sRejected) s
    else
      let sparse := t.kind = 4 ∧ isSet TRN_CFG.SPARSE_EN s ∧ im.sparseOk = true
      let s := if t.kind = 4 ∧ ¬ sparse then bump TRN_SPARSE_FALLBACK.COUNT 1 s else s
      let new := { t with slot := some slot, kind := if sparse then 4 else 3, total := im.chunks.length, placed := false }
      showTransits (placeRevival new (setTransit t new (enterTransit t slot false s)))

/-- A MOVE granted a slot (R150): the whole destination first, or CAPACITY with the image where it is. -/
def grantMove (t : Transit) (slot : Nat) (s : State) : State :=
  let d := descOf t.idx s
  match (sessOf t.idx s).image with
  | none => failTransit t (if d.st = stActive then sBusy else if d.st = stExpired then sExpired else sRejected) s
  | some im =>
    if d.st ≠ stDeep ∧ d.st ≠ stHost then failTransit t sRejected s
    else if im.tier = t.destTier then finishTransit t d.kvBytes d.st s
    else if t.destTier = 1 ∧ ¬ d.hostParkOk then failTransit t sRejected s
    else
      let n := im.chunks.length
      let go := fun (region : Nat) (dest : List Nat) (s : State) =>
        showTransits (enterTransit t slot false (setTransit t { t with slot := some slot, region := region, dest := dest, total := n } s))
      if t.destTier = 0 then match allocDeep n (parkBase s) deepChunks s with
        | some (ks, s) => go 0 ks s
        | none => failTransit t sCapacity s
      else match allocHost n t.region s with
        | some (r, us, s) => go r us s
        | none => failTransit t sCapacity s

/-- A MIRROR granted a slot: nothing to copy where the image has gone (R151). -/
def grantMirror (t : Transit) (slot : Nat) (s : State) : State :=
  match (sessOf t.idx s).image with
  | none => bump TRN_MIRROR_FAILS.COUNT 1 (dropTransit t s)
  | some im => showTransits (setTransit t { t with slot := some slot, total := im.chunks.length } s)

/-- TRANSIT_SLOT_GRANT (R130). -/
def slotGrant (s : State) : State :=
  match nextGrant s with
  | none => s
  | some t =>
    let slot := pickSlot s
    let s := readDesc t.idx { s with fresh := s.fresh + 1 }
    if ¬ s.transits.contains t then releaseHeld t.idx s
    else if t.kind ≤ 2 then releaseHeld t.idx (grantPark t slot s)
    else if t.kind ≤ 4 then releaseHeld t.idx (grantRevive t slot s)
    else if t.kind = 5 then releaseHeld t.idx (grantMove t slot s)
    else if t.kind = 6 then grantMirror t slot s
    else showTransits (setTransit t { t with slot := some slot } s)
/-- TRANSIT_SLOT_GRANT, with the trace record of the transit that starts (R529). -/
def grantTraced (s : State) : State :=
  let u := slotGrant s
  match nextGrant s with
  | none => u
  | some t =>
    if u.transits.any fun x => x.idx == t.idx && x.slot.isSome && x.origin == t.origin && x.cls == t.cls && (t.kind != 6 || x.kind == 6) then
      trace { tick := 0, event := 0x0401, src := 0x05, fn := (descOf t.idx s).fn, flags := 1 + 2 * t.cls, arg := (descOf t.idx s).handle } u
    else u
def execTransitSlotGrant (s : State) : Host.Outcome State Fault Refusal := whenServing s grantTraced

/-! ## Stopping (R139, R146) -/

/-- A transit stopped early: its partial destination is released and its source stays whole (R139). -/
def stopTransit (t : Transit) (s : State) : State := dropTransit t (releaseDest t s)

/-- The deep-tier chunk that a transit's next chunk is read from, or, in a park, written to. -/
def chunkNow (t : Transit) (s : State) : Option Nat :=
  if t.kind = 1 then t.dest[t.chunk]?
  else (sessOf t.idx s).image.bind fun im => if im.tier = 0 then
      (if t.kind = 3 ∨ t.kind = 4 then ((readChunks (t.kind == 4) (sessOf t.idx s) im)[t.chunk]?).bind fun c => im.chunks[c]? else im.chunks[t.chunk]?)
    else none

/-- Neither copy of the map entry of a transit's next chunk reads (R467). -/
def mapGone (t : Transit) (s : State) : Bool := (chunkNow t s).any (mapLost · s)
/-- The map entry of a transit's next chunk is read. -/
def mapUse (t : Transit) (s : State) : State := (chunkNow t s).elim s (readMap · s)
/-- A chunk of a revival or move whose check fails: state lost (R146, R150). -/
def tagFail (t : Transit) (s : State) : State :=
  let s := match chunkNow t s with
    | some c => deepUe (chunkChan c s) s
    | none => s
  let s := bump TRN_TAG_FAILS.COUNT 1 (stopTransit t s)
  let s := match t.requester with
    | some (h, op) => refuse h op sDropped s
    | none => s
  releaseHeld t.idx (loseSession t.idx s)

/-- The session's transit with a slot. -/
def transitOf (i : Nat) (s : State) : Option Transit := s.transits.find? fun t => t.idx == i && t.slot.isSome && t.kind != 6

/-- A transit that SESSION_DESTROY has stopped ends: its command with ABORTED, and the slot is freed (R41, R139). -/
def destroyStopped (t : Transit) (s : State) : State :=
  let s := failTransit t sAborted (releaseDest t s)
  match (sessOf t.idx s).destroyWait with
  | some h => destroyNow h t.idx s
  | none => s

/-- TRANSIT_CHUNK (R131, R139): one chunk moves; `ok` says that the tag of a chunk read matches. One whose map entry reads in neither copy fails as one
whose tag does (R467). The header is checked with chunk 0 (R144, row 3). A stop
asked for takes effect after the chunk; a revival without its pool space asks for it again. -/
def transitChunk (i : Nat) (ok : Bool) (s : State) : State :=
  match transitOf i s with
  | none => s
  | some t =>
    if t.kind = 7 then s
    else if !t.placed then (if t.stop then destroyStopped t s else placeRevival t s)
    else if t.total ≤ t.chunk then (if t.stop then destroyStopped t s else s)
    else
      let ok := ok && !mapGone t s
      let s := mapUse t s
      let s := (chunkNow t s).elim (bump (TRN_CLASS_BYTES.BYTES t.cls) 65536 s) fun c => linkUse c (bump (TRN_CLASS_BYTES.BYTES t.cls) 65536 s)
      let im := (sessOf i s).image
      if t.kind ≠ 1 ∧ t.kind ≠ 2 ∧ (!ok ∨ (t.kind ≠ 5 ∧ t.chunk = 0 ∧ !im.any (imageHeaderOk i))) then tagFail t s
      else
        let s := match im with
          | some im => if t.kind = 3 ∨ t.kind = 4 then landChunk i (((readChunks (t.kind == 4) (sessOf i s) im)[t.chunk]?).getD 0) im s else s
          | none => s
        let u := { t with chunk := t.chunk + 1 }
        let s := setTransit t u s
        if t.stop then destroyStopped u s else s
def execTransitChunk (idx : Nat) (ok : Bool) (s : State) : Host.Outcome State Fault Refusal := whenServing s (transitChunk idx ok)

/-! ## Ends -/

/-- Queue a mirror of a new image (R138 row 6, R151). -/
def queueMirror (i : Nat) (s : State) : State :=
  let d := descOf i s
  if d.mirrorModule = 0xFFF then s
  else (queueTransit { idx := i, kind := 6, cls := d.cls, origin := 0 } s).getD (bump TRN_MIRROR_FAILS.COUNT 1 s)

/-- PARK_COMPLETE (R138, rows 4 to 6), once every channel read is in MEMORY mode (R110). -/
def parkComplete (i : Nat) (s : State) : State :=
  match transitOf i s with
  | none => s
  | some t =>
    if t.kind ≤ 2 ∧ t.total ≤ t.chunk then
      if t.stop then destroyStopped t s else
      if (allChans i s).any (chProcessor · s) then s else
      let d := descOf i s
      let (im, pages, nan) := buildImage i (demoteOf d.cls t.demote s) t s
      let s := releaseImage i (releaseBonded i s)
      let s := modSess i (fun x => { x with image := some im, pages := pages, parkNonce := im.nonce }) (bump TRN_NAN_BLOCKS.COUNT nan s)
      let st := if im.tier = 0 then stDeep else stHost
      let s := leaveTransit i st (modDesc i (fun d => { d with
        ptRoot := 0, parkAddr := imageAddr im, kvFormat := im.kvFormat,
        kvBytes := im.kvBytes }) s)
      let s := finishTransit t (descOf i s).kvBytes st (bump TRN_PARKS.COUNT 1 s)
      releaseHeld i (queueMirror i s)
    else s
def execParkComplete (idx : Nat) (s : State) : Host.Outcome State Fault Refusal := whenServing s (parkComplete idx)

/-- The state a revival returns to (R40): READY by RESUME, else PREV_STATE. -/
def revivedState (t : Transit) (d : Desc) : Nat := if t.origin = 0 then stReady else d.prev

/-- Rows 6 to 9 of R144, with a class-0 resume's time measured (R57). -/
def landed (t : Transit) (us : Nat) (deep : Bool) (s : State) : State :=
  let s := cacheRoot t.idx (leaveTransit t.idx (revivedState t (descOf t.idx s)) s)
  let s := if t.c0Bound then c0Measure deep us s else s
  let d := descOf t.idx s
  let r := match t.requester with
    | some (_, op) => if op = 0x07 then (now s, d.kvBytes) else (d.kvBytes, d.st)
    | none => (0, 0)
  releaseHeld t.idx (finishTransit t r.1 r.2 s)

/-- A revival's chunks have all landed; a class-0 session's summaries wait for their raw channels besides (R145). -/
def revived (t : Transit) (s : State) : Bool := t.placed && decide (t.total ≤ t.chunk) && (t.cls != 0 || (sumChans t.idx s).isEmpty)
/-- REVIVE_COMPLETE (R144): the image is released and the session stands in the bonded tier. -/
def reviveComplete (i us : Nat) (s : State) : State :=
  match transitOf i s with
  | none => s
  | some t =>
    if t.kind = 3 ∧ revived t s then
      if t.stop then destroyStopped t s else
      let deep := ((sessOf i s).image.map (·.tier)).getD 1 == 0
      let s := modDesc i (fun d => { d with parkAddr := 0 }) (releaseImage i s)
      landed t us deep (bump TRN_REVIVALS.COUNT 1 s)
    else s
def execReviveComplete (idx us : Nat) (s : State) : Host.Outcome State Fault Refusal := whenServing s (reviveComplete idx us)

/-- REVIVE_SPARSE_COMPLETE (R147): the image stays, and the pages not brought in are deep-held. -/
def sparseComplete (i us : Nat) (s : State) : State :=
  match transitOf i s with
  | none => s
  | some t =>
    if t.kind = 4 ∧ revived t s then
      if t.stop then destroyStopped t s else
      let s := if (sessOf i s).pages.any (·.deepHeld) then s else releaseImage i s
      let s := modDesc i (fun d => { d with parkAddr := 0 }) s
      landed t us true (bump TRN_SPARSE.COUNT 1 (modSess i (fun x => { x with fill := t.fill }) s))
    else s
def execReviveSparseComplete (idx us : Nat) (s : State) : Host.Outcome State Fault Refusal := whenServing s (sparseComplete idx us)

/-- MOVE_COMPLETE (R150). -/
def moveComplete (i : Nat) (s : State) : State :=
  match transitOf i s, (sessOf i s).image with
  | some t, some im =>
    if t.kind = 5 ∧ t.total ≤ t.chunk then
      if t.stop then destroyStopped t s else
      let s := releaseImage i s
      let im := { im with tier := t.destTier, region := t.region, chunks := t.dest }
      let st := if t.destTier = 0 then stDeep else stHost
      let s := modSess i (fun x => { x with image := some im }) s
      let s := leaveTransit i st (modDesc i (fun d => { d with parkAddr := imageAddr im }) s)
      releaseHeld i (finishTransit t (descOf i s).kvBytes st (bump TRN_MOVES.COUNT 1 s))
    else s
  | _, _ => s
def execMoveComplete (idx : Nat) (s : State) : Host.Outcome State Fault Refusal := whenServing s (moveComplete idx)

/-- MIRROR (R151): the image is sent to the partner chunk by chunk as it lies, the session key wrapped under the job key before the first; `ok` says that the partner took
it. An isolated module holds its mirrors back (R379); without the key of R504 the mirror fails. -/
def mirrorRun (i : Nat) (ok : Bool) (s : State) : State :=
  match s.transits.find? (fun t => t.idx == i && t.kind == 6 && t.slot.isSome), (sessOf i s).image with
  | some t, some im =>
    if rd DIR_SELF.STATE s = 3 then s else
    if unwrapFails i s then unwrapLost t (bump TRN_MIRROR_FAILS.COUNT 1 s) else
    let d := descOf i s
    let u := { t with chunk := if ok ∧ hasKey d.mirrorModule s then im.chunks.length else 0 }
    let s := dropTransit u (setTransit t u s)
    if ok ∧ hasKey d.mirrorModule s then
      let key := (sessOf i s).key.getD 0
      let job := ((sget s.net.pairs (rd SEC_CFG.MIRROR_JOB s * 4096 + d.mirrorModule)).map (·.tx)).getD 0
      let msgs : List Msg := (List.range im.chunks.length).map fun k =>
        { type := 0x10, dst := d.mirrorModule, args := [k, d.handle, im.nonce],
          data := (if k = 0 then Config.seal job im.nonce 0 [] (leBytes 32 key) else []) ++ imageChunk (modelOf d.model s).layers.length key k im }
      let s := bump (TRN_CLASS_BYTES.BYTES t.cls) (65536 * im.chunks.length) (if im.tier = 0 then im.chunks.foldl (fun s c => linkUse c s) s else s)
      bump TRN_MIRRORS.COUNT 1 (modSess i (fun x => { x with mirrored := true, mirrorNonce := im.nonce }) { s with fabOut := msgs.reverse ++ s.fabOut })
    else bump TRN_MIRROR_FAILS.COUNT 1 s
  | some t, none => bump TRN_MIRROR_FAILS.COUNT 1 (dropTransit t s)
  | none, _ => s
def execMirrorImage (idx : Nat) (ok : Bool) (s : State) : Host.Outcome State Fault Refusal := whenServing s (mirrorRun idx ok)

/-! ## Deep-held pages (R147, R223) -/

/-- Bring one deep-held page into the bonded tier; the image goes with the last one. `none` where no space is found. -/
def bringPage (i k : Nat) (s : State) : Option State :=
  let x := sessOf i s
  let d := descOf i s
  match x.image, (x.pages.drop k).head? with
  | some im, some p =>
    if !p.deepHeld ∨ !canSupply d.cls p.bytes s then none
    else match placePage (modelOf d.model s) d.cls p s with
      | none => none
      | some (q, s) =>
        let pages := (sessOf i s).pages.set k q
        let s := landPage i im (modSess i (fun x => { x with pages := pages }) s) k
        some (if pages.any (·.deepHeld) then s else releaseImage i s)
  | _, _ => none

/-- BACKGROUND_FILL (R147): with FILL, the deep-held page of lowest payload offset is brought in. -/
def backgroundFill (i : Nat) (s : State) : State :=
  let x := sessOf i s
  if x.fill ∧ (descOf i s).st ≠ stTransit then
    match x.pages.findIdx? (fun p => p.deepHeld && !p.fetching) with
    | none => s
    | some k => match bringPage i k s with
      | some s => bump (TRN_CLASS_BYTES.BYTES (descOf i s).cls) ((x.pages.drop k).head?.map (·.bytes) |>.getD 0) s
      | none => s
  else s
def execBackgroundFill (idx : Nat) (s : State) : Host.Outcome State Fault Refusal := whenServing s (backgroundFill idx)

/-! ## The end of a migration that fails (R157) -/

/-- MIGRATION_ABANDON: no acknowledgement within 32 tick edges, or the destination or its path `lost` before it; the commands held
are then applied at the source. -/
def migrationAbandon (tag : Nat) (lost : Bool) (s : State) : State :=
  match s.migs.find? (·.tag == tag) with
  | none => s
  | some m =>
    if lost ∨ (m.phase = 4 ∧ m.limit ≤ s.cad.edges) then releaseHeld m.idx (abandonMig m.idx sTimeout true s) else s
def execMigrationAbandon (tag : Nat) (lost : Bool) (s : State) : Host.Outcome State Fault Refusal := whenServing s (migrationAbandon tag lost)

/-! ## Host regions (R109) -/

/-- HTIER_ENABLE: a write of ENABLE of a host region; clearing it while images lie there expires their sessions with DATA_LOST. -/
def htierEnable (n : Nat) (on : Bool) (s : State) : State :=
  if 64 ≤ n then s
  else if on then wr (HIF_HTIER_BASE.ENABLE n) 1 s
  else
    let lost := (s.sess.filter fun p => match p.2.image with
      | some im => im.tier == 1 && im.region == n
      | none => false).map (·.1)
    lost.foldl (fun s i => loseSession i s) (wr (HIF_HTIER_BASE.ENABLE n) 0 s)
def execHtierEnable (n : Nat) (on : Bool) (s : State) : Host.Outcome State Fault Refusal := whenServing s (htierEnable n on)

end Sys2Proof.Machine
end

