-- ==== Sys2Proof/Machine/Attention.lean ====
section
/-!
DEFINITION. Sys2Proof/Machine/Attention.lean: pages and summaries of key-value state: allocation at a launch, translation, appends, deep-held pages and
their fetches (R201 to R213, R223).
-/
namespace Sys2Proof.Machine

/-! ## Pages at a launch (R204, R211) -/

/-- Allocate a piece of a session's state from its reservation and the pool, or leave all as it was. -/
def allocResv (i n : Nat) (f : State → Option State) (s : State) : Option State :=
  let t := drawResv i n s
  if canSupply (descOf i s).cls n t then f t else none

/-- Give a session a root block of twice the span entries (R204). -/
def growRoot (i : Nat) (s : State) : Option State :=
  let x := sessOf i s
  allocResv i (rootBytes (2 * x.spanCap)) (fun s => (allocState i 1 (rootBytes (2 * x.spanCap)) s).map fun (a, s) =>
    let old := (sessOf i s).allocs.filter fun b => b.kind == 1 && b.addr != a
    let s := old.foldl (freeAlloc (descOf i s).cls) s
    let s := modSess i (fun x => { x with spanCap := 2 * x.spanCap, allocs := x.allocs.filter fun b => !(b.kind == 1 && b.addr != a) }) s
    modDesc i (fun d => { d with ptRoot := a }) s) s

/-- Summary blocks of a new span, one for each layer, set empty (R208, R209). -/
def openSummaries (i sp cls : Nat) (m : Model) : Nat → State → Option State
  | 0, s => some s
  | l + 1, s => match openSummaries i sp cls m l s with
    | none => none
    | some s =>
      let bs := (List.replicate (m.kvHeads * (pagesPerSpan cls + 1)) (summaryBs (emptySummary m.headDim))).flatten
      allocResv i bs.length (fun s => (allocSummary i l sp bs.length s).map fun (a, s) => memWrite a bs s) s

/-- Open a span: its leaf, and its summary blocks where the model has summaries. -/
def openSpan (i sp cls : Nat) (s : State) : Option State :=
  let m := modelOf (descOf i s).model s
  let s := if (sessOf i s).spanCap ≤ sp then growRoot i s else some s
  s.bind fun s => (allocResv i (leafBytes m cls) (fun s => (allocState i 2 (leafBytes m cls) s).map fun (a, s) =>
      modSess i (fun x => { x with spans := x.spans ++ [{ leafAddr := a, cls := cls }] }) s) s).bind fun s =>
    if m.sparseThresh = 0 then some s else openSummaries i sp cls m m.layers.length s

/-- Spans that `n` positions need are opened in order, as far as they can be; a span the step fills whole has PREFILL_CLASS (R211). -/
def openSpans (i start count : Nat) : Nat → State → State
  | 0, s => s
  | k + 1, s =>
    let have' := (sessOf i s).spans.length
    if start + count ≤ 1024 * have' ∨ maxPositions ≤ 1024 * have' then s
    else
      let m := modelOf (descOf i s).model s
      let full := start ≤ 1024 * have' ∧ 1024 * (have' + 1) ≤ start + count
      match openSpan i have' (if full then m.prefillClass else m.decodeClass) s with
      | none => s
      | some s => openSpans i start count k s

/-- Allocate one page of a session, drawing on its reservation (R200, R211): a page not allocated is counted, and marks the run. -/
def newPage (i : Nat) (acc : Bool × State) (w : Nat × Nat × Nat) : Bool × State :=
  let (ok, s) := acc
  let x := sessOf i s
  let d := descOf i s
  let m := modelOf d.model s
  if hasPage x w then (ok, s)
  else
    let n := pageBytes m (spanCls x w.2.1)
    let ovr := kvCap d.cls s < (x.pages.map (·.bytes)).sum + n
    let got := if ovr ∨ x.spans.length ≤ w.2.1 then none
      else allocResv i n (fun s => (allocPage (pageChans m w.1 d.cls s) n s).map fun (g, a, s) =>
        charge d.cls n (modSess i (fun x => { x with
          pages := x.pages ++ [{ layer := w.1, span := w.2.1, slot := w.2.2, addr := a, chan := g, bytes := n }] }) s)) s
    match got with
    | none => (false, bump (KVP_ALLOC_FAILS.COUNT (homeTile m w.1)) 1 s)
    | some s => (ok, s)

/-- Allocate what a run appends (R211): whether every page could be had. -/
def allocRun (i start count : Nat) (s : State) : Bool × State :=
  let m := modelOf (descOf i s).model s
  let s := openSpans i start count (count / 1024 + 2) s
  (pagesNeeded m (spansTo m (sessOf i s) (start + count)) start count).foldl (newPage i) (true, s)

/-- Channels that hold a page, leaf, root or summary block of a session (R210). -/
def sessChans (i : Nat) (s : State) : List Nat :=
  let x := sessOf i s
  (((x.pages.filter resident).map (·.chan)) ++ ((x.allocs.filter fun a => a.kind == 1 || a.kind == 2 || a.kind == 7).map (·.chan))).eraseDups

/-! ## Translation (R206) -/

/-- The row of a layer in the leaf of a position, and the entry of the position's page there, by their addresses; the span is VALID when it is in use. -/
def rowEntry (x : Sess) (layer pos : Nat) : Option (Nat × Nat) :=
  (x.spans.drop (pos / 1024)).head?.map fun e =>
    let row := e.leafAddr + layer * (16 + 16 * pagesPerSpan e.cls)
    (row, row + 16 + 16 * (pos % 1024 / pageTokens e.cls))
/-- The page of a position in a layer, and the row within it. The entry is VALID when the page is allocated. -/
def pageOf (x : Sess) (layer pos : Nat) : Option (Page × Nat) :=
  let sp := pos / 1024
  let c := spanCls x sp
  (x.pages.find? fun p => p.layer == layer && p.span == sp && p.slot == pos % 1024 / pageTokens c).map fun p => (p, pos % 1024 % pageTokens c)

/-! ## Appends (R209, R212) -/

/-- `n` bytes whose values are open. -/
def openBytes (n : Nat) (s : State) : List Byte × State :=
  ((List.range n).map (Config.openByte s.fresh), { s with fresh := s.fresh + 1 })

/-- Write one head's key or value row of a position. A page narrowed by a park has no FP8 row to write: what it then holds is open. -/
def writeRow (m : Model) (i c : Nat) (p : Page) (row part : Nat) (bs : List Byte) (s : State) : State :=
  let sz := partBytes p.fmt (partN m c)
  let w := m.headDim * fmtBits p.fmt / 8
  let (bs, s) := if p.fmt = 0 then (bs, s) else openBytes w s
  markDirty i (p.addr + part * sz + row * w) bs.length (memWrite (p.addr + part * sz + row * w) bs s)

/-- Fold a key into the summary of its page and head (R209). -/
def foldKey (m : Model) (i layer sp slot h : Nat) (key : List Byte) (s : State) : State :=
  match (sessOf i s).allocs.find? (fun a => a.kind == 7 && a.layer == layer && a.span == sp) with
  | none => s
  | some a =>
    let ad := a.addr + (h * (pagesPerSpan (spanCls (sessOf i s) sp) + 1) + slot) * 4 * m.headDim
    let old := ofSummaryBs m.headDim (memRead s ad (4 * m.headDim))
    memWrite ad (summaryBs (foldSummary old m.headDim (key.map fun b => e4m3 b.toNat))) s

/-- Write one position of a layer: its key and value rows, H × D bytes of FP8 each, and the summaries of its page. -/
def appendPos (i layer pos : Nat) (key val : List Byte) (s : State) : State :=
  let m := modelOf (descOf i s).model s
  let x := sessOf i s
  match pageOf x layer pos with
  | none => s
  | some (p, row) =>
    let c := spanCls x p.span
    if p.deepHeld then s
    else (List.range m.kvHeads).foldl (fun s h =>
      let k := (key.drop (h * m.headDim)).take m.headDim
      let v := (val.drop (h * m.headDim)).take m.headDim
      foldKey m i layer p.span p.slot h k (writeRow m i c p row (2 * h + 1) v (writeRow m i c p row (2 * h) k s))) s

/-- A row of the staging area as it reads. What one that reads poisoned holds is open (DESIGN CHOICE, log 166). -/
def stagedRow (a n : Nat) (s : State) : List Byte × State :=
  if poisonIn a n s then openBytes n (readBad a n s) else (memRead s a n, s)
/-- KV_SCATTER_APPEND (R212): the rows of session `k` of the plan go from the staging area to their pages of a layer. A row there is the key and the
value of one position, H × D bytes of FP8 each. -/
def scatter (p k layer : Nat) (bad : List Nat) (fixed : List (Nat × Nat × Nat)) (s : State) : State :=
  match runOf p k s, (partOf p s).step with
  | some r, some st =>
    let m := modelOf r.params.model s
    let n := m.kvHeads * m.headDim
    if !runsOp p 0x000B s || r.status != 0 || r.noPage || m.layers.length ≤ layer then s
    else (List.range r.count).foldl (fun s q =>
      let x := stagedRow (st.stage + r.stageOff + q * (2 * n)) (2 * n) s
      appendPos r.idx layer (r.start + q) (x.1.take n) (x.1.drop n) x.2)
      (foundBad [(st.stage + r.stageOff, r.count * (2 * n))] bad (corrections fixed s))
  | _, _ => s
def execKvScatterAppend (part k layer : Nat) (bad : List Nat) (fixed : List (Nat × Nat × Nat)) (s : State) : Host.Outcome State Fault Refusal :=
  whenServing s (scatter part k layer bad fixed)

/-- A row of the direct path (R212): its elements are converted to FP8 E4M3, saturating, and go straight to their page. -/
def directRow (p : Nat) (w : KvRow) (s : State) : State :=
  match runOf p w.k s with
  | none => s
  | some r =>
    let m := modelOf r.params.model s
    let row := fun (l : List Nat) => l.map fun c => BitVec.ofNat 8 (elemCode 3 true (ofF32 c))
    if r.status != 0 || r.noPage || !m.direct.contains p || r.count ≤ w.pos || m.layers.length ≤ w.layer then s
    else appendPos r.idx w.layer (r.start + w.pos) (row w.key) (row w.val) s

/-- SPAN_SUMMARY_DONE (R209): every operation of a full span's job has completed, in every layer and head. -/
def spanSummary (i sp : Nat) (s : State) : State :=
  match s.spanJobs.find? fun j => j.idx == i && j.span == sp with
  | none => s
  | some j =>
    if j.todo ≠ [] ∨ 0 < j.left then s
    else modSess i (fun x => { x with spans := x.spans.modify sp fun e => { e with sumValid := true } })
      { s with spanJobs := s.spanJobs.filter (· != j) }
def execSpanSummaryDone (idx span : Nat) (s : State) : Host.Outcome State Fault Refusal := whenServing s (spanSummary idx span)

/-! ## Page fetches (R223) -/

def showFetch (t : Nat) (s : State) : State :=
  wr (KVP_FETCH_STATUS.QUEUED t) (s.fetchQ.filter fun f => f.1 / 8 == t).length
    (wr (KVP_FETCH_STATUS.IN_FLIGHT t) (s.fetchFly.filter fun f => f.1 / 8 == t).length s)

/-- Queue the fetch of a session's deep-held page on its layer's home tile; a full queue drops it. -/
def queueFetch (i k : Nat) (s : State) : State :=
  let x := sessOf i s
  let d := descOf i s
  match (x.pages.drop k).head? with
  | none => s
  | some p =>
    let t := homeTile (modelOf d.model s) p.layer
    if !p.deepHeld || s.fetchQ.any (fun f => f.2 == (i, k)) || s.fetchFly.any (fun f => f.2 == (i, k)) then s
    else if 1024 ≤ (s.fetchQ.filter fun f => f.1 / 8 == t).length then bump (KVP_FETCH_DROPS.COUNT t) 1 s
    else
      let s := showFetch t { s with fetchQ := s.fetchQ ++ [(t * 8 + d.cls, i, k)] }
      if d.cls = 0 then askReturn ((sessOf i s).allocs.map (·.chan)) s else s

/-- The fetch a tile serves next: class 0 first, then first in, first out within each class. -/
def nextFetch (t : Nat) (s : State) : Option (Nat × Nat × Nat) :=
  (List.range 8).findSome? fun c => s.fetchQ.find? fun f => f.1 == t * 8 + c

/-- KV_FETCH: the next queued fetch of a tile starts reading its chunks. -/
def kvFetch (t : Nat) (s : State) : State :=
  match nextFetch t s with
  | none => s
  | some f =>
    let s := { s with fetchQ := s.fetchQ.erase f, fetchFly := s.fetchFly ++ [f] }
    showFetch t (modSess f.2.1 (fun x => { x with pages := x.pages.modify f.2.2 fun p => { p with fetching := true } }) s)
def execKvFetch (tile : Nat) (s : State) : Host.Outcome State Fault Refusal := whenServing s (kvFetch tile)

/-- Bring one page in and take its fetch off the list; the last of a held session's posts event 0x000C. -/
def fetchLanded (f : Nat × Nat × Nat) (s : State) : State :=
  let i := f.2.1
  match bringPage i f.2.2 s with
  | none => s
  | some s' =>
    let t := f.1 / 8
    let bytes := ((sessOf i s').pages.drop f.2.2).head?.map (·.bytes) |>.getD 0
    let s := showFetch t { s' with fetchFly := s'.fetchFly.erase f }
    let s := bump (KVP_FETCHES.COUNT t) 1 (bump (TRN_CLASS_BYTES.BYTES (f.1 % 8)) bytes s)
    if 0 < (sessOf i s).heldSteps ∧ ¬ (s.fetchQ ++ s.fetchFly).any (fun g => g.2.1 == i) then postPfSes i 0x000C 0x0A sOk 0 0 s else s

/-- KV_FETCH_COMPLETE: the page lands, waits for space, or, its tag or read failing, ends its session (R146). -/
def fetchComplete (i k : Nat) (ok : Bool) (s : State) : State :=
  match s.fetchFly.find? (fun f => f.2 == (i, k)) with
  | none => s
  | some f =>
    if ok then fetchLanded f s
    else
      let s := match (sessOf i s).image with
        | some im => if im.tier = 0 then ((im.chunks[chunkAt ((im.pageOffs[k]?).getD 0)]?).elim s fun c => deepUe (chunkChan c s) s) else s
        | none => s
      bump TRN_TAG_FAILS.COUNT 1 (loseSession i s)
def execKvFetchComplete (idx k : Nat) (ok : Bool) (s : State) : Host.Outcome State Fault Refusal := whenServing s (fetchComplete idx k ok)

end Sys2Proof.Machine
end

