-- ==== Sys2Proof/Machine/Steps.lean ====
section
/-!
DEFINITION. Sys2Proof/Machine/Steps.lean: batch steps and the kernel scheduler: launches, plans, step tables, kernel order at boundaries,
and the end of kernels and steps (R83, R85, R178 to R182, R190, R213, R331 to R338, R456, R457).
-/
namespace Sys2Proof.Machine

/-! ## Launches (R83, R85) -/

/-- The structure of `n` bytes at an address lies in a protected bonded-tier channel, 64 B aligned. -/
def protAddr (a n : Nat) (s : State) : Bool := a % 64 == 0 && decide (a + n ≤ bondedEnd) && !chRaw (gchan a) s

/-- The governor holds launches and kernels of a class (R352, levers 3 and 4). -/
def leverHolds (c : Nat) (s : State) : Bool := if c = 0 then isSet MGT_LEVERS.L4 s else rdBit MGT_LEVERS.L3_HELD c s

/-- A checkpoint holds a launch of a partition (R479, R483). -/
def ckptHolds (p tick : Nat) (s : State) : Bool :=
  match s.ckpt with
  | none => false
  | some c => (decide (c.phase ≤ 2) || c.phase == 5) && c.parts.contains p && (!c.barrier || decide (c.tick ≤ tick))

/-- The named partitions have stopped: no step runs, and no launch due before the barrier waits (R479). -/
def ckptStopped (c : Ckpt) (s : State) : Bool :=
  c.parts.all fun p => (partOf p s).step.isNone && !(c.barrier && (partOf p s).waiting.any fun l => decide (l.e.tick < c.tick))
/-- Row 2 of R480: the partitions have stopped, and capture begins, or the reading of a RESTORE. -/
def ckptAdvance (s : State) : State :=
  match s.ckpt with
  | some c =>
    if c.phase = 1 ∧ ckptStopped c s then
      let n := if c.op = 0 then 2 else 5
      wr REL_CKPT_STATUS.PHASE n { s with ckpt := some { c with phase := n } }
    else s
  | none => s

/-- A partition counts as running a step for R83: a step, a spare replacement or the hang before it, an array still to join, or a reload (R185, R192,
R456). -/
def partBusy (p : Nat) (s : State) : Bool :=
  let x := partOf p s
  x.step.isSome || !x.swaps.isEmpty || !x.incoming.isEmpty || x.reload || partFrozen p s

/-! ## Plans (R331 to R334) -/

/-- A batch plan as read (R331). -/
structure Plan where
  cls : Nat
  maxPos : Nat
  stage : Nat
  table : Nat
  handles : List Nat
  hdrs : List Nat
deriving DecidableEq, Repr

/-- The plan at an address, or `none` where R332 finds it wrong. -/
def planOf (p a : Nat) (s : State) : Option Plan :=
  if !protAddr a 64 s then none
  else
    let b := memRead s a 64
    let n := field b 6 2
    let k := field b 8 4
    let mp := field b 12 4
    let list := field b 16 8
    let tab := field b 32 8
    if field b 0 4 ≠ 0x504C_4E31 ∨ field b 4 1 ≠ p ∨ 8 ≤ field b 5 1 ∨ n = 0 ∨ 2048 < n ∨ k = 0 ∨ 65536 < k ∨ mp = 0 ∨ 1048576 < mp ∨
        field b 40 24 ≠ 0 ∨ ¬ a + 64 + 8 * n ≤ bondedEnd ∨ ¬ list + 8 * k ≤ bondedEnd ∨ tab % 64 ≠ 0 ∨ ¬ tab + 16 * n ≤ bondedEnd then none
    else some { cls := field b 5 1, maxPos := mp, stage := field b 24 8, table := tab,
                handles := (pieces 8 n (memRead s (a + 64) (8 * n))).map leNat, hdrs := (pieces 8 k (memRead s list (8 * k))).map leNat }

/-- A session that a plan may run (R40, R42, R154). -/
def runnable (i : Nat) (s : State) : Bool :=
  let d := descOf i s
  ((d.st == stReady && d.turnPending) || d.st == stActive) && !armed i s && !(s.tombs.any fun t => t.idx == i)

/-- The slot a plan's handle names. -/
def planSlot (hd : Nat) (s : State) : Option Nat :=
  match handleCheck 0 hd s with
  | .found i => some i
  | .missing _ => none
  | .foreign => none

/-- What a plan makes of its handles, in order (R333): the entries so far, the positions and the staging bytes they take. A row of the
staging area is the key and value of one position. -/
def planStep (pl : Plan) (s : State) (acc : List SesRun × Nat × Nat) (hd : Nat) : List SesRun × Nat × Nat :=
  let (rs, total, off) := acc
  let offS := if pl.stage = 0 then 0 else off
  match planSlot hd s with
  | none => (rs ++ [{ idx := slots, handle := hd, start := 0, count := 0, stageOff := offS, status := 1, params := { handle := hd },
                      stops := [] }], total, off)
  | some i =>
    let d := descOf i s
    let x := sessOf i s
    let n := x.pendTok.length
    let r : SesRun := { idx := i, handle := hd, start := d.tokenCount, count := 0, stageOff := offS, status := 1, params := d, stops := x.stops }
    if rs.any (fun q => q.idx == i) || !runnable i s then (rs ++ [r], total, off)
    else if pl.maxPos < total + n then (rs ++ [{ r with status := 2 }], total, off)
    else
      let m := modelOf d.model s
      (rs ++ [{ r with status := 0, count := n }], total + n, off + n * (2 * m.kvHeads * m.headDim))
def planRuns (pl : Plan) (s : State) : List SesRun := (pl.handles.foldl (planStep pl s) ([], 0, 0)).1

/-- The effective class (R334). -/
def effClass (pl : Plan) (rs : List SesRun) : Nat := ((rs.filter (·.status == 0)).map (·.params.cls)).foldl min pl.cls
/-- Effective class of a waiting launch; an invalid plan goes first, and fails. -/
def launchClass (p : Nat) (l : Launch) (s : State) : Nat :=
  match planOf p l.e.opA s with
  | none => 0
  | some pl => effClass pl (planRuns pl s)

/-- The launch that starts next (R334): of those not held, the lowest effective class, in dispatch order within one. -/
def nextLaunch (p : Nat) (s : State) : Option Launch :=
  ((partOf p s).waiting.filter fun l => !ckptHolds p l.e.tick s && !leverHolds (launchClass p l s) s).foldl (fun best l =>
    match best with
    | none => some l
    | some b => if launchClass p l s < launchClass p b s then some l else best) none

/-- Launches of a partition that wait: all but one that starts now. -/
def waitingLaunches (p : Nat) (s : State) : Nat :=
  let x := partOf p s
  x.waiting.length - (if !partBusy p s && x.running.isNone && (nextLaunch p s).isSome then 1 else 0)
/-- The action of a LAUNCH_STEP entry (R83, R85, R193, R424). At most two launches wait. -/
def actLaunch (table idx : Nat) (e : EphEntry) (s : State) : State :=
  let p := e.target
  let x := partOf p s
  if 255 ≤ p ∨ ¬ isSet (ARY_PART_STATUS.DEFINED p) s ∨ isSet (ARY_PART_STATUS.DEGRADED p) s ∨ x.model = 0xFF ∨
      ¬ isSet (HIF_MODEL.LOADED x.model) s ∨ 2 ≤ waitingLaunches p s then actionFail table idx e sRejected s
  else
    let l : Launch := { table := table, idx := idx, e := e, edge := s.cad.edges }
    showSched p (modPart p (fun x => { x with waiting := x.waiting ++ [{ l with busy := partBusy p s || ckptHolds p e.tick s || leverHolds (launchClass p l s) s ||
      !x.waiting.isEmpty }] }) s)
/-- A launch waits for a step, a replacement, a checkpoint or a lever (R83, R192, R352, R479): noted at each edge. -/
def markWaits (s : State) : State :=
  s.parts.foldl (fun s q => if q.2.waiting = [] then s else modPart q.1 (fun x => { x with waiting := x.waiting.map fun l =>
    { l with busy := l.busy || partBusy q.1 s || ckptHolds q.1 l.e.tick s || leverHolds (launchClass q.1 l s) s } }) s) s

/-- The bytes of a step-table entry (R333). -/
def tableEntry (r : SesRun) : List Byte :=
  leBytes 4 r.start ++ leBytes 4 r.count ++ leBytes 4 r.stageOff ++ leBytes 1 r.status ++ leBytes 3 0

/-- A session that was ACTIVE on the partition and that the plan omits, or names while its switch is armed (R40, R41, R154). -/
def omitSession (s : State) (i : Nat) : State :=
  let d := descOf i s
  match (sessOf i s).destroyWait with
  | some h =>
    if d.st = stTransit then { s with transits := s.transits.map fun t => if t.idx = i ∧ t.kind ≠ 6 then { t with stop := true } else t }
    else destroyNow h i s
  | none => if d.cancelPending then endTurn i 4 false 0 0xFF s else putDesc i { d with st := stReady } s
/-- Sessions ACTIVE on a partition. -/
def activeOn (p : Nat) (s : State) : List Nat :=
  (s.desc.filter fun q => q.2.st == stActive && (sessOf q.1 s).actPart == p).map (·.1)
/-- Sessions last ACTIVE on a partition that a SESSION_DESTROY waits to free when a plan omits them (R41), their turn having ended since. -/
def leavingOn (p : Nat) (s : State) : List Nat :=
  (s.sess.filter fun q => q.2.destroyWait.isSome && q.2.actPart == p && (descOf q.1 s).st != stActive).map (·.1)

/-- A session the step runs: its pages allocated, its root cached, its channels asked back, ACTIVE (R40, R207, R210, R211). -/
def startRun (p k : Nat) (s : State) : State :=
  match runOf p k s with
  | none => s
  | some r =>
    if r.status ≠ 0 then s
    else
      let (ok, s) := allocRun r.idx r.start r.count s
      let s := cacheRoot r.idx (modSess r.idx (fun x => { x with actPart := p }) s)
      let s := if ok then s else modRun p k (fun r => { r with noPage := true }) s
      let s := if (descOf r.idx s).st = stActive then s else modDesc r.idx (fun d => { d with st := stActive }) s
      modRun p k (fun r => { r with params := descOf r.idx s }) (askReturn (sessChans r.idx s) s)

/-- Channels of the sessions a partition's step runs (R210). -/
def stepChans (p : Nat) (s : State) : List Nat :=
  match (partOf p s).step with
  | none => []
  | some st => (st.runs.filter (·.status == 0)).flatMap fun r => sessChans r.idx s
/-- A step's channels are still with their bank units. -/
def chansAway (p : Nat) (s : State) : Bool := (stepChans p s).any (chProcessor · s)

/-- A launch that waited starts (R83). -/
def countBusy (l : Launch) (s : State) : State :=
  raise EPH_SLIP_BUSY.MAX (s.cad.edges - l.edge) (bump EPH_SLIP_BUSY.COUNT 1 s)

/-- The step begins with its runs. -/
def beginStep (p : Nat) (l : Launch) (pl : Plan) (rs : List SesRun) (s : State) : State :=
  let x := partOf p s
  let n := (rs.filter (·.status != 0)).length
  let ovr := (rs.filter (·.status == 2)).length
  let pre := (rs.filter fun r => r.status == 0 && decide (x.prefillAllow < r.count)).length
  let s := bump SES_PLAN_SKIPS.COUNT n (bump (ARY_SCHED_STATUS.OVER_SKIPS p) ovr (bump (ARY_SCHED_STATUS.PREFILL_OVER p) pre s))
  let named := (rs.filter fun r => !armed r.idx s).map (·.idx)
  let s := ((activeOn p s ++ leavingOn p s).filter fun i => !named.contains i).foldl omitSession s
  let eff := effClass pl rs
  let st : Step := { launch := l, plan := l.e.opA, cls := pl.cls, eff := eff, stage := pl.stage, hdrs := pl.hdrs, runs := rs, ranks := x.ranks }
  let s := modPart p (fun x => { x with step := some st, reconf := false, waiting := x.waiting.map fun l => { l with busy := true } }) s
  let s := (List.range rs.length).foldl (fun s k => startRun p k s) s
  let s := modStep p (fun st => { st with delayed := chansAway p s }) s
  let s := engWrite pl.table ((rs.map tableEntry).flatten) s
  let s := trace { tick := 0, event := 0x0201, part := p, src := 0x09, flags := 1 + 2 * eff, arg := l.e.tag % 2 ^ 32 + eff * 2 ^ 32 } s
  c0Refresh (showSched p s)

/-- STEP_START (R332 to R334): the next launch of a partition starts its step. `poison`: the plan or its kernel list reads poisoned. -/
def stepStart (p : Nat) (poison : Bool) (s : State) : State :=
  let x := partOf p s
  if partBusy p s || x.running.isSome then s
  else match nextLaunch p s with
  | none => s
  | some l =>
    let s := modPart p (fun x => { x with waiting := x.waiting.erase l }) s
    let s := if l.busy then countBusy l s else s
    let s := (activeOn p s).foldl (fun s i => detokenize i s) s
    let s := spoilIf poison l.e.opA 64 s
    if isSet (ARY_PART_STATUS.DEGRADED p) s then showSched p (actionFail l.table l.idx l.e sRejected s)
    else if poison || poisonIn l.e.opA 64 s then showSched p (actionFail l.table l.idx l.e sDropped (readBad l.e.opA 64 s))
    else match planOf p l.e.opA s with
    | none => showSched p (actionFail l.table l.idx l.e sRejected s)
    | some pl =>
      let s := (pl.handles.filterMap (planSlot · s)).foldl (fun s i => readDesc i s) s
      let s := (planRuns pl s).foldl (fun s r => mendTables r.idx s) s
      beginStep p l pl (planRuns pl s) s
def execStepStart (part : Nat) (poison : Bool) (s : State) : Host.Outcome State Fault Refusal := whenServing s (stepStart part poison)

/-! ## Kernels (R178, R335, R336, R338) -/

/-- The code of a kernel, and that its digest matches (R178). -/
def kernelCode (k : KHdr) (s : State) : List Byte := memRead s k.codeAddr k.codeBytes
def kernelCodeOk (k : KHdr) (s : State) : Bool := leBytes 8 (Config.digest (kernelCode k s)) == k.digest
/-- The launch checks of R178 beside that of the digest. -/
def khdrOk (p : Nat) (k : KHdr) (s : State) : Bool :=
  k.magic == 0x4B4E_4C31 && k.ranks == (curRanks p s).length && decide (k.boundNs ≤ 250000) && decide (k.codeBytes ≤ 65536) &&
    decide (k.argsBytes ≤ 4096) && decide ((partOf p s).residentKib + 2 * k.wbufKib + k.workKib ≤ 2048)
/-- Every rank of a partition has an array in service: a kernel starts on all ranks together (R180). -/
def ranksUp (p : Nat) (s : State) : Bool := (curRanks p s).all fun a => arrState a s == aEnabled

/-- A kernel of the queue may start now, beside the running step (R336). -/
def admitted (p : Nat) (k : Kern) (s : State) : Bool :=
  match (partOf p s).step with
  | none => true
  | some st => decide (k.cls < st.eff) || (k.cls == st.eff && decide (st.interNs < rd (ARY_SCHED_CFG.INTERLEAVE_US p) s * 1000))

/-- The kernel of the queue that starts first: lowest class, first in first out; those of no class last. -/
def bestQueued (p : Nat) (s : State) : Option Kern :=
  ((partOf p s).queue.filter fun k => admitted p k s && (k.cls == 8 || !leverHolds k.cls s)).foldl (fun best k =>
    match best with
    | none => some k
    | some b => if k.cls < b.cls then some k else best) none

/-- The next kernel of the step is ready. -/
def stepReady (p : Nat) (s : State) : Option Step :=
  match (partOf p s).step with
  | none => none
  | some st => if st.next < st.hdrs.length ∧ ¬ (st.next = 0 ∧ chansAway p s) ∧ ¬ leverHolds st.eff s then some st else none

/-- The bin of a waiting time (R344). -/
def waitBin (t : Nat) : Nat :=
  if t ≤ 1 then t else if t ≤ 3 then 2 else if t ≤ 7 then 3 else if t ≤ 15 then 4 else if t ≤ 63 then 5 else if t ≤ 255 then 6 else 7
/-- Functions a step is accounted to. -/
def stepFns (st : Step) : List Nat := ((st.runs.filter (·.status == 0)).map (·.params.fn)).eraseDups
/-- Add a waiting time to the functions accounted (R338). -/
def accountWait (fns : List Nat) (t : Nat) (s : State) : State := fns.foldl (fun s f => bump (TM_FN_WAIT.COUNT f (waitBin t)) 1 s) s
/-- Count pre-emptions at a boundary where a kernel of class `c` starts (R338). -/
def accountPreempt (p c : Nat) (s : State) : State :=
  let x := partOf p s
  let s := (x.queue.filter fun k => decide (c < k.cls) && k.cls != 8).foldl (fun s k => bump (TM_FN_PREEMPT.COUNT k.fn) 1 s) s
  match x.step with
  | some st => if c < st.eff ∧ st.next < st.hdrs.length then (stepFns st).foldl (fun s f => bump (TM_FN_PREEMPT.COUNT f) 1 s) s else s
  | none => s

/-- A kernel begins on every rank of its partition (R180), with the transfers its code issues. -/
def beginKernel (p : Nat) (r : Running) (dma : List (Nat × Dma)) (s : State) : State :=
  let as := curRanks p s
  let s := modPart p (fun x => { x with running := some { r with ranks := as } }) s
  let s := as.foldl (fun s a =>
    wr (ARY_STATUS.LAYER (a / 512) (a % 512)) r.kern.layer (wr (ARY_STATUS.OPERATOR (a / 512) (a % 512)) r.kern.op s)) (showBusy as true s)
  trace { tick := 0, layer := r.kern.layer, oper := r.kern.op, array := rankArr p 0 s, event := 0x0101, part := p, src := 0x09, fn := r.kern.fn,
          flags := if r.kern.cls = 8 then 0 else 1 + 2 * r.kern.cls, arg := r.hdr } (dmaIssue p dma s)

/-- Start the next kernel of the running step, its code loaded into every rank's code memory, or fail the step where the kernel fails at launch. -/
def startStepKernel (p : Nat) (st : Step) (clean : Bool) (dma : List (Nat × Dma)) (s : State) : State :=
  let a := (st.hdrs.drop st.next).head?.getD 0
  let k := khdrOf (memRead s a 64)
  let fns := stepFns st
  let s := spoilIf (!clean && protAddr a 64 s) a 64 s
  let s := if st.next = 0 ∧ st.delayed ∧ ¬ st.launch.busy then countBusy st.launch s else s
  let s := if st.waited then s else accountWait fns (now s - st.launch.e.tick) s
  let s := modStep p (fun st => { st with waited := true, next := st.next + 1 }) s
  if !protAddr a 64 s || !khdrOk p k s || !kernelCodeOk k s || !ranksUp p s || !clean || poisonIn a 64 s || poisonIn k.codeAddr k.codeBytes s then
    failStep p k.layer k.op a (readBad k.codeAddr k.codeBytes (readBad a 64 s))
  else
    let s := modPart p (fun x => { x with head := k }) (accountPreempt p st.eff s)
    let s := (curRanks p s).foldl (fun s b => { s with codeMem := sset s.codeMem b (kernelCode k s) }) s
    beginKernel p { ofStep := true, hdr := a, kern := { cls := st.eff, fn := fns.headD 0, queued := 0, op := k.op, layer := k.layer } } dma s

/-- Start a kernel that is not of the step. -/
def startQueued (p : Nat) (k : Kern) (s : State) : State :=
  let s := accountWait [k.fn] (now s - k.queued) (modPart p (fun x => { x with queue := x.queue.erase k }) s)
  beginKernel p { ofStep := false, kern := k } [] (showSched p (accountPreempt p k.cls s))

/-- A partition may start a kernel: none runs, no hang, replacement or hand-over stops it, and its resident regions are loaded (R184, R191, R456). -/
def partFree (p : Nat) (s : State) : Bool :=
  let x := partOf p s
  x.running.isNone && !partFrozen p s && x.swaps.isEmpty && !x.reload && !(!x.incoming.isEmpty && x.step.isNone)
/-- KERNEL_START (R336): the first ready kernel of a partition starts. `clean`: its header and code read clean. -/
def kernelStart (p : Nat) (clean : Bool) (dma : List (Nat × Dma)) (s : State) : State :=
  if !partFree p s then s
  else match stepReady p s, bestQueued p s with
  | some st, some k => if k.cls < st.eff then startQueued p k s else startStepKernel p st clean dma s
  | some st, none => startStepKernel p st clean dma s
  | none, some k => startQueued p k s
  | none, none => s
def execKernelStart (part : Nat) (x : KStart) (s : State) : Host.Outcome State Fault Refusal := whenServing s (kernelStart part x.clean x.dma)

/-! ## Ends (R180, R213, R222, R456) -/

/-- What the end of a step does for a session beyond the commit (R217, R222). -/
def settleRun (s : State) (r : SesRun) : State :=
  if r.status ≠ 0 ∨ (descOf r.idx s).handle ≠ r.handle then s
  else if r.poisoned then loseSession r.idx s
  else if r.held then
    let s := modSess r.idx (fun x => { x with heldSteps := x.heldSteps + 1 }) s
    let x := sessOf r.idx s
    if x.heldSteps < 2 then s else (List.range x.pages.length).foldl (fun s k => queueFetch r.idx k s) s
  else modSess r.idx (fun x => { x with heldSteps := 0 }) s

/-- STEP_END: the commit of R213, the event an entry asked for, and arrays that waited for the step. -/
def endStep (p : Nat) (st : Step) (s : State) : State :=
  let s := st.runs.foldl (commitRun p) s
  let s := st.runs.foldl settleRun s
  let draws := (st.runs.filter fun r => r.status == 0 && r.outcome == some 1 && (sessOf r.idx s).drawn.isSome).length
  let s := showSched p (modPart p (fun x => { x with step := none }) s)
  let s := trace { tick := 0, event := 0x0202, part := p, src := 0x09, flags := 1 + 2 * st.eff, arg := draws } s
  ckptAdvance (endReconf p (joinFrom p (actionDone st.launch.table st.launch.idx st.launch.e s)))

/-- Count the end of a kernel that took `us` µs, on every tile that held ranks of it. -/
def countKernel (ranks : List Nat) (us : Nat) (sat nan : Bool) (s : State) : State :=
  ((ranks.map (· / 512)).eraseDups).foldl (fun s t =>
    let s := raise (ARY_OVERRUNS.MAX_US t) us (bump (ARY_KERNEL_COUNTS.KERNELS t) 1 s)
    bump (ARY_NUM_COUNTS.SATURATED t) (b2n sat) (bump (ARY_NUM_COUNTS.NAN_RESULTS t) (b2n nan) s)) s

/-- What a kernel's code does to memory and SRAM on the ranks it runs on: its transfers end, its writes land (R180), a projection kernel on the direct
path writes its rows (R212), and the words corrected meanwhile are counted (R196). -/
def kernelEffects (p : Nat) (out : KOut) (fixed : List (Nat × Nat)) (s : State) : State :=
  let as := runRanks p s
  let s := ((List.range as.length).zip as).foldl (fun s a => if a.2 < 2048 then dmaFinish p a.1 a.2 s else s) s
  let s := if ((partOf p s).running.map (·.ofStep)).getD false then
      out.rows.foldl (fun s w => directRow p w s) (out.writes.foldl (fun s w => kernelWrite p w.1 w.2 s) s)
    else s
  let s := out.sram.foldl (fun s w => kernelSram p w.1 w.2.1 w.2.2 s) s
  let s := fixed.foldl (fun s w => (runArr p w.1 s).elim s fun a => bump (ARY_SRAM_ECC.CORRECTED (a / 512)) w.2 s) s
  arrDirty (as.filter fun a => decide (a < 2048)) s

/-- KERNEL_END: the running kernel of a partition ends after `us` µs; `sat` and `nan` say that it saturated an element or wrote a NaN. One of whose
ranks hung has not completed: its other ranks stop here (R185). -/
def kernelEnd (p us : Nat) (sat nan : Bool) (out : KOut) (fixed : List (Nat × Nat)) (s : State) : State :=
  match (partOf p s).running with
  | none => s
  | some k =>
    let s := kernelEffects p out fixed s
    let s := if k.hung then s else
      trace { tick := 0, layer := k.kern.layer, oper := k.kern.op, array := (k.ranks.head?).getD 0xFFFF, event := 0x0102, part := p, src := 0x09,
              fn := k.kern.fn, flags := if k.kern.cls = 8 then 0 else 1 + 2 * k.kern.cls, arg := us * 1000 } (countKernel k.ranks us sat nan s)
    let s := modPart p (fun x => { x with running := none }) (showBusy k.ranks false s)
    let s := if k.ofStep then s
      else modStep p (fun st => if st.eff = k.kern.cls then { st with interNs := st.interNs + us * 1000 } else st) s
    let s := retireWaiting k.ranks s
    match (partOf p s).step with
    | some st => if st.next = st.hdrs.length then endStep p st s else s
    | none => s

end Sys2Proof.Machine
end

