-- ==== Sys2Proof/Machine/Checkpoints.lean ====
section
/-!
DEFINITION. Sys2Proof/Machine/Checkpoints.lean: checkpoints (R425, R478 to R484): the descriptor, the stop at a step boundary, capture into the
spare region, the packed image in the deep tier, its mirror, and restoring it.
-/
namespace Sys2Proof.Machine

/-! ## The descriptor (R478) -/

/-- Channels of a stack that a remap serves. -/
def stackRemaps (st : Nat) (s : State) : Nat := (s.remaps.filter fun r => r.1 / 32 == st).length
/-- Room for staging in a stack: its spare region less 2.25 GiB for each remap. -/
def stagingRoom (st : Nat) (s : State) : Nat := spareGib st s * 0x4000_0000 - chanBytes * stackRemaps st s

/-- A range: 64 B aligned, in one stack, outside channel 0 and the spare region. -/
def ckptRangeOk (s : State) (r : Nat × Nat) : Bool :=
  r.1 % 64 == 0 && r.2 != 0 && r.2 % 64 == 0 && decide (r.1 + r.2 ≤ bondedEnd) && chanOf r.1 != 0 &&
    decide (r.1 + r.2 ≤ spareStart (stackOf r.1) s)
def rangesApart : List (Nat × Nat) → Bool
  | [] => true
  | r :: rs => rs.all (fun q => decide (r.1 + r.2 ≤ q.1) || decide (q.1 + q.2 ≤ r.1)) && rangesApart rs
def ckptFenceOk (n : Nat) : Bool := decide (n < fences) || n == 0xFFFF
/-- Bytes of a list of ranges that lie in a stack. -/
def rangesIn (st : Nat) (rs : List (Nat × Nat)) : Nat := ((rs.filter fun r => stackOf r.1 == st).map (·.2)).sum

/-- A checkpoint as its descriptor of 96 B and its region list give it. -/
def ckptOf (b list : List Byte) : Ckpt :=
  { op := field b 4 1, cls := field b 5 1 % 8, mirrorOn := bitOf (field b 6 1) 0, remote := bitOf (field b 6 1) 1, jobKey := field b 7 1,
    id := field b 8 8, mirror := field b 0x10 2, source := field b 0x12 2, capFence := field b 0x16 2, durFence := field b 0x18 2,
    ranges := (List.range (field b 0x14 2)).map fun k => (field list (16 * k) 8, field list (16 * k + 8) 8),
    parts := (List.range 256).filter fun p => bitOf (field b 0x40 32) p, tick := 0, barrier := false }
/-- The fields of the descriptor are within their ranges, and its reserved bytes zero. -/
def ckptFieldsOk (b : List Byte) (c : Ckpt) : Bool :=
  field b 0 4 == 0x434B_5031 && decide (c.op ≤ 1) && decide (field b 5 1 < 8) && decide (field b 6 1 < 4) && !(c.mirrorOn && c.op == 1) &&
    !(c.remote && c.op == 0) && decide (c.mirror ≤ 0xFFF) && !((c.mirrorOn || c.remote) && c.mirror == 0xFFF) &&
    (if c.remote then decide (c.source < 0xFFF) else c.source == 0xFFF) && decide (1 ≤ c.ranges.length) && decide (c.ranges.length ≤ 256) &&
    ckptFenceOk c.capFence && ckptFenceOk c.durFence && field b 0x1A 6 == 0 && field b 0x28 24 == 0 && !c.parts.contains 255
/-- The checkpoint a descriptor's address names, or the status that refuses it. -/
def readCkpt (a : Nat) (s : State) : Except Nat Ckpt :=
  if ¬ protAddr a 96 s then .error sRejected
  else
    let b := memRead s a 96
    let list := field b 0x20 8
    let n := min (field b 0x14 2) 257
    let c := ckptOf b (memRead s list (16 * n))
    if ¬ ckptFieldsOk b c ∨ bondedEnd < list + 16 * n then .error sRejected
    else if ¬ (c.ranges.all (ckptRangeOk s) && rangesApart c.ranges && c.parts.all fun p => isSet (ARY_PART_STATUS.DEFINED p) s) then .error sRejected
    else if (List.range 24).any fun st => decide (stagingRoom st s < rangesIn st c.ranges) then .error sCapacity
    else if c.ranges.any fun r => !stackOnline (stackOf r.1) s then .error sAborted
    else .ok c

/-! ## Staging -/

/-- The staging area of a stack, from the top of its spare region downward, as pieces by channel. -/
def stagingPieces (st n : Nat) : List Alloc :=
  (List.range 32).filterMap fun c =>
    let lo := max (gchanBase (32 * st + c)) (stackEnd st - n)
    let hi := gchanBase (32 * st + c) + chanBytes
    if lo < hi ∧ 0 < n then some { kind := 10, chan := 32 * st + c, addr := lo, bytes := hi - lo } else none
def stagingFor (rs : List (Nat × Nat)) : List Alloc := (List.range 24).flatMap fun st => stagingPieces st (rangesIn st rs)
def showStaging (c : Ckpt) (s : State) : State := wr REL_CKPT_STATUS.STAGED_GIB (ceilDiv ((c.staging.map (·.bytes)).sum) 0x4000_0000) s
def freeStaging (c : Ckpt) (s : State) : State :=
  wr REL_CKPT_STATUS.STAGED_GIB 0 (c.staging.foldl (fun s a => chanGive a.chan a.addr a.bytes s) s)
/-- Writes that the capture held back are made. -/
def makeHeld (c : Ckpt) (s : State) : State := c.heldW.foldl (fun s w => memWrite w.1 w.2 s) s
def ckptPhase (n : Nat) (c : Ckpt) (s : State) : State := wr REL_CKPT_STATUS.PHASE n { s with ckpt := some { c with phase := n } }
def ckptEvent (phase status : Nat) (c : Ckpt) (s : State) : State := postPf 0x0019 0x15 status phase c.id s
def ckptIdle (s : State) : State := wr REL_CKPT_STATUS.PHASE 0 { s with ckpt := none }

/-! ## Start and failure -/

/-- Row 1 of R480: the checkpoint is taken up, and stops its partitions. -/
def startCkpt (c : Ckpt) (s : State) : State :=
  let c := { c with staging := if c.op = 0 then stagingFor c.ranges else [] }
  let s := c.staging.foldl (fun s a => chanTake a.chan a.addr a.bytes s) s
  let s := wr REL_CKPT_STATUS.OP c.op (wr REL_CKPT_STATUS.ID_LOW (c.id % 2 ^ 32) (showStaging c s))
  ckptAdvance (ckptPhase 1 c s)
/-- The checkpoint fails (R484): its space and what it held are let go, and event 0x0019 tells with phase 0. -/
def ckptStop (status : Nat) (s : State) : State :=
  match s.ckpt with
  | none => s
  | some c => ckptEvent 0 status c (bump REL_CKPT_FAILED.COUNT 1 (makeHeld c (freeStaging c (freeDeep c.chunks (ckptIdle s)))))
/-- What waits for a checkpoint hears of its end: the command, or the entry that asked for an event. -/
def ckptTell (status bytes : Nat) (c : Ckpt) (s : State) : State :=
  match c.requester, c.eph with
  | some h, _ => complete h 0x41 status 0 bytes 0 s
  | none, some (t, i, e) => if status = sOk ∨ status = sPartial then actionDone t i e s else s
  | none, none => s
def ckptFail (status : Nat) (s : State) : State :=
  match s.ckpt with
  | none => s
  | some c => ckptTell status 0 c (ckptStop status s)

/-- CHECKPOINT (R425). -/
def checkpoint (h : Hdr) (a : Nat) (s : State) : State :=
  if intakeFails h 0x41 false s then refuse h 0x41 sRejected s
  else if s.ckpt.isSome then refuse h 0x41 sBusy s
  else match readCkpt a s with
  | .error st => refuse h 0x41 st s
  | .ok c => startCkpt { c with requester := some h, tick := now s } s
def execCheckpoint (h : Hdr) (addr : Nat) (s : State) : Host.Outcome State Fault Refusal := hostCmd h 0x41 s (checkpoint h addr)

/-- The action of a CHECKPOINT_BARRIER entry (R479). -/
def actBarrier (table idx : Nat) (e : EphEntry) (s : State) : State :=
  if s.ckpt.isSome then actionFail table idx e sRejected s
  else match readCkpt e.opA s with
  | .error _ => actionFail table idx e sRejected s
  | .ok c => startCkpt { c with eph := some (table, idx, e), barrier := true, tick := e.tick } s

/-! ## Capture, pack, mirror -/

/-- The staging address of each range of a stack, from the top down. -/
def stagedAt (rs : List (Nat × Nat)) : List ((Nat × Nat) × Nat) :=
  (rs.foldl (fun (acc : List ((Nat × Nat) × Nat)) r =>
    (r, stackEnd (stackOf r.1) - rangesIn (stackOf r.1) (acc.map (·.1)) - r.2) :: acc) []).reverse
/-- The staged blocks of 64 KiB in range order, by address and length. -/
def stagedBlocks (rs : List (Nat × Nat)) : List (Nat × Nat) :=
  (stagedAt rs).flatMap fun r => (List.range (ceilDiv r.1.2 65536)).map fun k => (r.2 + 65536 * k, min 65536 (r.1.2 - 65536 * k))
/-- Blocks that the pack reads poisoned from staging: they are marked lost in the image (R467, R483; DEDUCED, log 168). -/
def packLost (rs : List (Nat × Nat)) (s : State) : List Nat :=
  if s.poison = [] then []
  else ((List.range (stagedBlocks rs).length).zip (stagedBlocks rs)).filterMap fun b => if poisonIn b.2.1 b.2.2 s then some b.1 else none
/-- The pack reads the staged blocks (R97). -/
def packReads (rs : List (Nat × Nat)) (s : State) : State :=
  if s.poison = [] then s else (stagedBlocks rs).foldl (fun s b => readBad b.1 b.2 s) s
/-- CAPTURE_DONE: rows 3 and 4 of R480 end, `us` µs after row 1. -/
def captureDone (us : Nat) (s : State) : State :=
  match s.ckpt with
  | none => s
  | some c =>
    if c.phase ≠ 2 then s
    else
      let data := c.ranges.map fun r => memRead s r.1 r.2
      let s := (stagedAt c.ranges).foldl (fun s r => copyMem r.1.1 r.2 r.1.2 s) s
      let s := ckptPhase 3 { c with data := data, heldW := [] } (makeHeld c s)
      let s := if c.capFence = 0xFFFF then s else signalFence c.capFence 1 1 s
      ckptEvent 1 sOk c (wr REL_CKPT_TIMES.CAPTURE_US (min us (2 ^ 32 - 1)) s)
def execCaptureDone (us : Nat) (s : State) : Host.Outcome State Fault Refusal := whenServing s (captureDone us)

/-- The checkpoint area's free chunks (R101). -/
def ckptFree (s : State) : List Nat :=
  ((List.range (s.ckptGib * 0x4000)).map (· + 0x1_0000 + s.modelCopyGib * 0x4000)).filter fun k => (sget s.chunkMap k).isNone
def ckptRoom (n : Nat) (s : State) : Bool := decide (s.ckptImages.length < 16) && decide (n ≤ (ckptFree s).length) && deepRoom n s
/-- An image is the newest durable one of its saving module and CHECKPOINT_ID. -/
def newestOf (m : CkptImage) (l : List CkptImage) : Bool :=
  ((l.filter fun x => x.durable && x.module == m.module && x.id == m.id).getLast?) == some m
def freeImage (m : CkptImage) (s : State) : State := freeDeep m.chunks { s with ckptImages := s.ckptImages.filter (· != m) }
/-- Free images oldest first until there is room, keeping the newest durable one of each identifier. -/
def ckptMakeRoom (n : Nat) (s : State) : State :=
  s.ckptImages.foldl (fun s m => if ckptRoom n s ∨ newestOf m s.ckptImages then s else freeImage m s) s
/-- Take chunks of the checkpoint area. -/
def ckptTakeChunks (n : Nat) (s : State) : Option (List Nat × State) :=
  let s := ckptMakeRoom n s
  if ckptRoom n s then
    let ks := (ckptFree s).take n
    (takeChunks ks s).map fun s => (ks, showDeep s)
  else none
/-- An image takes its place, and the older one of its identifier is freed (row 6). -/
def ckptKeep (m : CkptImage) (s : State) : State :=
  let s := (s.ckptImages.filter fun x => x.module == m.module && x.id == m.id).foldl (fun s x => freeImage x s) s
  { s with ckptImages := s.ckptImages ++ [m] }

/-- PACK_DONE: rows 5 and 6 of R480 end, `ms` ms after row 1. -/
def packDone (ms : Nat) (s : State) : State :=
  match s.ckpt with
  | none => s
  | some c =>
    if c.phase ≠ 3 then s
    else match ckptTakeChunks (ckptChunks c.ranges.length (packedBytes c.data)) s with
    | none => ckptFail sCapacity (ckptMakeRoom (ckptChunks c.ranges.length (packedBytes c.data)) s)
    | some (ks, s) =>
      let m : CkptImage := { module := selfId s, id := c.id, tick := c.tick, jobKey := c.jobKey, ranges := c.ranges, data := c.data, chunks := ks, durable := true,
                             lost := packLost c.ranges s, nonce := Config.random s.fresh % 2 ^ 64,
                             key := ((sget s.net.pairs (c.jobKey % 128 * 4096 + c.mirror)).map (·.tx)).getD (Config.random (s.fresh + 1)) }
      let s := freeStaging c (packReads c.ranges (ckptKeep m { s with fresh := s.fresh + 2 }))
      let s := if c.durFence = 0xFFFF then s else signalFence c.durFence 1 1 s
      let s := ckptEvent 2 sOk c (bump REL_CKPT_DONE.COUNT 1 (wr REL_CKPT_TIMES.DURABLE_MS (min ms (2 ^ 32 - 1)) s))
      let s := ckptTell sOk (packedBytes c.data) c s
      if c.mirrorOn then
        let msgs : List Msg := (List.range ks.length).map fun k => { type := 0x10, dst := c.mirror, args := [k, c.id, c.tick], data := ckptChunk k m }
        ckptPhase 4 { c with staging := [], requester := none, eph := none } { s with fabOut := msgs.reverse ++ s.fabOut }
      else ckptIdle s
def execPackDone (ms : Nat) (s : State) : Host.Outcome State Fault Refusal := whenServing s (packDone ms)

/-- CKPT_MIRROR_DONE: row 7 of R480 ends. -/
def ckptMirrorDone (s : State) : State :=
  match s.ckpt with
  | none => s
  | some c => if c.phase ≠ 4 then s else ckptEvent 3 sOk c (ckptIdle s)
def execCkptMirrorDone (s : State) : Host.Outcome State Fault Refusal := whenServing s ckptMirrorDone

/-- An image of another module arrives at its mirror (R480 row 7): it takes its place where there is room. -/
def ckptTake (src id tick jobKey nonce total : Nat) (ranges : List (Nat × Nat)) (data : List (List Byte)) (s : State) : State :=
  match ckptTakeChunks total s with
  | none => s
  | some (ks, s) =>
    ckptKeep { module := src, id := id, tick := tick, jobKey := jobKey, ranges := ranges, data := data, chunks := ks, durable := true, nonce := nonce,
               key := ((sget s.net.pairs (jobKey % 128 * 4096 + src)).map (·.rx)).getD 0 } s

/-! ## RESTORE (R483) -/

/-- The image a RESTORE reads here: the newest durable one that this module saved. -/
def ckptImageOf (c : Ckpt) (s : State) : Option CkptImage :=
  (s.ckptImages.filter fun m => m.durable && m.module == selfId s && m.id == c.id).getLast?
/-- The blocks of the ranges in order, with their addresses. -/
def blockPlaces (ranges : List (Nat × Nat)) (data : List (List Byte)) : List (Nat × List Byte) :=
  (ranges.zip data).flatMap fun r =>
    let bs := pieces 65536 (ceilDiv r.2.length 65536) r.2
    ((List.range bs.length).zip bs).map fun k => (r.1.1 + 65536 * k.1, k.2)
/-- A block whose chunk tag or digest fails is an uncorrectable read of its chunk (R105). -/
def badBlocks (bad : List Nat) (c : Ckpt) (s : State) : State :=
  match ckptImageOf c s with
  | some m => bad.foldl (fun s b => match ((recordOffs m)[b]?).bind fun o => m.chunks[o / 65520]? with
    | some k => deepUe (chunkChan k s) s
    | none => s) s
  | none => s
/-- RESTORE_DONE. `bad` are the blocks that fail a chunk tag or their digest; `far` is the region table and the data that
MIRROR_MODULE gives, where it holds the image. -/
def restoreDone (bad : List Nat) (far : Option (List (Nat × Nat) × List (List Byte))) (s : State) : State :=
  match s.ckpt with
  | none => s
  | some c =>
    if c.phase ≠ 5 then s
    else
      let im := if c.remote then far.map fun f => (f.1, f.2, ([] : List Nat)) else (ckptImageOf c s).map fun m => (m.ranges, m.data, m.lost)
      match im with
      | none => ckptTell sRejected 0 c (ckptEvent 4 sRejected c (ckptIdle s))
      | some (table, data, lost) =>
        if table ≠ c.ranges then ckptTell sRejected 0 c (ckptEvent 4 sRejected c (ckptIdle s))
        else
          let bs := blockPlaces table data
          let ks := (List.range bs.length).zip bs
          let good := ks.filter fun k => !(bad.contains k.1 || lost.contains k.1)
          let s := good.foldl (fun s k => memWrite k.2.1 k.2.2 s) (if c.remote then s else badBlocks bad c s)
          let n := ks.length - good.length
          let st := if n = 0 then sOk else sPartial
          let s := bump REL_CKPT_DONE.COUNT 1 (bump REL_CKPT_BLOCKS_LOST.COUNT n s)
          ckptTell st ((good.map fun k => k.2.2.length).sum) c (ckptEvent 4 st c (ckptIdle s))
def execRestoreDone (bad : List Nat) (far : Option (List (Nat × Nat) × List (List Byte))) (s : State) : Host.Outcome State Fault Refusal :=
  whenServing s (restoreDone bad far)

end Sys2Proof.Machine
end

