-- ==== Sys2Proof/Machine/HostIf.lean ====
section
/-!
DEFINITION. Sys2Proof/Machine/HostIf.lean: queue pairs, doorbells, the intake, output rings, the event queue, interrupts, the host
link and BAR4 (R398 to R417, R433 to R437).
-/
namespace Sys2Proof.Machine

/-! ## Doorbells (R406) -/

def sqSize (fn qp : Nat) (s : State) : Nat := 2 ^ rd (HIF_QP_SQ.LOG2 fn qp) s
def cqSize (fn qp : Nat) (s : State) : Nat := 2 ^ rd (HIF_QP_CQ.LOG2 fn qp) s
def outSize (fn qp : Nat) (s : State) : Nat := 2 ^ rd (HIF_QP_OUT.LOG2 fn qp) s

/-- SQ_TAIL: a new tail index; on a queue pair that does not run, what it announces is lost (R433). -/
def sqTail (fn qp idx : Nat) (s : State) : State :=
  if qpState fn qp s != 1 then s
  else if sqSize fn qp s ≤ idx then qpError fn qp 1 s
  else putQp fn qp { qpOf fn qp s with sqTail := idx } s
def execSqTail (fn qp idx : Nat) (s : State) : Host.Outcome State Fault Refusal := whenLive s (tlpIn (sqTail fn qp idx))

/-- CQ_HEAD: the next completion entry the host will read. -/
def cqHead (fn qp idx : Nat) (s : State) : State :=
  if qpState fn qp s != 1 && qpState fn qp s != 2 then s
  else if cqSize fn qp s ≤ idx then qpError fn qp 1 s
  else putQp fn qp { qpOf fn qp s with cqHead := idx } s
def execCqHead (fn qp idx : Nat) (s : State) : Host.Outcome State Fault Refusal := whenLive s (tlpIn (cqHead fn qp idx))

/-- Move events that waited for space into a ring, oldest first (R408); `n` bounds them. -/
def flushEvents (fn qp : Nat) : Nat → State → State
  | 0, s => s
  | n + 1, s =>
    let q := qpOf fn qp s
    match q.evs with
    | [] => s
    | r :: rest =>
      if recSize r ≤ ringFree fn qp s then
        flushEvents fn qp n (wr (HIF_QP_OUT_STATUS.PENDING_EVENTS fn qp) rest.length
          (putQp fn qp { q with recs := q.recs ++ [r], evs := rest } s))
      else s

/-- OUT_CI: the host's free-running count of consumed bytes; one further from the producer count than the ring is long lies
ahead of it. -/
def outCi (fn qp n : Nat) (s : State) : State :=
  if qpState fn qp s != 1 && qpState fn qp s != 2 then s
  else
    let ci := n % 2 ^ 32
    if outSize fn qp s < (rd (HIF_QP_OUT_STATUS.PI fn qp) s + 2 ^ 32 - ci) % 2 ^ 32 then qpError fn qp 1 s
    else flushEvents fn qp 256 (putQp fn qp { qpOf fn qp s with outCi := ci } s)
def execOutCi (fn qp n : Nat) (s : State) : Host.Outcome State Fault Refusal := whenLive s (tlpIn (outCi fn qp n))

/-! ## The intake (R407, R411, R412, R415) -/

/-- Operand bytes a command defines, as offset and size (R419 to R425); `none`: no such command. -/
def opBytes (op : Nat) : Option (List (Nat × Nat)) :=
  if op = 0x01 then some [(0x10, 6), (0x18, 24)]
  else if op = 0x02 ∨ op = 0x05 ∨ op = 0x07 ∨ op = 0x0A then some []
  else if op = 0x03 ∨ op = 0x04 then some [(0x10, 12)]
  else if op = 0x06 then some [(0x10, 16)]
  else if op = 0x08 then some [(0x10, 4)]
  else if op = 0x09 then some [(0x10, 6), (0x18, 2), (0x1C, 4)]
  else if op = 0x0B then some [(0x10, 0x29)]
  else if op = 0x0C then some [(0x10, 2)]
  else if op = 0x0D then some [(0x10, 17)]
  else if op = 0x10 then some [(0x10, 20)]
  else if op = 0x11 ∨ op = 0x12 then some [(0x10, 1), (0x14, 12)]
  else if op = 0x18 then some [(0x10, 36)]
  else if op = 0x19 then some [(0x10, 1), (0x14, 12)]
  else if op = 0x20 then some [(0x10, 3), (0x18, 8)]
  else if op = 0x21 then some [(0x10, 2), (0x18, 16)]
  else if op = 0x30 then some [(0x10, 3), (0x14, 42)]
  else if op = 0x31 then some [(0x10, 1), (0x14, 8), (0x20, 8)]
  else if op = 0x40 then some [(0x10, 1), (0x14, 12)]
  else if op = 0x41 then some [(0x10, 8)]
  else if op = 0x7F then some [(0x10, 1)]
  else none

/-- A code in an entry that its command's table does not define (R415, check 2). -/
def badCode (fn op : Nat) (e : List Byte) : Bool :=
  if op = 0x01 then decide (11 < field e 0x13 1) || decide (0xFFF < field e 0x14 2)
  else if op = 0x08 then demoteBad (field e 0x11 1) (field e 0x12 2) || !(field e 0x10 1 == 1 || field e 0x10 1 == 2)
  else if op = 0x09 then
    let t := field e 0x10 1
    decide (4 < t) || (t == 4 && fn != 0) || decide (0xFFF < field e 0x14 2) ||
      ((t == 1 || t == 2) && demoteBad (field e 0x11 1) (field e 0x12 2)) ||
      (t != 1 && t != 2 && (field e 0x11 3 != 0)) || (t != 3 && t != 4 && field e 0x14 2 != 0) ||
      (t != 4 && (field e 0x18 2 != 0 || field e 0x1C 4 != 0)) || (t == 4 && field e 8 8 != 0)
  else if op = 0x0B then decide (3 < field e 0x38 1)
  else if op = 0x0D then decide (2 < field e 0x20 1)
  else if op = 0x18 then decide (1 < field e 0x11 1)
  else if op = 0x20 then decide (1 < field e 0x12 1)
  else if op = 0x30 then !(field e 0x12 1 == 1 || field e 0x12 1 == 2)
  else false

/-- A reserved or undefined byte of an entry is nonzero. -/
def strayByte (e : List Byte) (defd : List (Nat × Nat)) : Bool :=
  decide (7 < field e 1 1) || (!bitOf (field e 1 1) 1 && field e 4 2 != 0) || field e 6 2 != 0 ||
    (List.range 48).any fun k =>
      let o := k + 0x10
      !(defd.any fun d => decide (d.1 ≤ o) && decide (o < d.1 + d.2)) && field e o 1 != 0

/-- The common part of an entry's 64 bytes. -/
def hdrOf (fn qp : Nat) (e : List Byte) : Hdr :=
  { fn := fn, qp := qp, cmdId := field e 2 2, barrier := bitOf (field e 1 1) 0, fenceDone := bitOf (field e 1 1) 1,
    bondedBuf := bitOf (field e 1 1) 2, cplFault := false, fence := field e 4 2, handle := field e 8 8 }

/-- Completion slots taken: entries the host has not read, and those reserved for started commands (R407). -/
def cqTaken (fn qp : Nat) (s : State) : Nat :=
  let n := cqSize fn qp s
  (rd (HIF_QP_STATUS.CQ_TAIL fn qp) s + n - (qpOf fn qp s).cqHead) % n +
    (s.started.filter fun x => x.h.fn == fn && x.h.qp == qp).length

/-- The intake may fetch the next entry of a queue pair (R398, R407, R411). -/
def mayFetch (fn qp op : Nat) (s : State) : Bool :=
  serving s && isSet HIF_LINK.SUPPORTED s && qpState fn qp s == 1 && rd (HIF_QP_STATUS.SQ_HEAD fn qp) s != (qpOf fn qp s).sqTail &&
    (op == 0x7F || (decide (cqTaken fn qp s + 1 < cqSize fn qp s) &&
      decide ((s.started.filter (·.h.fn == fn)).length < 1024)))

/-- Queue pairs whose next entry may be fetched now. -/
def waitingQps (s : State) : List Nat := (s.queues.map (·.1)).filter fun k => mayFetch (k / 64) (k % 64) 0 s
/-- How far a queue pair stands behind the one of its class fetched from last, in the round of all of them. -/
def roundOf (cls k : Nat) (s : State) : Nat := (k + 16383 - sgetD s.fetchLast cls 16383) % 16384
/-- It is a queue pair's turn (R12, R411): no class above its own waits, and in the round-robin of its class it is next. An ABORT_FUNCTION is fetched
whatever the class of its queue. -/
def fetchTurn (fn qp op : Nat) (s : State) : Bool :=
  let c := rd (HIF_QP_CTRL.CLASS fn qp) s
  op == 0x7F || (waitingQps s).all fun k =>
    let d := rd (HIF_QP_CTRL.CLASS (k / 64) (k % 64)) s
    decide (c < d) || (c == d && decide (roundOf c (qpKey fn qp) s ≤ roundOf c k s))

/-- SQ_ENTRY_FETCH: fetch one entry, reserve its completion slot, and complete it at once where checks 1 to 3 of R415 fail.
A failed fetch puts the queue pair in ERROR (R435, cause 2), a discarded one too (R512). Out of its turn nothing is fetched. -/
def sqEntryFetch (fn qp : Nat) (entry : Option (List Byte)) (s : State) : State :=
  match (if ideShut s then none else entry) with
  | none =>
    if mayFetch fn qp 0 s && fetchTurn fn qp 0 s then qpError fn qp 2 (if ideShut s then bump SEC_IDE_BLOCKED.COUNT 1 s else s) else s
  | some e =>
    let op := field e 0 1
    if mayFetch fn qp op s && fetchTurn fn qp op s then
      let s := { s with fetchLast := sset s.fetchLast (rd (HIF_QP_CTRL.CLASS fn qp) s) (qpKey fn qp) }
      let s := wr (HIF_QP_STATUS.SQ_HEAD fn qp) ((rd (HIF_QP_STATUS.SQ_HEAD fn qp) s + 1) % sqSize fn qp s) s
      let h := hdrOf fn qp e
      let s := { s with started := s.started ++ [{ h := h, opcode := op }] }
      match opBytes op with
      | none => refuse h op sRejected s
      | some d =>
        let blk := op == 0x09 && field e 0x10 1 == 4
        if strayByte e d || badCode fn op e || (pfOnly op && fn != 0) || (h.bondedBuf && fn != 0) ||
            (!namesSession op && h.handle != 0 && !blk) || (h.fenceDone && !mayFence fn h.fence s) then
          refuse h op sRejected s
        else s
    else s
def execSqEntryFetch (fn qp : Nat) (entry : Option (List Byte)) (s : State) : Host.Outcome State Fault Refusal :=
  whenServing s (sqEntryFetch fn qp entry)

/-! ## Queue pairs (R405, R433, R435) -/

/-- A queue pair's configuration may be enabled (R405). -/
def qpValid (fn qp : Nat) (s : State) : Bool :=
  let a := rd (HIF_QP_SQ.LOG2 fn qp) s
  let b := rd (HIF_QP_CQ.LOG2 fn qp) s
  let c := rd (HIF_QP_OUT.LOG2 fn qp) s
  decide (4 ≤ a) && decide (a ≤ 16) && decide (4 ≤ b) && decide (b ≤ 16) && decide (16 ≤ c) && decide (c ≤ 26) &&
    (fn == 0 || rdBit (HIF_FN_CFG.CLASS_MASK fn) (rd (HIF_QP_CTRL.CLASS fn qp) s) s) && rd (HIF_FN_STATUS.STATE fn) s == 1

/-- A write of ENABLE (R405): set, it checks the configuration and starts the rings at 0; clear, it stops the queue pair. -/
def qpEnable (fn qp : Nat) (on : Bool) (s : State) : State :=
  if on then
    if qpState fn qp s = 1 then s
    else if qpValid fn qp s then
      let s := putQp fn qp { qpOf fn qp s with sqTail := 0, cqHead := 0, outCi := 0, phase := true } s
      let s := wr (HIF_QP_STATUS.CQ_TAIL fn qp) 0 (wr (HIF_QP_STATUS.SQ_HEAD fn qp) 0 s)
      let s := wr (HIF_QP_OUT_STATUS.PI fn qp) 0 (wr (HIF_QP_CTRL.ENABLE fn qp) 1 s)
      flushEvents fn qp 256 (wr (HIF_QP_STATUS.CAUSE fn qp) 0 (wr (HIF_QP_STATUS.STATE fn qp) 1 s))
    else qpError fn qp 4 (wr (HIF_QP_CTRL.ENABLE fn qp) 0 s)
  else wr (HIF_QP_STATUS.STATE fn qp) 0 (wr (HIF_QP_CTRL.ENABLE fn qp) 0 s)
def execQpEnable (fn qp : Nat) (on : Bool) (s : State) : Host.Outcome State Fault Refusal := whenServing s (tlpIn (qpEnable fn qp on))

/-! ## Output rings and the event queue (R408, R409) -/

/-- Write the records that fit from the front of a queue; `n` bounds them. The number of records written goes with the state. -/
def writeRecs (fn qp : Nat) : Nat → State → Nat × State
  | 0, s => (0, s)
  | n + 1, s =>
    let q := qpOf fn qp s
    match q.recs with
    | [] => (0, s)
    | r :: rest =>
      let p := rd (HIF_QP_OUT_STATUS.PI fn qp) s
      if (p + 2 ^ 32 - q.outCi) % 2 ^ 32 + recSize r ≤ outSize fn qp s then
        let s := wr (HIF_QP_OUT_STATUS.PI fn qp) ((p + recSize r) % 2 ^ 32)
          (putQp fn qp { q with recs := rest }
            { s with recOut := (fn, qp, r) :: s.recOut })
        let (k, s) := writeRecs fn qp n s
        (k + 1, s)
      else (0, s)

/-- OUTPUT_RECORD_WRITE: a run of records, then the producer count (R408); a failed host write is cause 3 of R435. -/
def outputRecordWrite (fn qp : Nat) (ok : Bool) (s : State) : State :=
  if qpState fn qp s != 1 && qpState fn qp s != 2 then s
  else if (qpOf fn qp s).recs = [] then s
  else if ideShut s then ideFault fn qp s
  else if !ok then qpError fn qp 3 s
  else
    let (k, s) := writeRecs fn qp (qpOf fn qp s).recs.length s
    flushEvents fn qp 256 (coalesce fn qp k s)
def execOutputRecordWrite (fn qp : Nat) (ok : Bool) (s : State) : Host.Outcome State Fault Refusal :=
  whenServing s (outputRecordWrite fn qp ok)

/-- Write held events into the PF's event queue while it has room; `n` bounds them. -/
def drainEvq : Nat → State → State
  | 0, s => s
  | n + 1, s =>
    match s.evHeld with
    | [] => s
    | e :: rest => if evqRoom s then drainEvq n (evqWrite e { s with evHeld := rest }) else s

/-- EVENT_QUEUE_WRITE (R409). -/
def execEventQueueWrite (s : State) : Host.Outcome State Fault Refusal := whenServing s fun s => drainEvq s.evHeld.length s

/-- EVQ_CI: the consumed byte count of the PF's event queue (R409). -/
def execEvqCi (n : Nat) (s : State) : Host.Outcome State Fault Refusal := whenLive s (tlpIn fun s => { s with evqCi := n % 2 ^ 32 })

/-- A write of HIF_EVQ_BASE; setting ENABLE starts the ring at 0 (R405, R409). -/
def evqBase (on : Bool) (s : State) : State :=
  let s := if on && !isSet HIF_EVQ_BASE.ENABLE s then { s with evqPi := 0, evqCi := 0 } else s
  wr HIF_EVQ_BASE.ENABLE (b2n on) s

/-! ## Interrupts (R410) -/

/-- MSIX_COALESCE_TIMEOUT: COAL_US after the first entry not yet covered the vector fires. -/
def msixTimeout (fn vec : Nat) (s : State) : State :=
  let en := if vec = 64 then rd HIF_EVQ_CFG.INT_EN s else rd (HIF_QP_CTRL.INT_EN fn vec) s
  if sgetD s.coal (fn * 128 + vec) 0 ≠ 0 ∧ en = 1 then
    { s with coal := sset s.coal (fn * 128 + vec) 0, msix := (fn, vec) :: s.msix }
  else s
def execMsixCoalesceTimeout (fn vec : Nat) (s : State) : Host.Outcome State Fault Refusal := whenServing s (msixTimeout fn vec)

/-! ## The host link (R397, R398) -/

/-- Capacity of the host link in MB/s each direction. -/
def linkMbps (rate width : Nat) : Nat :=
  (if rate = 6 then 128000 else if rate = 5 then 64000 else if rate = 4 then 32000 else 0) * width / 16
def linkSupported (rate width : Nat) : Bool := (rate == 4 || rate == 5 || rate == 6) && (width == 4 || width == 8 || width == 16)
/-- HIF_LINK as it reads. -/
def hifLink (s : State) : Nat :=
  rd HIF_LINK.RATE s + rd HIF_LINK.WIDTH s * 2 ^ 4 + rd HIF_LINK.FLIT s * 2 ^ 10 + rd HIF_LINK.SUPPORTED s * 2 ^ 11 +
    rd HIF_LINK.CHANGES s * 2 ^ 32

/-- What a function reports of itself (R399). -/
structure PciIdent where
  vendor : Nat
  device : Nat
  classCode : Nat
  subVendor : Nat
  subDevice : Nat
deriving DecidableEq, Repr
/-- The identifiers of a function, once the identity record has been read at start-up. -/
def pciIdent (fn : Nat) (s : State) : Option PciIdent :=
  if isSet SEC_ID_STATUS.RECORD_OK s then
    some { vendor := Config.vendorId % 2 ^ 16, device := if fn = 0 then 0x1728 else 0x1729, classCode := 0x12_0000,
           subVendor := Config.subVendorId % 2 ^ 16, subDevice := Config.subDeviceId % 2 ^ 16 }
  else none

/-- PCIE_LINK_CHANGE: the trained rate and width; ports 0 and 1 follow, and a change of either posts event 0x0013. -/
def linkChange (rate width : Nat) (flit : Bool) (s : State) : State :=
  let changed := rd HIF_LINK.RATE s ≠ rate % 16 ∨ rd HIF_LINK.WIDTH s ≠ width % 64
  let sup := linkSupported rate width
  let s := wr HIF_LINK.RATE rate (wr HIF_LINK.WIDTH width (wr HIF_LINK.FLIT (b2n flit) (wr HIF_LINK.SUPPORTED (b2n sup) s)))
  let cap := if sup then linkMbps rate width else 0
  let s := wr (TM_PORT.RATE_MBPS 0) cap (wr (TM_PORT.RATE_MBPS 1) cap s)
  let s := wr (TM_PORT.UP 0) (b2n sup) (wr (TM_PORT.UP 1) (b2n sup) s)
  if changed then
    let s := bump HIF_LINK.CHANGES 1 s
    postPf 0x0013 0x13 sOk (rate % 16 * 256 + width % 64) (hifLink s) s
  else s
def execPcieLinkChange (rate width : Nat) (flit : Bool) (s : State) : Host.Outcome State Fault Refusal :=
  whenLive s (linkChange rate width flit)

/-! ## BAR4 (R21, R32, R402) -/

/-- The protected area of channel 0 that a bonded address lies in, by the codes of R32; 0 for none. -/
def bar4Area (a : Nat) : Nat :=
  let o := stackOff a
  if o < 0x600_0000 then 1 else if o < 0x700_0000 then 4 else if o < 0x800_0000 then 2 else if o < 0xE00_0000 then 3 else 0

/-- The runs of a write that lie outside the protected areas. -/
def bar4Runs : Nat → List Byte → List (Nat × List Byte)
  | _, [] => []
  | a, b :: r =>
    let rest := bar4Runs (a + 1) r
    if bar4Area a ≠ 0 then rest
    else match rest with
      | (x, bs) :: more => if x = a + 1 then (a, b :: bs) :: more else (a, [b]) :: (x, bs) :: more
      | [] => [(a, [b])]
/-- BAR4_WRITE: through the window into the bonded tier; what of a write falls into a protected area is discarded, and the write counted once, with the
last such area; what reaches above 1,728 GiB is discarded. -/
def bar4Write (off : Nat) (data : List Byte) (s : State) : State :=
  let a := rd HIF_BAR4_WINDOW.ADDR s * 2 ^ 30 + off
  let data := data.take (bondedEnd - a)
  if s.bar4Gib * 2 ^ 30 < off + data.length ∨ data = [] then s
  else match ((List.range data.length).filter fun k => bar4Area (a + k) != 0).getLast? with
    | none => engWrite a data s
    | some k => bump HUB_BAR4_DISCARD.COUNT 1 (wr HUB_BAR4_DISCARD.LAST_REGION (bar4Area (a + k))
        ((bar4Runs a data).foldl (fun s r => engWrite r.1 r.2 s) s))
def execBar4Write (off : Nat) (data : List Byte) (s : State) : Host.Outcome State Fault Refusal := whenLive s (tlpIn (bar4Write off data))

end Sys2Proof.Machine
end

