-- ==== Sys2Proof/Machine/Bank.lean ====
section
/-!
DEFINITION. Sys2Proof/Machine/Bank.lean: channel modes, bank operations, temperature bands, and retraining of deep-tier channels as far
as it needs no retirement (R103, R104, R110 to R122, R125).
-/
namespace Sys2Proof.Machine

/-! ## Queues and modes (R110 to R113) -/

def modHead (g : Nat) (f : BankOp → BankOp) (s : State) : State :=
  match bankOps g s with
  | [] => s
  | o :: r => setBankOps g (f o :: r) s
/-- The other channel of a COPY across channels. -/
def copyOther (g : Nat) (o : BankOp) : Option Nat := if o.op = 1 ∧ gchan o.dst ≠ g then some (gchan o.dst) else none
def bandOf (st : Nat) (s : State) : Nat := rd (MEM_TEMP.BAND (st / 6) (st % 6)) s

/-! ## The spare region (R95, R118) -/

/-- First byte of place `p` of a stack's spare region, and how many places it has. -/
def placeBase (st p : Nat) (s : State) : Nat := spareStart st s + p * chanBytes
def placesOf (st : Nat) (s : State) : Nat := spareGib st s * 4 / 9
/-- Staging of a checkpoint overlaps a run. -/
def stagedIn (a n : Nat) (s : State) : Bool :=
  s.ckpt.any fun c => c.staging.any fun x => decide (x.addr < a + n) && decide (a < x.addr + x.bytes)
/-- A remap of a stack overlaps a run of its spare region. -/
def remapIn (st a n : Nat) (s : State) : Bool :=
  s.remaps.any fun r => r.1 / 32 == st && decide (placeBase st r.2 s < a + n) && decide (a < placeBase st r.2 s + chanBytes)
/-- A channel holds no remapped range and no staged checkpoint (R95). -/
def testClear (g : Nat) (s : State) : Bool := !remapIn (g / 32) (gchanBase g) chanBytes s && !stagedIn (gchanBase g) chanBytes s

/-! ## Holds (R111) -/

/-- Channels a transit's session holds or fills. -/
def transitChans (s : State) : List Nat :=
  (s.transits.filter fun t => t.slot.isSome && t.cls == 0).flatMap fun t =>
    let x := sessOf t.idx s
    sessChans t.idx s ++ x.allocs.map (·.chan)
/-- A channel is held in MEMORY mode (R111, R210): pages or tables of a class-0 transit, the page table of a class-0 resume that is not batch-ready, or
a session of a running step. The hold after a return is a time in µs, over when this command comes. -/
def chanHeld (g : Nat) (s : State) : Bool :=
  (transitChans s).contains g || (s.c0Wait.any fun w => (tabChans w.idx s).contains g) || (s.parts.any fun p => (stepChans p.1 s).contains g)

/-- A COPY across channels other than this one is under way on the stack (R115). -/
def copyBusy (st g : Nat) (s : State) : Bool :=
  s.bankQ.any fun p => p.1 / 32 == st && p.1 != g && ((p.2.head?.map fun o => o.acq && (copyOther p.1 o).isSome).getD false)
/-- A COPY at the head of another channel of the stack is to be given this one next (R115). -/
def copyWants (g : Nat) (s : State) : Option Nat :=
  (s.bankQ.find? fun p => match p.2.head? with
    | some o => copyOther p.1 o == some g && (decide (g < p.1) || chProcessor p.1 s) && !copyBusy (g / 32) p.1 s
    | none => false).map (·.1)
/-- This channel's own head may take it: a COPY across channels takes the lower one first. -/
def headWants (g : Nat) (s : State) : Bool :=
  match bankHead g s with
  | none => false
  | some o => match copyOther g o with
    | none => true
    | some d => !copyBusy (g / 32) g s && (decide (g < d) || chProcessor d s)

/-- CHANNEL_TO_PROCESSOR (R111): a channel with work and not held goes to its bank units. -/
def toProcessor (g : Nat) (s : State) : State :=
  if 768 ≤ g ∨ g % 32 = 0 ∨ chProcessor g s ∨ chanHeld g s ∨ bandOf (g / 32) s = 3 ∨ ¬ stackOnline (g / 32) s ∨
      ¬ (headWants g s || (copyWants g s).isSome) then s
  else
    let s := if headWants g s then modHead g (fun o => { o with acq := true }) s
      else match copyWants g s with
      | some f => modHead f (fun o => { o with acq := true }) s
      | none => s
    let s := bump (MEM_MODE_COUNTS.ENTRIES (g / 192)) 1 (setProcessor g true s)
    trace { tick := 0, event := 0x0501, src := 0x06, arg := g } s
def execChannelToProcessor (chan : Nat) (s : State) : Host.Outcome State Fault Refusal := whenServing s (toProcessor chan)

/-- CHANNEL_WAIT_TIMEOUT (R112): a request has waited WAIT_US. -/
def execChannelWaitTimeout (chan : Nat) (s : State) : Host.Outcome State Fault Refusal := whenServing s (askReturn [chan])

/-- The class-0 resumes whose page tables lie in MEMORY mode again are batch-ready (R53, R56). -/
def settleResumes (s : State) : State :=
  if s.c0Wait = [] then s
  else (s.c0Wait.filter fun w => (tableAway w.idx s).isEmpty).foldl (fun s w => releaseHeld w.idx (resumeDone w s))
    { s with c0Wait := s.c0Wait.filter fun w => !(tableAway w.idx s).isEmpty }
/-- A channel is back in MEMORY mode: the controller serves what waited for it (R110, R112). -/
def toMemory (g : Nat) (s : State) : State := settleResumes (serveWaits (setProcessor g false { s with returnReq := s.returnReq.filter (· != g) }))

/-- The result header of a scan (R117); a suspended one's is PARTIAL. -/
def scanHeader (o : BankOp) (status tick : Nat) : List Byte :=
  leBytes 4 o.matched ++ leBytes 4 o.written ++ leBytes 4 o.scanned ++ leBytes 1 status ++
    leBytes 1 (b2n (decide (o.written < o.matched)) + 2 * b2n o.throttled + 4 * b2n o.suspended) ++ leBytes 2 0 ++ leBytes 4 o.tag ++
    leBytes 4 0 ++ leBytes 8 tick
/-- The header of a scan goes to DST. -/
def putHeader (o : BankOp) (status : Nat) (s : State) : State :=
  if o.op = 3 ∨ o.op = 4 then unitWrite o.dst (scanHeader o status (now s)) s else s

/-- CHANNEL_RETURN (R113): the slice has ended `us` µs after the request, the header of what has been done is written, the operation is suspended, the
channel returns. -/
def channelReturn (g us : Nat) (s : State) : State :=
  if !s.returnReq.contains g then s
  else
    let s := { s with returnReq := s.returnReq.filter (· != g) }
    if !chProcessor g s then s
    else
      let s := match bankHead g s with
        | some o =>
          let o := { o with suspended := true, acq := false }
          bump (BNK_COUNTS.SUSPENDS (g / 32)) 1 (modHead g (fun _ => o) (putHeader o sPartial s))
        | none => s
      let s := raise (MEM_MODE_COUNTS.MAX_RETURN_US (g / 192)) us (bump (MEM_MODE_COUNTS.RETURNS (g / 192)) 1 (toMemory g s))
      trace { tick := 0, event := 0x0502, src := 0x06, arg := g + min us (2 ^ 32 - 1) * 65536 } s
def execChannelReturn (chan us : Nat) (s : State) : Host.Outcome State Fault Refusal := whenServing s (channelReturn chan us)

/-! ## Issue (R114 to R118, R125) -/

def bankOpOf (b : List Byte) : BankOp :=
  { op := field b 0 1, tag := field b 4 4, src := field b 8 8, dst := field b 16 8, len := field b 24 4, stride := field b 28 2,
    a := field b 32 8, b := field b 40 8 }
/-- Reserved fields of a descriptor. -/
def bankRest (b : List Byte) : Bool := field b 1 3 == 0 && field b 30 2 == 0 && field b 48 16 == 0

/-- The channel an operation belongs to. -/
def opChan (o : BankOp) : Nat := gchan (if o.op = 2 then o.dst else o.src)
/-- A range lies in one channel of a stack. -/
def inChan (st a n : Nat) : Bool := decide (a < bondedEnd) && stackOf a == st && decide (a % 0x12_0000_0000 % 0x9000_0000 + n ≤ chanBytes)
/-- Entry size of a scan's results. -/
def scanEntry (op : Nat) : Nat := if op = 3 then 4 else 8
/-- Bytes an operation reads at SRC and writes at DST. -/
def srcLen (o : BankOp) : Nat := if o.op = 2 then 0 else o.len * 64
def dstLen (o : BankOp) : Nat :=
  if o.op = 1 ∨ o.op = 2 then o.len * 64 else if o.op = 3 ∨ o.op = 4 then 32 + scanEntry o.op * o.b else if o.op = 5 then o.stride else 0

/-- The scan parameter block at an address (R116). -/
def scanParOf (op a : Nat) (s : State) : ScanPar :=
  let b := memRead s a 64
  { mask := field b 0 8, mat := field b 8 8, lo0 := field b 16 4, hi0 := field b 20 4, lo1 := field b 24 4, hi1 := field b 28 4,
    m := field b 32 2, thresh := field b 36 4, lut := if op = 4 then memRead s (a + 64) 4096 else [],
    rest := field b 34 2 == 0 && field b 40 24 == 0 }
/-- The scan parameters of an operation: its own, or those at PARAM_A. -/
def scanPar (o : BankOp) (s : State) : ScanPar := o.par.getD (scanParOf o.op o.a s)

/-- Check 1 of R118. PARAM_A and PARAM_B of an operation that does not use them are not looked at; an element format that R115 does not name is REJECTED
(DESIGN CHOICE, log 129). -/
def bankCheck1 (st : Nat) (o : BankOp) (rest : Bool) : Bool :=
  decide (1 ≤ o.op) && decide (o.op ≤ 6) && rest && o.src % 64 == 0 && o.dst % 64 == 0 && ((o.op != 5) || decide (o.a ≤ 1)) &&
    (o.op == 2 || inChan st o.src (srcLen o)) && (o.op == 6 || inChan st o.dst (dstLen o)) &&
    ((o.op != 3 && o.op != 4 && o.op != 5) || gchan o.src == gchan o.dst) &&
    ((o.op != 3 && o.op != 4) || o.par.isSome || (o.a % 64 == 0 && inChan st o.a (if o.op = 4 then 4160 else 64))) &&
    (o.op != 1 || decide (o.dst + o.len * 64 ≤ o.src) || decide (o.src + o.len * 64 ≤ o.dst))
/-- Check 2: the channel's kind. A COPY to the other kind goes to the spare region. -/
def bankCheck2 (o : BankOp) (s : State) : Bool :=
  let g := opChan o
  g % 32 != 0 && !chRetired g s &&
    (if o.op = 1 then
      let d := gchan o.dst
      d % 32 != 0 && !chRetired d s && (chRaw g s == chRaw d s || decide (spareStart (d / 32) s ≤ o.dst))
    else if o.op = 3 ∨ o.op = 4 then chRaw g s && (o.par.isSome || chRaw (gchan o.a) s)
    else if o.op = 5 then chRaw g s else true)
/-- Check 4: MATCH, M and STRIDE, which is 0 for COPY, FILL and PATTERN_TEST. The reserved bytes of a scan parameter block count as reserved fields, its M and
THRESHOLD matter to CODE_DISTANCE only (DEDUCED, log 129). -/
def bankCheck4 (o : BankOp) (s : State) : Bool :=
  if o.op = 3 ∨ o.op = 4 ∨ o.op = 5 then
    let q := scanPar o s
    o.stride % 32 == 0 && decide (32 ≤ o.stride) && decide (o.stride ≤ 4096) &&
      (o.op == 5 || (q.mat &&& q.mask == q.mat && q.rest)) &&
      (o.op != 4 || (decide (1 ≤ q.m) && decide (q.m ≤ 256) && decide (q.m ≤ 2 * (o.stride - 16))))
  else o.stride == 0

/-- The status an operation meets when it is issued (R118). A test channel that holds a remap or staging is not tested (R95). -/
def bankCheck (st : Nat) (o : BankOp) (rest : Bool) (s : State) : Nat :=
  if !bankCheck1 st o rest || !bankCheck2 o s || (o.op == 2 && o.a != 0 && !chRaw (opChan o) s) || !bankCheck4 o s ||
      (o.op == 6 && !(chTest (opChan o) s && testClear (opChan o) s)) then sRejected
  else if 16 ≤ (bankOps (opChan o) s).length then sBusy else sOk

/-- Queue a checked operation on its channel. -/
def bankQueue (o : BankOp) (s : State) : State := setBankOps (opChan o) (bankOps (opChan o) s ++ [o]) s

/-- A write of BNK_PF_OP (R125). -/
def pfOp (st addr : Nat) (s : State) : State :=
  if 24 ≤ st then s
  else if isSet (BNK_PF_STATUS.BUSY st) s then bump (BNK_COUNTS.REJECTED st) 1 s
  else
    let a := addr / 64 * 64
    let b := memRead s a 64
    let o := bankOpOf b
    let c := if a + 64 ≤ bondedEnd ∧ stackOf a = st then bankCheck st o (bankRest b) s else sRejected
    let s := wr (BNK_PF_STATUS.TAG st) o.tag s
    if c = sOk then bankQueue o (wr (BNK_PF_STATUS.BUSY st) 1 s)
    else wr (BNK_PF_STATUS.STATUS st) c (bump (BNK_COUNTS.REJECTED st) 1 s)
def execBnkPfOp (stack addr : Nat) (s : State) : Host.Outcome State Fault Refusal := whenServing s (pfOp stack addr)

/-! ## What the operations do (R115 to R117) -/

/-- The operation a channel's bank units run now. -/
def bankRuns (g op : Nat) (s : State) : Option BankOp :=
  match bankHead g s with
  | none => none
  | some o =>
    let other := ((copyOther g o).map fun d => chProcessor d s).getD true
    if o.op = op ∧ o.ran = false ∧ chProcessor g s ∧ bandOf (g / 32) s ≠ 3 ∧ other then some o else none
/-- Units of 64 B in a slice: 16 MiB of source (R113). -/
def sliceUnits : Nat := 0x4_0000
/-- Where the slice of an operation that begins at its place ends. -/
def sliceEnd (o : BankOp) : Nat := min o.len (o.pos + sliceUnits)
/-- The operation at the head has done a slice, its last where it has reached LENGTH; its flags follow the band (R117). -/
def bankRan (g : Nat) (f : BankOp → BankOp) (s : State) : State :=
  modHead g (fun o => f { o with pos := sliceEnd o, ran := sliceEnd o == o.len, throttled := o.throttled || bandOf (g / 32) s == 2 }) s

/-- Write `n` bytes of a repeated 8-byte pattern. -/
def patFill (a n pat : Nat) (s : State) : State :=
  if pat = 0 ∧ ¬ capHeld a n s then memClear a n s else unitWrite a ((List.replicate (n / 8) (leBytes 8 pat)).flatten) s

/-- COPY: a slice of it. -/
def doCopy (g : Nat) (s : State) : State :=
  match bankRuns g 1 s with
  | none => s
  | some o =>
    let a := 64 * o.pos
    let n := 64 * (sliceEnd o - o.pos)
    let t := unitWrite (o.dst + a) (memRead s (o.src + a) n) s
    bankRan g id (if poisonIn (o.src + a) n s && !capHeld (o.dst + a) n s then copyBad (o.src + a) (o.dst + a) n t else t)
def execBankCopy (chan : Nat) (s : State) : Host.Outcome State Fault Refusal := whenServing s (doCopy chan)

/-- FILL: a slice of it. -/
def doFill (g : Nat) (s : State) : State :=
  match bankRuns g 2 s with
  | none => s
  | some o => bankRan g id (patFill (o.dst + 64 * o.pos) (64 * (sliceEnd o - o.pos)) o.a s)
def execBankFill (chan : Nat) (s : State) : Host.Outcome State Fault Refusal := whenServing s (doFill chan)

/-- A record passes the filter of R116. -/
def scanPass (q : ScanPar) (r : List Byte) : Bool :=
  let v := field r 8 4
  let w := field r 12 4
  (field r 0 8 &&& q.mask) == q.mat && decide (q.lo0 ≤ v) && decide (v ≤ q.hi0) && decide (q.lo1 ≤ w) && decide (w ≤ q.hi1)
/-- The 4-bit code `m` of a record. -/
def codeOf (r : List Byte) (m : Nat) : Nat := field r (16 + m / 2) 1 / (if m % 2 = 0 then 1 else 16) % 16
/-- The distance of a record: Σ LUT[m][code m], as 32 bits. -/
def codeDistance (q : ScanPar) (r : List Byte) : Nat := ((List.range q.m).map fun m => field q.lut (16 * m + codeOf r m) 1).sum % 2 ^ 32
/-- Records that begin in the slice of an operation: the first, and how many. -/
def sliceRecs (o : BankOp) : Nat × Nat :=
  let k := ceilDiv (64 * o.pos) o.stride
  (k, min (o.len * 64 / o.stride) (ceilDiv (64 * sliceEnd o) o.stride) - k)
/-- Entries of a scan's slice: index and distance of each passing record. -/
def scanHits (o : BankOp) (q : ScanPar) (s : State) : List (Nat × Nat) :=
  (List.range (sliceRecs o).2).filterMap fun j =>
    let k := (sliceRecs o).1 + j
    let r := memRead s (o.src + k * o.stride) o.stride
    if !scanPass q r then none
    else if o.op = 3 then some (k, 0)
    else
      let d := codeDistance q r
      if d ≤ q.thresh then some (k, d) else none
/-- The bytes of scan entries (R117). -/
def entriesOf (op : Nat) (es : List (Nat × Nat)) : List Byte := (es.map fun e => leBytes 4 e.1 ++ (if op = 3 then [] else leBytes 4 e.2)).flatten
/-- Run a slice of a scan: its entries follow those of the slices before, up to the capacity; the header follows when the operation ends or is suspended. -/
def runScan (g op : Nat) (s : State) : State :=
  match bankRuns g op s with
  | none => s
  | some o =>
    let hits := scanHits o (scanPar o s) s
    let out := hits.take (o.b - o.written)
    bankRan g (fun x => { x with matched := o.matched + hits.length, written := o.written + out.length, scanned := o.scanned + (sliceRecs o).2,
                                 hits := if o.issuer = 1 then o.hits ++ out else [] })
      (unitWrite (o.dst + 32 + scanEntry op * o.written) (entriesOf op out) s)
/-- MASKED_SCAN. -/
def execMaskedScan (chan : Nat) (s : State) : Host.Outcome State Fault Refusal := whenServing s (runScan chan 3)
/-- CODE_DISTANCE. -/
def execCodeDistance (chan : Nat) (s : State) : Host.Outcome State Fault Refusal := whenServing s (runScan chan 4)

/-- An element of a summary as a value, and as its code: FP8 E4M3 or BF16. -/
def sumVal (bf : Bool) (c : Nat) : Val := if bf then ofBf16 c else e4m3 c
/-- Fold one summary into another: maxima of the first half, minima of the second, NaN inputs ignored. -/
def foldCodes (bf : Bool) (w : Nat) (acc row : List Nat) : List Nat :=
  (List.range (2 * w)).zip (acc.zip row) |>.map fun p =>
    let a := sumVal bf p.2.1
    let b := sumVal bf p.2.2
    if b = .nan then p.2.1
    else if a = .nan then p.2.2
    else if p.1 < w then (if valBelow a b then p.2.2 else p.2.1) else (if valBelow b a then p.2.2 else p.2.1)
/-- SUMMARY_RECOMPUTE: a slice of the summary of summaries, folded into what the slices before left at DST, and the NaN inputs met. -/
def doSummary (g : Nat) (s : State) : State :=
  match bankRuns g 5 s with
  | none => s
  | some o =>
    let bf := o.a == 1
    let sz := if bf then 2 else 1
    let w := o.stride / (2 * sz)
    let codes := fun bs => (pieces sz (2 * w) bs).map leNat
    let rows := (List.range (sliceRecs o).2).map fun j => codes (memRead s (o.src + ((sliceRecs o).1 + j) * o.stride) o.stride)
    let nans := (rows.map fun r => (r.filter fun c => sumVal bf c == .nan).length).sum
    let out := match rows, o.pos with
      | r :: rest, 0 => rest.foldl (foldCodes bf w) r
      | rs, _ => rs.foldl (foldCodes bf w) (codes (memRead s o.dst o.stride))
    bankRan g (fun x => { x with matched := o.matched + nans, scanned := o.scanned + rows.length }) (unitWrite o.dst ((out.map (leBytes sz)).flatten) s)
def execSummaryRecompute (chan : Nat) (s : State) : Host.Outcome State Fault Refusal := whenServing s (doSummary chan)

/-- PATTERN_TEST: the pattern, then its complement, over the whole test channel; `fails` are the 64 B units that read back wrong. -/
def doPattern (g : Nat) (fails : List Nat) (s : State) : State :=
  match bankRuns g 6 s with
  | none => s
  | some o =>
    let s := patFill (gchanBase g) chanBytes (ones64 - o.a) s
    let s := match fails.getLast? with
      | none => s
      | some u => wr (BNK_TEST.LAST_FAIL (g / 32)) (gchanBase g + 64 * u) (bump (BNK_TEST.FAILS (g / 32)) fails.length s)
    bankRan g (fun o => { o with matched := fails.length }) s
def execPatternTest (chan : Nat) (fails : List Nat) (s : State) : Host.Outcome State Fault Refusal := whenServing s (doPattern chan fails)

/-- The operation of a span summary ends (R209, R224): it is counted on the layer's home tile. -/
def spanDone (o : BankOp) (s : State) : State :=
  spanBack o false (bump (KVP_SPAN_SUMMARIES.COUNT (homeTile (modelOf (descOf (o.ref / 4096) s).model s) (o.tag / 64))) 1 s)

/-- The end of the head operation of a channel: header, counts, the PF's status, with which a SUMMARY_RECOMPUTE returns its NaN inputs, and a channel
with no more work returns (R112, R117). -/
def finishBankOp (g : Nat) (o : BankOp) (s : State) : State :=
  let st := g / 32
  let s := bump (BNK_COUNTS.OPS st) 1 (setBankOps g (bankOps g s).tail (putHeader o sOk s))
  let s := if o.issuer = 3 then spanDone o s else s
  let s := if o.issuer = 0 then
      wr (BNK_PF_STATUS.STATUS st) sOk (wr (BNK_PF_STATUS.BUSY st) 0 (if o.op = 5 then { s with bnkNan := sset s.bnkNan st o.matched } else s)) else s
  let free := fun (c : Nat) (s : State) => if (bankOps c s).isEmpty then toMemory c s else s
  let s := free g s
  match copyOther g o with
  | some d => free d s
  | none => s

/-! ## Temperature (R119 to R121) -/

/-- The band a temperature in 1/1,000 °C leads to from a band (R120). -/
def nextBand (cur t : Nat) : Nat :=
  let up := if 95000 < t then 3 else if 90000 < t then 2 else if 85000 < t then 1 else 0
  let stay := if 3 ≤ cur ∧ 93000 ≤ t then 3 else if 2 ≤ cur ∧ 88000 ≤ t then 2 else if 1 ≤ cur ∧ 83000 ≤ t then 1 else 0
  max up stay

/-- THERMAL_SAMPLE: `sensor` is the highest reading of the stack's dies in °C, `act` the fraction of the tile's enabled arrays that was
busy, in 1/1,000. -/
def thermal (st sensor act : Nat) (s : State) : State :=
  if 24 ≤ st ∨ ¬ stackOnline st s then s
  else
    let t := st / 6
    let j := st % 6
    let eff := 1000 * sensor + rd (MEM_THERMAL.ACT_GAIN_C t) s * min act 1000
    let (n, s) := draw s
    let shown := eff / 1000 + (if eff % 1000 = 0 then 0 else Config.openNat n % 2)
    let cur := bandOf st s
    let band := nextBand cur eff
    let s := raise (MEM_TEMP.PEAK_C t j) sensor (wr (MEM_TEMP.SENSOR_C t j) sensor (wr (MEM_TEMP.EFF_C t j) (min shown 255) s))
    if band = cur then s
    else
      let s := bump (MEM_TEMP.BAND_CHANGES t j) 1 (wr (MEM_TEMP.BAND t j) band s)
      let s := trace { tick := 0, event := 0x0503, src := 0x06, arg := st + 256 * band } s
      let chans := (List.range 32).map (· + 32 * st)
      let s := if band = 2 then chans.foldl (fun s g => if chProcessor g s then modHead g (fun o => { o with throttled := true }) s else s) s else s
      if band = 3 then askReturn chans s else s
def execThermalSample (stack sensor act : Nat) (s : State) : Host.Outcome State Fault Refusal := whenLive s (thermal stack sensor act)

/-! ## Deep-tier retraining (R103, R104) -/

/-- A deep-tier channel is due for retraining. -/
def deepDue (k : Nat) (s : State) : Bool :=
  let p := rd DPT_RETRAIN_CFG.PERIOD_TICKS s
  let t := rd (DPT_MARGIN.TEMP_C k) s
  let r := rd (DPT_MARGIN.TRAINED_C k) s
  deepOnline k s && (decide (p ≤ s.cad.edges - sgetD s.deepTrained k 0) || decide (rd DPT_RETRAIN_CFG.DRIFT_C s < (t - r) + (r - t)) ||
    decide (rd (DPT_MARGIN.TIMING k) s < rd DPT_RETRAIN_CFG.MARGIN_MIN s))
/-- The channel to retrain next: the lowest one due, an abandoned one passed over for another (R103). -/
def nextRetrain (s : State) : Option Nat :=
  match (List.range 96).find? fun j => deepDue j s && s.deepSkip != some j with
  | some j => some j
  | none => s.deepSkip.bind fun j => if deepDue j s then some j else none

/-- The temperature of a package shows on its four channels (R14, R126). -/
def packTemp (k temp : Nat) (s : State) : State := (List.range 4).foldl (fun s j => wr (DPT_MARGIN.TEMP_C (k / 4 * 4 + j)) temp s) s
/-- DEEP_RETRAIN_START: the package temperature and timing margin are as measured; where none is under way, the lowest channel due begins phase 1. -/
def retrainStart (k temp margin : Nat) (s : State) : State :=
  if 96 ≤ k then s
  else
    let s := packTemp k temp (wr (DPT_MARGIN.TIMING k) margin s)
    if rd DPT_RETRAIN_STATUS.PHASE s = 0 ∧ nextRetrain s = some k then
      setDeepDegraded true (wr DPT_RETRAIN_STATUS.CHANNEL k (wr DPT_RETRAIN_STATUS.PHASE 1
        { s with moving := s.moving ++ chunksOn k s, deepFails := 0, evacuated := [], deepSkip := none }))
    else s
def execDeepRetrainStart (chan temp margin : Nat) (s : State) : Host.Outcome State Fault Refusal := whenServing s (retrainStart chan temp margin)

/-- A free slot on the next channel in service, round-robin from `c` (R103), but never on `k`. -/
def evacSlot (k c : Nat) (s : State) : Option (Nat × Nat) :=
  (List.range 96).findSome? fun n =>
    let d := (c + n) % 96
    if d ≠ k ∧ deepServes d s then (freeSlotOn d s).map fun sl => (d, d * 2 ^ 19 + sl) else none
/-- Copy chunks off a channel (R103, R104): `none` where a free slot is wanting. -/
def evacuate (k : Nat) : List Nat → Nat → State → Option State
  | [], _, s => some s
  | c :: r, next, s =>
    match evacSlot k next s with
    | none => none
    | some (d, v) => evacuate k r (d + 1) { s with chunkMap := sset s.chunkMap c v, evacuated := s.evacuated ++ [c], moving := s.moving.filter (· != c) }

/-- DEEP_DRAIN_DONE: phase 2 ends, training starts. -/
def drainDone (s : State) : State := if rd DPT_RETRAIN_STATUS.PHASE s = 2 then c0Refresh (wr DPT_RETRAIN_STATUS.PHASE 3 s) else s
def execDeepDrainDone (s : State) : Host.Outcome State Fault Refusal := whenServing s drainDone

/-- Put an evacuated chunk back into its home slot, where that is free. -/
def goHome (s : State) (c : Nat) : State :=
  if (sget s.chunkMap c).isSome ∧ deepServes (c % 96) s ∧ ¬ slotTaken (c % 96) (c / 96) s then
    { s with chunkMap := sset s.chunkMap c ((c % 96) * 2 ^ 19 + c / 96) } else s
/-- DEEP_DEGRADED follows the channels (R30): one is retired, leaving, or under retraining. -/
def deepFlag (s : State) : State :=
  setDeepDegraded (((List.range 96).any fun k => deepRetired k s) || s.deepLeaving != [] || rd DPT_RETRAIN_STATUS.PHASE s != 0) s
/-- The end of a retraining: nothing retrained, and DEEP_DEGRADED as the other channels have it. -/
def retrainOver (s : State) : State :=
  c0Refresh (deepFlag (wr DPT_RETRAIN_STATUS.CHANNEL 0x7F (wr DPT_RETRAIN_STATUS.PHASE 0
    { s with moving := s.moving.filter (!s.evacuated.contains ·), evacuated := [] })))
/-- DEEP_RETURN_DONE: the evacuated chunks are home again. -/
def returnDone (s : State) : State :=
  if rd DPT_RETRAIN_STATUS.PHASE s ≠ 4 then s
  else retrainOver (bump DPT_RETRAIN_STATUS.COMPLETED 1 (s.evacuated.foldl goHome s))
def execDeepReturnDone (s : State) : Host.Outcome State Fault Refusal := whenServing s returnDone

end Sys2Proof.Machine
end

