-- ==== Sys2Proof/Machine/SelectUnit.lean ====
section
/-!
DEFINITION. Sys2Proof/Machine/SelectUnit.lean: the selection unit (R229 to R231, R233, R235 to R241): order, weights and sums, results, selection from a
row, merges.
-/
namespace Sys2Proof.Machine

/-! ## Order and values (R229, R230, R232) -/

/-- A number that orders FP32 patterns as R229 does: −0 below +0, equal only where the encodings are. -/
def selKey (v : Nat) : Int := if v < 0x8000_0000 then (v : Int) else -((v - 0x8000_0000 : Nat) : Int) - 1
/-- An entry ranks before another: index and value, ascending or descending. -/
def ranksBefore (asc : Bool) (a b : Nat × Nat) : Bool :=
  if selKey a.2 = selKey b.2 then decide (a.1 < b.1)
  else if asc then decide (selKey a.2 < selKey b.2) else decide (selKey b.2 < selKey a.2)
/-- Put an entry into its place of a list in rank order. -/
def rankInsert (asc : Bool) (x : Nat × Nat) : List (Nat × Nat) → List (Nat × Nat)
  | [] => [x]
  | y :: r => if ranksBefore asc x y then x :: y :: r else y :: rankInsert asc x r
def rankSort (asc : Bool) (l : List (Nat × Nat)) : List (Nat × Nat) := l.foldl (fun acc x => rankInsert asc x acc) []

/-- FP16 as FP32. -/
def f16ToF32 (c : Nat) : Nat :=
  let neg := bitOf c 15
  let e := bitsOf c 14 10
  let m := bitsOf c 9 0
  if e = 31 then (if m = 0 then (if neg then f32NegInf else f32Inf) else 0x7FC0_0000)
  else if e = 0 then (if m = 0 then (if neg then 0x8000_0000 else 0) else f32Round neg m 1 (-24))
  else f32Round neg (1024 + m) 1 ((e : Int) - 25)

/-- Bytes of an element of a source. -/
def selSize (source : Nat) : Nat := if source = 0 then 4 else if source ≤ 2 then 2 else 8
/-- Index and FP32 value of an element's bytes. -/
def selElem (source base e : Nat) (b : List Byte) : Nat × Nat :=
  if source = 0 then (base + e, leNat b)
  else if source = 1 then (base + e, leNat b * 2 ^ 16)
  else if source = 2 then (base + e, f16ToF32 (leNat b))
  else if source = 3 then (field b 0 4, field b 4 4)
  else (field b 0 4, f32OfNat (field b 4 4))
/-- The empty index. -/
def noIndex : Nat := 0xFFFF_FFFF
def entryValid (x : Nat × Nat) : Bool := x.1 != noIndex && !f32NaN x.2

/-! ## Weights and sums (R231) -/

/-- The best of values, or the REF of an input with none. -/
def bestRef (asc : Bool) (vs : List Nat) : Nat :=
  match vs with
  | [] => if asc then f32Inf else f32NegInf
  | v :: r => r.foldl (fun b x => if ranksBefore asc (0, x) (0, b) then x else b) v

/-- The weight of an entry of value `v`: exp2 is open within its bound. `scale` is SUM_SCALE. -/
def selWeight (sum scale ref v free : Nat) : Nat :=
  if sum = 1 then v
  else if ref = f32Inf ∨ ref = f32NegInf then (if v = ref then 0x3F80_0000 else 0)
  else f32Exp2 free (f32Neg (f32Mul (f32Abs (f32Sub v ref)) scale))
/-- A sum of FP32 terms in an order that is open (R174); a zero adds nothing. -/
def sumTerms (ts : List Nat) (draw : Nat) : Nat := boundedSum ((ts.filter fun v => v % 0x8000_0000 != 0).map ofF32) (Config.openF32 draw)
/-- The sum of the weights of some values. -/
def sumWeights (sum scale ref : Nat) (vs : List Nat) (draw : Nat) : Nat :=
  if sum = 0 then 0
  else sumTerms (((List.range vs.length).zip vs).map fun v => selWeight sum scale ref v.2 (Config.openAt draw v.1)) draw

/-! ## Results (R233) -/

/-- A result of SELECT. `status` is REJECTED for a refused one (R234). -/
structure SelOut where
  k : Nat
  entries : List (Nat × Nat) := []
  approx : Bool := false
  asc : Bool
  sum : Nat
  status : Nat := 0
  sSel : Nat := 0
  sOut : Nat := 0
  ref : Nat
  tieOut : Nat := 0
  invalid : Nat := 0
  dups : Nat := 0
  nan : Nat := 0
  empty : Nat := 0
  newDups : Nat := 0
deriving DecidableEq, Repr

/-- SHORT: fewer than K entries. A refused result has it whatever its K: a consumer meets it as an empty one, with SHORT set (R234). -/
def SelOut.short (r : SelOut) : Bool := decide (r.entries.length < r.k) || r.status == sRejected
def entryBytes8 (x : Nat × Nat) : List Byte := leBytes 4 x.1 ++ leBytes 4 x.2
/-- The bytes of a result. DESIGN CHOICE (log 133): TIE_OUT, INVALID and DUPLICATES saturate at 0xFFFF_FFFF. -/
def selBytes (r : SelOut) : List Byte :=
  leBytes 2 r.entries.length ++ leBytes 2 r.k ++
    leBytes 1 (b2n (r.tieOut != 0) + 2 * b2n r.approx + 4 * b2n r.short + 8 * b2n r.asc + 16 * (r.sum % 4)) ++ leBytes 1 r.status ++
    leBytes 2 0 ++ leBytes 4 r.sSel ++ leBytes 4 r.sOut ++ leBytes 4 r.ref ++ leBytes 4 (min r.tieOut noIndex) ++
    leBytes 4 (min r.invalid noIndex) ++ leBytes 4 (min r.dups noIndex) ++ (r.entries.map entryBytes8).flatten ++
    (List.replicate (r.k - r.entries.length) (entryBytes8 (noIndex, f32NegInf))).flatten

/-! ## Selecting from a row (R235 to R238) -/

/-- Merge sorted candidates into a list: the list, the entries pushed out, and the duplicates dropped (R241). `done` are indices of
earlier passes. -/
def mergeKeep (asc : Bool) (kp : Nat) (done : List Nat) (list cand : List (Nat × Nat)) : List (Nat × Nat) × List (Nat × Nat) × Nat :=
  let (all, dup) := (rankSort asc cand).foldl (fun (acc : List (Nat × Nat) × Nat) c =>
    if done.contains c.1 then (acc.1, acc.2 + 1)
    else match acc.1.find? (fun o => o.1 == c.1) with
    | some o => (if ranksBefore asc c o then rankInsert asc c (acc.1.erase o) else acc.1, acc.2 + 1)
    | none => (rankInsert asc c acc.1, acc.2)) (list, 0)
  (all.take kp, all.drop kp, dup)

/-- The running state of a pass: list, candidates, rejected entries, duplicates dropped. -/
structure PassSt where
  list : List (Nat × Nat) := []
  cand : List (Nat × Nat) := []
  out : List (Nat × Nat) := []
  dup : Nat := 0
deriving DecidableEq, Repr

/-- The list's last place is full and an entry does not rank before it. -/
def loses (asc : Bool) (kp : Nat) (list : List (Nat × Nat)) (x : Nat × Nat) : Bool :=
  decide (kp ≤ list.length) && !((list.getLast?.map fun y => ranksBefore asc x y).getD true)
def flushCand (asc : Bool) (kp : Nat) (done : List Nat) (p : PassSt) : PassSt :=
  let (l, o, d) := mergeKeep asc kp done p.list p.cand
  { list := l, cand := [], out := p.out ++ o, dup := p.dup + d }
def passElem (asc : Bool) (kp : Nat) (done : List Nat) (last : Option (Nat × Nat)) (p : PassSt) (x : Nat × Nat) : PassSt :=
  if (last.map fun l => !ranksBefore asc l x).getD false then p
  else if loses asc kp p.list x then { p with out := p.out ++ [x] }
  else
    let p := { p with cand := p.cand ++ [x] }
    if p.cand.length = 64 then flushCand asc kp done p else p

/-- The passes over a share: the result, the entries left out of the final pass, the duplicates dropped. -/
def selPasses (asc : Bool) (valid : List (Nat × Nat)) (k : Nat) : Nat → List (Nat × Nat) → Nat → List (Nat × Nat) × List (Nat × Nat) × Nat
  | 0, result, dup => (result, [], dup)
  | n + 1, result, dup =>
    let kp := min 64 (k - result.length)
    let done := result.map (·.1)
    let p := flushCand asc kp done (valid.foldl (passElem asc kp done result.getLast?) {})
    let result := result ++ p.list
    if p.list.length < kp ∨ k ≤ result.length then (result, p.out, dup + p.dup)
    else selPasses asc valid k n result (dup + p.dup)

/-- Entries of a value. -/
def countVal (v : Nat) (l : List (Nat × Nat)) : Nat := (l.filter fun x => x.2 == v).length

/-- SELECT in mode ROW over a share's entries. DESIGN CHOICE (log 134): an entry with the empty index counts in SEL_EMPTY_INDEX, also where its
value is NaN. -/
def selectRow (asc : Bool) (sum scale k : Nat) (items : List (Nat × Nat)) (draw : Nat) : SelOut :=
  let empty := (items.filter fun x => x.1 == noIndex).length
  let nan := (items.filter fun x => x.1 != noIndex && f32NaN x.2).length
  let valid := items.filter entryValid
  let ref := bestRef asc (valid.map (·.2))
  let (res, out, dup) := selPasses asc valid k (ceilDiv k 64) [] 0
  let full := decide (k ≤ res.length)
  { k := k, entries := res, approx := dup != 0, asc := asc, sum := sum, ref := ref,
    sSel := sumWeights sum scale ref (res.map (·.2)) draw, sOut := if full then sumWeights sum scale ref (out.map (·.2)) (draw + 1) else 0,
    tieOut := if full then countVal ((res.getLast?.map (·.2)).getD 0) out else 0,
    invalid := empty + nan, dups := dup, nan := nan, empty := empty, newDups := dup }

/-! ## Merging (R239 to R241) -/

/-- A partial result as read. -/
structure Partial where
  n : Nat
  k : Nat
  approx : Bool
  asc : Bool
  sum : Nat
  status : Nat
  sOut : Nat
  ref : Nat
  tieOut : Nat
  invalid : Nat
  dups : Nat
  entries : List (Nat × Nat)
deriving DecidableEq, Repr

def partialOf (b : List Byte) : Partial :=
  let f := field b 4 1
  let n := min (field b 0 2) (field b 2 2)
  { n := n, k := field b 2 2, approx := bitOf f 1, asc := bitOf f 3, sum := bitsOf f 5 4, status := field b 5 1, sOut := field b 12 4,
    ref := field b 16 4, tieOut := field b 20 4, invalid := field b 24 4, dups := field b 28 4,
    entries := (pieces 8 n (b.drop 32)).map fun e => (field e 0 4, field e 4 4) }

/-- The better copy of each index among candidates, in rank order, and the copies dropped. -/
def distinct (asc : Bool) (cands : List (Nat × Nat)) : List (Nat × Nat) × Nat :=
  (rankSort asc cands).foldl (fun acc c => if acc.1.any fun o => o.1 == c.1 then (acc.1, acc.2 + 1) else (acc.1 ++ [c], acc.2)) ([], 0)

/-- S_OUT of a merge (R239): the partials' S_OUT, for EXP times f_i, and the weights of the candidates not kept. -/
def mergeOut (sum scale ref : Nat) (ps : List Partial) (rest : List Nat) (draw : Nat) : Nat :=
  let f := fun (k : Nat) (p : Partial) =>
    if sum = 1 ∨ p.ref = ref then p.sOut else f32Mul p.sOut (selWeight sum scale ref p.ref (Config.openAt draw k))
  let n := ps.length
  if sum = 0 then 0
  else sumTerms (((List.range n).zip ps).map (fun p => f p.1 p.2) ++
    ((List.range rest.length).zip rest).map fun v => selWeight sum scale ref v.2 (Config.openAt draw (n + v.1))) draw

/-- SELECT in mode MERGE. -/
def selectMerge (asc : Bool) (sum scale k : Nat) (ps : List Partial) (draw : Nat) : SelOut :=
  let read := ps.flatMap (·.entries)
  let empty := (read.filter fun x => x.1 == noIndex).length
  let nan := (read.filter fun x => x.1 != noIndex && f32NaN x.2).length
  let (cs, dup) := distinct asc (read.filter entryValid)
  let kept := cs.take k
  let rest := cs.drop k
  let ref := bestRef asc (ps.map (·.ref))
  let full := k ≤ kept.length
  let v := (kept.getLast?.map (·.2)).getD 0
  { k := k, entries := kept, approx := dup != 0 || ps.any (·.approx), asc := asc, sum := sum, ref := ref,
    sSel := sumWeights sum scale ref (kept.map (·.2)) draw, sOut := mergeOut sum scale ref ps (rest.map (·.2)) (draw + 1),
    tieOut := if full then countVal v rest + ((ps.filter fun p => p.n == p.k && (p.entries.getLast?.map (·.2)) == some v).map (·.tieOut)).sum
      else 0,
    invalid := (ps.map (·.invalid)).sum + empty + nan, dups := (ps.map (·.dups)).sum + dup, nan := nan, empty := empty, newDups := dup }

end Sys2Proof.Machine
end

