-- ==== Sys2Proof/Machine/Selection.lean ====
section
/-!
DEFINITION. Sys2Proof/Machine/Selection.lean: the SELECT operator: parameter blocks and their checks, its kernel, results and counters
(R232, R234, R242 to R245).
-/
namespace Sys2Proof.Machine

/-! ## The kernel (R232, R234, R243) -/

/-- A parameter block (R232). -/
structure SelPar where
  mode : Nat
  source : Nat
  order : Nat
  sum : Nat
  k : Nat
  lists : Nat
  length : Nat
  base : Nat
  src : Nat
  dst : Nat
  scale : Nat
  flags : Nat
  rest : Nat
deriving DecidableEq, Repr

def selParOf (b : List Byte) : SelPar :=
  { mode := field b 0 1, source := field b 1 1, order := field b 2 1, sum := field b 3 1, k := field b 4 2, lists := field b 6 2,
    length := field b 8 4, base := field b 12 4, src := field b 16 8, dst := field b 24 8, scale := field b 32 4, flags := field b 36 1,
    rest := field b 37 27 }
def SelPar.srcSram (q : SelPar) : Bool := bitOf q.flags 0
def SelPar.dstSram (q : SelPar) : Bool := bitOf q.flags 1

/-- A range lies within the SRAM, or within one tier. -/
def rangeOk (sram : Bool) (a n : Nat) : Bool :=
  if sram then decide (a + n ≤ 2 ^ 21) else decide (a + n ≤ bondedEnd) || (decide (deepBase ≤ a) && decide (a + n ≤ deepEnd))
/-- Bytes a kernel of an array reads. -/
def kernRead (arr : Nat) (sram : Bool) (a n : Nat) (s : State) : List Byte := if sram then sramRead s arr a n else memRead s a n
/-- Bytes a kernel of a partition writes from an array. -/
def kernWrite (p arr : Nat) (sram : Bool) (a : Nat) (bs : List Byte) (s : State) : State :=
  if sram then rankSram p ((curRanks p s).findIdx (· == arr)) arr a bs s else if a < bondedEnd then partWrite p a bs s else deepWrite a bs s

/-- The partials of a MERGE: `none` for one whose range leaves its SRAM or tier. -/
def partials (arr : Nat) (q : SelPar) (s : State) : List (Option Partial) :=
  (pieces 8 q.lists (kernRead arr q.srcSram q.src (8 * q.lists) s)).map fun t =>
    let a := leNat t
    if !rangeOk q.srcSram a 32 then none
    else
      let k := field (kernRead arr q.srcSram a 32 s) 2 2
      if rangeOk q.srcSram a (32 + 8 * k) then some (partialOf (kernRead arr q.srcSram a (32 + 8 * k) s)) else none

def srcBytes (q : SelPar) : Nat := if q.mode = 0 then q.length * selSize q.source else 8 * q.lists
def dstOk (q : SelPar) : Bool := q.dst % 64 == 0 && rangeOk q.dstSram q.dst (32 + 8 * q.k)

/-- The first failing check of R234, or 0. DESIGN CHOICE (log 135): a SUM_SCALE of −0 is not negative, and passes check 4. -/
def selCheck (arr : Nat) (q : SelPar) (poison : Bool) (s : State) : Nat :=
  let srcOk := q.src % 64 == 0 && rangeOk q.srcSram q.src (srcBytes q)
  let ps := if q.mode = 1 ∧ srcOk then partials arr q s else []
  if poison ∨ 1 < q.mode ∨ 1 < q.order ∨ 2 < q.sum ∨ 4 ≤ q.flags ∨ q.rest ≠ 0 ∨
      (q.mode = 0 ∧ (4 < q.source ∨ q.lists ≠ 0 ∨ (3 ≤ q.source ∧ q.base ≠ 0))) ∨
      (q.mode = 1 ∧ (q.source ≠ 0 ∨ q.length ≠ 0 ∨ q.base ≠ 0)) then 1
  else if q.k = 0 ∨ 1024 < q.k then 2
  else if q.mode = 0 ∧ (262144 < q.length ∨ (q.source ≤ 2 ∧ 262144 < q.base + q.length)) then 3
  else if q.sum = 2 ∧ (0x7F80_0000 ≤ q.scale % 0x8000_0000 ∨ 0x8000_0000 < q.scale) then 4
  else if q.mode = 1 ∧ (q.lists < 2 ∨ 32 < q.lists ∨ ps.any fun p => match p with
      | some p => b2n p.asc != q.order || p.sum != q.sum || p.status == sRejected || decide (p.k < q.k)
      | none => false) then 5
  else if !srcOk || !dstOk q || ps.any (·.isNone) then 6 else 0

/-- Write a result and count it (R243, R244). -/
def selWrite (p arr : Nat) (q : SelPar) (r : SelOut) (s : State) : State :=
  let t := arr / 512
  let s := bump (SEL_KERNELS.COUNT t) 1 (bump (SEL_SHORT.COUNT t) (b2n r.short) (bump (SEL_NAN.COUNT t) r.nan s))
  let s := bump (SEL_EMPTY_INDEX.COUNT t) r.empty (bump (SEL_TIES.COUNT t) (b2n (r.tieOut != 0)) s)
  let s := bump (SEL_DUPLICATES.COUNT t) r.newDups (bump (SEL_APPROX.COUNT t) (b2n r.approx) s)
  kernWrite p arr q.dstSram q.dst (selBytes r) s

/-- A refused kernel (R234). DESIGN CHOICE (log 136): where ORDER or SUM lies outside its table, ASCENDING and REF of the result follow bit 0 of ORDER,
and SUM its low two bits. -/
def selReject (p arr : Nat) (q : SelPar) (check layer op : Nat) (s : State) : State :=
  let t := arr / 512
  let s := wr (SEL_LAST_REJECT.LAYER t) layer (wr (SEL_LAST_REJECT.OPERATOR t) op (wr (SEL_LAST_REJECT.ARRAY t) (arr % 512)
    (wr (SEL_LAST_REJECT.CHECK t) check (wr (SEL_LAST_REJECT.VALID t) 1 (bump (SEL_REJECTS.COUNT t) 1 s)))))
  let asc := bitOf q.order 0
  if dstOk q then
    selWrite p arr q { k := q.k, asc := asc, sum := q.sum, status := sRejected, ref := if asc then f32Inf else f32NegInf } s
  else bump (SEL_KERNELS.COUNT t) 1 s

/-- The parameter block of a rank of the SELECT kernel that runs, with the kernel's layer and the rank's array. -/
def selKernel (p rank : Nat) (s : State) : Option (SelPar × Nat × Nat) :=
  match (partOf p s).running with
  | none => none
  | some r =>
    if r.kern.op ≠ 0x0007 ∨ ¬ r.ofStep ∨ (curRanks p s).length ≤ rank then none
    else some (selParOf (memRead s (argBlock (khdrOf (memRead s r.hdr 64)) rank) 64), r.kern.layer, rankArr p rank s)

/-- The parameter block of a rank holds an uncorrectable codeword. -/
def selPoison (p rank : Nat) (s : State) : Bool :=
  ((partOf p s).running.map fun r => poisonIn (argBlock (khdrOf (memRead s r.hdr 64)) rank) 64 s).getD false

/-- The block is read; `poison` says that the read finds a codeword of it uncorrectable. -/
def selRead (p rank : Nat) (poison : Bool) (s : State) : State :=
  match (partOf p s).running with
  | none => s
  | some r =>
    let a := argBlock (khdrOf (memRead s r.hdr 64)) rank
    readBad a 64 (spoilIf poison a 64 s)

/-- SELECT_ROW (R235): the rank's kernel selects from its share, or refuses. -/
def selRow (p rank : Nat) (poison : Bool) (s : State) : State :=
  match selKernel p rank s with
  | none => s
  | some (q, layer, arr) =>
    if q.mode = 1 then s
    else
      let c := selCheck arr q (poison || selPoison p rank s) s
      let s := selRead p rank poison s
      if c ≠ 0 then selReject p arr q c layer 0x0007 s
      else
        let bs := pieces (selSize q.source) q.length (kernRead arr q.srcSram q.src (srcBytes q) s)
        let items := (List.range q.length).zip bs |>.map fun e => selElem q.source q.base e.1 e.2
        selWrite p arr q (selectRow (q.order == 1) q.sum q.scale q.k items s.fresh) { s with fresh := s.fresh + 2 }
def execSelectRow (part rank : Nat) (poison : Bool) (s : State) : Host.Outcome State Fault Refusal := whenServing s (selRow part rank poison)

/-- SELECT_MERGE (R239): the rank's kernel merges partial results, or refuses. -/
def selMerge (p rank : Nat) (poison : Bool) (s : State) : State :=
  match selKernel p rank s with
  | none => s
  | some (q, layer, arr) =>
    if q.mode ≠ 1 then s
    else
      let c := selCheck arr q (poison || selPoison p rank s) s
      let s := selRead p rank poison s
      if c ≠ 0 then selReject p arr q c layer 0x0007 s
      else selWrite p arr q (selectMerge (q.order == 1) q.sum q.scale q.k ((partials arr q s).filterMap id) s.fresh) { s with fresh := s.fresh + 2 }
def execSelectMerge (part rank : Nat) (poison : Bool) (s : State) : Host.Outcome State Fault Refusal := whenServing s (selMerge part rank poison)

end Sys2Proof.Machine
end

