-- ==== Sys2Proof/Machine/Embeddings.lean ====
section
/-!
DEFINITION. Sys2Proof/Machine/Embeddings.lean: embedding tables (R296 to R310): the reduction of identifiers, pooling by command and by
kernel, hotness and replicas, update batches and apply passes, requests of other modules, and blocks that move between modules.
-/
namespace Sys2Proof.Machine

/-! ## Tables and rows (R296 to R298) -/

/-- Bytes from one row to the next. -/
def EmbTable.stride (t : EmbTable) : Nat := 64 * ceilDiv (t.dim * elemSize t.format) 64
/-- Rows of a part. -/
def EmbTable.rows (t : EmbTable) (part : Nat) : Nat := if part = 0 then t.rowsA else t.rowsB
/-- The rows (part, row) that an identifier reduces to. -/
def embReduce (t : EmbTable) (x : Nat) : List (Nat × Nat) :=
  let h := ((x ^^^ t.seed) * 0x9E37_79B9_7F4A_7C15) % 2 ^ 64
  if t.layout = 0 then [(0, h / 2 ^ 32 * t.rowsA / 2 ^ 32)]
  else
    let j := h * (t.rowsA * t.rowsB) / 2 ^ 64
    [(0, j / t.rowsB), (1, j % t.rowsB)]
/-- The address of a block's entry in its part's map (R297). -/
def mapEntry (t : EmbTable) (part block : Nat) : Nat := (if part = 0 then t.mapA else t.mapB) + 8 * block
/-- The address of a row of a block homed here. -/
def rowAddr (t : EmbTable) (part row : Nat) (s : State) : Option Nat :=
  let b := row / 2 ^ t.blockLog2
  let e := leNat (memRead s (mapEntry t part b) 8)
  if bitOf e 0 then some (bitsOf e 47 6 * 64 + row % 2 ^ t.blockLog2 * t.stride) else none
/-- The elements of a row, as FP32 patterns. -/
def rowVals (t : EmbTable) (a : Nat) (s : State) : List Nat :=
  (pieces (elemSize t.format) t.dim (memRead s a (t.dim * elemSize t.format))).map fun b => toF32 (elemVal t.format (leNat b))
/-- A valid replica of a row on a tile (R303). -/
def replicaOf (tile : Nat) (r : EmbRow) (s : State) : Option Replica := s.replicas.find? fun p => p.tile == tile && p.row == r && p.valid

/-! ## Pooling (R299, R300) -/

/-- Bytes of an output vector. -/
def outStride (dim fmt : Nat) : Nat := 64 * ceilDiv (dim * elemSize fmt) 64
/-- An entry's weight is finite. -/
def weightOk (w : Nat) : Bool := w / 2 ^ 23 % 256 != 255
/-- Element `d` of an entry's vector, over the rows that were read: the FP32 sum of the parts. -/
def entryElem (got : List ((Nat × Nat) × List Nat)) (rows : List (Nat × Nat)) (d : Nat) : Option Nat :=
  match rows.filterMap fun r => (got.find? (·.1 == r)).map fun g => (g.2.drop d).head?.getD 0 with
  | [] => none
  | v :: r => some (r.foldl f32Add v)
/-- The pooled vector of a bag (R299). -/
def poolBag (dim fmt draw : Nat) (got : List ((Nat × Nat) × List Nat)) (bag : List (Nat × List (Nat × Nat))) : List Byte :=
  let vec := (List.range dim).map fun d =>
    let ts := bag.filterMap fun e => (entryElem got e.2 d).map fun v => valMul (ofF32 e.1) (ofF32 v)
    leBytes (elemSize fmt) (elemCode fmt false (ofF32 (boundedSum ts (Config.openF32 (draw + d)))))
  vec.flatten ++ List.replicate (outStride dim fmt - dim * elemSize fmt) 0#8
/-- The output vectors of bags, and the draws they took. -/
def poolBags (dim fmt : Nat) (got : List ((Nat × Nat) × List Nat)) : Nat → List (List (Nat × List (Nat × Nat))) → List (List Byte)
  | _, [] => []
  | draw, b :: r => poolBag dim fmt draw got b :: poolBags dim fmt got (draw + dim) r
/-- Where the elements of a vector end; the padding of a stride is not written. -/
def vecBytes (dim fmt : Nat) : Nat := dim * elemSize fmt

/-- Write data to a command's result buffer (R417). -/
def bufWrite (h : Hdr) (a : Nat) (bs : List Byte) (s : State) : State :=
  if h.bondedBuf then engWrite a bs s else if ideShut s then ideFault h.fn h.qp s else { s with hostOut := (h.fn, a, bs) :: s.hostOut }
/-- A result buffer the command may name. -/
def bufFits (h : Hdr) (a n : Nat) : Bool := !h.bondedBuf || decide (a + n ≤ bondedEnd)

/-- Write a lookup's vectors and complete it (R299, R301). -/
def finishLook (l : EmbLook) (s : State) : State :=
  let t := sgetD s.embTabs l.table { layout := 0, format := 0, flags := 0, dim := 0, blockLog2 := 0, home := 0, seed := 0, rowsA := 0, rowsB := 0, mapA := 0, mapB := 0 }
  let s0 := { s with embLooks := s.embLooks.filter (· != l) }
  let lost := ((l.bags.flatten.map fun e => (e.2.filter fun r => !(l.got.any (·.1 == r))).length)).sum
  let vs := poolBags t.dim l.fmt l.got s.fresh l.bags
  let s := { s0 with fresh := s.fresh + t.dim * l.bags.length }
  let s := (vs.zip (List.range vs.length)).foldl (fun s v =>
    bufWrite l.h (l.out + v.2 * outStride t.dim l.fmt) (v.1.take (vecBytes t.dim l.fmt)) s) s
  let s := bump (EMB_ROWS_LOST.COUNT t.home) lost (bump (EMB_LOOKUPS.COUNT t.home) l.bags.length s)
  complete l.h 0x18 (if lost = 0 then sOk else sPartial) 0 lost 0 s

/-- The entries of bag `i` from the entry array and the offset array. -/
def bagEntries (t : EmbTable) (ents offs : List Byte) (i : Nat) : List (Nat × List (Nat × Nat)) :=
  let a := field offs (4 * i) 4
  let b := field offs (4 * i + 4) 4
  (List.range (b - a)).map fun k => (field ents (16 * (a + k) + 8) 4, embReduce t (field ents (16 * (a + k)) 8))
/-- The limits of R300. -/
def lookOk (h : Hdr) (t : EmbTable) (fmt bags entries out outBytes : Nat) (ents offs : List Byte) : Bool :=
  ((List.range (bags + 1)).all fun i => decide (field offs (4 * i) 4 ≤ entries)) &&
    ((List.range entries).all fun k => field ents (16 * k + 12) 4 == 0) && decide (bags * outStride t.dim fmt ≤ outBytes) &&
    bufFits h out (bags * outStride t.dim fmt)
/-- Rows to ask of each module, from the rows no block here holds; a row whose home is not known is asked of 0xFFF, which never answers. -/
def needOf (t : EmbTable) (homes : List ((Nat × Nat) × Nat)) (rows : List (Nat × Nat)) : List (Nat × List (Nat × Nat)) :=
  let home := fun (r : Nat × Nat) => ((homes.find? (·.1 == (r.1, r.2 / 2 ^ t.blockLog2))).map (·.2)).getD 0xFFF
  ((rows.map home).eraseDups).map fun m => (m, rows.filter (home · == m))

/-- A row that cannot be read: its channel serves no data, or a codeword of it is uncorrectable (R299, R475). -/
def rowLost (t : EmbTable) (a : Nat) (s : State) : Bool := !chUp (gchan a) s || poisonIn a (t.dim * elemSize t.format) s
/-- Rows of an address list that a read finds uncorrectable. -/
def rowSpoil (t : EmbTable) (rows : List ((Nat × Nat) × Nat)) (bad : List (Nat × Nat)) (s : State) : State :=
  (rows.filter fun r => bad.contains r.1).foldl (fun s r => spoil r.2 (t.dim * elemSize t.format) s) s
/-- Rows are read: their uncorrectable codewords are counted (R97). -/
def rowCount (t : EmbTable) (rows : List ((Nat × Nat) × Nat)) (s : State) : State :=
  if s.poison = [] then s else rows.foldl (fun s r => readBad r.2 (t.dim * elemSize t.format) s) s
/-- EMB_LOOKUP (R299 to R301). `bad` names the local rows that these reads find uncorrectable. -/
def embLookup (h : Hdr) (table fmt bags entries : Nat) (ents offs : Buf) (out outBytes : Nat) (homes : List ((Nat × Nat) × Nat))
    (bad : List (Nat × Nat)) (s : State) : State :=
  if intakeFails h 0x18 (decide (1 < fmt)) s then refuse h 0x18 sRejected s
  else match sget s.embTabs table with
  | none => complete h 0x18 sNotFound (0xFFF * 2 ^ 52) 0 0 s
  | some t =>
    if bags = 0 ∨ 1024 < bags ∨ 65536 < entries then refuse h 0x18 sRejected s
    else match bufRead h ents (16 * entries) s, bufRead h offs (4 * bags + 4) s with
    | some eb, some ob =>
      if !lookOk h t fmt bags entries out outBytes eb ob then refuse h 0x18 sRejected s
      else
        let all := (List.range bags).map (bagEntries t eb ob)
        let keep := all.map fun b => b.filter fun e => weightOk e.1
        let skipped := all.flatten.length - keep.flatten.length
        let reads := keep.flatten.flatMap (·.2)
        let rows := reads.eraseDups
        let here := rows.filterMap fun r => (rowAddr t r.1 r.2 s).map fun a => (r, a)
        let far := rows.filter fun r => (rowAddr t r.1 r.2 s).isNone
        let s := rowCount t here (rowSpoil t here bad s)
        let got := (here.filter fun r => !bad.contains r.1 && !rowLost t r.2 s).map fun r => (r.1, rowVals t r.2 s)
        let l : EmbLook := { h := h, table := table, fmt := fmt, out := out, bags := keep, got := got, need := needOf t homes far, msg := s.embSeq,
                             limit := s.cad.edges + rd EMB_APPLY.TIMEOUT_TICKS s }
        let s := bump (EMB_BAD_WEIGHTS.COUNT t.home) skipped s
        let s := bump (EMB_ROWS_READ.COUNT t.home) (reads.filter fun r => !far.contains r).length s
        if far = [] then finishLook l s
        else
          let ask := (l.need.filter (·.1 != 0xFFF)).map fun n =>
            ({ type := 0x14, dst := n.1, args := l.msg :: table :: n.2.flatMap fun r => [r.1, r.2] } : Msg)
          { s with embSeq := s.embSeq + 1, embLooks := s.embLooks ++ [l], fabOut := ask ++ s.fabOut }
    | none, _ => bufFault h ents (16 * entries) 0x18 s
    | _, none => bufFault h offs (4 * bags + 4) 0x18 s
def execEmbLookup (h : Hdr) (table fmt bags entries : Nat) (ents offs : Buf) (out outBytes : Nat) (homes : List ((Nat × Nat) × Nat))
    (bad : List (Nat × Nat)) (s : State) : Host.Outcome State Fault Refusal :=
  hostCmd h 0x18 s (embLookup h table fmt bags entries ents offs out outBytes homes bad)

/-- The rows that a home answers a lookup with; the rows it asked that module for and did not get are lost. -/
def lookAnswer (src msg : Nat) (rows : List ((Nat × Nat) × List Byte)) (s : State) : State :=
  match s.embLooks.find? fun l => l.msg == msg && l.need.any (·.1 == src) with
  | none => s
  | some l =>
    match sget s.embTabs l.table with
    | none => s
    | some t =>
      let vals := rows.map fun r => (r.1, (pieces (elemSize t.format) t.dim r.2).map fun b => toF32 (elemVal t.format (leNat b)))
      let l' := { l with got := l.got ++ vals, need := l.need.filter (·.1 != src) }
      let s := bump (EMB_REMOTE_READS.COUNT t.home) rows.length { s with embLooks := s.embLooks.map fun x => if x = l then l' else x }
      if l'.need = [] then finishLook l' s else s

/-! ## Replicas (R302, R303) -/

def showReplicas (tile : Nat) (s : State) : State :=
  wr (EMB_HOT_STATUS.REPLICAS tile) (s.replicas.filter fun p => p.tile == tile && p.valid).length s
/-- Drop a replica. -/
def dropReplica (p : Replica) (s : State) : State :=
  showReplicas p.tile (bump (EMB_REPLICAS_DROPPED.COUNT p.tile) 1 (chanGive p.chan p.addr p.bytes { s with replicas := s.replicas.filter (· != p) }))
/-- The entries of a tile's hotness table. -/
def hotEnts (tile : Nat) (s : State) : List (Nat × HotEnt) := s.hot.filter fun p => p.1 / 65536 == tile
/-- The count of a row in a tile's hotness table. -/
def hotCount (tile : Nat) (r : EmbRow) (s : State) : Nat :=
  (((hotEnts tile s).find? fun p => p.2.row == r).map (·.2.count)).getD 0
/-- The entry a new row takes: the lowest count, the lowest index first; an entry never used counts 0. -/
def hotTake (tile : Nat) (s : State) : Nat :=
  let es := hotEnts tile s
  let unused := firstUnused 65537 (65536 * tile) (es.map (·.1))
  let low := es.foldl (fun best p => match best with
    | none => some p
    | some b => if p.2.count < b.2.count then some p else best) none
  match unused, low with
  | some u, some p => if p.2.count = 0 ∧ p.1 < u then p.1 else u
  | some u, none => u
  | none, some p => p.1
  | none, none => 65536 * tile
where
  firstUnused : Nat → Nat → List Nat → Option Nat
  | 0, _, _ => none
  | _ + 1, k, [] => if k % 65536 = 0 ∧ k ≠ 65536 * tile then none else some k
  | n + 1, k, x :: r => if x = k then firstUnused n (k + 1) r else some k
/-- Start a replica of a row on a tile: a slot is taken, for which the least-used replica goes where the area is full. -/
def startReplica (tile : Nat) (r : EmbRow) (t : EmbTable) (s : State) : State :=
  let mine := s.replicas.filter (·.tile == tile)
  if mine.any (·.row == r) then s
  else
    let s := if mine.length < 65536 then s
      else match mine.foldl (fun best p => match best with
        | none => some p
        | some b => if hotCount tile p.row s < hotCount tile b.row s then some p else best) none with
        | some p => dropReplica p s
        | none => s
    match allocIn ((tileChans tile).filter fun g => stackOnline (g / 32) s && chProtectedOk g s) t.stride s with
    | none => s
    | some (g, a, s) => { s with replicas := s.replicas ++ [{ tile := tile, row := r, valid := false, chan := g, addr := a, bytes := t.stride }] }
/-- Count one read of a row in a tile's hotness table, and start a replica where the count reaches the threshold. -/
def hotRead (tile : Nat) (r : EmbRow) (t : EmbTable) (s : State) : State :=
  let k := (((hotEnts tile s).find? fun p => p.2.row == r).map (·.1)).getD (hotTake tile s)
  let c := min 65535 (hotCount tile r s + 1)
  let s := { s with hot := sset s.hot k { row := r, count := c } }
  let s := wr (EMB_HOT_STATUS.TRACKED tile) (hotEnts tile s).length s
  if bitOf t.flags 0 ∧ rd EMB_HOT_CFG.HOT_THRESH s ≤ c then startReplica tile r t s else s

/-- EMB_HOT_HALVING: after HOT_WINDOW edges every count of a tile is halved, and replicas whose count has fallen are dropped. -/
def hotHalve (tile : Nat) (s : State) : State :=
  if 4 ≤ tile ∨ s.cad.edges < sgetD s.hotLast tile 0 + max 1 (rd EMB_HOT_CFG.HOT_WINDOW s) then s
  else
    let s := { s with hotLast := sset s.hotLast tile s.cad.edges,
                      hot := s.hot.map fun (p : Nat × HotEnt) => if p.1 / 65536 = tile then (p.1, { p.2 with count := p.2.count / 2 }) else p }
    (s.replicas.filter fun (p : Replica) => p.tile == tile && decide (4 * hotCount tile p.row s < rd EMB_HOT_CFG.HOT_THRESH s)).foldl (fun s p => dropReplica p s) s
def execEmbHotHalving (tile : Nat) (s : State) : Host.Outcome State Fault Refusal := whenServing s (hotHalve tile)

/-- EMB_REPLICA_VALID: the copy of a row from its home copy ends, and the replica becomes valid. Where the home copy cannot be read none is made
(DESIGN CHOICE, log 167). -/
def replicaValid (tile table part row : Nat) (s : State) : State :=
  match sget s.embTabs table, s.replicas.find? fun p => p.tile == tile && p.row == { table := table, part := part, row := row } && !p.valid with
  | some t, some p =>
    match rowAddr t part row s with
    | none => dropReplica p s
    | some a =>
      if rowLost t a s then dropReplica p (readBad a p.bytes s)
      else
      let s := memWrite p.addr (memRead s a p.bytes) s
      showReplicas tile (bump (EMB_REPLICAS_MADE.COUNT tile) 1
        { s with replicas := s.replicas.map fun x => if x = p then { x with valid := true } else x })
  | _, _ => s
def execEmbReplicaValid (tile table part row : Nat) (s : State) : Host.Outcome State Fault Refusal := whenServing s (replicaValid tile table part row)

/-- Drop the replicas of a table's rows that a test picks (R303: the table is redefined; R308: a block leaves). -/
def dropReplicas (test : EmbRow → Bool) (s : State) : State := (s.replicas.filter fun p => test p.row).foldl (fun s p => dropReplica p s) s

/-! ## The EMB_POOL kernel (R301 to R303) -/

/-- One row read by a rank on a tile: what it finds there, and the state after it. A remote row is skipped and counted, with REMOTE in the kernel's
result; a row lost sets PARTIAL there. -/
def poolRead (p tile table : Nat) (t : EmbTable) (bad badRep : List (Nat × Nat)) (acc : List ((Nat × Nat) × List Nat) × State) (r : Nat × Nat) :
    List ((Nat × Nat) × List Nat) × State :=
  let (got, s) := acc
  match rowAddr t r.1 r.2 s with
  | none => (got, bump (EMB_REMOTE_MISS.COUNT tile) 1 (modPart p (fun x => { x with running := x.running.map fun k => { k with remote := true } }) s))
  | some a =>
    let row : EmbRow := { table := table, part := r.1, row := r.2 }
    let rep := if tile = t.home then none else replicaOf tile row s
    let n := t.dim * elemSize t.format
    let s := match rep with
      | some q => readBad q.addr n (spoilIf (badRep.contains r) q.addr n s)
      | none => s
    let badRep := badRep.contains r || rep.any fun q => rowLost t q.addr s
    let s := if rep.isNone || badRep then readBad a n (spoilIf (bad.contains r) a n s) else s
    let badHome := bad.contains r || rowLost t a s
    let s := match rep with
      | some q => if badRep then dropReplica q s else s
      | none => s
    let a := match rep with
      | some q => if badRep then a else q.addr
      | none => a
    let s := bump (EMB_ROWS_READ.COUNT tile) 1 (if tile = t.home then s else hotRead tile row t s)
    if badHome ∧ (rep.isNone ∨ badRep) then
      (got, bump (EMB_ROWS_LOST.COUNT tile) 1 (modPart p (fun x => { x with running := x.running.map fun k => { k with lostRows := true } }) s))
    else (if got.any (·.1 == r) then got else got ++ [(r, rowVals t a s)], s)
/-- EMB_POOL on a rank of a partition. -/
def embPool (p rank table fmt : Nat) (sram : Bool) (dst : Nat) (bags : List (List (Nat × Nat))) (bad badRep : List (Nat × Nat)) (s : State) : State :=
  match sget s.embTabs table with
  | none => s
  | some t =>
    if !runsOp p 0x000C s || decide (1 < fmt) || !rangeOk sram dst (bags.length * outStride t.dim fmt) then s
    else
      let arr := rankArr p rank s
      let tile := arr / 512
      let all := bags.map fun b => b.map fun e => (e.2, embReduce t e.1)
      let keep := all.map fun b => b.filter fun e => weightOk e.1
      let (got, s) := (keep.flatten.flatMap (·.2)).foldl (poolRead p tile table t bad badRep) ([], s)
      let vs := poolBags t.dim fmt got s.fresh keep
      let s := { s with fresh := s.fresh + t.dim * bags.length }
      let s := (vs.zip (List.range vs.length)).foldl (fun s v =>
        kernWrite p arr sram (dst + v.2 * outStride t.dim fmt) (v.1.take (vecBytes t.dim fmt)) s) s
      bump (EMB_BAD_WEIGHTS.COUNT tile) (all.flatten.length - keep.flatten.length) (bump (EMB_LOOKUPS.COUNT tile) bags.length s)
def execEmbPool (part rank table fmt : Nat) (sram : Bool) (dst : Nat) (bags : List (List (Nat × Nat))) (bad badRep : List (Nat × Nat)) (s : State) :
    Host.Outcome State Fault Refusal :=
  whenServing s (embPool part rank table fmt sram dst bags bad badRep)

/-! ## Updates (R304 to R307) -/

/-- Bytes of an update descriptor. -/
def updBytes (t : EmbTable) : Nat := 64 * ceilDiv (16 + 4 * t.dim) 64
/-- A descriptor is permitted (R304). -/
def updOk (t : EmbTable) (b : List Byte) : Bool :=
  let kind := field b 8 1
  let part := field b 9 1
  decide (kind ≤ 1) && bitOf t.flags (kind + 1) && decide (part ≤ 2) && (part == 0 || t.layout == 1) && !(part == 2 && kind == 1) &&
    field b 10 2 == 0 && !f32NaN (field b 12 4) && (List.range t.dim).all fun d => !f32NaN (field b (16 + 4 * d) 4)
/-- The row updates of a descriptor. -/
def updItems (t : EmbTable) (n : Nat) (b : List Byte) : List EmbItem :=
  let part := field b 9 1
  ((embReduce t (field b 0 8)).filter fun r => part == 2 || r.1 == part).map fun r =>
    { part := r.1, row := r.2, ovr := field b 8 1 == 1, scale := field b 12 4, data := (List.range t.dim).map fun d => field b (16 + 4 * d) 4, desc := n }
/-- Wire form of a row update. -/
def itemArgs (i : EmbItem) : List Nat := [i.part, i.row, b2n i.ovr, i.scale]

/-- The completion of an EMB_UPDATE whose every home has answered, or been given up (R307). -/
def finishJob (j : EmbJob) (s : State) : State :=
  if j.localWaits ∨ j.remote ≠ [] then s
  else complete j.h 0x19 (if j.lost = [] then sOk else sPartial) 0 j.tick j.lost.eraseDups.length { s with embJobs := s.embJobs.filter (· != j) }
/-- Change a job, and complete it where nothing is left. -/
def stepJob (h : Hdr) (f : EmbJob → EmbJob) (s : State) : State :=
  match s.embJobs.find? fun j => sameCmd j.h h with
  | none => s
  | some j => finishJob (f j) { s with embJobs := s.embJobs.map fun x => if x = j then f j else x }

/-- EMB_UPDATE (R304, R305): the batch is accepted with apply tick T + 1; descriptors whose rows are homed elsewhere go there. -/
def embUpdate (h : Hdr) (table count : Nat) (buf : Buf) (homes : List ((Nat × Nat) × Nat)) (s : State) : State :=
  if intakeFails h 0x19 false s then refuse h 0x19 sRejected s
  else match sget s.embTabs table with
  | none => complete h 0x19 sNotFound (0xFFF * 2 ^ 52) 0 0 s
  | some t =>
    if count = 0 ∨ 65536 < count then refuse h 0x19 sRejected s
    else match bufRead h buf (count * updBytes t) s with
    | none => bufFault h buf (count * updBytes t) 0x19 s
    | some bs =>
      let ds := pieces (updBytes t) count bs
      if !(ds.all (updOk t)) then refuse h 0x19 sRejected s
      else
        let items := ((ds.zip (List.range count)).map fun d => updItems t d.2 d.1).flatten
        let here := items.filter fun i => (rowAddr t i.part i.row s).isSome
        let far := items.filter fun i => (rowAddr t i.part i.row s).isNone
        let need := needOf t homes (far.map fun i => (i.part, i.row)).eraseDups
        let tick := now s + 1
        let part := fun (n : Nat × List (Nat × Nat)) => far.filter fun i => n.2.contains (i.part, i.row)
        let ask := (need.filter (·.1 != 0xFFF)).map fun n =>
          ({ type := 0x15, dst := n.1, args := s.embSeq :: table :: tick :: (part n).flatMap itemArgs,
             data := ((part n).flatMap fun i => i.data.map (leBytes 4)).flatten } : Msg)
        let j : EmbJob := { h := h, tick := tick, localWaits := !here.isEmpty, remote := need.map (fun n => (n.1, ((part n).map (·.desc)).eraseDups)),
                            msg := s.embSeq, limit := s.cad.edges + rd EMB_APPLY.TIMEOUT_TICKS s }
        let b : EmbBatch := { tick := tick, src := rd SES_CTRL.MODULE_ID s, seq := s.embSeq, table := table, items := here, own := some h }
        { s with embSeq := s.embSeq + 1, embJobs := s.embJobs ++ [j], embQ := if here = [] then s.embQ else s.embQ ++ [b],
                 fabOut := ask ++ s.fabOut }
def execEmbUpdate (h : Hdr) (table count : Nat) (buf : Buf) (homes : List ((Nat × Nat) × Nat)) (s : State) : Host.Outcome State Fault Refusal :=
  hostCmd h 0x19 s (embUpdate h table count buf homes)

/-- A home has applied, or refused, its part of a batch. -/
def updateAnswer (src msg : Nat) (ok : Bool) (s : State) : State :=
  match s.embJobs.find? fun j => j.msg == msg && j.remote.any (·.1 == src) with
  | none => s
  | some j =>
    let gone := if ok then [] else (j.remote.filter (·.1 == src)).flatMap (·.2)
    stepJob j.h (fun j => { j with remote := j.remote.filter (·.1 != src), lost := j.lost ++ gone }) s

/-- The new element of an ADD (R304): SCALE × DATA added in FP32, where the spec leaves open whether the product is rounded first. -/
def addElem (old scale d free : Nat) : Nat :=
  if free % 2 = 0 then f32Add old (f32Mul scale d) else toF32 (valAdd (ofF32 old) (valMul (ofF32 scale) (ofF32 d)))
/-- The codes of a row after an update. -/
def updCodes (t : EmbTable) (i : EmbItem) (old : List Nat) (draw : Nat) : List Nat :=
  (old.zip (i.data.zip (List.range old.length))).map fun x =>
    if i.ovr then elemCode t.format (t.format != 0) (ofF32 x.2.1)
    else elemCode t.format true (ofF32 (addElem x.1 i.scale x.2.1 (Config.openNat (draw + x.2.2))))
/-- Bytes of row copies an update writes. -/
def updCost (table : Nat) (t : EmbTable) (i : EmbItem) (s : State) : Nat :=
  t.stride * (1 + (s.replicas.filter fun p => p.valid && p.row == { table := table, part := i.part, row := i.row }).length)
/-- A block (table, part, block) has moved away within its window (R308): its new home. -/
def blockTomb (table part block : Nat) (s : State) : Option Nat := (s.tombs.find? fun x => x.block == some (table, part, block)).map (·.newHandle)
/-- Apply an update to one copy of a row (R304). An ADD to a copy that reads poisoned leaves it so (DESIGN CHOICE, log 167). -/
def updCopy (t : EmbTable) (i : EmbItem) (draw a : Nat) (s : State) : State :=
  if !i.ovr && poisonIn a (t.dim * elemSize t.format) s then readBad a (t.dim * elemSize t.format) s
  else memWrite a ((updCodes t i (rowVals t a s) draw).map (leBytes (elemSize t.format))).flatten s
/-- Apply one update to the home row and every valid replica, or forward it after its block (R306, R308). `n` is 1 where it is the last of its
descriptor. -/
def applyItem (table tick : Nat) (t : EmbTable) (n : Nat) (s : State) (i : EmbItem) : State :=
  match rowAddr t i.part i.row s with
  | none =>
    match blockTomb table i.part (i.row / 2 ^ t.blockLog2) s with
    | some m => bump (EMB_FORWARDED.COUNT t.home) 1
        { s with fabOut := { type := 0x15, dst := m, args := 0 :: table :: tick :: itemArgs i, data := (i.data.map (leBytes 4)).flatten } :: s.fabOut }
    | none => s
  | some a =>
    let r : EmbRow := { table := table, part := i.part, row := i.row }
    let draw := s.fresh
    let s := updCopy t i draw a { s with fresh := s.fresh + t.dim }
    let s := (s.replicas.filter fun p => p.valid && p.row == r).foldl (fun s p => updCopy t i draw p.addr s) s
    let log := fun (m : Migration) => if m.block = some (table, i.part, i.row / 2 ^ t.blockLog2) then { m with ulog := m.ulog ++ [(tick, i)] } else m
    let s := { s with migs := s.migs.map log }
    bump (EMB_UPDATES.COUNT t.home) n s

/-- A copy that an update writes lies in a range whose capture has not ended (R481). -/
def updHeld (table : Nat) (t : EmbTable) (i : EmbItem) (s : State) : Bool :=
  (rowAddr t i.part i.row s).any (fun a => capHeld a t.stride s) ||
    (s.replicas.any fun p => p.valid && p.row == { table := table, part := i.part, row := i.row } && capHeld p.addr p.bytes s)
/-- Apply the items of a batch while the pass has room, leaving those that a capture holds back: what is left of the room, the items not applied, and the state. -/
def applyItems (table tick : Nat) (t : EmbTable) : List EmbItem → Nat → State → Nat × List EmbItem × State
  | [], room, s => (room, [], s)
  | i :: r, room, s =>
    if updHeld table t i s then
      let (room, left, s) := applyItems table tick t r room (bump REL_HELD_WRITES.COUNT 1 s)
      (room, i :: left, s)
    else if updCost table t i s ≤ room then applyItems table tick t r (room - updCost table t i s) (applyItem table tick t (b2n ((r.head?.map (·.desc)) != some i.desc)) s i) else (0, i :: r, s)
/-- The end of a batch: its own command goes on, or the source is answered (R307). -/
def batchDone (b : EmbBatch) (t : EmbTable) (s : State) : State :=
  let s := bump (EMB_LATE_REMOTE.COUNT t.home) (b2n b.late) s
  match b.own with
  | some h => stepJob h (fun j => { j with localWaits := false }) s
  | none => { s with fabOut := { type := 0x13, dst := b.src, args := [b.msg, sOk] } :: s.fabOut }
/-- R305's order. -/
def batchBefore (a b : EmbBatch) : Bool :=
  decide (a.tick < b.tick) || (a.tick == b.tick && (decide (a.src < b.src) || (a.src == b.src && decide (a.seq < b.seq))))
def batchInsert (b : EmbBatch) : List EmbBatch → List EmbBatch
  | [] => [b]
  | x :: r => if batchBefore b x then b :: x :: r else x :: batchInsert b r
/-- Apply due batches in order while the pass has room; those left wait for the next pass, and their updates are counted. -/
def applyBatches : List EmbBatch → Nat → State → List EmbBatch × State
  | [], _, s => ([], s)
  | b :: r, room, s =>
    match sget s.embTabs b.table with
    | none => applyBatches r room s
    | some t =>
      let (room, left, s) := applyItems b.table b.tick t b.items room s
      if left = [] then applyBatches r room (batchDone b t s)
      else
        let (rest, s) := applyBatches r 0 s
        ({ b with items := left } :: rest, bump (EMB_UPDATE_DEFER.COUNT t.home) left.length s)
/-- EMB_APPLY_PASS: the pass of a tick edge (R305, R306). -/
def applyPass (s : State) : State :=
  let due := (s.embQ.filter fun b => decide (b.tick ≤ now s)).foldl (fun acc b => batchInsert b acc) []
  let s := { s with embQ := s.embQ.filter fun b => !decide (b.tick ≤ now s) }
  let (left, s) := applyBatches due (rd EMB_APPLY.APPLY_KIB s * 1024) s
  { s with embQ := left ++ s.embQ }

/-- EMB_REMOTE_TIMEOUT: after TIMEOUT_TICKS edges, rows of homes that have not answered are lost (R301), and descriptors sent to such
homes are not applied (R307). -/
def remoteTimeout (fn qp cmdId : Nat) (s : State) : State :=
  let is := fun (h : Hdr) => h.fn == fn && h.qp == qp && h.cmdId == cmdId
  match s.embLooks.find? fun l => is l.h && decide (l.limit ≤ s.cad.edges) with
  | some l => finishLook { l with need := [] } { s with embLooks := s.embLooks.map fun x => if x = l then { l with need := [] } else x }
  | none =>
    match s.embJobs.find? fun j => is j.h && decide (j.limit ≤ s.cad.edges) with
    | some j => stepJob j.h (fun j => { j with lost := j.lost ++ j.remote.flatMap (·.2), remote := [] }) s
    | none => s
def execEmbRemoteTimeout (fn qp cmdId : Nat) (s : State) : Host.Outcome State Fault Refusal := whenServing s (remoteTimeout fn qp cmdId)

/-! ## Requests of other modules (R301, R305, R308) -/

/-- The new home of a block that has left this module, after its window (R308). -/
def movedTo (table part block : Nat) (s : State) : Nat := ((s.embMoved.find? (·.1 == (table, part, block))).map (·.2)).getD 0xFFF
/-- EMB_READ at the home of rows; rows of blocks that have moved are forwarded within their window, and not found after it. -/
def embRead (src msg table : Nat) (rows bad : List (Nat × Nat)) (s : State) : State :=
  match sget s.embTabs table with
  | none => { s with fabOut := { type := 0x13, dst := src, args := [msg, sNotFound, 0xFFF] } :: s.fabOut }
  | some t =>
    let blk := fun (r : Nat × Nat) => r.2 / 2 ^ t.blockLog2
    let here := rows.filterMap fun r => (rowAddr t r.1 r.2 s).map fun a => (r, a)
    let away := rows.filter fun r => (rowAddr t r.1 r.2 s).isNone
    let fwd := away.filterMap fun r => (blockTomb table r.1 (blk r) s).map fun m => (r, m)
    let gone := away.filter fun r => (blockTomb table r.1 (blk r) s).isNone
    let s := rowCount t here (rowSpoil t here bad s)
    let good := here.filter fun r => !bad.contains r.1 && !rowLost t r.2 s
    let ans : Msg := { type := 0x13, dst := src, args := msg :: sOk :: good.flatMap fun r => [r.1.1, r.1.2],
                       data := (good.map fun r => memRead s r.2 (t.dim * elemSize t.format)).flatten }
    let s := bump (EMB_ROWS_READ.COUNT t.home) here.length (bump (EMB_FORWARDED.COUNT t.home) fwd.length s)
    let out := (if here = [] then [] else [ans]) ++ fwd.map (fun f => ({ type := 0x14, dst := f.2, args := [msg, table, f.1.1, f.1.2, src] } : Msg)) ++
      gone.map fun r => { type := 0x13, dst := src, args := [msg, sNotFound, movedTo table r.1 (blk r) s, r.1, r.2] }
    { s with fabOut := out ++ s.fabOut }
def execEmbRead (src msg table : Nat) (rows bad : List (Nat × Nat)) (s : State) : Host.Outcome State Fault Refusal :=
  whenServing s (embRead src msg table rows bad)

/-- EMB_UPDATE message: a batch of another module joins the apply order of its home. -/
def embUpdateMsg (src msg table tick : Nat) (items : List EmbItem) (s : State) : State :=
  match sget s.embTabs table with
  | none => { s with fabOut := { type := 0x13, dst := src, args := [msg, sNotFound, 0xFFF] } :: s.fabOut }
  | some t =>
    let ok := fun (i : EmbItem) => (rowAddr t i.part i.row s).isSome || (blockTomb table i.part (i.row / 2 ^ t.blockLog2) s).isSome
    match items.find? fun i => !ok i with
    | some i => { s with fabOut := { type := 0x13, dst := src, args := [msg, sNotFound, movedTo table i.part (i.row / 2 ^ t.blockLog2) s] } :: s.fabOut }
    | none => { s with embSeq := s.embSeq + 1,
                       embQ := s.embQ ++ [{ tick := tick, src := src, seq := s.embSeq, table := table, items := items, msg := msg,
                                            late := decide (tick ≤ now s) }] }
def execEmbUpdateMsg (src msg table tick : Nat) (items : List EmbItem) (s : State) : Host.Outcome State Fault Refusal :=
  whenServing s (embUpdateMsg src msg table tick items)

/-! ## Blocks that move (R308) -/

/-- MIGRATE of an embedding block to a peer, under the conditions of R152. -/
def migrateBlock (h : Hdr) (dest table part block : Nat) (answers reach free room : Bool) (s : State) : State :=
  if h.fn ≠ 0 ∨ h.handle ≠ 0 ∨ 0xFFF < dest ∨ 1 < part ∨ (h.fenceDone ∧ ¬ mayFence h.fn h.fence s) ∨ (¬ h.fenceDone ∧ h.fence ≠ 0) then refuse h 0x09 sRejected s
  else match sget s.embTabs table with
  | none => complete h 0x09 sNotFound (0xFFF * 2 ^ 52) 0 0 s
  | some t =>
    if t.rows part ≤ block * 2 ^ t.blockLog2 then refuse h 0x09 sRejected s
    else if (rowAddr t part (block * 2 ^ t.blockLog2) s).isNone then complete h 0x09 sNotFound (movedTo table part block s * 2 ^ 52) 0 0 s
    else if s.migs.any fun m => m.block == some (table, part, block) then refuse h 0x09 sBusy s
    else if !answers || rd DIR_SELF.STATE s == 3 then refuse h 0x09 sTimeout s
    else if !reach then complete h 0x09 sNotFound (dest * 2 ^ 52) 0 0 s
    else if 256 ≤ s.migs.length ∨ !free then refuse h 0x09 sBusy s
    else if !room then refuse h 0x09 sCapacity s
    else
      let tag := newMigTag s
      match openMig { entry := newMigEntry s, tag := tag, idx := slots + 1 + tag, dest := dest, newHandle := 0, cls := rd (HIF_QP_CTRL.CLASS h.fn h.qp) s,
                      block := some (table, part, block), unsent := ceilDiv (2 ^ t.blockLog2 * t.stride) 65536,
                      base := (rowAddr t part (block * 2 ^ t.blockLog2) s).getD 0, bytes := 2 ^ t.blockLog2 * t.stride } [table, part, block] s with
      | none => refuse h 0x09 sCapacity s
      | some s => complete h 0x09 sOk 0 tag dest s
def execMigrateEmbBlock (h : Hdr) (dest table part block : Nat) (answers reach free room : Bool) (s : State) : Host.Outcome State Fault Refusal :=
  hostCmd h 0x09 s (migrateBlock h dest table part block answers reach free room)

/-- The switch tick of a block's migration: the map entry names another home, the block's replicas go, and the window opens. -/
def blockCommit (m : Migration) (b : Nat × Nat × Nat) (s : State) : State :=
  let s := cutTransits (fun t => t.idx == m.idx && t.kind == 7) { s with migs := s.migs.filter (·.tag != m.tag) }
  let s := showTransits (wr TRN_MIG_STATUS.OUT s.migs.length (bump TRN_MIGRATIONS.COUNT 1 s))
  let s := match sget s.embTabs b.1 with
    | none => s
    | some t =>
      let a := mapEntry t b.2.1 b.2.2
      let s := dropReplicas (fun r => r.table == b.1 && r.part == b.2.1 && r.row / 2 ^ t.blockLog2 == b.2.2) s
      drop (EMB_TABLE.LOCAL_BLOCKS b.1) 1 (memWrite a (leBytes 8 (leNat (memRead s a 8) / 2 * 2)) s)
  let s := { s with tombs := { idx := m.idx, newHandle := m.dest, limit := s.cad.edges + 256, block := some b } :: s.tombs,
                    embMoved := ((b, m.dest) :: s.embMoved.filter (·.1 != b)).take 4096 }
  let s := wr TRN_MIG_STATUS.TOMBSTONES s.tombs.length s
  match m.notify with
  | some (_, _, tag) => postPf 0x0009 0x05 sOk tag 0 s
  | none => s

end Sys2Proof.Machine
end

