-- ==== Sys2Proof/Machine/Vector.lean ====
section
/-!
DEFINITION. Sys2Proof/Machine/Vector.lean: vector search (R311 to R330): the tables of an index, codes and distances, visibility, updates,
graph traversal and repair, flat scans, queries and their results, and compaction.
-/
namespace Sys2Proof.Machine

/-! ## Slots, segments and the ID map (R312 to R314) -/

/-- A slot-table entry. STATE: 0 FREE, 1 PENDING, 2 LIVE, 3 GHOST. -/
structure VSlot where
  ext : Nat
  tick : Nat
  seg : Nat
  rcd : Nat
  state : Nat
  gen : Nat
deriving DecidableEq, Repr
def vslotOf (v : VecIndex) (n : Nat) (s : State) : VSlot :=
  let b := memRead s (v.slotTab + 32 * n) 32
  { ext := field b 0 8, tick := field b 8 8, seg := field b 16 4, rcd := field b 20 4, state := field b 24 1, gen := field b 25 1 }
def putVslot (v : VecIndex) (n : Nat) (e : VSlot) (s : State) : State :=
  memWrite (v.slotTab + 32 * n)
    (leBytes 8 e.ext ++ leBytes 8 e.tick ++ leBytes 4 e.seg ++ leBytes 4 e.rcd ++ leBytes 1 e.state ++ leBytes 1 e.gen ++ leBytes 6 0) s

/-- A segment-table entry. KIND: 0 FLAT, 1 GRAPH; STATE: 0 FREE, 1 OPEN, 2 SEALED, 3 BUILDING, 4 RETIRING. -/
structure VSeg where
  addr : Nat
  kind : Nat
  state : Nat
  records : Nat
  cap : Nat
  entry : Nat
  publish : Nat
deriving DecidableEq, Repr
def vsegOf (v : VecIndex) (n : Nat) (s : State) : VSeg :=
  let b := memRead s (v.segTab + 32 * n) 32
  { addr := field b 0 6, kind := field b 6 1, state := field b 7 1, records := field b 8 4, cap := field b 12 4, entry := field b 16 4,
    publish := field b 24 8 }
def putVseg (v : VecIndex) (n : Nat) (g : VSeg) (s : State) : State :=
  memWrite (v.segTab + 32 * n)
    (leBytes 6 g.addr ++ leBytes 1 g.kind ++ leBytes 1 g.state ++ leBytes 4 g.records ++ leBytes 4 g.cap ++ leBytes 4 g.entry ++ leBytes 4 0 ++
      leBytes 8 g.publish) s
/-- The segment numbers of an index that are not FREE. -/
def vsegs (v : VecIndex) (s : State) : List Nat := (List.range 4096).filter fun n => (vsegOf v n s).state != 0

/-- Address and bytes of a record. -/
def vrecAddr (v : VecIndex) (g : VSeg) (r : Nat) : Nat := g.addr + r * v.stride
def vrec (v : VecIndex) (g : VSeg) (r : Nat) (s : State) : List Byte := memRead s (vrecAddr v g r) v.stride
/-- The slot a record names. -/
def vrecSlot (v : VecIndex) (b : List Byte) : Nat := field b (v.stride - 4) 4
/-- Address of an edge of a record, and the edge: target slot and generation. -/
def vedgeAddr (v : VecIndex) (g : VSeg) (r e : Nat) : Nat := g.addr + g.cap * v.stride + (r * v.degree + e) * 8
def vedge (v : VecIndex) (g : VSeg) (r e : Nat) (s : State) : Nat × Nat :=
  let b := memRead s (vedgeAddr v g r e) 8
  (field b 0 4, field b 4 1)
def edgeBytes (slot gen : Nat) : List Byte := leBytes 4 slot ++ leBytes 1 gen ++ leBytes 3 0
def noEdge : Nat := 0xFFFF_FFFF

/-- Where an identifier's probe begins in the ID map. -/
def idHash (v : VecIndex) (x : Nat) : Nat := x * 0x9E37_79B9_7F4A_7C15 % 2 ^ 64 / 2 ^ (64 - v.idmapLog2)
/-- Probe for an identifier: the place of its entry with its slot, and the first place an insertion may take. -/
def idProbe (v : VecIndex) (x : Nat) (s : State) : Nat → Nat → Option Nat → Option (Nat × Nat) × Option Nat
  | 0, _, free => (none, free)
  | n + 1, k, free =>
    let a := v.idmap + 16 * (k % 2 ^ v.idmapLog2)
    let b := memRead s a 16
    let free' := if free.isNone then some a else free
    if field b 0 8 = ones64 then (none, free')
    else if field b 8 4 = 0xFFFF_FFFF then idProbe v x s n (k + 1) free'
    else if field b 0 8 = x then (some (a, field b 8 4), free)
    else idProbe v x s n (k + 1) free
def idFind (v : VecIndex) (x : Nat) (s : State) : Option (Nat × Nat) × Option Nat := idProbe v x s (2 ^ v.idmapLog2) (idHash v x) none
/-- Enter an identifier's slot. -/
def idPut (v : VecIndex) (x slot : Nat) (s : State) : State :=
  match idFind v x s with
  | (some (a, _), _) => memWrite (a + 8) (leBytes 4 slot) s
  | (none, some a) => memWrite a (leBytes 8 x ++ leBytes 4 slot) s
  | (none, none) => s
/-- Remove an identifier whose entry names a slot. -/
def idDrop (v : VecIndex) (x slot : Nat) (s : State) : State :=
  match idFind v x s with
  | (some (a, k), _) => if k = slot then memWrite (a + 8) (leBytes 4 0xFFFF_FFFF) s else s
  | (none, _) => s

/-- The cells a probe for an identifier reads. -/
def idCells (v : VecIndex) (x : Nat) (s : State) : Nat → Nat → List Nat
  | 0, _ => []
  | n + 1, k =>
    let a := v.idmap + 16 * (k % 2 ^ v.idmapLog2)
    let b := memRead s a 16
    if field b 0 8 = ones64 || (field b 8 4 != 0xFFFF_FFFF && field b 0 8 == x) then [a] else a :: idCells v x s n (k + 1)
/-- The slot-table entry, or the segment-table entry, lies in an uncorrectable codeword. -/
def slotBad (v : VecIndex) (k : Nat) (s : State) : Bool := poisonIn (v.slotTab + 32 * k) 32 s
def segBad (v : VecIndex) (n : Nat) (s : State) : Bool := poisonIn (v.segTab + 32 * n) 32 s
/-- A poisoned read of these slot entries is reported (R314); the entry's stored bytes stand, as the spec gives an update no other effect. -/
def slotsRead (v : VecIndex) (ks : List Nat) (s : State) : State :=
  if s.poison = [] then s else ks.foldl (fun s k => readBad (v.slotTab + 32 * k) 32 s) s
def segsRead (v : VecIndex) (ns : List Nat) (s : State) : State :=
  if s.poison = [] then s else ns.foldl (fun s n => readBad (v.segTab + 32 * n) 32 s) s
def idsRead (v : VecIndex) (xs : List Nat) (s : State) : State :=
  if s.poison = [] then s
  else (xs.flatMap fun x => idCells v x s (2 ^ v.idmapLog2) (idHash v x)).foldl (fun s a => readBad a 16 s) s

/-- Change an index. -/
def modVec (i : Nat) (f : VecIndex → VecIndex) (s : State) : State :=
  match sget s.vecs i with
  | some v => { s with vecs := sset s.vecs i (f v) }
  | none => s
/-- An index that is defined and ready. -/
def vecOf (i : Nat) (s : State) : Option VecIndex := if isSet (VEC_INDEX.READY i) s then sget s.vecs i else none
/-- A generation defines an index: every slot FREE with GEN 0, every segment FREE, the ID map empty; then it is READY (R328). -/
def vecDefine (i : Nat) (v : VecIndex) (s : State) : State :=
  let s := memClear v.segTab (32 * 4096) (memClear v.slotTab (32 * v.maxSlots) { s with vecs := sset s.vecs i v })
  let s := memWrite v.idmap ((List.replicate (2 ^ v.idmapLog2) (List.replicate 8 0xFF#8 ++ List.replicate 8 0#8)).flatten) s
  wr (VEC_INDEX.VALID i) 1 (wr (VEC_INDEX.READY i) 1 (wr (VEC_INDEX.SEGMENTS i) 0 (wr (VEC_INDEX.LIVE i) 0 s)))

/-! ## Codes and distances (R315, R316) -/

/-- Elements of centroid (m, c), as FP32 patterns. -/
def centroid (v : VecIndex) (m c : Nat) (s : State) : List Nat :=
  let w := v.dim / v.m
  (pieces 4 w (memRead s (v.codebook + (16 * m + c) * 4 * w) (4 * w))).map leNat
/-- The exact squared distance of two runs of elements. -/
def sqDist (y c : List Nat) : List Val := (y.zip c).map fun p => let d := valAdd (ofF32 p.1) (valNeg (ofF32 p.2)); valMul d d
/-- The code of a vector's subspace `m` (R315). -/
def codeNear (v : VecIndex) (m : Nat) (y : List Nat) (s : State) : Nat :=
  let dist := fun c => (sqDist y (centroid v m c s)).foldl valAdd (.num false 0 0)
  (List.range 16).foldl (fun best c => if valLt (dist c) (dist best) then c else best) 0
/-- The part of a vector in subspace `m`. -/
def subOf (v : VecIndex) (y : List Nat) (m : Nat) : List Nat := (y.drop (m * (v.dim / v.m))).take (v.dim / v.m)
def codesOf (v : VecIndex) (y : List Nat) (s : State) : List Nat := (List.range v.m).map fun m => codeNear v m (subOf v y m) s

/-- Rounded to nearest, ties to even, and saturated to 255 (R316); a NaN, of which the spec gives no conversion, takes `free`. -/
def toU8 (c free : Nat) : Nat :=
  match ofF32 c with
  | .nan => free % 256
  | .inf n => if n then 0 else 255
  | .num n m e => if n then 0 else let (p, q) := pow2 e; min 255 (roundDiv (m * p) q)
def f32Min (l : List Nat) : Nat := match l with
  | [] => 0
  | x :: r => r.foldl (fun a b => if f32Lt b a then b else a) x
def f32Max (l : List Nat) : Nat := match l with
  | [] => 0
  | x :: r => r.foldl (fun a b => if f32Lt a b then b else a) x

/-- The table of a query (R316): the LUT, the sum of the lo_m, and Q. It takes `16 M + 1` draws. -/
structure VTable where
  lut : List Byte
  lo : Nat
  q : Nat
deriving DecidableEq, Repr
def vtable (v : VecIndex) (y : List Nat) (draw : Nat) (s : State) : VTable :=
  let row := fun m => (List.range 16).map fun c =>
    let y := subOf v y m
    let ts := if v.metric = 0 then sqDist y (centroid v m c s) else (y.zip (centroid v m c s)).map fun p => valNeg (valMul (ofF32 p.1) (ofF32 p.2))
    boundedSum ts (Config.openF32 (draw + 16 * m + c))
  let l := (List.range v.m).map row
  let span := f32Max (l.map fun r => f32Sub (f32Max r) (f32Min r))
  let q := if span % 2 ^ 31 = 0 then 0x3F80_0000 else f32Div 0x437F_0000 span
  let lut := ((l.zip (List.range v.m)).map fun r => (r.1.zip (List.range 16)).map fun x =>
    BitVec.ofNat 8 (toU8 (f32Mul (f32Sub x.1 (f32Min r.1)) q) (Config.openNat (draw + 16 * r.2 + x.2)))).flatten
  { lut := lut, lo := boundedSum (l.map fun r => ofF32 (f32Min r)) (Config.openF32 (draw + 16 * v.m)), q := q }
def tableDraws (v : VecIndex) : Nat := 16 * v.m + 1
/-- A filter that every record passes, with a table. -/
def parAll (v : VecIndex) (lut : List Byte) : ScanPar :=
  { mask := 0, mat := 0, lo0 := 0, hi0 := 0xFFFF_FFFF, lo1 := 0, hi1 := 0xFFFF_FFFF, m := v.m, thresh := 0xFFFF_FFFF, lut := lut, rest := true }
/-- The vector a record's codes decode to. -/
def decoded (v : VecIndex) (b : List Byte) (s : State) : List Nat := ((List.range v.m).map fun m => centroid v m (codeOf b m) s).flatten

/-! ## Visibility (R317) -/

/-- A slot may be returned by a query that began at tick `q0`. -/
def slotVisible (e : VSlot) (q0 : Nat) : Bool := (e.state == 2 && decide (e.tick ≤ q0)) || (e.state == 3 && decide (q0 ≤ e.tick))
/-- A slot names a record. -/
def slotNames (e : VSlot) (seg r : Nat) : Bool := e.state != 0 && e.seg == seg && e.rcd == r

/-! ## Traversal (R320) -/

/-- What a search meets, beside its lists: records whose distance was computed, bad records, stale edges, and the slots whose entries it read. -/
structure TravOut where
  t : VecTrav
  scanned : Nat := 0
  bad : Nat := 0
  stale : List (Nat × Nat) := []
  read : List Nat := []
deriving DecidableEq, Repr

def pairBefore (a b : Nat × Nat) : Bool := decide (a.1 < b.1) || (a.1 == b.1 && decide (a.2 < b.2))
def insPair (x : Nat × Nat) : List (Nat × Nat) → List (Nat × Nat)
  | [] => [x]
  | y :: r => if pairBefore x y then x :: y :: r else y :: insPair x r
def insFront (x : Nat × Nat) : List (Nat × Nat × Bool) → List (Nat × Nat × Bool)
  | [] => [(x.1, x.2, false)]
  | y :: r => if pairBefore x (y.1, y.2.1) then (x.1, x.2, false) :: y :: r else y :: insFront x r

/-- Visit a slot. `loc` gives its record in the segment with the record's bytes, where it has one; `adm` says whether the results take it. -/
def visitSlot (loc : Nat → Option (Nat × List Byte)) (adm : Nat → Nat → List Byte → Bool) (par : ScanPar) (ef : Nat) (o : TravOut) (slot : Nat) : TravOut :=
  if o.t.visited.contains slot then o
  else
    let o := { o with read := o.read ++ [slot] }
    let full := decide (65536 ≤ o.t.visited.length)
    let t := { o.t with visited := if full then o.t.visited else o.t.visited ++ [slot], overflow := o.t.overflow || full }
    match loc slot with
    | none => { o with t := t, bad := o.bad + 1 }
    | some (r, b) =>
      let d := codeDistance par b
      let t := { t with frontier := (insFront (d, slot) t.frontier).take ef,
                        results := if adm slot r b then (insPair (d, slot) t.results).take ef else t.results }
      { o with t := t, scanned := o.scanned + 1 }
/-- Expand records, best first, at most `n`. `edges` gives a slot's edges that are in use, each with its position and whether it is stale. -/
def expandLoop (visit : TravOut → Nat → TravOut) (edges : Nat → List (Nat × Nat × Bool)) (ef : Nat) : Nat → TravOut → Nat × TravOut
  | 0, o => (0, o)
  | n + 1, o =>
    match o.t.frontier.find? fun x => !x.2.2 with
    | none => (0, { o with t := { o.t with done := true } })
    | some x =>
      if ef ≤ o.t.results.length ∧ ((o.t.results.getLast?.map fun y => pairBefore y (x.1, x.2.1)).getD false) then (0, { o with t := { o.t with done := true } })
      else
        let t := { o.t with frontier := o.t.frontier.map fun y => if y = x then (x.1, x.2.1, true) else y }
        let o := (edges x.2.1).foldl (fun o e => if e.2.2 then { o with stale := o.stale ++ [(x.2.1, e.1)] } else visit o e.2.1)
          { o with t := t, read := o.read ++ (edges x.2.1).map (·.2.1) }
        let (k, o) := expandLoop visit edges ef n o
        (k + 1, o)

/-- The edges in use of record `r`, with position, target and whether each is stale. -/
def edgesOf (v : VecIndex) (g : VSeg) (r : Nat) (s : State) : List (Nat × Nat × Bool) :=
  (List.range v.degree).filterMap fun e =>
    let x := vedge v g r e s
    if x.1 = noEdge then none
    else
      let y := vslotOf v x.1 s
      some (e, x.1, decide (v.maxSlots ≤ x.1) || y.gen != x.2 || y.state == 0)
/-- The record of a slot in a segment: its entry names the segment, and the record names it back (R327). -/
def locIn (v : VecIndex) (n : Nat) (g : VSeg) (s : State) (slot : Nat) : Option (Nat × List Byte) :=
  let e := vslotOf v slot s
  let b := vrec v g e.rcd s
  if slot < v.maxSlots ∧ e.state ≠ 0 ∧ e.seg = n ∧ vrecSlot v b = slot then some (e.rcd, b) else none

/-- Queue stale edges for repair (R321). -/
def queueRepairs (i home : Nat) (stale : List (Nat × Nat)) (s : State) : State :=
  let s := bump (VEC_STALE_EDGES.COUNT home) stale.length s
  let s := stale.foldl (fun s e =>
    match sget s.vecs i with
    | some v => if v.repairs.length < 65536 then modVec i (fun v => { v with repairs := v.repairs ++ [e] }) s else bump (VEC_REPAIR_DROPS.COUNT home) 1 s
    | none => s) s
  wr (VEC_REPAIR.QUEUED i) (((sget s.vecs i).map (·.repairs.length)).getD 0) s

def setQuery (q q' : VecQuery) (s : State) : State := { s with vecQs := s.vecQs.map fun x => if x = q then q' else x }
def setTrav (t' : VecTrav) (q : VecQuery) : VecQuery := { q with travs := q.travs.map fun t => if t.seg = t'.seg then t' else t }
/-- The kernel of a query's traversal, and of a compaction. -/
def travKern (q : VecQuery) (seg : Nat) (s : State) : Kern :=
  { cls := rd (HIF_QP_CTRL.CLASS q.h.fn q.h.qp) s, fn := q.h.fn, queued := now s, op := 0x000A, ref := q.id * 4096 + seg }
def compactRef : Nat := 2 ^ 60
def compactKern (i : Nat) (s : State) : Kern := { cls := 7, fn := 0, queued := now s, op := 0x000A, ref := compactRef + i }
def queueKern (p : Nat) (k : Kern) (s : State) : State := showSched p (modPart p (fun x => { x with queue := x.queue ++ [k] }) s)

/-- One kernel of a query's traversal: it expands at most EXPAND_PER_KERNEL records, and another follows while work is left. A poisoned read of a slot
entry or of the segment's entry is reported, and the segment skipped; `poison` says that this kernel's reads find one that was good before. -/
def travKernel (p : Nat) (q : VecQuery) (seg : Nat) (poison : Bool) (s : State) : State :=
  match q.travs.find? (·.seg == seg), vecOf q.index s with
  | some t, some v =>
    let g := vsegOf v seg s
    let lost := fun s => setQuery q { setTrav { t with results := [], done := true } q with poisoned := true } s
    if poison then lost (slotsRead v [g.entry] (spoil (v.slotTab + 32 * g.entry) 32 s))
    else if segBad v seg s || !chUp (gchan g.addr) s then lost (segsRead v [seg] s)
    else
      let loc := locIn v seg g s
      let adm := fun slot r b => scanPass q.par b && slotVisible (vslotOf v slot s) q.q0 && slotNames (vslotOf v slot s) seg r
      let visit := visitSlot loc adm q.par q.ef
      let edges := fun slot => match loc slot with
        | some x => edgesOf v g x.1 s
        | none => []
      let o : TravOut := { t := { t with begun := true } }
      let o := if t.begun then o else visit o g.entry
      let (k, o) := expandLoop visit edges q.ef (max 1 (rd VEC_CFG.EXPAND_PER_KERNEL s)) o
      if o.read.any fun k => slotBad v k s then lost (slotsRead v o.read.eraseDups s)
      else
      let q' := { setTrav o.t q with scanned := q.scanned + o.scanned, stale := q.stale + o.stale.length }
      let s := bump (VEC_EXPANSIONS.COUNT v.home) k (bump (VEC_BAD_RECORDS.COUNT v.home) o.bad (setQuery q q' s))
      let s := bump (VEC_VISITED_OVERFLOW.COUNT v.home) (b2n (o.t.overflow && !t.overflow)) s
      let s := queueRepairs q.index v.home o.stale s
      if o.t.done then s else queueKern p (travKern q seg s) s
  | _, _ => s

/-! ## Building a graph segment (R326) -/

/-- Write the edges of record `r`: slots in order, the rest unused. -/
def putEdges (v : VecIndex) (g : VSeg) (r : Nat) (ts : List Nat) (s : State) : State :=
  let bs := (List.range v.degree).map fun e => match (ts.drop e).head? with
    | some t => edgeBytes t (vslotOf v t s).gen
    | none => edgeBytes noEdge 0
  memWrite (vedgeAddr v g r 0) bs.flatten s
/-- The first `n` of some slots by distance under a record's own table. -/
def nearest (v : VecIndex) (dist : Nat → Nat) (ts : List Nat) (n : Nat) : List Nat :=
  ((ts.map fun t => (dist t, t)).foldl (fun acc x => insPair x acc) []).take n |>.map fun x => let _ := v; x.2
/-- Build one record of the new segment: the copy of its slot's record, linked to its nearest records already built, which link back. A record that does
not name its slot back is skipped (R327). -/
def buildOne (v : VecIndex) (c : VecCompact) (s : State) (slot : Nat) : VecCompact × State :=
  let g := vsegOf v c.seg s
  let e := vslotOf v slot s
  let b := vrec v (vsegOf v e.seg s) e.rcd s
  if vrecSlot v b ≠ slot then ({ c with todo := c.todo.tail }, bump (VEC_BAD_RECORDS.COUNT v.home) 1 s)
  else
  let s := slotsRead v [slot] s
  let n := c.built.length
  let bytes := fun k => vrec v g k s
  let place := fun x => (c.built.zip (List.range n)).find? (fun y => y.1 == x) |>.map fun y => (y.2, bytes y.2)
  let tab := vtable v (decoded v b s) s.fresh s
  let par := parAll v tab.lut
  let s := { s with fresh := s.fresh + tableDraws v }
  let ef := 4 * v.degree
  let visit := visitSlot place (fun _ _ _ => true) par ef
  let edges := fun x => match place x with
    | some y => (edgesOf v g y.1 s).map fun e => (e.1, e.2.1, false)
    | none => []
  let o := if n = 0 then { t := { seg := c.seg } } else visit { t := { seg := c.seg } } (c.built.headD 0)
  let (_, o) := expandLoop visit edges ef (n + 1) o
  let near := (o.t.results.take v.degree).map (·.2)
  let s := putEdges v g n near (memWrite (vrecAddr v g n) b s)
  let s := near.foldl (fun s x => match place x with
    | none => s
    | some y =>
      let own := vtable v (decoded v y.2 s) s.fresh s
      let s := { s with fresh := s.fresh + tableDraws v }
      let old := (edgesOf v g y.1 s).map (·.2.1)
      let dist := fun t => if t = slot then codeDistance (parAll v own.lut) b
        else match place t with
          | some z => codeDistance (parAll v own.lut) z.2
          | none => 0xFFFF_FFFF
      if old.length < v.degree then putEdges v g y.1 (old ++ [slot]) s else putEdges v g y.1 (nearest v dist (old ++ [slot]) v.degree) s) s
  let s := putVseg v c.seg { g with records := n + 1, entry := if n = 0 then slot else g.entry } s
  ({ c with built := c.built ++ [slot], todo := c.todo.tail }, wr VEC_COMPACT_STATUS.BUILT (n + 1) s)
/-- Build up to `k` records. -/
def buildMany (v : VecIndex) : Nat → VecCompact → State → VecCompact × State
  | 0, c, s => (c, s)
  | k + 1, c, s =>
    match c.todo with
    | [] => (c, s)
    | x :: _ => let (c, s) := buildOne v c s x; buildMany v k c s
def setCompact (c c' : VecCompact) (s : State) : State := { s with vecCompacts := s.vecCompacts.map fun x => if x = c then c' else x }
/-- A compaction kernel. -/
def compactKernel (p i built : Nat) (s : State) : State :=
  match s.vecCompacts.find? (fun c => c.index == i && c.publish.isNone), sget s.vecs i with
  | some c, some v =>
    let (c', s) := buildMany v built c s
    let c' := if c'.todo = [] then { c' with edge := s.cad.edges } else c'
    let s := setCompact c c' s
    if c'.todo = [] then s else queueKern p (compactKern i s) s
  | _, _ => s

/-- The channels of some segments are in MEMORY mode: an array's requests for them are served (R110, R322). -/
def segsServed (v : VecIndex) (ns : List Nat) (s : State) : Bool := ns.all fun n => !chProcessor (gchan (vsegOf v n s).addr) s
/-- The segments that a VEC_TRAVERSE kernel reads or writes are served. -/
def travServed (k : Kern) (s : State) : Bool :=
  if compactRef ≤ k.ref then
    match s.vecCompacts.find? (fun c => c.index == k.ref - compactRef && c.publish.isNone), sget s.vecs (k.ref - compactRef) with
    | some c, some v => segsServed v (c.seg :: c.run) s
    | _, _ => true
  else match (s.vecQs.find? (·.id == k.ref / 4096)).bind fun q => sget s.vecs q.index with
    | some v => segsServed v [k.ref % 4096] s
    | none => true
/-- VEC_TRAVERSE: the kernel that a partition runs works for a query or for a compaction. While a channel it needs is in PROCESSOR mode its requests wait. -/
def vecTraverse (p built : Nat) (poison : Bool) (s : State) : State :=
  match (partOf p s).running with
  | none => s
  | some r =>
    if r.kern.op ≠ 0x000A ∨ r.ofStep ∨ r.ran ∨ !travServed r.kern s then s
    else
      let s := modPart p (fun x => { x with running := some { r with ran := true } }) s
      if compactRef ≤ r.kern.ref then compactKernel p (r.kern.ref - compactRef) built s
      else match s.vecQs.find? (·.id == r.kern.ref / 4096) with
        | some q => travKernel p q (r.kern.ref % 4096) poison s
        | none => s
def execVecTraverse (part built : Nat) (poison : Bool) (s : State) : Host.Outcome State Fault Refusal := whenServing s (vecTraverse part built poison)

/-! ## Flat scans (R322) -/

/-- THRESHOLD for a distance limit; `none` where it is negative. -/
def scanThresh (maxDist lo q : Nat) : Option Nat :=
  if maxDist = f32Inf then some 0xFFFF_FFFF
  else match ofF32 (f32Mul (f32Sub maxDist lo) q) with
    | .nan => none
    | .inf n => if n then none else some 0xFFFF_FFFF
    | .num n m e => if n ∧ m ≠ 0 then none else let (a, b) := pow2 e; some (min 0xFFFF_FFFF (m * a / b))
def setScan (x : VecScan) (q : VecQuery) : VecQuery := { q with scans := q.scans.map fun y => if y.seg = x.seg then x else y }
/-- Issue a scan where its channel's queue has room, with a place in the channel for its results; a segment without records needs none. A scan that R118
refuses has nothing to give, as one whose channel is lost. -/
def issueScan (q : VecQuery) (x : VecScan) (s : State) : State :=
  match vecOf q.index s with
  | none => s
  | some v =>
    let g := vsegOf v x.seg s
    if g.records = 0 then setQuery q (setScan { x with state := 2 } q) s
    else if !chUp (gchan g.addr) s then setQuery q { setScan { x with state := 2 } q with poisoned := true } s
    else match placeIn (gchan g.addr) (32 + 8 * (rd VEC_CFG.SCAN_CAP s * 1024)) 64 s with
    | none => s
    | some res =>
      let o : BankOp := { op := 4, tag := x.seg, src := g.addr, dst := res, len := ceilDiv (g.records * v.stride) 64, stride := v.stride, a := 0,
                          b := rd VEC_CFG.SCAN_CAP s * 1024, issuer := 1, ref := q.id, par := some { q.par with thresh := x.thresh } }
      let c := bankCheck (stackOf g.addr) o true s
      if c = sOk then
        bankQueue o (bump (VEC_SCANS.COUNT v.home) (b2n (x.again == 0)) (setQuery q (setScan { x with state := 1 } q) { s with fresh := s.fresh + 1 }))
      else if c = sBusy then s
      else setQuery q { setScan { x with state := 2 } q with poisoned := true } s
/-- Issue the scans that wait. -/
def issueScans (s : State) : State :=
  ((s.vecQs.map fun q => (q.scans.filter (·.state == 0)).map fun x => (q.id, x)).flatten).foldl (fun s p =>
    match s.vecQs.find? (·.id == p.1) with
    | some q => issueScan q p.2 s
    | none => s) s
/-- A scan of a query is lost with its channel: the query goes on without its segment. -/
def scanLost (o : BankOp) (s : State) : State :=
  match s.vecQs.find? (·.id == o.ref) with
  | none => s
  | some q =>
    match q.scans.find? (·.seg == o.tag) with
    | some x => setQuery q { setScan { x with state := 2 } q with poisoned := true } s
    | none => s
/-- A scan of a query has ended: mapped and filtered by R317, or reissued with a lower threshold where it was truncated (VEC_RESCAN). `poison`: its reads
of slot entries find one uncorrectable that was good before. -/
def scanDone (o : BankOp) (poison : Bool) (s : State) : State :=
  match s.vecQs.find? (·.id == o.ref) with
  | none => s
  | some q =>
    match q.scans.find? (·.seg == o.tag), vecOf q.index s with
    | some x, some v =>
      let g := vsegOf v x.seg s
      let trunc := decide (o.written < o.matched)
      let ranked := (o.hits.map fun e => (e.2, e.1)).foldl (fun acc e => insPair e acc) []
      let lower := ((ranked.drop (q.ef - 1)).head?.map (·.1))
      let q1 := { q with scanned := q.scanned + min o.scanned g.records }
      let slots := (o.hits.filter fun e => decide (e.1 < g.records)).map fun e => vrecSlot v (vrec v g e.1 s)
      let s := spoilIf (poison && !slots.isEmpty) (v.slotTab + 32 * slots.headD 0) 32 s
      if slots.any fun k => slotBad v k s then setQuery q { setScan { x with state := 2 } q1 with poisoned := true } (slotsRead v slots.eraseDups s)
      else match trunc && decide (x.again < 3), lower with
        | true, some t => bump (VEC_RESCANS.COUNT v.home) 1 (setQuery q (setScan { x with state := 0, again := x.again + 1, thresh := t } q1) s)
        | _, _ =>
          let recs := (o.hits.filter fun e => decide (e.1 < g.records)).map fun e => (vrecSlot v (vrec v g e.1 s), e.1, e.2)
          let good := recs.filter fun e => decide (e.1 < v.maxSlots) && slotNames (vslotOf v e.1 s) x.seg e.2.1
          let seen := good.filter fun e => slotVisible (vslotOf v e.1 s) q.q0
          bump (VEC_BAD_RECORDS.COUNT v.home) (recs.length - good.length)
            (setQuery q { setScan { x with state := 2, hits := seen.map fun e => (e.1, e.2.2) } q1 with truncated := q1.truncated || trunc } s)
    | _, _ => s

/-! ## Queries (R323 to R325) -/

/-- The query uses a segment (R324). -/
def segUsed (g : VSeg) (q0 : Nat) : Bool :=
  ((g.state == 1 || g.state == 2) && decide (g.publish ≤ q0)) || (g.state == 4 && decide (q0 < g.publish))
/-- The fields of a query block hold what R323 allows. -/
def queryOk (b : List Byte) : Bool :=
  let k := field b 2 2
  let ef := field b 4 2
  decide (field b 0 1 < 64) && decide (1 ≤ field b 1 1) && decide (field b 1 1 ≤ 3) && decide (1 ≤ k) && decide (k ≤ 1024) && decide (k ≤ ef) &&
    decide (ef ≤ 1024) && field b 6 2 == 0 && (field b 16 8 &&& field b 8 8) == field b 16 8 && !f32NaN (field b 0x28 4) && field b 0x2C 20 == 0
/-- VEC_QUERY: the checks, Q0, the table, and the traversals and scans of the segments in use. Segments whose entry is read poisoned are skipped: those
that lie in uncorrectable codewords, and those of `skip`, which these reads find so. -/
def vecQuery (h : Hdr) (query : Buf) (result bytes : Nat) (skip : List Nat) (s : State) : State :=
  if intakeFails h 0x10 false s then refuse h 0x10 sRejected s
  else match bufRead h query 64 s with
  | none => bufFault h query 64 0x10 s
  | some b =>
    if !queryOk b || decide (bytes < 32 + 16 * field b 2 2) || !bufFits h result (32 + 16 * field b 2 2) then refuse h 0x10 sRejected s
    else match vecOf (field b 0 1) s with
    | none => complete h 0x10 sNotFound (0xFFF * 2 ^ 52) 0 0 s
    | some v =>
      match bufRead h query (64 + 4 * v.dim) s with
      | none => bufFault h query (64 + 4 * v.dim) 0x10 s
      | some b =>
        let y := (pieces 4 v.dim (b.drop 64)).map leNat
        if y.any f32NaN then refuse h 0x10 sRejected s
        else
          let q0 := now s
          let tab := vtable v y s.fresh s
          let used := (vsegs v s).filter fun n => segUsed (vsegOf v n s) q0
          let th := scanThresh (field b 0x28 4) tab.lo tab.q
          let s := (used.filter skip.contains).foldl (fun s n => spoil (v.segTab + 32 * n) 32 s) s
          let lost := used.filter fun n => segBad v n s
          let s := segsRead v lost s
          let live := if th.isNone then [] else used.filter fun n => !lost.contains n
          let graphs := if bitOf (field b 1 1) 0 then live.filter fun n => (vsegOf v n s).kind == 1 && (vsegOf v n s).records != 0 else []
          let flats := if bitOf (field b 1 1) 1 then live.filter fun n => (vsegOf v n s).kind == 0 else []
          let wanted := used.filter fun n => bitOf (field b 1 1) (1 - (vsegOf v n s).kind)
          if 4096 < (partOf v.part s).queue.length + graphs.length then refuse h 0x10 sBusy s
          else
            let par : ScanPar := { mask := field b 8 8, mat := field b 16 8, lo0 := field b 24 4, hi0 := field b 28 4, lo1 := field b 32 4, hi1 := field b 36 4,
                                   m := v.m, thresh := th.getD 0, lut := tab.lut, rest := true }
            let q : VecQuery := { id := s.vecSeq, h := h, index := field b 0 1, q0 := q0, k := field b 2 2, ef := field b 4 2, par := par, q := tab.q, lo := tab.lo,
                                  result := result, travs := graphs.map fun n => { seg := n }, scans := flats.map fun n => { seg := n, thresh := th.getD 0 },
                                  poisoned := th.isSome && wanted.any lost.contains }
            let s := { s with fresh := s.fresh + tableDraws v, vecSeq := s.vecSeq + 1, vecQs := s.vecQs ++ [q] }
            issueScans (graphs.foldl (fun s n => queueKern v.part (travKern q n s) s) s)
def execVecQuery (h : Hdr) (query : Buf) (result bytes : Nat) (skip : List Nat) (s : State) : Host.Outcome State Fault Refusal :=
  hostCmd h 0x10 s (vecQuery h query result bytes skip)

/-- Merge partial results, at most 32 at a time, until one is left; each merge takes two draws. -/
def mergeRound (k draw : Nat) : Nat → List SelOut → List SelOut
  | 0, _ => []
  | n + 1, l => match l with
    | [] => []
    | _ => selectMerge true 1 0 k ((l.take 32).map fun r => partialOf (selBytes r)) (draw + 2 * n) :: mergeRound k draw n (l.drop 32)
def mergeAll (k draw : Nat) : Nat → List SelOut → Option SelOut
  | 0, l => l.head?
  | n + 1, l => if l.length ≤ 1 then l.head? else mergeAll k (draw + 2 * l.length) n (mergeRound k draw l.length l)
/-- The lists of a query as SELECT pairs. -/
def queryLists (q : VecQuery) : List (List (Nat × Nat)) :=
  q.travs.map (fun t => t.results.map fun e => (e.2, f32OfNat e.1)) ++ q.scans.map fun x => x.hits.map fun e => (e.1, f32OfNat e.2)
/-- The bytes of a query's result (R325). -/
def queryBytes (q : VecQuery) (es : List (Nat × Nat × Bool)) (approx : Bool) (sSel sOut status : Nat) : List Byte :=
  let n := es.length
  let flags := b2n (decide (n < q.k)) + 2 * b2n approx + 4 * b2n q.truncated + 8 * b2n (es.any (·.2.2)) + 16 * b2n (status == sPartial)
  leBytes 2 n ++ leBytes 2 q.k ++ leBytes 1 flags ++ leBytes 1 status ++ leBytes 2 0 ++ leBytes 8 q.q0 ++ leBytes 4 sSel ++ leBytes 4 sOut ++
    leBytes 4 (min q.scanned 0xFFFF_FFFF) ++ leBytes 4 q.stale ++
    (es.map fun e => leBytes 8 e.1 ++ leBytes 4 e.2.1 ++ leBytes 1 (b2n e.2.2) ++ leBytes 3 0).flatten ++
    (List.replicate (q.k - n) (leBytes 8 ones64 ++ leBytes 4 f32Inf ++ leBytes 4 0)).flatten
/-- VEC_QUERY_MERGE: every list is in; they are merged, checked again for visibility, and written. An entry whose slot is read poisoned by that check is
dropped, and the result PARTIAL. -/
def queryMerge (id : Nat) (s : State) : State :=
  match s.vecQs.find? (·.id == id) with
  | none => s
  | some q =>
    if (q.travs.any fun t => !t.done) || q.scans.any (fun x => x.state != 2) then s
    else match sget s.vecs q.index with
      | none => s
      | some v =>
        let ls := queryLists q
        let rows := (ls.zip (List.range ls.length)).map fun l => selectRow true 1 0 q.k l.1 (s.fresh + 2 * l.2)
        let out := mergeAll q.k (s.fresh + 2 * ls.length) ls.length rows
        let segs := q.travs.map (·.seg) ++ q.scans.map (·.seg)
        let found := (out.map (·.entries)).getD []
        let blind := found.any fun e => slotBad v e.1 s
        let keep := found.filter fun e =>
          let x := vslotOf v e.1 s
          !slotBad v e.1 s && slotVisible x q.q0 && segs.contains x.seg && vrecSlot v (vrec v (vsegOf v x.seg s) x.rcd s) == e.1
        let es := keep.map fun e => ((vslotOf v e.1 s).ext, f32Add q.lo (f32Div e.2 q.q), (vslotOf v e.1 s).state == 3)
        let status := if q.poisoned ∨ q.truncated ∨ blind then sPartial else sOk
        let bs := queryBytes q es ((out.map (·.approx)).getD false) ((out.map (·.sSel)).getD 0) ((out.map (·.sOut)).getD 0) status
        let s := slotsRead v (found.map (·.1)) s
        let s := bufWrite q.h q.result bs { s with fresh := s.fresh + 8 * ls.length + 2, vecQs := s.vecQs.filter (· != q) }
        let s := bump (VEC_DELETED_RETURNED.COUNT v.home) (es.filter (·.2.2)).length (bump (VEC_QUERIES.COUNT v.home) 1 s)
        complete q.h 0x10 status 0 es.length q.q0 s
def execVecQueryMerge (query : Nat) (s : State) : Host.Outcome State Fault Refusal := whenServing s (queryMerge query)

/-! ## Updates (R318, R319) -/

/-- The channels that a mask names on an index's stacks. -/
def vecChanList (v : VecIndex) (mask : Nat) : List Nat :=
  ((List.range 6).filter (bitOf v.stackSet ·)).flatMap fun j => ((List.range 32).filter (bitOf mask ·)).map fun c => 192 * v.home + 32 * j + c
/-- Of some channels, the one with most free space, the lowest number on a tie. -/
def mostFree (cs : List Nat) (s : State) : Option Nat :=
  cs.foldl (fun best g => match best with
    | none => some g
    | some b => if chFill g s < chFill b s then some g else best) none
/-- The lowest segment number that is FREE. -/
def freeSeg (v : VecIndex) (s : State) : Option Nat := (List.range 4096).find? fun n => (vsegOf v n s).state == 0
def openSeg (v : VecIndex) (s : State) : Option Nat := (List.range 4096).find? fun n => (vsegOf v n s).state == 1
def sealSeg (v : VecIndex) (n : Nat) (s : State) : State := putVseg v n { vsegOf v n s with state := 2 } s
/-- Open a new flat segment. Its capacity is left open, within the channel's free space; it is not published before its first batch commits. -/
def openNew (i : Nat) (v : VecIndex) (s : State) : Option State :=
  match freeSeg v s, mostFree (vecChanList v v.flatCh) s with
  | some n, some g =>
    let most := (chanBytes - chFill g s) / v.stride
    if most = 0 then none
    else
      let cap := Config.openNat s.fresh % most + 1
      (allocIn [g] (cap * v.stride) { s with fresh := s.fresh + 1 }).map fun (_, a, s) =>
        bump (VEC_INDEX.SEGMENTS i) 1
          (putVseg v n { addr := a, kind := 0, state := 1, records := 0, cap := cap, entry := 0, publish := ones64 } s)
  | _, _ => none
/-- A segment that takes one more record: the OPEN one, or, where it is full, a new one after it is sealed. -/
def roomSeg (i : Nat) (v : VecIndex) (s : State) : Option (Nat × State) :=
  match openSeg v s with
  | some n =>
    let g := vsegOf v n s
    if g.records < g.cap then some (n, s)
    else (openNew i v (sealSeg v n s)).bind fun s => (openSeg v s).map fun n => (n, s)
  | none => (openNew i v s).bind fun s => (openSeg v s).map fun n => (n, s)
/-- Take a slot off the free list. -/
def takeSlot (i : Nat) (s : State) : Option (Nat × State) :=
  match sget s.vecs i with
  | none => none
  | some v =>
    if v.next < v.maxSlots then some (v.next, modVec i (fun v => { v with next := v.next + 1 }) s)
    else match v.freed with
      | x :: r => some (x, modVec i (fun v => { v with freed := r }) s)
      | [] => none
/-- The record of an item (R314). -/
def recordBytes (v : VecIndex) (item : List Byte) (codes : List Nat) (slot : Nat) : List Byte :=
  let packed := (List.range (ceilDiv v.m 2)).map fun k => BitVec.ofNat 8 (((codes.drop (2 * k)).head?.getD 0) + 16 * ((codes.drop (2 * k + 1)).head?.getD 0))
  (item.drop 8).take 16 ++ packed ++ List.replicate (v.stride - 20 - packed.length) 0#8 ++ leBytes 4 slot
/-- Write one item: slot, record, ID map. The slot it took goes with the slot its identifier had. -/
def putItem (i : Nat) (v : VecIndex) (acc : Option (List (Nat × Option Nat) × State)) (item : List Byte) : Option (List (Nat × Option Nat) × State) :=
  match acc with
  | none => none
  | some (l, s) =>
    match takeSlot i s with
    | none => none
    | some (slot, s) =>
      match roomSeg i v s with
      | none => none
      | some (n, s) =>
        let g := vsegOf v n s
        let ext := field item 0 8
        let old := (idFind v ext s).1.map (·.2)
        let s := engWrite (vrecAddr v g g.records) (recordBytes v item (codesOf v ((pieces 4 v.dim (item.drop 64)).map leNat) s) slot) s
        let s := putVseg v n { g with records := g.records + 1 } s
        let s := putVslot v slot { ext := ext, tick := 0, seg := n, rcd := g.records, state := 1, gen := (vslotOf v slot s).gen } s
        some (l ++ [(slot, old)], idPut v ext slot s)
def hasDup : List Nat → Bool
  | [] => false
  | x :: r => r.contains x || hasDup r
/-- An upsert item is well formed (R319). -/
def itemOk (v : VecIndex) (b : List Byte) : Bool :=
  field b 0 8 != ones64 && field b 24 40 == 0 && (List.range v.dim).all fun d => !f32NaN (field b (64 + 4 * d) 4)
/-- VEC_UPSERT: the items are coded and written PENDING, or the batch is refused whole. -/
def vecUpsert (h : Hdr) (i count : Nat) (buf : Buf) (s : State) : State :=
  if intakeFails h 0x11 (decide (64 ≤ i) || count == 0 || decide (4096 < count)) s then refuse h 0x11 sRejected s
  else match vecOf i s with
  | none => complete h 0x11 sNotFound (0xFFF * 2 ^ 52) 0 0 s
  | some v =>
    match bufRead h buf (count * (64 + 4 * v.dim)) s with
    | none => bufFault h buf (count * (64 + 4 * v.dim)) 0x11 s
    | some bs =>
      let items := pieces (64 + 4 * v.dim) count bs
      if !(items.all (itemOk v)) || hasDup (items.map fun b => field b 0 8) then refuse h 0x11 sRejected s
      else match items.foldl (putItem i v) (some ([], idsRead v (items.map fun b => field b 0 8) s)) with
        | none => refuse h 0x11 sCapacity s
        | some (l, s) => { s with vecJobs := s.vecJobs ++ [{ h := h, index := i, edge := s.cad.edges, del := false, slots := l }] }
def execVecUpsert (h : Hdr) (index count : Nat) (buf : Buf) (s : State) : Host.Outcome State Fault Refusal := hostCmd h 0x11 s (vecUpsert h index count buf)

/-- VEC_DELETE: the identifiers are accepted, and what each names at this place in the order is noted. -/
def vecDelete (h : Hdr) (i count : Nat) (buf : Buf) (s : State) : State :=
  if intakeFails h 0x12 (decide (64 ≤ i) || count == 0 || decide (4096 < count)) s then refuse h 0x12 sRejected s
  else match vecOf i s with
  | none => complete h 0x12 sNotFound (0xFFF * 2 ^ 52) 0 0 s
  | some v =>
    match bufRead h buf (count * 8) s with
    | none => bufFault h buf (count * 8) 0x12 s
    | some bs =>
      let ids := (pieces 8 count bs).map leNat
      if ids.contains ones64 || hasDup ids then refuse h 0x12 sRejected s
      else
        let found := ids.filterMap fun x => (idFind v x s).1.map (·.2)
        let s := idsRead v ids s
        { s with vecJobs := s.vecJobs ++ [{ h := h, index := i, edge := s.cad.edges, del := true, slots := found.map fun x => (x, none),
                                            missing := count - found.length }] }
def execVecDelete (h : Hdr) (index count : Nat) (buf : Buf) (s : State) : Host.Outcome State Fault Refusal := hostCmd h 0x12 s (vecDelete h index count buf)

/-- The update of an index that is first in order, where a tick edge has come since its acceptance. -/
def headJob (i : Nat) (del : Bool) (s : State) : Option VecJob :=
  match s.vecJobs.find? (·.index == i) with
  | some j => if j.del = del ∧ j.edge < s.cad.edges then some j else none
  | none => none
/-- A completion of a command that still counts as started (an abort may have ended it, R432). -/
def completeStarted (h : Hdr) (op status handle r0 r1 : Nat) (s : State) : State :=
  if s.started.any fun x => sameCmd x.h h then complete h op status handle r0 r1 s else s
/-- Make a LIVE slot GHOST. -/
def ghost (i : Nat) (v : VecIndex) (slot tick : Nat) (s : State) : State :=
  let e := vslotOf v slot s
  if e.state = 2 then drop (VEC_INDEX.LIVE i) 1 (putVslot v slot { e with state := 3, tick := tick } s) else s
/-- Every record of a batch is written: none waits for its channel (R110, R318). -/
def batchWritten (v : VecIndex) (j : VecJob) (s : State) : Bool :=
  j.slots.all fun x =>
    let e := vslotOf v x.1 s
    let a := vrecAddr v (vsegOf v e.seg s) e.rcd
    !s.chanWait.any fun w => w.1 == a
/-- VEC_UPSERT_COMMIT: once every item is written, the batch's slots LIVE with TICK = C, what they replace GHOST, and the completion. -/
def upsertCommit (i : Nat) (s : State) : State :=
  match headJob i false s, sget s.vecs i with
  | some j, some v =>
    if !batchWritten v j s then s
    else
    let c := now s
    let s := slotsRead v (j.slots.flatMap fun x => x.1 :: x.2.toList) s
    let s := j.slots.foldl (fun s x =>
      let e := vslotOf v x.1 s
      let s := putVslot v x.1 { e with state := 2, tick := c } s
      let g := vsegOf v e.seg s
      let s := if g.publish = ones64 ∧ g.kind = 0 then putVseg v e.seg { g with publish := c } s else s
      let s := bump (VEC_INDEX.LIVE i) 1 s
      match x.2 with
      | some o => ghost i v o c s
      | none => s) { s with vecJobs := s.vecJobs.erase j }
    completeStarted j.h 0x11 sOk 0 c j.slots.length (bump (VEC_UPSERTS.COUNT v.home) j.slots.length s)
  | _, _ => s
def execVecUpsertCommit (index : Nat) (s : State) : Host.Outcome State Fault Refusal := whenServing s (upsertCommit index)
/-- VEC_DELETE_APPLY: the named slots GHOST with TICK = D, and the completion. -/
def deleteApply (i : Nat) (s : State) : State :=
  match headJob i true s, sget s.vecs i with
  | some j, some v =>
    let d := now s
    let s := slotsRead v (j.slots.map (·.1)) s
    let hit := j.slots.filter fun x => (vslotOf v x.1 s).state == 2
    let s := hit.foldl (fun s x => idDrop v (vslotOf v x.1 s).ext x.1 (ghost i v x.1 d s)) { s with vecJobs := s.vecJobs.erase j }
    completeStarted j.h 0x12 sOk 0 d (j.missing + (j.slots.length - hit.length)) (bump (VEC_DELETES.COUNT v.home) hit.length s)
  | _, _ => s
def execVecDeleteApply (index : Nat) (s : State) : Host.Outcome State Fault Refusal := whenServing s (deleteApply index)

/-! ## Repair (R321) -/

/-- VEC_EDGE_REPAIR: in time the partition's kernels leave free, the first queued edge is cleared and filled. -/
def edgeRepair (i : Nat) (s : State) : State :=
  match sget s.vecs i with
  | none => s
  | some v =>
    if (partOf v.part s).running.isSome ∨ (stepReady v.part s).isSome ∨ (bestQueued v.part s).isSome ∨
        !segsServed v ((v.repairs.take 1).map fun x => (vslotOf v x.1 s).seg) s then s
    else match v.repairs with
      | [] => s
      | (slot, pos) :: rest =>
        let s := wr (VEC_REPAIR.QUEUED i) rest.length (modVec i (fun v => { v with repairs := rest }) s)
        let e := vslotOf v slot s
        let g := vsegOf v e.seg s
        match locIn v e.seg g s slot with
        | none => s
        | some (r, b) =>
          let s := memWrite (vedgeAddr v g r pos) (edgeBytes noEdge 0) s
          let tab := vtable v (decoded v b s) s.fresh s
          let s := { s with fresh := s.fresh + tableDraws v }
          let own := ((edgesOf v g r s).filter fun x => !x.2.2).map (·.2.1)
          let next := own.flatMap fun t => match locIn v e.seg g s t with
            | some y => ((edgesOf v g y.1 s).filter fun x => !x.2.2).map (·.2.1)
            | none => []
          let cand := ((next.filter fun t => (vslotOf v t s).state == 2 && t != slot && !own.contains t).eraseDups).take 256
          let ranked := (cand.filterMap fun t => (locIn v e.seg g s t).map fun y => (codeDistance (parAll v tab.lut) y.2, t)).foldl (fun acc x => insPair x acc) []
          let s := match ranked.head? with
            | some x => memWrite (vedgeAddr v g r pos) (edgeBytes x.2 (vslotOf v x.2 s).gen) s
            | none => s
          bump (VEC_REPAIRS.COUNT v.home) 1 s
def execVecEdgeRepair (index : Nat) (s : State) : Host.Outcome State Fault Refusal := whenServing s (edgeRepair index)

/-! ## Compaction (R326) -/

/-- The end of a write of VEC_COMPACT that starts nothing, or of a compaction. -/
def compactEnd (status : Nat) (s : State) : State := wr VEC_COMPACT_STATUS.BUSY 0 (wr VEC_COMPACT_STATUS.STATUS status s)
/-- VEC_COMPACT: steps 1 and 2, and the first kernel. -/
def vecCompact (i first count : Nat) (s : State) : State :=
  if isSet VEC_COMPACT_STATUS.BUSY s then s
  else match vecOf i s with
  | none => compactEnd sNotFound s
  | some v =>
    let run := (List.range count).map (· + first)
    if isSet (VEC_INDEX.COMPACTING i) s then compactEnd sBusy s
    else if count = 0 ∨ 64 < count ∨ 4096 < first + count ∨ run.any (fun n => !((vsegOf v n s).state == 1 || (vsegOf v n s).state == 2)) then compactEnd sRejected s
    else
      let s := (run.filter fun n => (vsegOf v n s).state == 1).foldl (fun s n => sealSeg v n s) s
      let inRun := fun k => let e := vslotOf v k s; (e.state == 1 || e.state == 2) && run.contains e.seg
      let todo := (List.range v.next).filter inRun
      match freeSeg v s, allocIn (vecChanList v v.graphCh) (max 1 todo.length * (v.stride + 8 * v.degree)) s with
      | some n, some (_, a, s) =>
        let s := putVseg v n { addr := a, kind := 1, state := 3, records := 0, cap := max 1 todo.length, entry := 0, publish := 0 } s
        let s := wr VEC_COMPACT_STATUS.NEW_SEGMENT n (wr VEC_COMPACT_STATUS.BUILT 0 (wr VEC_COMPACT_STATUS.BUSY 1 s))
        let s := wr (VEC_INDEX.COMPACTING i) 1 (bump (VEC_INDEX.SEGMENTS i) 1 s)
        let s := { s with vecCompacts := s.vecCompacts ++ [{ index := i, run := run, seg := n, todo := todo, edge := s.cad.edges }] }
        if todo = [] then s else queueKern v.part (compactKern i s) s
      | _, _ => compactEnd sCapacity s
def execVecCompact (index first count : Nat) (s : State) : Host.Outcome State Fault Refusal := whenServing s (vecCompact index first count)

/-- VEC_COMPACT_PUBLISH: step 4, at the edge after the last record is built. -/
def compactPublish (i : Nat) (s : State) : State :=
  match s.vecCompacts.find? (fun c => c.index == i && c.publish.isNone), sget s.vecs i with
  | some c, some v =>
    if c.todo ≠ [] ∨ s.cad.edges ≤ c.edge then s
    else
      let p := now s
      let s := putVseg v c.seg { vsegOf v c.seg s with state := 2, publish := p } s
      let s := c.run.foldl (fun s n => putVseg v n { vsegOf v n s with state := 4, publish := p } s) s
      let s := (c.built.zip (List.range c.built.length)).foldl (fun s x => putVslot v x.1 { vslotOf v x.1 s with seg := c.seg, rcd := x.2 } s) s
      compactEnd sOk (setCompact c { c with publish := some p } s)
  | _, _ => s
def execVecCompactPublish (index : Nat) (s : State) : Host.Outcome State Fault Refusal := whenServing s (compactPublish index)

/-- VEC_COMPACT_RELEASE: step 5, when the last query with Q0 < P has ended. -/
def compactRelease (i : Nat) (s : State) : State :=
  match s.vecCompacts.find? (fun c => c.index == i && c.publish.isSome), sget s.vecs i with
  | some c, some v =>
    if s.vecQs.any fun q => q.index == i && decide (q.q0 < c.publish.getD 0) then s
    else
      let dead := (List.range v.next).filter fun k => let e := vslotOf v k s; e.state == 3 && c.run.contains e.seg
      let s := dead.foldl (fun s k =>
        let e := vslotOf v k s
        modVec i (fun v => { v with freed := v.freed ++ [k] })
          (putVslot v k { ext := 0, tick := 0, seg := 0, rcd := 0, state := 0, gen := (e.gen + 1) % 256 } s)) s
      let s := c.run.foldl (fun s n =>
        let g := vsegOf v n s
        let bytes := g.cap * (v.stride + if g.kind = 1 then 8 * v.degree else 0)
        drop (VEC_INDEX.SEGMENTS i) 1 (chanGive (gchan g.addr) g.addr bytes
          (putVseg v n { addr := 0, kind := 0, state := 0, records := 0, cap := 0, entry := 0, publish := 0 } s))) s
      wr (VEC_INDEX.COMPACTING i) 0 { s with vecCompacts := s.vecCompacts.filter (· != c) }
  | _, _ => s
def execVecCompactRelease (index : Nat) (s : State) : Host.Outcome State Fault Refusal := whenServing s (compactRelease index)

end Sys2Proof.Machine
end

