-- ==== Sys2Proof/Machine/Abort.lean ====
section
/-!
DEFINITION. Sys2Proof/Machine/Abort.lean: aborting a function (R430 to R433), in its own sequence: queues, kernels, transits, sessions,
completions. The end of a kernel is here, since it may be what an abort waits for.
-/
namespace Sys2Proof.Machine

/-! ## What belongs to a function (R431) -/

def abortHeld (f : Nat) (c : HeldCmd) : Bool := ((heldHdr c).map (·.1.fn == f)).getD false
/-- Every session a step runs is owned by the function. -/
def stepOwned (f : Nat) (st : Step) : Bool :=
  let rs := st.runs.filter fun r => r.status == 0 || r.status == 3
  !rs.isEmpty && rs.all fun r => r.params.fn == f
/-- A partition runs a kernel of the function. -/
def fnRuns (f p : Nat) (s : State) : Bool :=
  let x := partOf p s
  match x.running with
  | none => false
  | some k => if k.ofStep then (x.step.map (stepOwned f)).getD false else k.kern.fn == f && k.kern.cls != 8 && decide (k.kern.ref < compactRef)
def fnBusy (f : Nat) (s : State) : Bool := s.parts.any fun p => fnRuns f p.1 s
/-- The sessions of a function that an abort freezes. -/
def fnSessions (f : Nat) (s : State) : List Nat :=
  ((s.desc.filter fun p => p.2.fn == f && p.2.st != stFree && p.2.st != stExpired).map (·.1)).filter fun i => !(s.tombs.any fun t => t.idx == i)

/-! ## Rows 1 to 4 of R432 -/

/-- A queue pair that runs becomes STOPPED; the entries not fetched are discarded. -/
def stopQp (f : Nat) (acc : Nat × State) (q : Nat) : Nat × State :=
  let (n, s) := acc
  let st := qpState f q s
  if st = 1 ∨ st = 2 then
    let x := qpOf f q s
    let k := (x.sqTail + sqSize f q s - rd (HIF_QP_STATUS.SQ_HEAD f q) s) % sqSize f q s
    (n + k, putQp f q { x with sqTail := rd (HIF_QP_STATUS.SQ_HEAD f q) s } (wr (HIF_QP_STATUS.STATE f q) 2 s))
  else acc
/-- Queued kernels of the function are discarded; a step of its own sessions ends at the kernel that runs. -/
def stopKernels (f p : Nat) (s : State) : State :=
  let s := showSched p (modPart p (fun x => { x with queue := x.queue.filter fun k => k.fn != f || k.cls == 8 || decide (compactRef ≤ k.ref) }) s)
  match (partOf p s).step with
  | none => s
  | some st =>
    if stepOwned f st then
      let st := { st with next := st.hdrs.length, runs := st.runs.map fun r => if r.status = 0 then { r with status := 3 } else r }
      if ((partOf p s).running.map (·.ofStep)).getD false then modStep p (fun _ => st) s
      else endStep p st s
    else s
/-- The transits of a session stop after their chunk, its fetches stop, its migration short of row 4 is abandoned. The function's own commands end with
row 6; one of the PF's that the freeze ends completes with ABORTED here. -/
def stopMoves (s : State) (i : Nat) : State :=
  let s := abandonMig i sAborted true s
  let mine := fun (h : Hdr) => h.fn == (descOf i s).fn
  let act := s.transits.filter fun t => t.idx == i && t.slot.isSome
  let s := act.foldl (fun s t => bump TRN_FROZEN.COUNT 1 (releaseDest t s)) s
  let s := (s.transits.filter fun t => t.idx == i).foldl (fun s t =>
    if (t.requester.map fun r => mine r.1).getD false then dropTransit t s else failTransit t sAborted s) s
  let s := match (sessOf i s).destroyWait with
    | some h => if mine h then s else refuse h 0x02 sAborted s
    | none => s
  let s := { s with c0Wait := s.c0Wait.filter fun w => w.idx != i || !mine w.h }
  let s := modSess i (fun x => { x with pages := x.pages.map fun p => { p with fetching := false }, destroyWait := none }) s
  let s := { s with fetchQ := s.fetchQ.filter (fun q => q.2.1 != i), fetchFly := s.fetchFly.filter (fun q => q.2.1 != i) }
  (List.range 4).foldl (fun s t => showFetch t s) s
/-- Rows 1 to 4, where what only the function's commands hold is let go. -/
def abortBegin (f : Nat) (s : State) : Nat × State :=
  let (n, s) := (List.range 64).foldl (stopQp f) (0, s)
  let s := bump HIF_DISCARDED.COUNT n s
  let s := { s with heldCmds := s.heldCmds.filter (fun c => !abortHeld f c.2), fenWaits := s.fenWaits.filter (fun w => w.h.fn != f) }
  let s := wr FEN_STATUS.WAITS s.fenWaits.length s
  let s := { s with embLooks := s.embLooks.filter (fun l => l.h.fn != f), embJobs := s.embJobs.filter (fun j => j.h.fn != f),
                    vecQs := s.vecQs.filter (fun q => q.h.fn != f), fwdWait := s.fwdWait.filter (fun w => w.1.fn != f),
                    net.dirWait := s.net.dirWait.filter fun w => match w.use with
                      | .hint h _ => h.fn != f
                      | _ => true }
  let s := if (s.ckpt.bind (·.requester)).any (fun h => h.fn == f) then ckptStop sAborted s else s
  let s := s.parts.foldl (fun s p => stopKernels f p.1 s) s
  (n, (fnSessions f s).foldl stopMoves s)

/-! ## Rows 5 to 7 -/

/-- A session FROZEN by an abort (R40), with the commands of others that waited on its transit. -/
def freezeAbort (s : State) (i : Nat) : State :=
  releaseHeld i (modDesc i (fun d => { d with st := stFrozen, turnPending := false, transitTag := 0xFFFF_FFFF }) s)
/-- Every vector of a function with a queue pair in use fires once (R430). -/
def fireVectors (f : Nat) (s : State) : State :=
  (List.range 64).foldl (fun s q => if qpState f q s = 0 then s else { s with coal := sset s.coal (f * 128 + q) 0, msix := (f, q) :: s.msix }) s
/-- What a function-level reset returns to its reset value (R403, R569): BAR2 registers, MSI-X table, waits and pre-emptions; its interrupts
that wait are forgotten. -/
def resetBar2 (f : Nat) (s : State) : State :=
  (List.range 64).foldl (fun s q =>
    let z := fun (x : Fld) (s : State) => wr x x.rst s
    let s := putQp f q {} s
    let s := z (HIF_QP_SQ.LOG2 f q) (z (HIF_QP_SQ.ADDR f q) (z (HIF_QP_CQ.LOG2 f q) (z (HIF_QP_CQ.ADDR f q) s)))
    let s := z (HIF_QP_OUT.LOG2 f q) (z (HIF_QP_OUT.ADDR f q) (z (HIF_QP_OUT_PI.ADDR f q) s))
    let s := z (HIF_QP_CTRL.ENABLE f q) (z (HIF_QP_CTRL.CLASS f q) (z (HIF_QP_CTRL.INT_EN f q) (z (HIF_QP_CTRL.COAL_ENTRIES f q) (z (HIF_QP_CTRL.COAL_US f q) s))))
    let s := z (HIF_QP_STATUS.STATE f q) (z (HIF_QP_STATUS.SQ_HEAD f q) (z (HIF_QP_STATUS.CQ_TAIL f q) (z (HIF_QP_STATUS.CAUSE f q) s)))
    let s := z (HIF_QP_OUT_STATUS.PI f q) (z (HIF_QP_OUT_STATUS.PENDING_EVENTS f q) s)
    { s with coal := sdel s.coal (f * 128 + q) })
    { (List.range 8).foldl (fun s b => wr (TM_FN_WAIT.COUNT f b) 0 s) (wr (TM_FN_PREEMPT.COUNT f) 0 s) with
      msixTab := s.msixTab.filter fun p => p.1 / 4096 != f }
/-- Free every session of a function (R403). -/
def freeAll (is : List Nat) (s : State) : State := is.foldl (fun s i => freeSession i s) s
/-- Rows 5 to 7, and for a function-level reset what follows it. -/
def abortEnd (a : Abort) (s : State) : State :=
  let s := { s with aborts := s.aborts.filter (· != a) }
  let is := fnSessions a.fn s
  let s := is.foldl freezeAbort s
  let mine := s.started.filter fun x => x.h.fn == a.fn && !(a.reqs.any fun h => sameCmd h x.h)
  let s := mine.foldl (fun s x => refuse x.h x.opcode sAborted s) s
  let s := a.reqs.foldl (fun s h => complete h 0x7F sOk 0 mine.length a.discarded s) s
  let s := fireVectors a.fn s
  let s := postPf 0x0015 0x13 sAborted a.fn is.length (bump (HIF_FN_STATUS.ABORTS a.fn) 1 s)
  if a.reset then
    let all := (s.desc.filter fun p => p.2.fn == a.fn && p.2.st != stFree).map (·.1)
    bump (HIF_FN_STATUS.RESETS a.fn) 1 (wr (HIF_FN_STATUS.STATE a.fn) (b2n (decide (a.fn ≤ s.numVfs))) (freeAll all (resetBar2 a.fn s)))
  else wr (HIF_FN_STATUS.STATE a.fn) 1 s
/-- End the aborts whose kernels have drained. -/
def settleAborts (s : State) : State := (s.aborts.filter fun a => !fnBusy a.fn s).foldl (fun s a => abortEnd a s) s

/-- Begin the abort of a function, or join the one that runs. -/
def abortFn (f : Nat) (h : Option Hdr) (reset : Bool) (s : State) : State :=
  match s.aborts.find? (·.fn == f) with
  | some a =>
    let a' := { a with reqs := a.reqs ++ h.toList, reset := a.reset || reset }
    { s with aborts := s.aborts.map fun x => if x = a then a' else x }
  | none =>
    let (n, s) := abortBegin f s
    let s := wr (HIF_FN_STATUS.STATE f) (if reset then 3 else 2) s
    settleAborts { s with aborts := s.aborts ++ [{ fn := f, reqs := h.toList, discarded := n, reset := reset }] }

/-- ABORT_FUNCTION (R430): a VF may name only itself. -/
def abortFunction (h : Hdr) (f : Nat) (s : State) : State :=
  if intakeFails h 0x7F (decide (256 ≤ f)) s || (h.fn != 0 && h.fn != f) then refuse h 0x7F sRejected s else abortFn f (some h) false s
def execAbortFunction (h : Hdr) (fn : Nat) (s : State) : Host.Outcome State Fault Refusal := hostCmd h 0x7F s (abortFunction h fn)

/-- ABORT_ARRAY_RESET: a kernel of an aborted function still runs, and its arrays are reset (R184). -/
def abortArrays (p : Nat) (s : State) : State :=
  if !(s.aborts.any fun a => fnRuns a.fn p s) then s
  else
    let x := partOf p s
    let s := (runRanks p s).foldl (fun s a => if a < 2048 then arrayReset a s else s) (haltRanks p s)
    let s := modPart p (fun x => { x with reload := true }) s
    settleAborts (match x.step with
      | some st => if (x.running.map (·.ofStep)).getD false then endStep p { st with runs := st.runs.map fun r => { r with status := 3 } } s else s
      | none => s)
def execAbortArrayReset (part : Nat) (s : State) : Host.Outcome State Fault Refusal := whenServing s (abortArrays part)

def execKernelEnd (part us : Nat) (sat nan : Bool) (out : KOut) (fixed : List (Nat × Nat)) (s : State) : Host.Outcome State Fault Refusal :=
  whenServing s fun s => settleAborts (kernelEnd part us sat nan out fixed s)

end Sys2Proof.Machine
end

