-- ==== Sys2Proof/Machine/Governor.lean ====
section
/-!
DEFINITION. Sys2Proof/Machine/Governor.lean: power caps, levers and the class-0 floor (R22, R352, R353, R524, R527, R551).
-/
namespace Sys2Proof.Machine

/-! ## The class-0 floor and POWER (R353) -/

/-- Defined partitions with arrays on a tile. -/
def tileParts (t : Nat) (s : State) : List Nat :=
  (s.parts.filter fun p => isSet (ARY_PART_STATUS.DEFINED p.1) s && p.2.ranks.any (· / 512 == t)).map (·.1)
/-- The highest FLOOR_MHZ of some of a tile's partitions, 0 where there are none. -/
def topFloor (ps : List Nat) (s : State) : Nat := (ps.map fun p => (sgetD s.parts p {}).floorMhz).foldl max 0
def class0Parts (t : Nat) (s : State) : List Nat := (tileParts t s).filter fun p => isSet (ARY_PART_STATUS.CLASS0 p) s
/-- The committed power section: BASE_W and TILE_W (R445). -/
def powerSection (s : State) : Nat × Nat :=
  match sget s.adm.held 4 with
  | some b => (field b 0 2, field b 2 2)
  | none => (160, 90)
/-- W0 in units of 1/3,000 W. -/
def w0Exact (s : State) : Nat :=
  let (base, tile) := powerSection s
  3000 * base + ((List.range 4).map fun t => tile * topFloor (class0Parts t s) s).sum
/-- Show W0 and the floors of the tiles; the rounding of a W0 that is no whole number of W is left open. -/
def showW0 (s : State) : State :=
  let w := w0Exact s
  let up := if w % 3000 = 0 then 0 else Config.openNat s.fresh % 2
  let s := (List.range 4).foldl (fun s t => wr (ARY_CLOCK.FLOOR_MHZ t) (topFloor (tileParts t s) s) s) s
  wr MGT_CAP.W0_W (w / 3000 + up) { s with fresh := s.fresh + 1 }

/-- A stack or the die of a tile is above its critical limit (R551): kind 1 stack, 2 tile, 3 hub, 4 deep-tier package. -/
def tileCritical (t : Nat) (s : State) : Bool := s.pow.critical.any fun c => (c / 0x10000 == 1 && c % 0x10000 / 6 == t) || c == 2 * 0x10000 + t
def hubCritical (s : State) : Bool := s.pow.critical.any fun c => c / 0x10000 == 3 || c / 0x10000 == 4

def levers (s : State) : Nat :=
  rd MGT_LEVERS.L1 s + 2 * rd MGT_LEVERS.L2_STEPS s + 2 ^ 8 * rd MGT_LEVERS.L3_HELD s + 2 ^ 16 * rd MGT_LEVERS.L4 s +
    2 ^ 17 * rd MGT_LEVERS.POWER s + 2 ^ 32 * rd MGT_LEVERS.CHANGES s
/-- Event 0x0024: lever 4 or POWER changed (R540). -/
def event24 (s : State) : State := postPf 0x0024 0x17 sOk (rd MGT_CAP.APPLIED_W s) (levers s) s
/-- A lever changes: counted and traced (R529). -/
def leverChange (s : State) : State :=
  let s := bump MGT_LEVERS.CHANGES 1 s
  trace { tick := 0, event := 0x0701, src := 0x17, arg := levers s } s
/-- POWER as the caps, the floor and the sensors now give it. -/
def powerNow (s : State) : Bool :=
  decide (rd MGT_CAP.APPLIED_W s * 3000 < w0Exact s) || s.adm.govForced ||
    (List.range 4).any fun t => tileCritical t s && !(class0Parts t s).isEmpty
/-- Bring POWER up to date (R353, R551). The levers and clocks follow at the next tick boundary (R22). -/
def showPower (s : State) : State :=
  let b := powerNow s
  if isSet SES_C0_STATUS.POWER s = b then s
  else event24 (c0Refresh (wr SES_C0_STATUS.POWER (b2n b) (wr MGT_LEVERS.POWER (b2n b) s)))
/-- Lever 4 is held only while POWER is set (R353). -/
def fitPower (s : State) : State :=
  if !isSet MGT_LEVERS.POWER s && isSet MGT_LEVERS.L4 s then event24 (leverChange (wr MGT_LEVERS.L4 0 s)) else s

/-! ## Lever 2 (R352, R162) -/

def stepOf (t : Nat) (s : State) : Nat := (s.adm.l2.drop t).head?.getD 0
/-- The most steps by which a tile's clock may be lowered. -/
def stepMax (t : Nat) (s : State) : Nat := (3000 - max 1000 (topFloor (tileParts t s) s)) / 100
/-- Set the steps, and show the clocks; a tile above critical runs at 1,000 MHz. -/
def setSteps (l : List Nat) (s : State) : State :=
  let s := wr MGT_LEVERS.L2_STEPS (l.foldl max 0) { s with adm.l2 := l }
  (List.range 4).foldl (fun s t => wr (ARY_CLOCK.MHZ t) (if tileCritical t s then 1000 else 3000 - 100 * stepOf t s) s) s
def moveTiles (ts : List Nat) (up : Bool) (s : State) : State :=
  setSteps ((List.range 4).map fun t => if ts.contains t then (if up then stepOf t s - 1 else stepOf t s + 1) else stepOf t s) s
/-- Steps beyond what the tile's floor allows are taken back (R162). -/
def fitSteps (s : State) : State := setSteps ((List.range 4).map fun t => min (stepOf t s) (stepMax t s)) s
def hasClass0 (s : State) (t : Nat) : Bool := !(class0Parts t s).isEmpty
/-- The tiles the next step of lever 2 lowers: those with no CLASS0 partition first. -/
def lowerNext (s : State) : List Nat :=
  let can := (List.range 4).filter fun t => tileOnline t s && decide (stepOf t s < stepMax t s)
  if can.any (!hasClass0 s ·) then can.filter (!hasClass0 s ·) else can
/-- The tiles the next release raises: those with a CLASS0 partition first. -/
def raiseNext (s : State) : List Nat :=
  let low := (List.range 4).filter fun t => decide (0 < stepOf t s)
  if low.any (hasClass0 s ·) then low.filter (hasClass0 s ·) else
    low.filter fun t => stepOf t s == ((low.map (stepOf · s)).foldl max 0)

/-! ## The governor's tick (R352) -/

def l3Full : Nat := 0xFE
/-- Engage the next step in order; lever 4 only while POWER is set. -/
def engage (s : State) : State :=
  if ¬ isSet MGT_LEVERS.L1 s then leverChange (wr MGT_LEVERS.L1 1 s)
  else if lowerNext s ≠ [] then leverChange (moveTiles (lowerNext s) false s)
  else if rd MGT_LEVERS.L3_HELD s ≠ l3Full then
    match (List.range 8).reverse.find? fun c => c != 0 && !rdBit MGT_LEVERS.L3_HELD c s with
    | some c => leverChange (wrBit MGT_LEVERS.L3_HELD c true s)
    | none => s
  else if isSet MGT_LEVERS.L4 s then s
  else if isSet MGT_LEVERS.POWER s then event24 (leverChange (wr MGT_LEVERS.L4 1 s))
  else if s.adm.govOver + 1 < 4 then { s with adm.govOver := s.adm.govOver + 1 }
  else event24 (leverChange (wr MGT_LEVERS.L4 1 (showPower { s with adm.govOver := 0, adm.govForced := true })))
/-- Release one step in reverse order. -/
def release (s : State) : State :=
  if isSet MGT_LEVERS.L4 s then showPower (event24 (leverChange (wr MGT_LEVERS.L4 0 { s with adm.govForced := false })))
  else if rd MGT_LEVERS.L3_HELD s ≠ 0 then
    match (List.range 8).find? fun c => rdBit MGT_LEVERS.L3_HELD c s with
    | some c => leverChange (wrBit MGT_LEVERS.L3_HELD c false s)
    | none => s
  else if raiseNext s ≠ [] then leverChange (moveTiles (raiseNext s) true s)
  else if isSet MGT_LEVERS.L1 s then leverChange (wr MGT_LEVERS.L1 0 s)
  else s
/-- A cap as it is applied: within 300 W to 750 W (R524). -/
def capOf (w : Nat) : Nat := max 300 (min 750 w)
/-- The caps written take effect, the meters' figures are shown, and the governor moves one step (R22, R352, R524, R527). -/
def governorTick (p : TickPower) (s : State) : State :=
  let s := wr MGT_CAP.APPLIED_W (min (capOf (rd MGT_CAP.HOST_CAP_W s)) (capOf (rd MGT_CAP.MGMT_CAP_W s))) s
  let s := raise MGT_POWER.PEAK_DW p.mean (wr MGT_POWER.MEAN_DW p.mean (bump MGT_ENERGY.ENERGY_MJ p.energy s))
  let s := (List.range 12).foldl (fun s d =>
    let v := (p.domains.drop d).head?.getD 0
    raise (MGT_DOMAIN_POWER.PEAK_DW d) v (wr (MGT_DOMAIN_POWER.MEAN_DW d) v s)) s
  let s := fitPower (showPower (fitSteps s))
  let cap := rd MGT_CAP.APPLIED_W s
  if 10 * cap < p.mean ∨ hubCritical s then engage { s with adm.govUnder := 0 }
  else
    let s : State := { s with adm.govOver := 0 }
    if 2 * p.mean < 19 * cap then
      if s.adm.govUnder + 1 < 16 then { s with adm.govUnder := s.adm.govUnder + 1 }
      else release { s with adm.govUnder := 0 }
    else { s with adm.govUnder := 0 }

end Sys2Proof.Machine
end

