-- ==== Sys2Proof/Machine/Traffic.lean ====
section
/-!
DEFINITION. Sys2Proof/Machine/Traffic.lean: the traffic manager (R339 to R351): leaf queues, the two passes, shapers, policers and what
is observed of the queues. Ports 0 and 1 are the host link, 2 to 17 the fabric, 18 DEEP.
-/
namespace Sys2Proof.Machine

/-! ## Share credit (R341 to R343) -/

/-- The bytes that `pct` hundredths of a percent of a rate in MB/s carry in a tick; none while the period is not valid. -/
def tickBytes (mbps pct : Nat) (s : State) : Nat :=
  if isSet SID_STATUS.PERIOD_VALID s then mbps * rd SID_STATUS.PERIOD_NS s * pct / 10_000_000 else 0
/-- A class's part of a DEEP channel's time, in hundredths of a percent: class 0 keeps its scaled share up to the whole, and where the
shares sum above the whole the others are reduced in proportion (R102). -/
def deepShare (c : Nat) (s : State) : Nat :=
  let c0 := min 10000 (scaledShare 0 s)
  let rest := ((List.range 7).map fun k => scaledShare (k + 1) s).sum
  if c = 0 then c0 else if c0 + rest ≤ 10000 then scaledShare c s else scaledShare c s * (10000 - c0) / rest
/-- Rate of one deep-tier channel in MB/s (R339). -/
def deepChanMbps : Nat := 17066
/-- Key of a class node's share credit. -/
def shareKey (port chan c : Nat) : Nat := if port = 18 then (32 + chan) * 8 + c else port * 8 + c
/-- Refill of a class node's share credit at a tick edge. -/
def shareRefill (port c : Nat) (s : State) : Nat :=
  if port = 18 then tickBytes deepChanMbps (deepShare c s) s else tickBytes (rd (TM_PORT.RATE_MBPS port) s) (rd (TM_CLASS.SHARE port c) s * 100) s
/-- Refill every share credit: what was not used does not add to one refill. -/
def refillShares (s : State) : State :=
  let keys := ((List.range 18).flatMap fun p => (List.range 8).map fun c => (shareKey p 0 c, shareRefill p c s)) ++
    ((List.range 96).flatMap fun k => (List.range 8).map fun c => (shareKey 18 k c, if deepOnline k s then shareRefill 18 c s else 0))
  { s with net.tmShare := keys.foldl (fun m k =>
      let v := min (sgetD m k.1 0 + (k.2 : Int)) (k.2 : Int)
      if v = 0 then sdel m k.1 else sset m k.1 v) s.net.tmShare }

/-! ## Shapers (R345, R346) -/

/-- A shaper's fields, by the offset of its register. -/
def shEnable (off : Nat) : Fld := ⟨off, 56, 56, 0⟩
def shRefill (off : Nat) : Fld := ⟨off, 31, 0, 0⟩
def shBurst (off : Nat) : Fld := ⟨off, 55, 32, 0⟩
def portShaper (p : Nat) : Nat := (TM_PORT_SHAPER.ENABLE p).off
def classShaper (p c : Nat) : Nat := (TM_CLASS_SHAPER.ENABLE p c).off
def leafShaper (p c f : Nat) : Nat := (TM_LEAF_SHAPER.ENABLE p c f).off
/-- A register offset is a shaper's. -/
def isShaper (off : Nat) : Bool :=
  (decide (0x400100 ≤ off) && decide (off < 0x400200)) || (decide (0x400800 ≤ off) && decide (off < 0x401000)) ||
    (decide (0x500000 ≤ off) && decide (off < 0x600000) && off % 16 == 0)
/-- The shapers enabled in a state. -/
def enabledShapers (s : State) : List Nat :=
  (s.regs.filter fun r => r.1 % 64 == 56 && r.2 == 1 && isShaper (r.1 / 4096)).map (·.1 / 4096)
/-- Whether a shaper lets a unit start: unshaped, or holding tokens with neither REFILL nor BURST 0. -/
def shaperOk (off : Nat) (s : State) : Bool :=
  !isSet (shEnable off) s || (rd (shRefill off) s != 0 && rd (shBurst off) s != 0 && decide (0 < sgetD s.net.tokens off 0))
/-- Take a unit's bytes from a shaper. -/
def shaperTake (off n : Nat) (s : State) : State :=
  if isSet (shEnable off) s then { s with net.tokens := sset s.net.tokens off (sgetD s.net.tokens off 0 - (n : Int)) } else s
/-- Row 2 of an edge (R346): `old` is the state before its LT values took effect. -/
def shapersCompare (old s : State) : State :=
  { s with net.tokens := (enabledShapers s).foldl (fun m off =>
      let v := if !isSet (shEnable off) old then (rd (shBurst off) s * 64 : Int)
               else if rd (shRefill off) old = rd (shRefill off) s ∧ rd (shBurst off) old = rd (shBurst off) s then sgetD s.net.tokens off 0 else 0
      sset m off v) [] }
/-- SHAPER_REFILL: row 3 of an edge (R345). -/
def shapersRefill (s : State) : State :=
  { s with net.tokens := s.net.tokens.map fun t => (t.1, min (t.2 + (rd (shRefill t.1) s * 64 : Int)) (rd (shBurst t.1) s * 64 : Int)) }

/-! ## Policers (R347 to R349) -/

def polTwoRate (k : Nat) (s : State) : Bool := isSet (TM_POL_CFG.TWO_RATE k) s
/-- The enabled policers. -/
def enabledPolicers (s : State) : List Nat :=
  (s.regs.filter fun r => r.1 % 4096 == 0 && r.2 == 1 && decide (0x600000 ≤ r.1 / 4096) && decide (r.1 / 4096 < 0x620000) &&
    (r.1 / 4096) % 32 == 0).map fun r => (r.1 / 4096 - 0x600000) / 32
def polFull (k : Nat) (s : State) : Nat × Nat := (rd (TM_POL_RATE_C.CBS k) s * 64, rd (TM_POL_RATE_E.EBS_PBS k) s * 64)
/-- A change of rate or size, or an enabling, sets every bucket of the policer full: `old` is the state before. -/
def polCompare (old s : State) : State :=
  { s with net.pol := (enabledPolicers s).foldl (fun m k =>
      let same := isSet (TM_POL_CFG.ENABLE k) old && rd (TM_POL_RATE_C.CIR k) old == rd (TM_POL_RATE_C.CIR k) s &&
        rd (TM_POL_RATE_C.CBS k) old == rd (TM_POL_RATE_C.CBS k) s && rd (TM_POL_RATE_E.EIR_PIR k) old == rd (TM_POL_RATE_E.EIR_PIR k) s &&
        rd (TM_POL_RATE_E.EBS_PBS k) old == rd (TM_POL_RATE_E.EBS_PBS k) s
      sset m k (if same then sgetD s.net.pol k (polFull k s) else polFull k s)) [] }
/-- One policer's refill at a tick edge. -/
def polRefill1 (k : Nat) (b : Nat × Nat) (s : State) : Nat × Nat :=
  let (cb, eb) := polFull k s
  let cir := rd (TM_POL_RATE_C.CIR k) s * 64
  if polTwoRate k s then (min cb (b.1 + cir), min eb (b.2 + rd (TM_POL_RATE_E.EIR_PIR k) s * 64))
  else (min cb (b.1 + cir), min eb (b.2 + (b.1 + cir - cb)))
/-- POLICER_REFILL. -/
def policersRefill (s : State) : State := { s with net.pol := s.net.pol.map fun p => (p.1, polRefill1 p.1 p.2 s) }

/-- What a policer makes of a frame of `n` bytes: 0 green, 1 yellow, 2 red, and its buckets after (R348). -/
def polMark (two aware : Bool) (col n : Nat) (b : Nat × Nat) : Nat × (Nat × Nat) :=
  let (c, e) := b
  let col := if aware then col else 0
  if two then
    if col = 2 ∨ e < n then (2, b)
    else if col = 1 ∨ c < n then (1, (c, e - n))
    else (0, (c - n, e - n))
  else if col = 2 then (2, b)
  else if col = 0 ∧ n ≤ c then (0, (c - n, e))
  else if n ≤ e then (1, (c, e - n))
  else (2, b)
/-- The policer at a point. -/
def polAt (point port cls fn : Nat) (s : State) : Option Nat :=
  (s.net.pol.map (·.1)).find? fun k => rd (TM_POL_CFG.POINT k) s == point && rd (TM_POL_CFG.PORT k) s == port && rd (TM_POL_CFG.CLASS k) s == cls &&
    (point == 0 || isSet (TM_POL_CFG.ALL_FUNCTIONS k) s || rd (TM_POL_CFG.FUNCTION k) s == fn)
/-- POLICER_MARK: colour a message and count it; the colour, whether it is dropped, and the state (R349). The invalid colour 11 counts
as red. -/
def police (point port cls fn colour n : Nat) (s : State) : Nat × Bool × State :=
  let s := if colour = 3 then bump TM_BAD_COLOUR.COUNT 1 s else s
  let col := if colour = 3 then 2 else colour
  match polAt point port cls fn s with
  | none => (col, false, s)
  | some k =>
    let (m, b) := polMark (polTwoRate k s) (isSet (TM_POL_CFG.AWARE k) s) col n (sgetD s.net.pol k (0, 0))
    let s := { s with net.pol := sset s.net.pol k b }
    let s := bump (if m = 0 then TM_POL_COUNT_GREEN.COUNT k else if m = 1 then TM_POL_COUNT_YELLOW.COUNT k else TM_POL_COUNT_RED.COUNT k) 1 s
    let act := if m = 1 then isSet (TM_POL_CFG.YELLOW_ACT k) s else m == 2 && isSet (TM_POL_CFG.RED_ACT k) s
    if point = 0 ∧ act then (m, true, bump (TM_POL_COUNT_DROPPED.COUNT k) 1 s) else (m, false, s)

/-! ## Queues and their marks (R340, R350) -/

def unitsOf (port : Nat) (s : State) : List TmUnit := sgetD s.net.tmQ port []
def classBytesQ (port c : Nat) (s : State) : Nat := (((unitsOf port s).filter (·.cls == c)).map (·.bytes)).sum
/-- A unit joins its leaf queue, and the depth mark rises with it. -/
def tmEnqueue (port : Nat) (s : State) (u : TmUnit) : State :=
  let s := { s with net.tmQ := sset s.net.tmQ port (unitsOf port s ++ [u]) }
  raise (TM_HWM.DEPTH port u.cls) (ceilDiv (classBytesQ port u.cls s) 64) s

/-! ## The choice (R341, R342) -/

/-- A fabric port may start a message: UP, and its channel holds the smaller of 32 credits and its frames (R367). -/
def linkAllows (port : Nat) (u : TmUnit) (s : State) : Bool :=
  if port < 2 ∨ port = 18 then true
  else rd (FAB_PORT_STATUS.STATE (port - 2)) s == 2 && decide (u.vc < 6) &&
    decide (min 32 (ceilDiv u.data.length 502) ≤ (((sget s.net.links (port - 2)).map (·.credits)).getD []).getD u.vc 0)
/-- The head units of the eligible leaves that a choice may take: on DEEP those of the channel, on a link those with credit. -/
def leafHeads (port chan : Nat) (s : State) : List TmUnit :=
  let us := if port = 18 then (unitsOf port s).filter (·.chan == chan) else unitsOf port s
  let heads := us.foldl (fun acc u => if acc.any fun v => v.cls == u.cls && v.fn == u.fn then acc else acc ++ [u]) []
  heads.filter fun u => shaperOk (leafShaper port u.cls u.fn) s && linkAllows port u s
/-- Deficit round robin over nodes (key, quantum, size of the head), in ring order from the one served last: the node to serve and the
deficits after. `n` bounds the visits. -/
def drrPick : Nat → Nat → List (Nat × Nat × Nat) → Store Nat → Option (Nat × Store Nat)
  | 0, _, _, _ => none
  | n + 1, at_, nodes, d =>
    match nodes.find? (fun x => decide (at_ ≤ x.1)) with
    | none => match nodes with
      | [] => none
      | x :: _ => drrPick n x.1 nodes (sset d x.1 (sgetD d x.1 0 + x.2.1))
    | some x =>
      if x.2.2 ≤ sgetD d x.1 0 then some (x.1, sset d x.1 (sgetD d x.1 0 - x.2.2))
      else match nodes.find? (fun y => decide (x.1 < y.1)) with
        | some y => drrPick n y.1 nodes (sset d y.1 (sgetD d y.1 0 + y.2.1))
        | none => drrPick n (x.1 + 1) nodes d
/-- Visits that are always enough for a choice. -/
def drrBound (nodes : List (Nat × Nat × Nat)) : Nat := (nodes.length + 1) * (2 * ((nodes.map (·.2.2)).foldl max 0 / 4096) + 4)
def leafKey (port c f : Nat) : Nat := 1024 + 2048 * port + 256 * c + f
def classKey (port c : Nat) : Nat := port * 8 + c
/-- The leaf a class serves next: a quantum of 4 KiB × the leaf's WEIGHT. -/
def pickLeaf (port c : Nat) (heads : List TmUnit) (s : State) : Option (TmUnit × State) :=
  let mine := sortBy (fun a b => decide (a.fn ≤ b.fn)) (heads.filter (·.cls == c))
  let nodes := mine.map fun u => (leafKey port c u.fn, 4096 * max 1 (rd (TM_LEAF_WEIGHT.WEIGHT port c u.fn) s), u.bytes)
  match drrPick (drrBound nodes) (sgetD s.net.tmLast (classKey port c) 0) nodes s.net.tmDeficit with
  | none => none
  | some (k, d) => (mine.find? fun u => leafKey port c u.fn == k).map fun u =>
      (u, { s with net.tmDeficit := d, net.tmLast := sset s.net.tmLast (classKey port c) k })
/-- The class of the guaranteed pass: the lowest with share credit and an eligible leaf. -/
def guaranteedClass (port chan : Nat) (heads : List TmUnit) (s : State) : Option Nat :=
  (List.range 8).find? fun c => decide (0 < sgetD s.net.tmShare (shareKey port chan c) 0) && heads.any (·.cls == c)
/-- The class of the excess pass: deficit round robin with WEIGHT, within the class shapers and the port shaper. -/
def excessClass (port : Nat) (heads : List TmUnit) (s : State) : Option (Nat × State) :=
  if !shaperOk (portShaper port) s then none
  else
    let cs := (List.range 8).filter fun c => heads.any (·.cls == c) && shaperOk (classShaper port c) s
    let nodes := cs.map fun c => (classKey port c, 4096 * max 1 (rd (TM_CLASS.WEIGHT port c) s), ((heads.find? (·.cls == c)).map (·.bytes)).getD 0)
    match drrPick (drrBound nodes) (sgetD s.net.tmLast (100000 + port) 0) nodes s.net.tmDeficit with
    | none => none
    | some (k, d) => some (k % 8, { s with net.tmDeficit := d, net.tmLast := sset s.net.tmLast (100000 + port) k })

/-- A started unit leaves its queue whole: its class's bytes and longest wait are counted; on a fabric port its message goes to the
link, coloured by its EGRESS policer. An emptied node keeps no deficit. -/
def tmStart (port time : Nat) (u : TmUnit) (s : State) : State :=
  let s := { s with net.tmQ := sset s.net.tmQ port ((unitsOf port s).erase u) }
  let s := if (unitsOf port s).any (fun v => v.cls == u.cls && v.fn == u.fn) then s
    else { s with net.tmDeficit := sdel s.net.tmDeficit (leafKey port u.cls u.fn) }
  let s := if (unitsOf port s).any (·.cls == u.cls) then s else { s with net.tmDeficit := sdel s.net.tmDeficit (classKey port u.cls) }
  let s := raise (TM_HWM.DELAY_NS port u.cls) (time - u.enq) (bump (TM_CLASS_BYTES.BYTES port u.cls) u.bytes (shaperTake (leafShaper port u.cls u.fn) u.bytes s))
  if port < 2 ∨ port = 18 then s
  else
    let (col, _, s) := police 1 (port - 2) u.cls u.fn u.colour u.bytes s
    match sget s.net.links (port - 2) with
    | none => s
    | some l =>
      let n := ceilDiv u.data.length 502
      let cut := fun k => ({ vc := u.vc, colour := col, first := k == 0, last := k + 1 == n, data := (u.data.drop (502 * k)).take 502, msg := l.next } : LinkFrame)
      let m : LinkMsg := { num := l.next, unit := u, left := (List.range n).map cut }
      { s with net.links := sset s.net.links (port - 2) { l with next := l.next + 1, msgs := l.msgs ++ [m] } }

/-- TM_UNIT_START: units that have arrived join their queues, then the port starts one, if any may start. -/
def tmUnitStart (port chan time : Nat) (arrivals : List TmUnit) (s : State) : State :=
  if 18 < port ∨ (port = 18 ∧ 96 ≤ chan) ∨ arrivals.any (fun u => decide (7 < u.cls) || decide (255 < u.fn)) then s
  else
    let s := arrivals.foldl (tmEnqueue port) s
    let up := if port = 18 then deepServing s != 0 && deepOnline chan s else isSet (TM_PORT.UP port) s
    if !up then s
    else
      let heads := leafHeads port chan s
      match guaranteedClass port chan heads s with
      | some c => match pickLeaf port c heads s with
        | none => s
        | some (u, s) =>
          let k := shareKey port chan c
          tmStart port time u { s with net.tmShare := sset s.net.tmShare k (sgetD s.net.tmShare k 0 - (u.bytes : Int)) }
      | none => match excessClass port heads s with
        | none => s
        | some (c, s1) => match pickLeaf port c heads s1 with
          | none => s
          | some (u, s2) => tmStart port time u (shaperTake (portShaper port) u.bytes (shaperTake (classShaper port c) u.bytes s2))
def execTmUnitStart (port chan time : Nat) (arrivals : List TmUnit) (s : State) : Host.Outcome State Fault Refusal :=
  whenServing s (tmUnitStart port chan time arrivals)

/-! ## Observation (R350, R351) -/

/-- TM_HWM_READ: the whole register (`half` 0), its low half (1) or its high half (2); what is read is reset. -/
def hwmRead (port cls half : Nat) (s : State) : State :=
  let d := rd (TM_HWM.DEPTH port cls) s
  let w := rd (TM_HWM.DELAY_NS port cls) s
  if 18 < port ∨ 7 < cls then s
  else if half = 1 then { wr (TM_HWM.DEPTH port cls) 0 s with net.readOut := d }
  else if half = 2 then { wr (TM_HWM.DELAY_NS port cls) 0 s with net.readOut := w }
  else { wr (TM_HWM.DEPTH port cls) 0 (wr (TM_HWM.DELAY_NS port cls) 0 s) with net.readOut := d + w * 2 ^ 32 }
def execTmHwmRead (port cls half : Nat) (s : State) : Host.Outcome State Fault Refusal := whenLive s (tlpIn (hwmRead port cls half))

/-- The sample of an edge at `ns` (R351). -/
def xsSample (ns : Nat) (s : State) : State :=
  let p := rd TM_XS_SEL.PORT s
  let all := isSet TM_XS_SEL.ALL_FUNCTIONS s
  let us := (unitsOf p s).filter fun u => u.cls == rd TM_XS_SEL.CLASS s && (all || u.fn == rd TM_XS_SEL.FUNCTION s)
  let ok := decide (p ≤ 18)
  let depth := if ok then ceilDiv (us.map (·.bytes)).sum 64 else 0
  let delay := if ok then (us.head?.map fun u => (ns - u.enq) / 128).getD 0 else 0
  wr TM_XS_SAMPLE.DEPTH (min depth (fmax TM_XS_SAMPLE.DEPTH)) (wr TM_XS_SAMPLE.SEQ (now s) (wr TM_XS_SAMPLE.DELAY (min delay (fmax TM_XS_SAMPLE.DELAY))
    (wr TM_XS_SAMPLE.VALID (b2n ok) s)))

end Sys2Proof.Machine
end

