-- ==== Sys2Proof/Machine/Images.lean ====
section
/-!
DEFINITION. Sys2Proof/Machine/Images.lean: the Almanac image (R441 to R445): its regions, its sections and the checks of each
record, the shadows of the register regions, and the rules that span regions.
-/
namespace Sys2Proof.Machine

/-! ## Regions (R438, R442) -/

def rgTier : Nat := 0
def rgClasses : Nat := 1
def rgTraffic : Nat := 2
def rgFences : Nat := 3
def rgPower : Nat := 4
def rgPart (p : Nat) : Nat := 0x10 + p
def rgTok (k : Nat) : Nat := 0x110 + k
def rgVec (i : Nat) : Nat := 0x120 + i
def rgEmb (k : Nat) : Nat := 0x160 + k
/-- The region numbers of R438, in rising order. -/
def regions : List Nat := List.range 5 ++ (List.range 255).map rgPart ++ (List.range 336).map rgTok
/-- A section type names a region of its own (R442). -/
def typeFits (ty r : Nat) : Bool :=
  (decide (1 ≤ ty) && decide (ty ≤ 5) && r == ty - 1) || (ty == 6 && decide (0x10 ≤ r) && decide (r < 0x10F)) ||
    (ty == 7 && decide (0x110 ≤ r) && decide (r < 0x120)) || (ty == 8 && decide (0x120 ≤ r) && decide (r < 0x160)) ||
    (ty == 9 && decide (0x160 ≤ r) && decide (r < 0x260))

/-! ## Register regions and their shadows (R440) -/

/-- The fields of CLASSES with where the section holds them: byte offset, bytes, high and low bit (R444). -/
def classesFlds : List (Fld × Nat × Nat × Nat × Nat) :=
  ((List.range 8).map fun c =>
    [(SES_CLASS_CFG.RESERVE_GIB c, 8 * c, 8, 10, 0), (SES_CLASS_CFG.KV_CAP c, 8 * c, 8, 26, 16), (SES_CLASS_CFG.DEMOTE c, 8 * c, 8, 29, 28),
     (SES_CLASS_CFG.HOST_PARK c, 8 * c, 8, 30, 30), (SES_CLASS_CFG.DEEP_SHARE c, 8 * c, 8, 38, 32)]).flatten ++
  [(SES_CTRL.EVICT_EN, 0x40, 1, 0, 0), (SES_CTRL.EXPIRE_EN, 0x40, 1, 1, 1), (KVP_CFG.SPARSE_EN, 0x41, 1, 0, 0),
   (TRN_CFG.C0_SLOTS, 0x44, 4, 9, 0), (TRN_CFG.SPARSE_EN, 0x44, 4, 16, 16)]
/-- The fields of a policer with their bits in its configuration (R445). -/
def policerFlds (k : Nat) : List (Fld × Nat × Nat) :=
  [(TM_POL_CFG.ENABLE k, 0, 0), (TM_POL_CFG.POINT k, 1, 1), (TM_POL_CFG.TWO_RATE k, 2, 2), (TM_POL_CFG.AWARE k, 3, 3),
   (TM_POL_CFG.YELLOW_ACT k, 4, 4), (TM_POL_CFG.RED_ACT k, 5, 5), (TM_POL_CFG.ALL_FUNCTIONS k, 6, 6), (TM_POL_CFG.PORT k, 11, 8),
   (TM_POL_CFG.CLASS k, 14, 12), (TM_POL_CFG.FUNCTION k, 23, 16)]
def policers : Nat := 4096
/-- The fields of TRAFFIC, in the same form (R445). -/
def trafficFlds : List (Fld × Nat × Nat × Nat × Nat) :=
  ((List.range 19).map fun p => (List.range 8).map fun c => (TM_CLASS.SHARE p c, 8 * p + c, 1, 6, 0)).flatten ++
  [(FAB_VC_CFG.CREDITS, 0x98, 8, 47, 0)] ++
  ((List.range policers).map fun k => (policerFlds k).map fun f => (f.1, 0xC0 + 8 * k, 8, f.2.1, f.2.2)).flatten
def regionFlds (r : Nat) : List (Fld × Nat × Nat × Nat × Nat) :=
  if r = rgClasses then classesFlds else if r = rgTraffic then trafficFlds else []

/-- The region an RWS register's offset belongs to. -/
def rwsRegion (off : Nat) : Nat :=
  if off = 0x3_0000 ∨ (0x3_0100 ≤ off ∧ off < 0x3_0140) ∨ off = 0x4_0000 ∨ off = 0x18_0000 then rgClasses else rgTraffic
/-- The shadow of an RWS field: the value staged for it, else the committed one. -/
def shadowOf (f : Fld) (s : State) : Nat := sgetD s.shadow (fkey f) (rd f s)
/-- Stage a value for an RWS field; a value equal to the committed one is no difference. -/
def setShadow (f : Fld) (v : Nat) (s : State) : State :=
  if v % 2 ^ fwidth f = rd f s then { s with shadow := sdel s.shadow (fkey f) }
  else { s with shadow := sset s.shadow (fkey f) (v % 2 ^ fwidth f) }
/-- A register region's shadow differs from its committed copy. -/
def regsDiffer (r : Nat) (s : State) : Bool :=
  (s.shadow.any fun p => rwsRegion (p.1 / 4096) == r) || (r == rgClasses && s.adm.pageEnSh != s.adm.pageEn)
/-- A register region's shadow returns to its committed copy. -/
def regsRevert (r : Nat) (s : State) : State :=
  let s := { s with shadow := s.shadow.filter fun p => rwsRegion (p.1 / 4096) != r }
  if r = rgClasses then { s with adm.pageEnSh := s.adm.pageEn } else s
/-- A register region's committed copy takes the shadow. -/
def regsCommit (r : Nat) (s : State) : State :=
  let s := (s.shadow.filter fun p => rwsRegion (p.1 / 4096) == r).foldl (fun s p => { s with regs := sset s.regs p.1 p.2 }) s
  regsRevert r (if r = rgClasses then { s with adm.pageEn := s.adm.pageEnSh } else s)
/-- A section of a register region is taken into the shadow. -/
def regsStage (r : Nat) (bs : List Byte) (s : State) : State :=
  let s := (regionFlds r).foldl (fun s f => setShadow f.1 (bitsOf (field bs f.2.1 f.2.2.1) f.2.2.2.1 f.2.2.2.2) s) s
  if r = rgClasses then { s with adm.pageEnSh := field bs 0x42 1 } else s

/-! ## Contents of the other regions -/

/-- Generation 0 of a region (R439). -/
def heldZero (r : Nat) : List Byte :=
  if r = rgTier then List.replicate 24 8#8 ++ zeros 168
  else if r = rgFences then zeros 1024
  else if r = rgPower then leBytes 2 160 ++ leBytes 2 90 ++ zeros 60
  else []
/-- The committed content of a region. -/
def heldOf (r : Nat) (s : State) : List Byte := sgetD s.adm.held r (heldZero r)
/-- The content of a region, staged where `use` picks it and a section is staged. -/
def viewOf (use : Nat → Bool) (r : Nat) (s : State) : List Byte := if use r then sgetD s.adm.stage r (heldOf r s) else heldOf r s
/-- A value of a register field, of the shadow where `use` picks its region. -/
def viewFld (use : Nat → Bool) (r : Nat) (f : Fld) (s : State) : Nat := if use r then shadowOf f s else rd f s

/-- The raw mark and the spare boundary of a channel in a tier map. -/
def tierRaw (b : List Byte) (g : Nat) : Bool := bitOf (field b (0x20 + 4 * (g / 32)) 4) (g % 32)
def tierSpare (b : List Byte) (st : Nat) : Nat := field b st 1
/-- MiB of protected capacity outside channel 0 and the spare regions, over the stacks of present tiles (R443). -/
def tierCapacity (b : List Byte) (s : State) : Nat :=
  (((List.range 24).filter fun st => tilePresent (tileOf st) s).map fun st =>
    (72 - tierSpare b st) * 1024 - 2304 * (1 + ((List.range 32).filter fun c => tierRaw b (32 * st + c)).length)).sum

/-- The rank map of a partition record: arrays as tile × 512 + physical index (R176). -/
def recordMap (b : List Byte) : List Nat := (List.range (field b 2 2)).map fun r => field b (0x20 + 2 * r) 2
/-- The tiles an array list touches. -/
def mapTiles (m : List Nat) : Nat := (((List.range 4).filter fun t => m.any (· / 512 == t)).map (2 ^ ·)).sum

/-- The channels an index record names, numbered as `gchan` (R311). -/
def recordChans (b : List Byte) (mask : Nat) : List Nat :=
  ((List.range 6).filter fun j => bitOf (field b 10 1) j).flatMap fun j =>
    ((List.range 32).filter fun c => bitOf mask c).map fun c => 32 * (6 * field b 7 1 + j) + c
def recordIndexChans (b : List Byte) : List Nat := recordChans b (field b 12 4 ||| field b 16 4)

/-! ## Checks of a section's own record (step 6 of R448) -/

def isZeros (bs : List Byte) : Bool := bs.all (· == 0#8)
def nodup (l : List Nat) : Bool := l.eraseDups.length == l.length
def within (lo v hi : Nat) : Bool := decide (lo ≤ v) && decide (v ≤ hi)

/-- R443. -/
def tierOk (b : List Byte) (s : State) : Bool :=
  b.length == 192 && isZeros ((b.drop 0x18).take 8) && isZeros ((b.drop 0x86).take 2) && isZeros ((b.drop 0x94).take 44) &&
    ((List.range 24).all fun st => within 4 (tierSpare b st) 12 && !tierRaw b (32 * st) &&
      (List.range 32).all fun c => !tierRaw b (32 * st + c) || decide (9 * (c + 1) ≤ 4 * (72 - tierSpare b st))) &&
    decide (field b 0x80 4 ≤ tierCapacity b s) && decide (field b 0x84 2 ≤ 1024) &&
    decide (field b 0x84 2 * 0x10_0000 + field b 0x88 4 * 64 ≤ 49920 * 0x10_0000) &&
    decide (4096 + 1024 * (field b 0x8C 4 + field b 0x90 4) ≤ rd DPT_CAPACITY.ALLOC_MIB s)

/-- R444: no bit outside a register's defined fields, C0_SLOTS at most 1,024. -/
def classesOk (b : List Byte) : Bool :=
  b.length == 96 && ((List.range 8).all fun c => field b (8 * c) 8 &&& 0x7F_77FF_07FF == field b (8 * c) 8) &&
    decide (field b 0x40 1 < 4) && decide (field b 0x41 1 < 2) && decide (field b 0x42 1 < 128) &&
    field b 0x44 4 &&& 0x1_03FF == field b 0x44 4 && decide (field b 0x44 4 % 1024 ≤ 1024) && isZeros ((b.drop 0x43).take 1) &&
    isZeros (b.drop 0x48)

/-- The point of a policer, where it is enabled: point, port, class, and function or 256 for all (R347). -/
def polPoint (v : Nat) : Option (List Nat) :=
  if bitOf v 0 then some [bitsOf v 1 1, bitsOf v 11 8, bitsOf v 14 12, if bitOf v 1 ∧ ¬ bitOf v 6 then bitsOf v 23 16 else 256] else none
def polPoints (vs : List Nat) : Bool := let ps := vs.filterMap polPoint; ps.eraseDups.length == ps.length
/-- Shares of a port sum to at most 100 % (R343). -/
def sharesOk (f : Nat → Nat → Nat) : Bool := (List.range 19).all fun p => decide (((List.range 8).map (f p)).sum ≤ 100)
/-- The credits sum to at most 244 (R445). -/
def creditsOk (v : Nat) : Bool := decide (((List.range 6).map fun k => bitsOf v (8 * k + 7) (8 * k)).sum ≤ 244)
def trafficOk (b : List Byte) : Bool :=
  b.length == 0x80C0 && ((b.take 152).all fun x => decide (x.toNat < 128)) && sharesOk (fun p c => field b (8 * p + c) 1) &&
    decide (field b 0x98 8 < 2 ^ 48) && creditsOk (field b 0x98 8) && isZeros ((b.drop 0xA0).take 32) &&
    polPoints ((List.range policers).map fun k => field b (0xC0 + 8 * k) 8)

/-- The range of a function's entry. -/
def fenceEntry (b : List Byte) (f : Nat) : Nat × Nat := (bitsOf (field b (4 * f) 4) 13 0, bitsOf (field b (4 * f) 4) 28 14)
def fencesOk (b : List Byte) : Bool :=
  b.length == 1024 && ((List.range 256).all fun f => f == 0 || decide ((fenceEntry b f).1 + (fenceEntry b f).2 ≤ fences)) &&
    (List.range 256).all fun f => (List.range f).all fun g =>
      let x := fenceEntry b f
      let y := fenceEntry b g
      g == 0 || x.2 == 0 || y.2 == 0 || decide (x.1 + x.2 ≤ y.1) || decide (y.1 + y.2 ≤ x.1)
def powerOk (b : List Byte) : Bool := b.length == 64 && decide (field b 0 2 + 4 * field b 2 2 ≤ 750) && isZeros (b.drop 4)

/-- R176. -/
def partRecordOk (p : Nat) (b : List Byte) (s : State) : Bool :=
  let n := field b 2 2
  let m := recordMap b
  field b 0 1 == p && (decide (field b 1 1 < 16) || field b 1 1 == 0xFF) && within 1 n 1344 && b.length == 64 * ceilDiv (0x20 + 2 * n) 64 &&
    decide (field b 5 1 < 2) && within 1000 (field b 6 2) 3000 && isZeros ((b.drop 0x14).take 12) && isZeros (b.drop (0x20 + 2 * n)) &&
    (m.all fun a => decide (a < 2048) && decide (a % 512 < 352) && rd (ARY_STATUS.STATE (a / 512) (a % 512)) s == 0) && nodup m &&
    field b 4 1 == mapTiles m

/-- The nodes of a set's trie are linked as R285 numbers them. -/
def trieOk (t : List Byte) : Bool :=
  let n := field t 0x10 4
  let at' := fun k => field t 0x2C 4 + 32 * k
  let none' := 0xFFFF_FFFF
  let first := fun k => field t (field t 0x30 4 + field t (at' k + 0x10) 4) 1
  (List.range n).all fun k =>
    let a := at' k
    let up := field t a 4
    let kid := field t (a + 4) 4
    let sib := field t (a + 8) 4
    let last := field t (a + 12) 4
    (if k = 0 then up == none' && field t (a + 0x14) 2 == 0 && field t (a + 0x16) 2 == 0
     else decide (up < k) && within 1 (field t (a + 0x14) 2) 1024 && field t (a + 0x16) 2 == field t (at' up + 0x16) 2 + field t (a + 0x14) 2) &&
    decide (field t 0x30 4 + field t (a + 0x10) 4 + field t (a + 0x14) 2 ≤ t.length) &&
    (if kid = none' then last == k else kid == k + 1 && decide (kid < n) && field t (at' kid) 4 == k) &&
    (if sib = none' then k == 0 || last == field t (at' up + 12) 4
     else sib == last + 1 && decide (sib < n) && field t (at' sib) 4 == up && decide (first k < first sib)) &&
    (field t (a + 0x18) 4 == none' || decide (field t (a + 0x18) 4 < field t 8 4)) && field t (a + 0x1C) 4 == 0

/-- The merge rules of a set: left, right, result, rank. -/
def mergeRules (t : List Byte) : List (Nat × Nat × Nat × Nat) :=
  (List.range (2 ^ field t 0x39 1)).filterMap fun k =>
    let a := field t 0x28 4 + 16 * k
    if field t a 4 = 0xFFFF_FFFF then none else some (field t a 4, field t (a + 4) 4, field t (a + 8) 4, field t (a + 12) 4)
/-- The tokens of a set's character table. -/
def charToks (t : List Byte) : List Nat :=
  if field t 5 1 = 0 then [] else
    (List.range (2 ^ field t 0x38 1)).filterMap fun k =>
      let a := field t 0x24 4 + 8 * k
      if field t a 4 = 0xFFFF_FFFF then none else some (field t (a + 4) 4)
/-- Leaves of the class map: one more than the highest that its first level names. -/
def classLeaves (t : List Byte) : Nat := ((List.range 4352).map fun k => field t (field t 0x18 4 + 2 * k) 2 + 1).foldl max 0

/-- R276, R277. -/
def tokSetOk (k : Nat) (t : List Byte) : Bool :=
  let vocab := field t 8 4
  let sect := fun (at' n : Nat) => field t at' 4 % 64 == 0 && decide (field t at' 4 + n ≤ t.length)
  let ms := mergeRules t
  field t 0 4 == 0x544F_4B31 && field t 4 1 == k && decide (field t 5 1 ≤ 1) && within 16 (field t 6 2) 1024 && within 256 vocab 262144 &&
    decide (field t 0xC 4 + 256 ≤ vocab) && (field t 5 1 == 1 || field t 0x14 4 == 0) && isZeros ((t.drop 0x3A).take 6) &&
    decide (t.length ≤ 0x400_0000) && sect 0x18 8704 && sect 0x18 (8704 + 128 * classLeaves t) && sect 0x1C 256 && sect 0x20 1024 &&
    (field t 5 1 == 0 || sect 0x24 (8 * 2 ^ field t 0x38 1)) && sect 0x28 (16 * 2 ^ field t 0x39 1) && sect 0x2C (32 * field t 0x10 4) &&
    sect 0x30 0 && sect 0x34 (4 * vocab) &&
    ((List.range 256).all fun b => decide (byteTok t (BitVec.ofNat 8 b) < vocab)) && (charToks t).all (· < vocab) &&
    (ms.all fun m => decide (m.1 < vocab) && decide (m.2.1 < vocab) && decide (m.2.2.1 < vocab)) &&
    ((List.range vocab).all fun x => let n := field t (field t 0x34 4 + 4 * x) 4; n == 0xFFFF_FFFF || decide (n < field t 0x10 4)) &&
    decide (2 * (charToks t).length ≤ 2 ^ field t 0x38 1) && decide (2 * ms.length ≤ 2 ^ field t 0x39 1) &&
    ((ms.map fun m => (m.1, m.2.1)).eraseDups.length == ms.length) && nodup (ms.map (·.2.2.2)) && trieOk t &&
    (ms.all fun m => tokBytes t m.2.2.1 == tokBytes t m.1 ++ tokBytes t m.2.1) &&
    (List.range vocab).all fun x => decide ((tokBytes t x).length ≤ 1024)

/-- An address of a protected structure in the bonded tier. -/
def protOk (a : Nat) (s : State) : Bool := decide (a < bondedEnd) && !chRaw (gchan a) s
/-- The ranges of R311, and channels named for one use only. -/
def vecRecordOk (i : Nat) (b : List Byte) (s : State) : Bool :=
  let m := field b 4 2
  b.length == 64 && field b 0 1 == i && decide (field b 1 1 ≤ 1) && within 8 (field b 2 2) 4096 && within 1 m 256 && field b 2 2 % m == 0 &&
    within 8 (field b 6 1) 64 && field b 6 1 % 8 == 0 && decide (field b 7 1 < 4) && within 32 (field b 8 2) 4096 && field b 8 2 % 32 == 0 &&
    decide (20 + ceilDiv m 2 ≤ field b 8 2) && decide (field b 10 1 < 64) && decide (field b 11 1 < 255) && field b 12 4 &&& field b 16 4 == 0 &&
    within 10 (field b 0x14 1) 33 && isZeros ((b.drop 0x15).take 3) && decide (1 ≤ field b 0x18 4) && isZeros ((b.drop 0x1C).take 4) &&
    protOk (field b 0x20 8) s && protOk (field b 0x28 8) s && protOk (field b 0x30 8) s && protOk (field b 0x38 8) s

/-- R296. -/
def embRecordOk (k : Nat) (b : List Byte) : Bool :=
  let composed := field b 1 1 == 1
  b.length == 64 && field b 0 1 == k && decide (field b 1 1 ≤ 1) && decide (field b 2 1 ≤ 3) && decide (field b 3 1 < 8) &&
    within 1 (field b 4 2) 4096 && within 12 (field b 6 1) 24 && decide (field b 7 1 < 4) && decide (1 ≤ field b 0x10 4) &&
    (if composed then decide (1 ≤ field b 0x14 4) else field b 0x14 4 == 0 && field b 0x20 8 == 0) && isZeros (b.drop 0x28)

/-- Step 6 for a section that holds a record. -/
def recordOk (r : Nat) (b : List Byte) (s : State) : Bool :=
  if r = rgTier then tierOk b s else if r = rgClasses then classesOk b else if r = rgTraffic then trafficOk b
  else if r = rgFences then fencesOk b else if r = rgPower then powerOk b else if r < 0x110 then partRecordOk (r - 0x10) b s
  else if r < 0x120 then tokSetOk (r - 0x110) b else if r < 0x160 then vecRecordOk (r - 0x120) b s
  else embRecordOk (r - 0x160) b

/-- Step 6 for a register region whose shadow was edited: what its section would be refused for (R449). -/
def editsOk (r : Nat) (s : State) : Bool :=
  if r = rgTraffic then
    sharesOk (fun p c => shadowOf (TM_CLASS.SHARE p c) s) && creditsOk (shadowOf FAB_VC_CFG.CREDITS s) &&
      polPoints ((List.range policers).map fun k => ((policerFlds k).map fun f => shadowOf f.1 s * 2 ^ f.2.2).sum)
  else decide (shadowOf TRN_CFG.C0_SLOTS s ≤ 1024) && decide (s.adm.pageEnSh < 128)

/-! ## Rules that span regions (step 7 of R448) -/

/-- The maps of all partitions in a view, by region. A committed partition's is its live map (R175, R177). -/
def viewMaps (use : Nat → Bool) (s : State) : List (Nat × List Nat) :=
  (List.range 255).map fun p =>
    (rgPart p, if use (rgPart p) ∧ (sget s.adm.stage (rgPart p)).isSome then recordMap (sgetD s.adm.stage (rgPart p) [])
      else (sgetD s.parts p {}).ranks)
/-- Regions of partitions that share an array (R175). -/
def sharedArrays (use : Nat → Bool) (s : State) : List Nat :=
  let ms := viewMaps use s
  (ms.filter fun a => ms.any fun b => a.1 != b.1 && a.2.any (b.2.contains ·)).map (·.1)
/-- Regions of indexes that name a channel not raw, shared, or one that holds page summaries (R311). -/
def badIndexes (use : Nat → Bool) (s : State) : List Nat :=
  let tier := viewOf use rgTier s
  let vs := ((List.range 64).map rgVec).map fun r => (r, recordIndexChans (viewOf use r s))
  let summaries := (s.sess.map fun p => (p.2.allocs.filter (·.kind == 7)).map (·.chan)).flatten
  (vs.filter fun v => v.2.any fun g => !tierRaw tier g || summaries.contains g || vs.any fun w => w.1 != v.1 && w.2.contains g).map (·.1)
/-- The reservations fit the pool (R444). -/
def reservesFit (use : Nat → Bool) (s : State) : Bool :=
  decide (((List.range 8).map fun c => viewFld use rgClasses (SES_CLASS_CFG.RESERVE_GIB c) s).sum * 1024 ≤ field (viewOf use rgTier s) 0x80 4)
/-- The regions concerned in the first rule that a view breaks; none where it breaks no rule. -/
def crossBad (use : Nat → Bool) (s : State) : List Nat :=
  match sharedArrays use s, badIndexes use s with
  | a :: r, _ => a :: r
  | [], v :: r => rgTier :: v :: r
  | [], [] => if reservesFit use s then [] else [rgTier, rgClasses]

end Sys2Proof.Machine
end

