-- ==== Sys2Proof/Machine/Fabric.lean ====
section
/-!
DEFINITION. Sys2Proof/Machine/Fabric.lean: fabric ports, frames, credits, retry and the delivery of messages (R361 to R375, R508 to
R511).
-/
namespace Sys2Proof.Machine

/-! ## Ports (R361, R362) -/

def pDown : Nat := 0
def pTraining : Nat := 1
def pUp : Nat := 2
def pDraining : Nat := 3
def pRetired : Nat := 4

def portState (p : Nat) (s : State) : Nat := rd (FAB_PORT_STATUS.STATE p) s
/-- FAB_PORT_ERR of a port as it reads. -/
def portErr (p : Nat) (s : State) : Nat :=
  rd (FAB_PORT_ERR.CRC p) s + rd (FAB_PORT_ERR.RETRIES p) s * 2 ^ 32 + rd (FAB_PORT_ERR.LINK_DOWNS p) s * 2 ^ 48
/-- Credits advertised by this end's receiver (R366). -/
def vcSlots (s : State) : List Nat := ((List.range 6).map fun v => 8 * bitsOf (rd FAB_VC_CFG.CREDITS s) (8 * v + 7) (8 * v)) ++ [64, 32]
def freshLink : Link := { txSeq := Config.firstSeq % 1024, rxSeq := Config.firstSeq % 1024 }
def linkOf (p : Nat) (s : State) : Link := sgetD s.net.links p freshLink
def putLink (p : Nat) (l : Link) (s : State) : State := { s with net.links := sset s.net.links p l }

/-- A port changes state (R362): its lanes and its place in the traffic manager follow, and event 0x000F is posted. -/
def setPort (p st lanes : Nat) (s : State) : State :=
  if portState p s = st then s
  else
    let s := if st = pTraining then bump (FAB_PORT_STATUS.TRAININGS p) 1 s else s
    let s := wr (FAB_PORT_STATUS.STATE p) st (if st = pDraining then s else wr (FAB_PORT_STATUS.LANES p) (if st = pUp then lanes else 0) s)
    let s := wr (TM_PORT.UP (p + 2)) (b2n (st == pUp)) (wr (TM_PORT.RATE_MBPS (p + 2)) (if st = pUp then 24500 * lanes else 0) s)
    let v := rd (FAB_PORT_STATUS.STATE p) s + rd (FAB_PORT_STATUS.LANES p) s * 2 ^ 4 + rd (FAB_PORT_STATUS.NEIGHBOUR p) s * 2 ^ 8 +
      rd (FAB_PORT_STATUS.TRAININGS p) s * 2 ^ 32
    let s := trace { tick := 0, event := 0x0901, src := 0x11, arg := v } s
    postPf 0x000F 0x11 sOk (p * 2 ^ 16 + st) (portErr p s) s

/-! ## Routes (R372, R373) -/

/-- The up ports that reach a module. -/
def upPorts (dst : Nat) (s : State) : List Nat := (List.range 16).filter fun p => rdBit (FAB_ROUTE.PORTS dst) p s && portState p s == pUp
/-- The port of a message: by FLOW where it is ORDERED, else the one with the fewest queued bytes. -/
def routePort (dst : Nat) (ordered : Bool) (flow : Nat) (s : State) : Option Nat :=
  let ps := upPorts dst s
  let load := fun p => ((unitsOf (p + 2) s).map (·.bytes)).sum
  if ordered then ps[flow % ps.length]?
  else ps.foldl (fun b p => match b with
    | none => some p
    | some q => if load p < load q then some p else some q) none
def msgDst (m : List Byte) : Nat := field m 4 2 % 4096
def msgSrc (m : List Byte) : Nat := field m 6 2 % 4096
def msgOrdered (m : List Byte) : Bool := bitOf (field m 1 1) 2
/-- Put a message on a link without the traffic manager: VC6 and VC7. -/
def linkQueue (p : Nat) (u : TmUnit) (s : State) : State :=
  let l := linkOf p s
  let n := ceilDiv u.data.length 502
  let cut := fun k => ({ vc := u.vc, colour := 0, first := k == 0, last := k + 1 == n, data := (u.data.drop (502 * k)).take 502, msg := l.next } : LinkFrame)
  putLink p { l with next := l.next + 1, msgs := l.msgs ++ [{ num := l.next, unit := u, left := (List.range n).map cut }] } s
/-- Send a message that its link did not deliver again, whole, on another port of the mask. -/
def resend (s : State) (u : TmUnit) : State :=
  let u := { u with resent := true }
  match routePort (msgDst u.data) (msgOrdered u.data) (field u.data 12 4) s with
  | none => s
  | some q => bump FAB_RESENT.COUNT 1 (if u.vc < 6 then tmEnqueue (q + 2) s u else linkQueue q u s)
/-- A port stops carrying its link: the retry buffer, partial messages and link keys go, undelivered messages go elsewhere. -/
def loseLink (p st : Nat) (f : Link → Link) (s : State) : State :=
  let l := linkOf p s
  let s := setPort p st 0 (putLink p (f { freshLink with drain := 0, retrain := l.retrain, retry := l.retry, fails := l.fails }) s)
  (l.msgs.map (·.unit)).foldl resend s

/-! ## Commands on ports (R362) -/

/-- FAB_PORT_ENABLE: ENABLE set starts training of a DOWN port, cleared it takes the port DOWN. A RETIRED port leaves its state by RETURN
only. -/
def portEnable (p : Nat) (on : Bool) (s : State) : State :=
  if 16 ≤ p then s
  else
    let s := wr (FAB_PORT_CTRL.ENABLE p) (b2n on) s
    if on then (if portState p s = pDown then setPort p pTraining 0 (putLink p { linkOf p s with retry := false, retrain := false } s) else s)
    else if portState p s = pRetired ∨ portState p s = pDown then putLink p { linkOf p s with retry := false } s
    else loseLink p pDown (fun l => { l with retry := false, retrain := false }) s
def execFabPortEnable (port : Nat) (on : Bool) (s : State) : Host.Outcome State Fault Refusal := whenServing s (portEnable port on)

/-- Another port drains or trains because of a RETRAIN. -/
def otherRetrains (p : Nat) (s : State) : Bool :=
  (List.range 16).any fun q => q != p && ((portState q s == pDraining && (linkOf q s).drain == 1) || (portState q s == pTraining && (linkOf q s).retrain))
/-- RETRAIN of an UP port. -/
def portRetrain (p : Nat) (s : State) : State :=
  if 16 ≤ p then s
  else if otherRetrains p s then bump FAB_CMD_IGNORED.COUNT 1 s
  else if portState p s = pUp then setPort p pDraining 0 (putLink p { linkOf p s with drain := 1 } s) else s
def execFabRetrain (port : Nat) (s : State) : Host.Outcome State Fault Refusal := whenServing s (portRetrain port)
/-- RETIRE of an UP port. -/
def portRetire (p : Nat) (s : State) : State :=
  if p < 16 ∧ portState p s = pUp then setPort p pDraining 0 (putLink p { linkOf p s with drain := 2 } s) else s
def execFabRetire (port : Nat) (s : State) : Host.Outcome State Fault Refusal := whenServing s (portRetire port)
/-- RETURN of a RETIRED port. -/
def portReturn (p : Nat) (s : State) : State :=
  if p < 16 ∧ portState p s = pRetired then setPort p pTraining 0 (putLink p freshLink s) else s
def execFabReturn (port : Nat) (s : State) : Host.Outcome State Fault Refusal := whenServing s (portReturn port)

/-- A training fails at a time in ms: DOWN until the retry, RETIRED on the third failure within 10 s. -/
def trainFail (p ms : Nat) (s : State) : State :=
  let l := linkOf p s
  let fails := ms :: l.fails.filter fun t => decide (ms < t + 10000)
  let gone := decide (3 ≤ fails.length)
  setPort p (if gone then pRetired else pDown) 0 (putLink p { freshLink with fails := if gone then [] else fails, retry := !gone } s)
/-- LINK_TRAINING_DONE: trained on 8 lanes, or at half rate on 4, once the handshake of R510 has made the link keys; the first link-only
frames advertise the receiver's slots. -/
def trainingDone (p : Nat) (ok : Bool) (lanes neighbour mv ui worst ms : Nat) (s : State) : State :=
  if 16 ≤ p ∨ portState p s ≠ pTraining then s
  else
    let s := wr (FAB_PORT_MARGIN.EYE_MV p) mv (wr (FAB_PORT_MARGIN.EYE_UI p) ui (wr (FAB_PORT_MARGIN.WORST_LANE p) worst s))
    if !ok then trainFail p ms s
    else if (lanes = 4 ∨ lanes = 8) ∧ (linkOf p s).keys.isSome then
      let l := linkOf p s
      setPort p pUp lanes (wr (FAB_PORT_STATUS.NEIGHBOUR p) neighbour
        (putLink p { freshLink with owed := vcSlots s, keys := l.keys, fails := l.fails, msgs := l.msgs, next := l.next } s))
    else s
def execLinkTrainingDone (port : Nat) (ok : Bool) (lanes neighbour mv ui worst ms : Nat) (s : State) : Host.Outcome State Fault Refusal :=
  whenServing s (trainingDone port ok lanes neighbour mv ui worst ms)
/-- TRAINING_RETRY: 1 s after a failed training. -/
def trainingRetry (p : Nat) (s : State) : State :=
  let l := linkOf p s
  if p < 16 ∧ portState p s = pDown ∧ l.retry ∧ isSet (FAB_PORT_CTRL.ENABLE p) s then
    setPort p pTraining 0 (putLink p { l with retry := false } s) else s
def execTrainingRetry (port : Nat) (s : State) : Host.Outcome State Fault Refusal := whenServing s (trainingRetry port)
/-- PORT_DRAIN_DONE: every frame is acknowledged, or `late`: 20 µs have passed. -/
def portDrained (p : Nat) (late : Bool) (s : State) : State :=
  let l := linkOf p s
  if p < 16 ∧ portState p s = pDraining ∧ (late ∨ (l.unacked = [] ∧ l.msgs = [])) then
    loseLink p (if l.drain = 1 then pTraining else pRetired) (fun x => { x with retrain := l.drain == 1 }) s
  else s
def execPortDrainDone (port : Nat) (late : Bool) (s : State) : Host.Outcome State Fault Refusal := whenServing s (portDrained port late)
/-- The link goes down (R369). -/
def linkDown (p : Nat) (s : State) : State :=
  if portState p s = pUp ∨ portState p s = pDraining then
    loseLink p pTraining (fun x => { x with retrain := false }) (bump (FAB_PORT_ERR.LINK_DOWNS p) 1 s)
  else s
/-- LINK_DOWN: `cause` 0 the eighth NAK for one SEQ, 1 20 µs without ACK progress while frames are outstanding, 2 loss of PCS alignment. -/
def execLinkDown (port cause : Nat) (s : State) : Host.Outcome State Fault Refusal :=
  whenServing s fun s =>
    let l := linkOf port s
    if port < 16 ∧ ((cause = 0 ∧ 8 ≤ l.naks) ∨ (cause = 1 ∧ l.unacked ≠ []) ∨ cause = 2) then linkDown port s else s

/-! ## Frames (R363, R364) -/

/-- CRC-32 of IEEE 802.3, in its reflected form. -/
def crcBit (c : Nat) : Nat := if c % 2 = 1 then (c / 2) ^^^ 0xEDB88320 else c / 2
def crcByte (c : Nat) (b : Byte) : Nat :=
  let c := c ^^^ b.toNat
  crcBit (crcBit (crcBit (crcBit (crcBit (crcBit (crcBit (crcBit c)))))))
def crc32 (bs : List Byte) : Nat := (bs.foldl crcByte 0xFFFFFFFF) ^^^ 0xFFFFFFFF
/-- The 48-bit header. -/
def frameHdr (vc colour : Nat) (first last : Bool) (len seq ack : Nat) (nak : Bool) (cvc count : Nat) : Nat :=
  vc * 2 ^ 45 + colour * 2 ^ 43 + b2n first * 2 ^ 42 + b2n last * 2 ^ 41 + len * 2 ^ 32 + seq * 2 ^ 22 + ack * 2 ^ 12 + b2n nak * 2 ^ 11 +
    cvc * 2 ^ 8 + count
/-- A frame's 512 bytes: header, payload with zeros behind it, CRC. -/
def frameBytes (hdr : Nat) (payload : List Byte) : List Byte :=
  let b := leBytes 6 hdr ++ payload ++ List.replicate (502 - payload.length) 0#8
  b ++ leBytes 4 (crc32 b)

/-! ## Sending (R365 to R368) -/

/-- The number after the last one accepted, less one: what ACK says. -/
def ackOf (l : Link) : Nat := (l.rxSeq + 1023) % 1024
/-- The credits a frame returns: those of the lowest channel that owes some, up to 255. -/
def creditReturn (l : Link) : Nat × Nat × List Nat :=
  match (List.range 8).find? fun v => l.owed.getD v 0 != 0 with
  | none => (0, 0, l.owed)
  | some v => let n := min 255 (l.owed.getD v 0); (v, n, l.owed.set v (l.owed.getD v 0 - n))
/-- Put a frame on the wire with the acknowledgement and credits owed. -/
def emit (p vc colour : Nat) (first last : Bool) (seq : Nat) (payload : List Byte) (l : Link) (s : State) : State :=
  let (cv, cn, owed) := creditReturn l
  let h := frameHdr vc colour first last payload.length seq (ackOf l) l.nakDue cv cn
  let roll := decide (255 ≤ l.slots)
  let own := payload != []
  let l := { l with owed := owed, ackDue := 0, nakDue := false, slots := if roll then 0 else l.slots + 1,
                    slots7 := if roll then 0 else l.slots7 + b2n (own && vc == 7), slots6 := if roll then 0 else l.slots6 + b2n (own && vc == 6) }
  putLink p l { s with net.wire := (p, frameBytes h payload) :: s.net.wire }
/-- The message whose frame a channel sends next. -/
def headMsg (l : Link) (v : Nat) : Option LinkMsg := l.msgs.find? fun m => m.unit.vc == v && m.left != []
/-- The channel that may send: VC7, then VC6, each at most 2 of 256 slots while data waits, then data in turn. -/
def pickVc (l : Link) : Option Nat :=
  let ready := fun v => (headMsg l v).isSome && decide (0 < l.credits.getD v 0)
  let waits := (List.range 6).any fun v => (headMsg l v).isSome
  if ready 7 && !(waits && decide (2 ≤ l.slots7)) then some 7
  else if ready 6 && !(waits && decide (2 ≤ l.slots6)) then some 6
  else ((List.range 6).map fun k => (l.turn + 1 + k) % 6).find? ready
/-- The job key's ratchet (R508). -/
def ratchet (p : Pair) : Pair := { p with tx := Config.kdf p.tx [0x4F, 0x43, 0x56, 0x52, 0x41, 0x54], txPar := !p.txPar, msgId := 1 }
/-- Give an own message of VC0 to VC5 its MSG_ID and the parity of its key, ratcheting first where the number would reach
0x8000_0000; `none` where the job has no key for the destination. -/
def stamp (u : TmUnit) (f : LinkFrame) (s : State) : Option (LinkFrame × State) :=
  if 6 ≤ f.vc ∨ !f.first ∨ u.resent ∨ msgSrc u.data ≠ rd SES_CTRL.MODULE_ID s then some (f, s)
  else
    let k := field u.data 3 1 % 128 * 4096 + msgDst u.data
    match sget s.net.pairs k with
    | none => none
    | some pr =>
      let turn := decide (0x8000_0000 ≤ pr.msgId)
      let pr := if turn then ratchet pr else pr
      let s := if turn then bump (SEC_JOB.RATCHETS pr.job) 1 s else s
      let d := f.data.take 3 ++ [BitVec.ofNat 8 (pr.job + 128 * b2n pr.txPar)] ++ (f.data.drop 4).take 16 ++ leBytes 4 pr.msgId ++ f.data.drop 24
      some ({ f with data := d }, { s with net.pairs := sset s.net.pairs k { pr with msgId := pr.msgId + 1 } })
/-- Send the next frame of a channel: it takes a credit and a number and stays in the retry buffer. -/
def sendFrame (p v : Nat) (l : Link) (s : State) : State :=
  match headMsg l v with
  | none => s
  | some m => match m.left with
    | [] => s
    | f :: rest =>
      match stamp m.unit f s with
      | none => putLink p { l with msgs := l.msgs.filter (·.num != m.num) } s
      | some (f, s) =>
        let l := { l with msgs := l.msgs.map (fun x => if x.num = m.num then { x with left := rest } else x),
                          unacked := l.unacked ++ [f], txSeq := (l.txSeq + 1) % 1024, turn := if v < 6 then v else l.turn,
                          credits := l.credits.set v (l.credits.getD v 0 - 1) }
        emit p f.vc f.colour f.first f.last ((l.txSeq + 1023) % 1024) f.data l s
/-- FRAME_SEND: a go-back's next frame, else a new payload frame, else a link-only frame where something is owed. `mgmt` are messages
of VC6 and VC7 that the hub hands to the port. -/
def frameSend (p : Nat) (mgmt : List TmUnit) (s : State) : State :=
  if 16 ≤ p ∨ (portState p s ≠ pUp ∧ portState p s ≠ pDraining) then s
  else
    let s := (mgmt.filter fun u => u.vc == 6 || u.vc == 7).foldl (fun s u => linkQueue p u s) s
    let l := linkOf p s
    match l.resend.bind fun k => (l.unacked[k]?).map fun f => (k, f) with
    | some (k, f) =>
      let seq := (l.txSeq + 1024 - l.unacked.length + k) % 1024
      emit p f.vc f.colour f.first f.last seq f.data { l with resend := if k + 1 < l.unacked.length then some (k + 1) else none } s
    | none =>
      match if l.unacked.length < 512 then pickVc l else none with
      | some v => sendFrame p v l s
      | none => if l.ackDue ≠ 0 ∨ l.nakDue ∨ l.owed.any (· != 0) then emit p 0 0 false false 0 [] l s else s
def execFrameSend (port : Nat) (mgmt : List TmUnit) (s : State) : Host.Outcome State Fault Refusal := whenServing s (frameSend port mgmt)
/-- ACK_TIMER: an acknowledgement owed for 0.25 µs goes by a link-only frame where no payload frame can carry it. -/
def ackTimer (p : Nat) (s : State) : State :=
  let l := linkOf p s
  if p < 16 ∧ portState p s = pUp ∧ (l.ackDue ≠ 0 ∨ l.nakDue) ∧ (pickVc l).isNone then emit p 0 0 false false 0 [] l s else s
def execAckTimer (port : Nat) (s : State) : Host.Outcome State Fault Refusal := whenServing s (ackTimer port)

/-! ## Delivery (R370 to R374, R508) -/

/-- Send a message of this module; the frames it takes are the traffic manager's and the links' concern. -/
def sendMsg (type dst : Nat) (args : List Nat) (data : List Byte) (s : State) : State :=
  { s with fabOut := { type := type, dst := dst, args := args, data := data } :: s.fabOut }
/-- Whether an identifier was accepted before or is too old. -/
def replayed (top : Nat) (seen : List Nat) (id : Nat) : Bool := decide (id + 1024 ≤ top) || seen.contains id
def noteId (top : Nat) (seen : List Nat) (id : Nat) : Nat × List Nat :=
  let t := max top id
  (t, (id :: seen).filter fun x => decide (t < x + 1024))
/-- The job key's checks of a message for this module, whose tag verifies under the previous key or under the present one and its ratchet:
`none` where that key is gone, else whether it is new, and the keys after. -/
def jobCheck (pr : Pair) (par : Bool) (id edges : Nat) (prev : Bool) : Option (Bool × Pair) :=
  if prev then
    match pr.old with
    | some (k, lim, top, seen) =>
      if lim ≤ edges then none
      else if replayed top seen id then some (false, pr)
      else some (true, { pr with old := some (k, lim, (noteId top seen id).1, (noteId top seen id).2) })
    | none => none
  else if par = pr.rxPar then
    if replayed pr.top pr.seen id then some (false, pr) else some (true, { pr with top := (noteId pr.top pr.seen id).1, seen := (noteId pr.top pr.seen id).2 })
  else some (true, { pr with rx := Config.kdf pr.rx [0x4F, 0x43, 0x56, 0x52, 0x41, 0x54], rxPar := par, old := some (pr.rx, edges + 256, pr.top, pr.seen), top := id, seen := [id] })
def knownType (t : Nat) : Bool := (decide (1 ≤ t) && decide (t ≤ 6)) || (decide (0x10 ≤ t) && decide (t ≤ 0x18))
/-- Hand a flow's messages on as far as their sequence goes; `n` bounds them. -/
def drainFlow (f : Flow) : Nat → State → Flow × State
  | 0, s => (f, s)
  | n + 1, s => match f.held.find? (·.1 == f.next) with
    | none => (f, s)
    | some m => drainFlow { f with next := f.next + 1, held := f.held.filter (·.1 != f.next) } n { s with net.inbox := (m.2.1, m.2.2) :: s.net.inbox }
/-- A message has reached its module: ordered flows in their order (R372). -/
def arrive (p : Nat) (m : List Byte) (s : State) : State :=
  if msgOrdered m then
    let src := msgSrc m
    let fl := field m 12 4
    let f := (s.net.flows.find? fun f => f.src == src && f.flow == fl).getD { src := src, flow := fl, next := Config.firstFlow }
    let (f, s) := drainFlow { f with held := f.held ++ [(field m 16 4, p, m)] } (f.held.length + 1) s
    { s with net.flows := f :: s.net.flows.filter fun g => !(g.src == src && g.flow == fl) }
  else { s with net.inbox := (p, m) :: s.net.inbox }
/-- A message of another module goes on over its second hop (R372). -/
def forwardMsg (vc colour : Nat) (m : List Byte) (s : State) : State :=
  let dst := msgDst m
  let flags := field m 1 1
  if flags / 16 % 4 ≠ 0 ∨ rd (FAB_ROUTE.VIA dst) s ≠ 0xFFF then bump FAB_MISROUTED.COUNT 1 s
  else match routePort dst (msgOrdered m) (field m 12 4) s with
    | none => s
    | some q =>
      let m := m.take 1 ++ [BitVec.ofNat 8 (flags + 16)] ++ m.drop 2
      let u : TmUnit := { cls := field m 2 1 % 8, fn := 0, bytes := m.length, enq := (s.cad.lastEdge.getD 0) / 64, chan := 0, vc := vc, colour := colour, data := m, resent := true }
      if vc < 6 then tmEnqueue (q + 2) s u else linkQueue q u s
/-- A whole message has been received: its protection, its type, its destination, its job key (R370 to R372, R508, R511). -/
def deliver (p vc colour : Nat) (m : List Byte) (auth : Nat) (s : State) : State :=
  let flags := field m 1 1
  let dst := msgDst m
  let inView := decide (2 ≤ rd DIR_SELF.STATE s)
  if !inView && vc != 7 then s
  else if (if vc < 6 then !bitOf flags 0 else !bitOf flags 1) then bump FAB_AUTH_FAILS.COUNT 1 s
  else if 6 ≤ vc ∧ auth = 0 then linkDown p (bump FAB_AUTH_FAILS.COUNT 1 s)
  else if !knownType (field m 0 1) then bump FAB_MISROUTED.COUNT 1 s
  else if dst ≠ rd SES_CTRL.MODULE_ID s ∧ !(dst == 0xFFF && vc == 7) then (if inView then forwardMsg vc colour m s else s)
  else if 6 ≤ vc then arrive p m s
  else if auth = 0 then bump FAB_AUTH_FAILS.COUNT 1 s
  else
    let k := field m 3 1 % 128 * 4096 + msgSrc m
    match sget s.net.pairs k with
    | none => bump FAB_AUTH_FAILS.COUNT 1 s
    | some pr => match jobCheck pr (bitOf (field m 3 1) 7) (field m 20 4) s.cad.edges (auth == 2) with
      | none => bump FAB_AUTH_FAILS.COUNT 1 s
      | some (false, _) => bump SEC_REPLAYS.COUNT 1 s
      | some (true, pr) => arrive p m { s with net.pairs := sset s.net.pairs k pr }

/-! ## Receiving (R366, R368) -/

/-- A payload frame's place in its message: the policer judges a data message at its FIRST frame (R374), a dropped one is noticed. -/
def reassemble (p vc colour : Nat) (first last : Bool) (pay : List Byte) (auth : Nat) (s : State) : State :=
  let l := linkOf p s
  let (part, s) : MsgPart × State :=
    if first then
      if vc < 6 then
        let (c, drop, s) := police 0 p (field pay 2 1 % 8) 0 colour (32 + field pay 8 4 + 16) s
        let s := if drop then bump FAB_DROP_NOTICES.COUNT 1 (sendMsg 0x18 (msgSrc pay) [field pay 20 4, field pay 0 1] [] s) else s
        ({ data := pay, colour := c, drop := drop }, s)
      else ({ data := pay, colour := 0, drop := false }, s)
    else match sget l.partials vc with
      | some x => ({ x with data := x.data ++ pay }, s)
      | none => ({ data := [], colour := 0, drop := true }, s)
  let l := linkOf p s
  if last then
    let s := putLink p { l with partials := sdel l.partials vc } s
    if part.drop then s else deliver p vc part.colour part.data auth s
  else putLink p { l with partials := sset l.partials vc part } s
/-- The acknowledgement, NAK and credits a frame carries. -/
def applyAck (p h : Nat) (s : State) : State :=
  let l := linkOf p s
  let n := l.unacked.length
  let base := (l.txSeq + 1024 - n) % 1024
  let k := (bitsOf h 21 12 + 1025 - base) % 1024
  let k := if k ≤ n then k else 0
  let left := l.unacked.drop k
  let nak := bitOf h 11
  let done := fun (m : LinkMsg) => m.left == [] && !(left.any (·.msg == m.num))
  let v := bitsOf h 10 8
  let l := { l with unacked := left, msgs := l.msgs.filter (fun m => !done m),
                    naks := if nak then (if k = 0 then l.naks + 1 else 1) else if k = 0 then l.naks else 0,
                    resend := if nak ∧ left ≠ [] then some 0 else (l.resend.bind fun r => if r < k ∨ left.length ≤ r - k then none else some (r - k)),
                    credits := l.credits.set v (l.credits.getD v 0 + bitsOf h 7 0) }
  let s := putLink p l s
  if nak then bump (FAB_PORT_ERR.RETRIES p) 1 s else s
/-- FRAME_RECEIVE: 512 bytes arrive at a port; `auth` says under which key the tag of the message they complete verifies:
0 none, 1 the present key or its ratchet, 2 the previous key. -/
def frameReceive (p : Nat) (bs : List Byte) (auth : Nat) (s : State) : State :=
  if 16 ≤ p ∨ (portState p s ≠ pUp ∧ portState p s ≠ pDraining) then s
  else if bs.length ≠ 512 ∨ crc32 (bs.take 508) ≠ field bs 508 4 then
    bump (FAB_PORT_ERR.CRC p) 1 (putLink p { linkOf p s with nakDue := true, gap := true } s)
  else
    let h := field bs 0 6
    let len := bitsOf h 40 32
    let s := applyAck p h s
    let l := linkOf p s
    if len = 0 then s
    else if bitsOf h 31 22 ≠ l.rxSeq ∨ 502 < len then putLink p { l with nakDue := l.nakDue || !l.gap, gap := true } s
    else
      let vc := bitsOf h 47 45
      let s := putLink p { l with rxSeq := (l.rxSeq + 1) % 1024, gap := false, ackDue := l.ackDue + 1, owed := l.owed.set vc (l.owed.getD vc 0 + 1) } s
      reassemble p vc (bitsOf h 44 43) (bitOf h 42) (bitOf h 41) ((bs.drop 6).take len) auth s
def execFrameReceive (port : Nat) (bytes : List Byte) (auth : Nat) (s : State) : Host.Outcome State Fault Refusal :=
  whenServing s (frameReceive port bytes auth)

/-! ## The link handshake (R510) -/

/-- A digest pair stands in the trust table, or LINK_OPEN is set. -/
def trusted (ed ml : Nat) (s : State) : Bool :=
  (List.range (rd SEC_TRUST_COUNT.COUNT s)).any fun k =>
    let e := memRead s (rd SEC_TRUST_ADDR.ADDR s * 64 + 32 * k) 32
    field e 0 16 == ed && field e 16 16 == ml
/-- A handshake blob of the peer is checked: the keys are installed, or the training fails. -/
def handshake (p ed ml blob ms : Nat) (sigOk : Bool) (s : State) : State :=
  if 16 ≤ p ∨ portState p s ≠ pTraining then s
  else if isSet SEC_ID_STATUS.PUF_OK s ∧ sigOk ∧ ed ≠ Config.idEd ∧ (isSet SEC_CFG.LINK_OPEN s ∨ trusted ed ml s) then
    putLink p { linkOf p s with keys := some (Config.kdf blob [0x4F, 0x43, 0x56, 0x4C, 0x4E, 0x4B]) } s
  else trainFail p ms (postPf 0x001F 0x16 sAuthFail p (ed % 2 ^ 64) (bump SEC_LINK_FAILS.COUNT 1 s))
/-- LINK_OFFER: the peer initiates, so its Ed25519 digest is the lower. -/
def execLinkOffer (port ed ml blob ms : Nat) (sigOk : Bool) (s : State) : Host.Outcome State Fault Refusal :=
  whenServing s (handshake port ed ml blob ms (sigOk && decide (ed ≤ Config.idEd)))
/-- LINK_REPLY: this end initiated, so its digest is the lower. -/
def execLinkReply (port ed ml blob ms : Nat) (sigOk : Bool) (s : State) : Host.Outcome State Fault Refusal :=
  whenServing s (handshake port ed ml blob ms (sigOk && decide (Config.idEd ≤ ed)))

/-! ## Drop notices (R374) and epochs (R375) -/

/-- EPOCH: a frame of another module's epoch set, arriving at `t` (1/64 ns) on a port; taken under steps 4 and 5 of R72, and forwarded. -/
def epochIn (port src domain value rep hops t : Nat) (s : State) : State :=
  if domain ≠ rd FAB_CFG.CADENCE_DOMAIN s then bump FAB_EPOCH_FOREIGN.COUNT 1 s
  else
    let seen := s.net.epochSeen.contains (src, value)
    let s := if seen ∨ rd FAB_CFG.EPOCH_HOPS s ≤ hops ∨ rd DIR_SELF.STATE s < 2 then s
      else ((List.range 16).filter fun q => q != port && portState q s == pUp).foldl (fun s q => sendMsg 0x01 0xFFF [src, domain, value, rep, hops + 1, q] [] s) s
    let s := { s with net.epochSeen := ((src, value) :: s.net.epochSeen.filter (· != (src, value))).take 4096 }
    let late := !isSet SID_STATUS.PERIOD_VALID s || (match s.cad.lastReal with
      | none => true
      | some r => decide (512 * periodQ s < 160 * (t - r)))
    if late then bump SID_EPOCH_COUNTS.LATE 1 s else { s with cad.frames := s.cad.frames ++ [(src, value, t)] }
def execEpochMsg (port src domain value rep hops time : Nat) (s : State) : Host.Outcome State Fault Refusal :=
  whenServing s (epochIn port src domain value rep hops time)

end Sys2Proof.Machine
end

