-- ==== Sys2Proof/Machine/Directory.lean ====
section
/-!
DEFINITION. Sys2Proof/Machine/Directory.lean: membership, the directory's shards and requests, mirrors held for others and their
adoption (R376 to R389).
-/
namespace Sys2Proof.Machine

/-! ## Requests and answers (R383 to R385) -/

def event000E (st status : Nat) (s : State) : State := postPf 0x000E 0x12 status st s.net.viewId s

/-- A local copy whose entry names another holder becomes a tombstone that forwards there (R379). -/
def reconcile (i : Nat) (e : DirEntry) (s : State) : State :=
  let d := descOf i s
  if d.st = stFree ∨ e.holder = selfId s then s
  else
    let s := releaseImage i (releaseBonded i (cutTransits (fun t => t.idx == i) s))
    let s := modSess i (fun x => { x with pages := [], spans := [], dirKey := none, mirrored := false }) s
    let s := putDesc i { d with st := stTransit, prev := d.st, migrated := true, ptRoot := 0, parkAddr := 0, turnPending := false } s
    let s := { s with tombs := { idx := i, newHandle := e.value, limit := s.cad.edges + 256 } :: s.tombs }
    let s := addHint d.handle e.value (wr TRN_MIG_STATUS.TOMBSTONES s.tombs.length s)
    postPfSes i 0x0011 0x12 sAborted e.holder e.value (bump DIR_RECONCILED.COUNT 1 s)

/-- An abandonment is settled (R385): the leader refuses the tag from now on, or had committed it, and the switch completes late. -/
def settleAbandon (tag key status : Nat) (s : State) : State :=
  match s.net.unresolved.find? (·.tag == tag) with
  | none => s
  | some m =>
    let s := { s with net.unresolved := s.net.unresolved.filter (·.tag != tag) }
    if status = sOk then s
    else match m.block with
      | some b => blockCommit m b s
      | none => if (descOf m.idx s).handle = key ∧ (descOf m.idx s).st ≠ stFree then switchCommit m s else s

/-- The answer to a request of this module. -/
def dirAnswer (id status : Nat) (es : List DirEntry) (s : State) : State :=
  match s.net.dirWait.find? (·.id == id) with
  | none => s
  | some w =>
    let s := { s with net.dirWait := s.net.dirWait.filter (·.id != id) }
    match w.use with
    | .hint h op =>
      match es.head? with
      | some e => complete h op sNotFound (e.holder * 2 ^ 52) 0 0 (cacheHolder w.key e.holder s)
      | none => complete h op sNotFound (0xFFF * 2 ^ 52) 0 0 s
    | .adopt i x =>
      let s := if status = sOk then postPfSes i 0x0010 0x12 sOk x w.key (bump DIR_ADOPTIONS.COUNT 1 s) else s
      if s.net.dirWait.any (fun w => match w.use with
        | .adopt _ _ => true
        | _ => false) then s else wr DIR_MIRROR.ADOPTING 0 s
    | .reconcile i => match es.head? with
      | some e => if (descOf i s).handle = w.key then reconcile i e s else s
      | none => s
    | .abandon tag => settleAbandon tag w.key status s
    | .other => s

/-- Answer a request: here, or by a DIR_RESP. -/
def dirReply (src id status : Nat) (tag : Option Nat) (es : List DirEntry) (s : State) : State :=
  if src = selfId s then dirAnswer id status es s
  else sendMsg 0x05 src ([id, status] ++ tag.toList ++ es.flatMap fun e => [e.type, e.keyA, e.keyB, e.holder, e.version, e.value]) [] s

/-- Carry out a commit that a majority has stored. -/
def commitNow (p : DirPend) (s : State) : State :=
  let s := match p.op with
    | .delete => p.es.foldl (fun s e => storeDel e.type e.keyA e.keyB s) s
    | .switch t => { p.es.foldl storePut s with net.doneTags := t :: s.net.doneTags }
    | _ => p.es.foldl storePut s
  let tag := match p.op with
    | .switch t => some t
    | _ => none
  dirReply p.src p.msg sOk tag p.es (bump DIR_COMMITS.COUNT 1 s)

/-- Commit a shard's log entries in order while a majority of its replicas has stored them; `n` bounds them. -/
def drainCommits (k : Nat) : Nat → State → State
  | 0, s => s
  | n + 1, s => match s.net.dirPend.find? (·.shard == k) with
    | none => s
    | some p =>
      if majority (replicasOf k s.net.members).length ≤ p.acks.length then
        drainCommits k n (commitNow p { s with net.dirPend := s.net.dirPend.erase p })
      else s

/-- The leader takes a commit (R384, R385): refused where VERSION or tag forbids it or the store is full, else appended to the log. -/
def leaderCommit (k src id : Nat) (op : DirOp) (es : List DirEntry) (s : State) : State :=
  let stale := match op with
    | .putIf v => es.any fun (e : DirEntry) => ((s.net.dirEnts.find? (sameKey e)).map (fun (y : DirEntry) => y.version)).getD 0 != v
    | .switch t => s.net.deadTags.contains t
    | _ => false
  let fresh := match op with
    | .delete => 0
    | _ => (es.filter fun e => !(s.net.dirEnts.any (sameKey e))).length
  let tag := match op with
    | .switch t => some t
    | _ => none
  if stale then dirReply src id sRejected tag [] (bump DIR_REFUSED.COUNT 1 s)
  else if rd DIR_STORE.CAPACITY s < s.net.dirEnts.length + fresh then dirReply src id sCapacity tag [] s
  else
    let x := shardState k s
    let s := putShard k { x with len := x.len + 1 } s
    let p : DirPend := { shard := k, index := x.len + 1, src := src, msg := id, op := op, es := es, acks := [selfId s] }
    let s := { s with net.dirPend := s.net.dirPend ++ [p] }
    let s := ((replicasOf k s.net.members).filter (· != selfId s)).foldl (fun s m =>
      sendMsg 0x06 m ([k, x.term, 0, x.len + 1] ++ opArgs op ++ es.flatMap fun (e : DirEntry) => [e.type, e.keyA, e.keyB, e.holder, e.value, e.commit]) [] s) s
    drainCommits k s.net.dirPend.length s

/-- Serve a request as leader; as follower, send it on to the leader; otherwise it has no answer (R383). -/
def dirServe (src id : Nat) (op : DirOp) (es : List DirEntry) (s : State) : State :=
  match es.head? with
  | none => s
  | some e0 =>
    let k := entryShard e0
    if leads k s then
      match op with
      | .lookup =>
        let s := bump DIR_LOOKUPS.COUNT 1 s
        dirReply src id sOk none ((findEntry e0.type e0.keyA e0.keyB s).map (chase s 3)).toList s
      | .abandon t =>
        if s.net.doneTags.contains t then dirReply src id sRejected none [] s
        else dirReply src id sOk none [] { s with net.deadTags := if s.net.deadTags.contains t then s.net.deadTags else t :: s.net.deadTags }
      | _ => leaderCommit k src id op es s
    else if rd DIR_SELF.STATE s = 2 ∧ rd (DIR_SHARD.ROLE k) s = 1 ∧ (shardState k s).leader ≠ 0xFFF ∧ (shardState k s).leader ≠ selfId s then
      sendMsg 0x04 (shardState k s).leader ([id, e0.type, e0.keyA, e0.keyB, e0.value] ++ opArgs op ++ [src]) [] s
    else s
def execDirReq (src id : Nat) (op : DirOp) (es : List DirEntry) (s : State) : Host.Outcome State Fault Refusal :=
  whenServing s (dirServe src id op es)

/-- A request of this module: to itself where it leads the shard, else by message. -/
def dirRequest (use : DirFor) (op : DirOp) (e : DirEntry) (s : State) : State :=
  if leads (entryShard e) s then
    let id := s.net.dirSeq
    let w : DirWait := { id := id, key := e.keyA, use := use, limit := s.cad.edges + rd DIR_TIMING.LOOKUP_WAIT s }
    dirServe (selfId s) id op [e] { s with net.dirSeq := id + 1, net.dirWait := s.net.dirWait ++ [w] }
  else dirSend use op e.type e.keyA e.keyB e.value s

/-- DIR_LOOKUP_TIMEOUT: LOOKUP_WAIT edges without an answer: as no entry (R383). -/
def lookupTimeout (id : Nat) (s : State) : State :=
  match s.net.dirWait.find? (fun w => w.id == id && decide (w.limit ≤ s.cad.edges)) with
  | none => s
  | some w => match w.use with
    | .hint _ _ => dirAnswer id sTimeout [] (bump DIR_LOOKUP_TIMEOUTS.COUNT 1 s)
    | .reconcile _ => dirAnswer id sTimeout [] (bump DIR_LOOKUP_TIMEOUTS.COUNT 1 s)
    | _ => s
def execDirLookupTimeout (id : Nat) (s : State) : Host.Outcome State Fault Refusal := whenServing s (lookupTimeout id)

/-- DIR_ENTRY_EXPIRE: SESSION entries whose EXPIRE_TICK has passed (R386). -/
def entryExpire (keyA : Nat) (s : State) : State :=
  match findEntry 1 keyA 0 s with
  | some e => if e.expire < now s then storeDel 1 keyA 0 { s with dirKnown := sdel s.dirKnown keyA } else s
  | none => s
def execDirEntryExpire (keyA : Nat) (s : State) : Host.Outcome State Fault Refusal := whenServing s (entryExpire keyA)

/-! ## Shards (R382) -/

/-- The replicas of a shard in the present view. -/
def reps (k : Nat) (s : State) : List Nat := replicasOf k s.net.members
/-- Commits that wait on a lease that has ended get TIMEOUT (R384). -/
def failCommits (k : Nat) (s : State) : State :=
  let ps := s.net.dirPend.filter (·.shard == k)
  ps.foldl (fun s p => dirReply p.src p.msg sTimeout none [] s) { s with net.dirPend := s.net.dirPend.filter (·.shard != k) }
/-- The leader gives up its shard. -/
def stepDown (k : Nat) (s : State) : State := failCommits k (wr (DIR_SHARD.ROLE k) 1 s)

/-- A renewal counts once a majority, the leader among it, has acknowledged it. -/
def noteRenewal (k edge : Nat) (who : List Nat) (s : State) : State :=
  let x := shardState k s
  if majority (reps k s).length ≤ who.length then putShard k { x with lease := max x.lease edge, sent := some (edge, who) } s
  else putShard k { x with sent := some (edge, who) } s
/-- LEASE_RENEW: RENEW_TICKS edges after the last one. -/
def leaseRenew (k : Nat) (s : State) : State :=
  let x := shardState k s
  let due : Bool := match x.sent with
    | none => true
    | some (e, _) => decide (e + rd DIR_TIMING.RENEW_TICKS s ≤ s.cad.edges)
  if leads k s ∧ due then
    let s := ((reps k s).filter (· != selfId s)).foldl (fun s m => sendMsg 0x06 m [k, x.term, 2, s.cad.edges] [] s) s
    noteRenewal k s.cad.edges [selfId s] s
  else s
def execLeaseRenew (shard : Nat) (s : State) : Host.Outcome State Fault Refusal := whenServing s (leaseRenew shard)
/-- LEASE_EXPIRE: the lease has run out. -/
def leaseExpire (k : Nat) (s : State) : State :=
  if rd (DIR_SHARD.ROLE k) s = 2 ∧ (shardState k s).lease + rd DIR_TIMING.LEASE_TICKS s ≤ s.cad.edges then stepDown k s else s
def execLeaseExpire (shard : Nat) (s : State) : Host.Outcome State Fault Refusal := whenServing s (leaseExpire shard)

/-- Edges since a module was last heard; this module is always heard. -/
def unheard (m : Nat) (s : State) : Nat := if m = selfId s then 0 else s.cad.edges - sgetD s.net.heard m 0
def liveMember (m : Nat) (s : State) : Bool := decide (unheard m s < rd DIR_TIMING.SUSPECT_TICKS s)
/-- Become leader of the candidate's term. -/
def takeLead (k : Nat) (s : State) : State :=
  let x := shardState k s
  let from_ := (x.cand.map (·.1)).getD s.cad.edges
  bump DIR_FAILOVERS.COUNT 1 (wr (DIR_SHARD.ROLE k) 2 (wr (DIR_SHARD.TERM k) (x.term % 65536)
    (putShard k { x with cand := none, yielded := false, lease := from_, sent := none, leader := selfId s } s)))
/-- LEADER_ELECTION: no renewal for LEASE_TICKS + GUARD_TICKS edges, and no live replica ahead, or those ahead have yielded. -/
def election (k : Nat) (s : State) : State :=
  let x := shardState k s
  let rs := reps k s
  let ahead := rs.takeWhile (· != selfId s)
  if rd DIR_SELF.STATE s = 2 ∧ rd (DIR_SHARD.ROLE k) s = 1 ∧ rs.contains (selfId s) ∧ x.cand = none ∧
      x.renewed + rd DIR_TIMING.LEASE_TICKS s + rd DIR_TIMING.GUARD_TICKS s ≤ s.cad.edges ∧ (x.yielded ∨ ahead.all (fun m => !liveMember m s)) then
    let term := max x.term x.voted + 1
    let s := putShard k { x with term := term, voted := term, cand := some (s.cad.edges, [selfId s]) } s
    if majority rs.length ≤ 1 then takeLead k s
    else (rs.filter (· != selfId s)).foldl (fun s m => sendMsg 0x06 m [k, term, 4, x.len] [] s) s
  else s
def execLeaderElection (shard : Nat) (s : State) : Host.Outcome State Fault Refusal := whenServing s (election shard)
/-- CANDIDATE_YIELD: 8 edges without a majority; the next replica in index order may stand. -/
def candidateYield (k : Nat) (s : State) : State :=
  let x := shardState k s
  match x.cand with
  | none => s
  | some (e, _) =>
    if e + 8 ≤ s.cad.edges then
      let next := ((reps k s).dropWhile (· != selfId s)).drop 1
      let s := putShard k { x with cand := none, yielded := false, renewed := s.cad.edges } s
      match next.head? with
      | some m => sendMsg 0x06 m [k, x.term, 6] [] s
      | none => s
    else s
def execCandidateYield (shard : Nat) (s : State) : Host.Outcome State Fault Refusal := whenServing s (candidateYield shard)

/-- DIR_REPL: what a replica or the leader makes of each of its forms (R382, R384). -/
def dirRepl (src k term : Nat) (b : ReplBody) (s : State) : State :=
  let x := shardState k s
  let role := rd (DIR_SHARD.ROLE k) s
  if rd DIR_SELF.STATE s ≠ 2 ∨ role = 0 then s
  else match b with
  | .append i op es =>
    if term < x.term then s
    else
      let s := putShard k { x with term := term, len := max x.len i, renewed := s.cad.edges, leader := src } s
      let s := match op with
        | .delete => es.foldl (fun s e => storeDel e.type e.keyA e.keyB s) s
        | .switch t => { es.foldl storePut s with net.doneTags := t :: s.net.doneTags }
        | _ => es.foldl storePut s
      sendMsg 0x06 src [k, term, 1, i] [] s
  | .ack i =>
    if role = 2 ∧ term = x.term then
      drainCommits k s.net.dirPend.length { s with net.dirPend := s.net.dirPend.map fun p =>
        if p.shard = k ∧ p.index ≤ i ∧ !p.acks.contains src then { p with acks := src :: p.acks } else p }
    else s
  | .renew e =>
    if term < x.term then s
    else
      let s := if role = 2 ∧ x.term < term then stepDown k s else s
      sendMsg 0x06 src [k, term, 3, e] [] (wr (DIR_SHARD.TERM k) (term % 65536)
        (putShard k { x with term := term, renewed := s.cad.edges, cand := none, yielded := false, leader := src } s))
  | .renewAck e =>
    match x.sent with
    | some (e', who) => if role = 2 ∧ e = e' ∧ !who.contains src then noteRenewal k e (src :: who) s else s
    | none => s
  | .voteReq n =>
    if x.voted < term ∧ x.term < term ∧ x.len ≤ n ∧ role ≠ 3 then
      sendMsg 0x06 src [k, term, 5] [] (putShard k { x with voted := term, cand := none } s)
    else s
  | .vote =>
    match x.cand with
    | some (e, vs) =>
      if term = x.term ∧ !vs.contains src then
        let s := putShard k { x with cand := some (e, src :: vs) } s
        if majority (reps k s).length ≤ vs.length + 1 then takeLead k s else s
      else s
    | none => s
  | .yielded => putShard k { x with yielded := true } s
  | .sync n es =>
    if role = 3 then
      let s := { s with net.dirEnts := s.net.dirEnts.filter (fun e => entryShard e != k) ++ es }
      showStore k (wr (DIR_SHARD.ROLE k) 1 (putShard k { x with term := max x.term term, len := n, renewed := s.cad.edges, leader := src } s))
    else s
def execDirRepl (src shard term : Nat) (body : ReplBody) (s : State) : Host.Outcome State Fault Refusal :=
  whenServing s (if shard < 4096 then dirRepl src shard term body else id)

/-! ## Views (R376 to R378) -/

def stewards (ms : List Nat) : List Nat := ms.take 5
def isSteward (s : State) : Bool := (stewards s.net.members).contains (selfId s)
/-- A shard's replica set changes with the view (R381, R382). -/
def moveShard (old new : List Nat) (s : State) (k : Nat) : State :=
  let was := replicasOf k old
  let is := replicasOf k new
  let me := selfId s
  let left := was.filter fun m => new.contains m
  let lost := decide (was ≠ [] ∧ left.length < majority was.length)
  if !is.contains me then
    if was.contains me then
      let s := failCommits k s
      showStore k (wr (DIR_SHARD.ROLE k) 0 (wr (DIR_SHARD.INDEX k) 0
        { s with net.dirEnts := s.net.dirEnts.filter (fun e => entryShard e != k), net.shards := sdel s.net.shards k }))
    else s
  else
    let s := wr (DIR_SHARD.INDEX k) (is.findIdx (· == me)) s
    let s := if was.contains me then s
      else putShard k { renewed := s.cad.edges } (wr (DIR_SHARD.ROLE k) (if left = [] then 1 else 3) s)
    let s := if lost then postPf 0x0012 0x12 sDropped k (rd DIR_VIEW.VIEW s) (bump DIR_SHARD_LOSSES.COUNT 1 (wr (DIR_SHARD.LOST k) 1 s)) else s
    let x := shardState k s
    let mine := s.net.dirEnts.filter fun e => entryShard e == k
    let feeds := leads k s || (lost && left.head? == some me)
    if feeds then (is.filter fun m => !was.contains m).foldl (fun s m =>
      sendMsg 0x06 m ([k, x.term, 7, x.len] ++ mine.flatMap fun e => [e.type, e.keyA, e.keyB, e.holder, e.version, e.value, e.commit, e.expire]) [] s) s
    else s
/-- The module is OUT: no view, no shard, no entries (R378, R390). -/
def leaveView (s : State) : State :=
  let s := (s.net.shards.map (·.1)).foldl (fun s k => wr (DIR_SHARD.ROLE k) 0 (wr (DIR_SHARD.INDEX k) 0 (wr (DIR_SHARD.ENTRIES k) 0 s))) s
  let s := wr DIR_VIEW.VIEW 0 (wr DIR_VIEW.MEMBERS 0 (wr DIR_VIEW.STEWARD 0 (wr DIR_SELF.STATE 0 (wr DIR_STORE.USED 0 s))))
  { s with net.members := [], net.viewId := 0, net.shards := [], net.dirEnts := [], net.dirPend := [], net.proposal := none,
           net.leavers := [], net.joiners := [] }

/-- Adopt one mirror of a module that the view has removed (R388, rows 1 to 3). -/
def adoptOne (x : Nat) (s : State) (m : Mirror) : State :=
  match freeHead s with
  | none => s
  | some i =>
    let s := (takeKeyExt i s).getD s
    let h := mkHandle (selfId s) i (hGen (descOf i s).handle)
    let im : Option Image := m.x.image.map fun im => { im with tier := 0, chunks := m.chunks }
    let s := { popFree s with net.mirrors := s.net.mirrors.erase m }
    let s := wr DIR_MIRROR.HELD (s.net.mirrors.filter fun m => m.got == m.total).length (wr DIR_MIRROR.ADOPTING 1 s)
    let fn := if rd (HIF_FN_STATUS.STATE m.d.fn) s = 1 then m.d.fn else 0
    let s := putSess i { m.x with image := im, dirKey := some m.handle, mirrored := false } s
    let s := putDesc i { m.d with handle := h, st := stDeep, fn := fn, parkAddr := (im.map imageAddr).getD 0, mirrorModule := 0xFFF, keySlot := i, transitTag := 0xFFFF_FFFF } s
    let s := giveKey i m.key true s
    dirRequest (.adopt i x) .put { type := 1, keyA := m.handle, keyB := 0, holder := selfId s, adopted := true, version := 0, value := h, commit := now s, expire := 0 } s
/-- ADOPTION (R388). -/
def adopt (x : Nat) (s : State) : State := (s.net.mirrors.filter fun m => m.src == x && m.got == m.total).foldl (adoptOne x) s
/-- RECONCILE (R379): after a rejoin every local session is looked up. -/
def reconcileAll (s : State) : State :=
  ((s.desc.filter fun p => p.2.st != stFree).map (·.1)).foldl (fun s i =>
    dirRequest (.reconcile i) .lookup { type := 1, keyA := (descOf i s).handle, keyB := 0, holder := 0, adopted := false, version := 0, value := 0, commit := 0, expire := 0 } s)
    { s with net.wasRemoved := false }

/-- Sessions that wait for their mirror from a module that is gone are lost (R475). -/
def loseBacks (x : Nat) (s : State) : State :=
  ((s.sess.filter fun p => p.2.back.isSome && (descOf p.1 s).mirrorModule == x).map (·.1)).foldl (fun s i =>
    loseSession i (modSess i (fun y => { y with back := none }) s)) s
/-- A committed view is applied (R377, R379). -/
def applyView (viewId number : Nat) (ms : List Nat) (s : State) : State :=
  let me := rd DIR_SELF.MODULE_ID s
  let st := rd DIR_SELF.STATE s
  if st = 0 then s
  else if !ms.contains me then
    if st = 1 then s else leaveView { s with net.wasRemoved := s.net.wasRemoved || st == 2 || st == 3 }
  else
    let old := s.net.members
    let s := wr SES_CTRL.MODULE_ID me (wr DIR_VIEW.VIEW number (wr DIR_VIEW.MEMBERS ms.length (wr DIR_VIEW.STEWARD (b2n ((stewards ms).contains me)) s)))
    let s := { s with net.members := ms, net.viewId := viewId, net.proposal := none, net.heard := ms.foldl (fun h m => sset h m s.cad.edges) s.net.heard,
                      net.joiners := s.net.joiners.filter (fun m => !ms.contains m), net.leavers := s.net.leavers.filter (fun m => ms.contains m) }
    let s := postPf 0x000D 0x12 sOk number viewId (bump DIR_VIEW_CHANGES.COUNT 1 s)
    let s := wr DIR_SELF.STATE (if st = 4 then 4 else 2) s
    let s := if st = 3 then event000E 2 sOk s else s
    let s := (List.range 4096).foldl (moveShard old ms) s
    let s := if st = 1 ∧ s.net.wasRemoved then reconcileAll s else s
    (old.filter fun m => !ms.contains m).foldl (fun s m => loseBacks m (adopt m s)) s

/-- The view a steward would propose now. -/
def wantedView (s : State) : List Nat :=
  sortNats ((s.net.members.filter fun m => liveMember m s && !s.net.leavers.contains m) ++ s.net.joiners.filter fun m => !s.net.members.contains m)
/-- A proposal with a majority of the stewards is committed and broadcast. -/
def tryCommit (s : State) : State :=
  match s.net.proposal with
  | none => s
  | some p =>
    let st := stewards s.net.members
    if majority st.length ≤ (p.accepts.filter fun m => st.contains m).length then
      let all := (s.net.members ++ p.members).eraseDups.filter (· != selfId s)
      applyView s.net.viewId p.number p.members (all.foldl (fun s m => sendMsg 0x03 m ([s.net.viewId, p.number, 2] ++ p.members) [] s) s)
    else s
/-- Propose the wanted view. -/
def propose (s : State) : State :=
  let p : Proposal := { members := wantedView s, number := rd DIR_VIEW.VIEW s + 1, proposer := selfId s, accepts := [selfId s], edge := s.cad.edges }
  let s := { s with net.proposal := some p, net.lastProp := some (s.cad.edges, selfId s) }
  tryCommit (((stewards s.net.members).filter (· != selfId s)).foldl (fun s m => sendMsg 0x03 m ([s.net.viewId, p.number, 0] ++ p.members) [] s) s)
/-- Stewards that are live and stay. -/
def liveStewards (s : State) : List Nat := (stewards s.net.members).filter fun m => liveMember m s && !s.net.leavers.contains m
def mayPropose (s : State) : Bool :=
  (rd DIR_SELF.STATE s == 2 || rd DIR_SELF.STATE s == 4) && isSteward s && wantedView s != s.net.members && s.net.proposal.isNone
/-- The lowest-numbered live steward proposes (R377 row 2, R378). -/
def proposeIfLowest (s : State) : State := if mayPropose s && (liveStewards s).head? == some (selfId s) then propose s else s
/-- MEMBER_SUSPECT: members that a steward has not heard for SUSPECT_TICKS edges. -/
def memberSuspect (s : State) : State := if s.net.members.any fun m => !liveMember m s then proposeIfLowest s else s
def execMemberSuspect (s : State) : Host.Outcome State Fault Refusal := whenServing s memberSuspect
/-- VIEW_PROPOSAL_RETRY: 4 edges after a proposal without a majority, the next live steward repeats it (R377 row 4). -/
def proposalRetry (s : State) : State :=
  match s.net.lastProp with
  | none => s
  | some (e, who) =>
    if e + 4 ≤ s.cad.edges ∧ (mayPropose { s with net.proposal := none }) ∧
        (((liveStewards s).find? fun m => decide (who < m)).getD ((liveStewards s).head?.getD 0xFFF)) = selfId s then propose { s with net.proposal := none } else s
def execViewProposalRetry (s : State) : Host.Outcome State Fault Refusal := whenServing s proposalRetry

/-- A steward accepts a proposal where it finds the same members gone, leaving or joining. -/
def accepts (ms : List Nat) (s : State) : Bool :=
  isSteward s && (s.net.members.all fun m => ms.contains m || !liveMember m s || s.net.leavers.contains m) &&
    (ms.all fun m => s.net.members.contains m || s.net.joiners.contains m)
/-- VIEW (R377, R378). -/
def viewIn (src viewId number : Nat) (kind : ViewKind) (ms : List Nat) (s : State) : State :=
  let st := rd DIR_SELF.STATE s
  if st ≠ 1 ∧ st ≠ 0 ∧ kind ≠ .join ∧ kind ≠ .refuse ∧ viewId ≠ s.net.viewId then wr DIR_VIEW.FOREIGN_VIEW 1 s
  else
    let s := { s with net.heard := sset s.net.heard src s.cad.edges }
    match kind with
    | .propose =>
      let s := { s with net.lastProp := some (s.cad.edges, src) }
      if (st = 2 ∨ st = 4) ∧ accepts ms s ∧ rd DIR_VIEW.VIEW s < number then sendMsg 0x03 src ([viewId, number, 1] ++ ms) [] s else s
    | .accept => match s.net.proposal with
      | some p => if p.number = number ∧ p.members = ms ∧ !p.accepts.contains src then
            tryCommit { s with net.proposal := some { p with accepts := src :: p.accepts } } else s
      | none => s
    | .commit => if rd DIR_VIEW.VIEW s < number ∨ st = 1 then applyView viewId number ms s else s
    | .join =>
      if st ≠ 2 then s
      else if !isSteward s then (stewards s.net.members).foldl (fun s m => sendMsg 0x03 m ([s.net.viewId, number, 3, src]) [] s) s
      else if s.net.members.contains src then sendMsg 0x03 src [s.net.viewId, 0, 5] [] s
      else proposeIfLowest { s with net.joiners := (src :: s.net.joiners).eraseDups }
    | .leave =>
      if st = 2 ∧ s.net.members.contains src then
        if isSteward s then proposeIfLowest { s with net.leavers := (src :: s.net.leavers).eraseDups }
        else (stewards s.net.members).foldl (fun s m => sendMsg 0x03 m ([s.net.viewId, number, 4, src]) [] s) s
      else s
    | .refuse => if st = 1 then event000E 0 sRejected (wr DIR_SELF.STATE 0 s) else s
def execViewMsg (src viewId number : Nat) (kind : ViewKind) (members : List Nat) (s : State) : Host.Outcome State Fault Refusal :=
  whenServing s (viewIn src viewId number kind members)

/-- Stewards heard of late: since the module became ISOLATED, or within ISOLATE_TICKS edges. -/
def stewardsHeard (since : Nat) (s : State) : Nat :=
  ((stewards s.net.members).filter fun m => m == selfId s || decide (since ≤ sgetD s.net.heard m 0)).length
/-- HEARTBEAT (R377, R379). -/
def heartbeatIn (src viewId : Nat) (s : State) : State :=
  if rd DIR_SELF.STATE s ≤ 1 then s
  else if viewId ≠ s.net.viewId then wr DIR_VIEW.FOREIGN_VIEW 1 s
  else
    let s := { s with net.heard := sset s.net.heard src s.cad.edges }
    if rd DIR_SELF.STATE s = 3 ∧ majority (stewards s.net.members).length ≤ stewardsHeard s.net.isoEdge s then
      event000E 2 sOk (wr DIR_SELF.STATE 2 s)
    else s
def execHeartbeatMsg (src viewId : Nat) (s : State) : Host.Outcome State Fault Refusal :=
  whenServing s (heartbeatIn src viewId)

/-- ISOLATION (R379): ISOLATE_TICKS edges without a majority of the stewards. -/
def isolate (s : State) : State :=
  if rd DIR_SELF.STATE s = 2 ∧ stewardsHeard (s.cad.edges + 1 - rd DIR_TIMING.ISOLATE_TICKS s) s < majority (stewards s.net.members).length then
    let s := ((s.net.shards.map (·.1)).filter fun k => rd (DIR_SHARD.ROLE k) s == 2).foldl (fun s k => stepDown k s) s
    let s := event000E 3 sTimeout (wr DIR_SELF.STATE 3 { s with net.isoEdge := s.cad.edges + 1, net.proposal := none })
    let ws := s.net.dirWait.filter fun w => match w.use with
      | .hint _ _ => true
      | _ => false
    ws.foldl (fun s w => dirAnswer w.id sTimeout [] (bump DIR_LOOKUP_TIMEOUTS.COUNT 1 s)) s
  else s
def execIsolation (s : State) : Host.Outcome State Fault Refusal := whenServing s isolate

/-- JOIN (R378): a module with an identifier asks through a reachable member. -/
def join (s : State) : State :=
  if rd DIR_SELF.STATE s = 0 ∧ rd DIR_SELF.MODULE_ID s ≠ 0xFFF then
    let s := wr DIR_SELF.STATE 1 s
    match (List.range 16).find? fun p => portState p s == pUp with
    | some p => sendMsg 0x03 (rd (FAB_PORT_STATUS.NEIGHBOUR p) s) [0, 0, 3, rd DIR_SELF.MODULE_ID s] [] s
    | none => s
  else s
def execJoinView (s : State) : Host.Outcome State Fault Refusal := whenServing s join
/-- STANDALONE: a view of the module alone, its VIEW_ID drawn. -/
def standalone (s : State) : State :=
  if rd DIR_SELF.STATE s = 0 ∧ rd DIR_SELF.MODULE_ID s ≠ 0xFFF then
    applyView (Config.random s.fresh % 2 ^ 64) 1 [rd DIR_SELF.MODULE_ID s] (wr DIR_SELF.STATE 1 { s with fresh := s.fresh + 1 })
  else s
def execStandalone (s : State) : Host.Outcome State Fault Refusal := whenServing s standalone
/-- LEAVE: the stewards commit a view without the module; alone in its view it is OUT at once. -/
def leave (s : State) : State :=
  if rd DIR_SELF.STATE s = 2 then
    if s.net.members = [selfId s] then leaveView s
    else
      let s := wr DIR_SELF.STATE 4 { s with net.leavers := (selfId s :: s.net.leavers).eraseDups }
      ((stewards s.net.members).filter (· != selfId s)).foldl (fun s m => sendMsg 0x03 m [s.net.viewId, rd DIR_VIEW.VIEW s, 4, selfId s] [] s) s
  else s
def execLeaveView (s : State) : Host.Outcome State Fault Refusal := whenServing s leave

/-- HEARTBEAT_SEND: at each tick edge, to each steward and each direct neighbour (R377). A module of another view is not told apart. -/
def heartbeatSend (s : State) : State :=
  if rd DIR_SELF.STATE s < 2 then s
  else
    let near := ((List.range 16).filter fun p => portState p s == pUp).map fun p => rd (FAB_PORT_STATUS.NEIGHBOUR p) s
    ((stewards s.net.members ++ near).eraseDups.filter (· != selfId s)).foldl (fun s m =>
      sendMsg 0x02 m [selfId s, s.net.viewId, rd DIR_VIEW.VIEW s, rd SID_STATUS.STATE s, now s] [] s) s
/-- Abandonments that no leader has settled are asked again at each edge (R385). -/
def retryAbandons (s : State) : State :=
  (s.net.dirWait.filter fun w => match w.use with
    | .abandon _ => true
    | _ => false).foldl (fun s w => match w.use with
      | .abandon t =>
        let block := (s.net.unresolved.find? (·.tag == t)).bind (·.block)
        let ty := if block.isSome then 3 else 1
        let kb := (block.map (·.2.2)).getD 0
        let e : DirEntry := { type := ty, keyA := w.key, keyB := kb, holder := 0, adopted := false, version := 0, value := 0, commit := 0, expire := 0 }
        if leads (shardOf ty w.key kb) s then dirServe (selfId s) w.id (.abandon t) [e] s
        else sendMsg 0x04 (((reps (shardOf ty w.key kb) s).filter (· != selfId s)).head?.getD (selfId s)) [w.id, ty, w.key, kb, 0, 5, t] [] s
      | _ => s) s

/-! ## Mirrors (R387) -/

def showMirrors (s : State) : State := wr DIR_MIRROR.HELD (s.net.mirrors.filter fun m => m.got == m.total).length s
def dropMirrorOf (m : Mirror) (s : State) : State := showMirrors (freeDeep m.chunks { s with net.mirrors := s.net.mirrors.erase m })
/-- A chunk of a mirror (R151, R387): its image takes space in the parking pool with its first chunk, and replaces an older one of the same
handle with its last. -/
def mirrorChunk (src handle nonce total key : Nat) (d : Desc) (x : Sess) (s : State) : State :=
  let s := match s.net.mirrors.find? fun (m : Mirror) => m.src == src && m.handle == handle && m.nonce == nonce with
    | some _ => s
    | none => match allocDeep total (parkBase s) deepChunks s with
      | none => s
      | some (ks, s) =>
        let m : Mirror := { src := src, handle := handle, nonce := nonce, d := d, x := x, key := key, chunks := ks, total := total, news := s.cad.edges }
        { s with net.mirrors := s.net.mirrors ++ [m] }
  match s.net.mirrors.find? fun (m : Mirror) => m.src == src && m.handle == handle && m.nonce == nonce with
  | none => s
  | some m =>
    let m' := { m with got := min m.total (m.got + 1), news := s.cad.edges }
    let s := { s with net.mirrors := s.net.mirrors.map fun y => if y = m then m' else y }
    if m'.got = m'.total then
      showMirrors ((s.net.mirrors.filter fun y => y.src == src && y.handle == handle && y.nonce != nonce).foldl (fun s y => dropMirrorOf y s) s)
    else s
/-- A session whose mirror is being copied back has been told that it cannot be (R475). -/
def backFails (i : Nat) (s : State) : State := if (sessOf i s).back.isSome then loseSession i (modSess i (fun x => { x with back := none }) s) else s
/-- MIRROR_CTRL: `kind` 0 DROP, 1 the partner asks whether a NONCE is current, 2 it is, 3 it is not, 4 the source asks for its mirror back
(R475), which 3 refuses. -/
def mirrorCtrl (src handle nonce kind : Nat) (s : State) : State :=
  let ms := s.net.mirrors.filter fun m => m.src == src && m.handle == handle
  if kind = 0 then ms.foldl (fun s m => dropMirrorOf m (bump DIR_MIRROR_DROPS.COUNT 1 s)) s
  else if kind = 1 then
    let i := hIndex handle
    let cur := (descOf i s).handle == handle && (descOf i s).mirrorModule == src && (sessOf i s).parkNonce == nonce
    sendMsg 0x17 src [if cur then 2 else 3, handle, nonce] [] s
  else if kind = 4 then
    match ms.find? fun m => m.nonce == nonce && m.got == m.total with
    | some m => (List.range m.total).foldl (fun s k => sendMsg 0x10 src [k, handle, nonce] [] s) s
    | none => sendMsg 0x17 src [3, handle, nonce] [] s
  else if kind = 3 ∧ (descOf (hIndex handle) s).handle = handle ∧ (descOf (hIndex handle) s).mirrorModule = src ∧ (sessOf (hIndex handle) s).back.isSome then
    backFails (hIndex handle) s
  else if kind = 2 then { s with net.mirrors := s.net.mirrors.map fun m => if m.src = src ∧ m.handle = handle ∧ m.nonce = nonce then { m with news := s.cad.edges } else m }
  else (ms.filter (·.nonce == nonce)).foldl (fun s m => dropMirrorOf m (bump DIR_MIRROR_DROPS.COUNT 1 s)) s
def execMirrorCtrl (src handle nonce kind : Nat) (s : State) : Host.Outcome State Fault Refusal := whenServing s (mirrorCtrl src handle nonce kind)
/-- MIRROR_AUDIT: MIRROR_AUDIT_TICKS edges without news of a mirror. -/
def mirrorAudit (src handle : Nat) (s : State) : State :=
  match s.net.mirrors.find? fun m => m.src == src && m.handle == handle && m.got == m.total && decide (m.news + rd DIR_MIRROR.MIRROR_AUDIT_TICKS s ≤ s.cad.edges) with
  | some m => sendMsg 0x17 src [1, handle, m.nonce] [] { s with net.mirrors := s.net.mirrors.map fun y => if y = m then { m with news := s.cad.edges } else y }
  | none => s
def execMirrorAudit (src handle : Nat) (s : State) : Host.Outcome State Fault Refusal := whenServing s (mirrorAudit src handle)

end Sys2Proof.Machine
end

