-- ==== Sys2Proof/Machine/Models.lean ====
section
/-!
DEFINITION. Sys2Proof/Machine/Models.lean: binding a model to a slot and loading its weights (R423, R424): the attention record
(R198, R199), the weight area (R186, R477), the model copy in the deep tier (R188), and unbinding.
-/
namespace Sys2Proof.Machine

/-! ## The checks of MODEL_BIND -/

/-- Committed partitions that name a slot. -/
def modelParts (slot : Nat) (s : State) : List (Nat × Part) :=
  s.parts.filter fun p => isSet (ARY_PART_STATUS.DEFINED p.1) s && p.2.model == slot
/-- Tiles on which the partitions have arrays. -/
def partTiles (x : Part) : List Nat := (x.ranks.map (· / 512)).eraseDups

/-- The layers of an attention record: WINDOW, HOME_TILE, DENSE. -/
def recordLayers (b : List Byte) : List (Nat × Nat × Bool) :=
  (List.range (field b 6 2)).map fun l =>
    let v := field b (0x20 + 4 * l) 4
    (bitsOf v 23 0, bitsOf v 25 24, bitOf v 26)
/-- The record at an address: 32 B and 4 B a layer. -/
def attnRecord (a : Nat) (s : State) : List Byte := memRead s a (0x20 + 4 * field (memRead s a 0x20) 6 2)

/-- An attention record passes R199, and its page classes are enabled (R444). -/
def attnRecordOk (slot : Nat) (b : List Byte) (s : State) : Bool :=
  let tiles := (modelParts slot s).flatMap fun p => partTiles p.2
  let dec := field b 3 1 % 16
  let pre := field b 3 1 / 16
  field b 0 1 == slot && decide (1 ≤ field b 1 1) && decide (field b 1 1 ≤ 64) && decide (1 ≤ field b 2 1) && decide (field b 2 1 ≤ 16) &&
    decide (dec ≤ 6) && decide (pre ≤ 6) && bitOf s.adm.pageEn dec && bitOf s.adm.pageEn pre &&
    decide (32 ≤ field b 4 2) && decide (field b 4 2 ≤ 512) && field b 4 2 % 32 == 0 && (field b 1 1 * field b 4 2) % 64 == 0 &&
    decide (1 ≤ field b 6 2) && decide (field b 6 2 ≤ 256) &&
    decide (3 ≤ field b 0x10 1) && decide (field b 0x10 1 ≤ 64) && decide (1 ≤ field b 0x11 1) && decide (field b 0x11 1 ≤ 64) &&
    field b 0x12 14 == 0 &&
    (List.range (field b 6 2)).all fun l =>
      let v := field b (0x20 + 4 * l) 4
      bitsOf v 31 27 == 0 && tiles.contains (bitsOf v 25 24)

/-- A tokenizer set is present and its VOCAB is the model's (R275). -/
def bindTokOk (k vocab : Nat) (s : State) : Bool := decide (k < 16) && isSet (TXT_SET.VALID k) s && rd (TXT_SET.VOCAB k) s == vocab

/-- A partition's append path is direct (R212). -/
def directPath (layers : List (Nat × Nat × Bool)) (x : Part) : Bool :=
  match partTiles x with
  | [t] => layers.all (·.2.1 == t)
  | _ => false

/-! ## Reserving the areas -/

/-- Bytes of the encrypted form of a weight block, with its tag. -/
def sealedBytes : Nat := 65552
/-- Chunks reserved for the copy of a model of `n` blocks (R423). -/
def copyReserve (n : Nat) : Nat := ceilDiv (64 + n * 65556) 65520
def modelCopyUsed (s : State) : Nat := (s.models.map (·.2.copyChunks)).sum

/-- The protected channels of stack `j` of a tile. -/
def stackChans (tile j : Nat) (s : State) : List Nat :=
  ((List.range 32).map (· + 32 * (6 * tile + j))).filter fun g => chProtectedOk g s
/-- Reserve both units of one place in a stack pair (R186). -/
def pairAlloc (tile pair kind layer span : Nat) (acc : List Alloc × State) : Option (List Alloc × State) :=
  match allocIn (stackChans tile pair acc.2) blockBytes acc.2 with
  | none => none
  | some (g, a, s) => match allocIn (stackChans tile (pair + 3) s) blockBytes s with
    | none => none
    | some (g', a', s) =>
      some ({ kind := kind, chan := g, addr := a, bytes := blockBytes, layer := layer, span := span } ::
        { kind := kind, chan := g', addr := a', bytes := blockBytes, layer := layer, span := span } :: acc.1, s)
/-- How many units a stack pair of a tile needs for the three-tile layouts: the most that one of them adds (R477). -/
def extraUnits (alts : List (Nat × Nat × Nat × Nat)) (tile pair : Nat) : Nat :=
  ((List.range 4).map fun t => (alts.filter fun a => a.1 == t && a.2.2.1 == tile && a.2.2.2 == pair).length).foldl max 0
/-- Reserve the weight area: kind 8 a block of the bound layout, kind 9 the units of tile × 3 + pair kept for three-tile layouts. -/
def reserveWeights (m : Manifest) (s : State) : Option (List Alloc × State) :=
  let own := (m.blocks.zip (List.range m.blocks.length)).foldl
    (fun o b => o.bind (pairAlloc b.1.1 b.1.2.1 8 b.2 0)) (some ([], s))
  (List.range 12).foldl (fun o tp =>
    (List.range (extraUnits m.alts (tp / 3) (tp % 3))).foldl (fun o k => o.bind (pairAlloc (tp / 3) (tp % 3) 9 k tp)) o) own

/-- The lowest free chunks of the model-copy area (R101). -/
def copyFree (s : State) : List Nat :=
  ((List.range (s.modelCopyGib * 0x4000)).map (· + 0x1_0000)).filter fun k => (sget s.chunkMap k).isNone
/-- Reserve the model copy (R423). -/
def reserveCopy (n : Nat) (s : State) : Option (List Nat × State) :=
  if s.modelCopyGib * 0x4000 < modelCopyUsed s + n ∨ !deepRoom n s then none
  else
    let ks := (copyFree s).take n
    if ks.length < n then none else (takeChunks ks s).map fun s => (ks, showDeep s)

/-! ## BIND -/

def endField (v : Nat) : Nat := min v 0xF_FFFF
/-- The registers that show a bound model (R423 step 6). -/
def showModel (slot : Nat) (m : Model) (vocab tokSet e0 e1 e2 : Nat) (direct : Bool) (s : State) : State :=
  let s := wr (DEC_MODEL.VOCAB slot) vocab (wr (DEC_MODEL.BOUND slot) 1 s)
  let s := wr (DEC_END.END0 slot) (endField e0) (wr (DEC_END.END1 slot) (endField e1) (wr (DEC_END.END2 slot) (endField e2) s))
  let s := wr (TXT_MODEL.SET slot) tokSet (wr (TXT_MODEL.BOUND slot) 1 (wr (TXT_SET.IN_USE tokSet) 1 s))
  let s := wr (KVP_MODEL.BOUND slot) 1 (wr (KVP_MODEL.DIRECT slot) (b2n direct) (wr (KVP_MODEL.RECORD_ADDR slot) m.recordAddr s))
  wr (HIF_MODEL.BOUND slot) 1 (wr (HIF_MODEL.LOADED slot) (b2n m.blocks.isEmpty)
    (wr (HIF_MODEL.BLOCKS_LOADED slot) 0 (wr (HIF_MODEL.BLOCKS slot) m.blocks.length s)))

/-- What the attention record and the command give a model. -/
def modelFrom (b : List Byte) (tokSet vocab recordAddr modelId shard : Nat) (x : Manifest) (ps : List (Nat × Part)) : Model :=
  let layers := recordLayers b
  { tokSet := tokSet, vocab := vocab, kvHeads := field b 1 1, qPerKv := field b 2 1, decodeClass := field b 3 1 % 16,
    prefillClass := field b 3 1 / 16, headDim := field b 4 2, scale := field b 8 4, sparseThresh := field b 0xC 4,
    selPages := field b 0x10 1, spanSel := field b 0x11 1, layers := layers, blocks := x.blocks, modelId := modelId, shard := shard,
    recordAddr := recordAddr, alts := x.alts, manifest := x.digest, direct := (ps.filter fun p => directPath layers p.2).map (·.1) }

/-- The directory entry of a bound shard (R380). -/
def shardEntry (slot : Nat) (m : Model) (s : State) : DirEntry :=
  { type := 2, keyA := m.modelId, keyB := m.shard, holder := selfId s, adopted := false, version := 0, value := slot, commit := now s, expire := 0 }

/-- MODEL_BIND with OP BIND (R423). No signature verifies without an owner record (R497, R555). -/
def modelBind (h : Hdr) (slot tokSet vocab recordAddr modelId e0 e1 e2 shard : Nat) (x : Manifest) (s : State) : State :=
  if intakeFails h 0x30 (decide (15 < slot) || decide (vocab < 256) || decide (262144 < vocab)) s then refuse h 0x30 sRejected s
  else if isSet (HIF_MODEL.BOUND slot) s then refuse h 0x30 sBusy s
  else if ¬ (x.sigOk && isSet SEC_ID_STATUS.OWNER_OK s) then refuse h 0x30 sAuthFail (bump SEC_AUTH_FAILS.COUNT 1 s)
  else
    let b := attnRecord recordAddr s
    let ps := modelParts slot s
    if bondedEnd < recordAddr + b.length ∨ ¬ attnRecordOk slot b s ∨ ¬ bindTokOk tokSet vocab s ∨ ps = [] then refuse h 0x30 sRejected s
    else
      let m := modelFrom b tokSet vocab recordAddr modelId shard x ps
      match reserveWeights x s with
      | none => refuse h 0x30 sCapacity s
      | some (as, s1) => match reserveCopy (copyReserve x.blocks.length) s1 with
        | none => refuse h 0x30 sCapacity s
        | some (ks, s2) =>
          let m := { m with weightAllocs := as, copyChunks := ks.length, copyList := ks }
          let s := showModel slot m vocab tokSet e0 e1 e2 (decide (m.direct.length = ps.length)) { s2 with models := sset s2.models slot m }
          let s := if rd DIR_SELF.STATE s = 2 then dirRequest .other .put (shardEntry slot m s) s else s
          complete h 0x30 sOk 0 0 0 s
def execModelBind (h : Hdr) (slot tokSet vocab recordAddr modelId end0 end1 end2 shard : Nat) (m : Manifest) (s : State) :
    Host.Outcome State Fault Refusal :=
  hostCmd h 0x30 s (modelBind h slot tokSet vocab recordAddr modelId end0 end1 end2 shard m)

/-! ## UNBIND -/

/-- A model key goes: SEC_KEYS shows it, and event 0x0020 tells (R515). -/
def eraseModelKey (slot : Nat) (s : State) : State :=
  match sget s.adm.modelKeys slot with
  | none => s
  | some k =>
    postPf 0x0020 0x16 sOk slot k.modelId (wrBit SEC_KEYS.MODEL_KEYS slot false { s with adm.modelKeys := sdel s.adm.modelKeys slot })
/-- The registers of a slot return to their reset values. -/
def hideModel (slot tokSet : Nat) (s : State) : State :=
  let zero := fun s (f : Fld) => wr f f.rst s
  let s := [DEC_MODEL.VOCAB slot, DEC_MODEL.BOUND slot, DEC_END.END0 slot, DEC_END.END1 slot, DEC_END.END2 slot, TXT_MODEL.SET slot,
    TXT_MODEL.BOUND slot, KVP_MODEL.BOUND slot, KVP_MODEL.DIRECT slot, KVP_MODEL.RECORD_ADDR slot, HIF_MODEL.BOUND slot,
    HIF_MODEL.LOADED slot, HIF_MODEL.BLOCKS_LOADED slot, HIF_MODEL.BLOCKS slot].foldl zero s
  wr (TXT_SET.IN_USE tokSet) (b2n (s.models.any fun m => m.2.tokSet == tokSet)) s
/-- A slot's weights, model copy and directory entry are released. -/
def releaseModel (slot : Nat) (s : State) : State :=
  let m := modelOf slot s
  let s := m.weightAllocs.foldl (fun s a => chanGive a.chan a.addr a.bytes s) s
  let s := freeDeep m.copyList { s with models := sdel s.models slot }
  let s := eraseModelKey slot (hideModel slot m.tokSet s)
  if rd DIR_SELF.STATE s = 2 then dirRequest .other .delete (shardEntry slot m s) s else s
/-- MODEL_BIND with OP UNBIND (R423). -/
def modelUnbind (h : Hdr) (slot : Nat) (s : State) : State :=
  if intakeFails h 0x30 (decide (15 < slot)) s then refuse h 0x30 sRejected s
  else if ¬ isSet (HIF_MODEL.BOUND slot) s then complete h 0x30 sNotFound (0xFFF * 2 ^ 52) 0 0 s
  else if s.desc.any (fun d => d.2.st != 0 && d.2.model == slot) then refuse h 0x30 sBusy s
  else complete h 0x30 sOk 0 0 0 (releaseModel slot s)
def execModelUnbind (h : Hdr) (slot : Nat) (s : State) : Host.Outcome State Fault Refusal := hostCmd h 0x30 s (modelUnbind h slot)

/-! ## WEIGHTS_LOAD (R424) -/

/-- The key that serves a bound slot (R515). -/
def modelKeyOf (slot : Nat) (s : State) : Option Nat :=
  (sget s.adm.modelKeys slot).bind fun k =>
    if k.modelId = (modelOf slot s).modelId ∧ k.digest = (modelOf slot s).manifest then some k.key else none
/-- Write both stack copies of a block of the bound layout. -/
def writeBlock (m : Model) (k : Nat) (bs : List Byte) (s : State) : State :=
  (m.weightAllocs.filter fun a => a.kind == 8 && a.layer == k).foldl (fun s a => memWrite a.addr bs s) s
/-- The blocks of a command that decrypt to their digest, up to the first that does not. -/
def goodBlocks (m : Model) (key first : Nat) : List (List Byte) → List (Nat × List Byte)
  | [] => []
  | c :: r =>
    let p := (Config.unseal key c).take blockBytes
    if (m.blocks[first]?).any (fun b => b.2.2 == Config.digest p) then (first, p) :: goodBlocks m key (first + 1) r else []
/-- Note a block as written. -/
def loadBlock (slot : Nat) (s : State) (b : Nat × List Byte) : State :=
  let m := modelOf slot s
  let w := if m.written.contains b.1 then m.written else b.1 :: m.written
  let s := writeBlock m b.1 b.2 { s with models := sset s.models slot { m with written := w, copy := sset m.copy b.1 b.2 } }
  wr (HIF_MODEL.LOADED slot) (b2n (decide (m.blocks.length ≤ w.length))) (wr (HIF_MODEL.BLOCKS_LOADED slot) w.length s)
/-- WEIGHTS_LOAD. `good` blocks from the first have a tag that verifies. -/
def weightsLoad (h : Hdr) (slot count first : Nat) (buf : Buf) (good : Nat) (s : State) : State :=
  let no := fun st r s => complete h 0x31 st 0 0 r s
  if intakeFails h 0x31 false s ∨ 15 < slot ∨ ¬ isSet (HIF_MODEL.BOUND slot) s ∨ count = 0 ∨ 16384 < count ∨
      (modelOf slot s).blocks.length < first + count then no sRejected ones64 s
  else match bufRead h buf (sealedBytes * count) s with
  | none => no sRejected ones64 (bufLost h buf (sealedBytes * count) s)
  | some bs => match modelKeyOf slot s with
    | none => no sAuthFail first s
    | some key =>
      let m := modelOf slot s
      let cs := (List.range count).map fun k => (bs.drop (sealedBytes * k)).take sealedBytes
      let done := goodBlocks m key first (cs.take good)
      let s := done.foldl (loadBlock slot) s
      if done.length = count then complete h 0x31 sOk 0 count ones64 s
      else complete h 0x31 sAuthFail 0 done.length (first + done.length) s
def execWeightsLoad (h : Hdr) (slot count first : Nat) (buf : Buf) (good : Nat) (s : State) : Host.Outcome State Fault Refusal :=
  hostCmd h 0x31 s (weightsLoad h slot count first buf good)

/-! ## Re-sharding (R477) -/

/-- The place a three-tile layout gives a block: tile × 3 + pair, and its ordinal among the blocks that layout puts there. -/
def altPlaces (m : Model) (omitted : Nat) : List (Nat × Nat × Nat) :=
  ((m.alts.filter (·.1 == omitted)).foldl (fun (acc : List (Nat × Nat × Nat)) a =>
    let tp := a.2.2.1 * 3 + a.2.2.2
    (a.2.1, tp, (acc.filter (·.2.1 == tp)).length) :: acc) []).reverse
/-- A bound model's blocks move with its partition's tiles: a tile that leaves has its blocks rewritten from the model copy where the
three-tile layout puts them, one that returns has them rewritten in their own place. -/
def reshardBlocks (slot oldTiles newTiles : Nat) (s : State) : State :=
  let m := modelOf slot s
  let put := fun (n : Nat) s => bump REL_RESHARD_BYTES.COUNT (blockBytes * n) s
  let gone := (List.range 4).filter fun t => bitOf oldTiles t && !bitOf newTiles t
  let back := (List.range 4).filter fun t => !bitOf oldTiles t && bitOf newTiles t
  let away := gone.flatMap (altPlaces m)
  let home := (List.range m.blocks.length).filter fun k => (m.blocks[k]?).any (fun b => back.contains b.1)
  let s := away.foldl (fun s p =>
    (m.weightAllocs.filter fun a => a.kind == 9 && a.span == p.2.1 && a.layer == p.2.2).foldl (fun s a => memWrite a.addr (sgetD m.copy p.1 []) s) s) s
  put (away.length + home.length) (home.foldl (fun s k => writeBlock m k (sgetD m.copy k []) s) s)

end Sys2Proof.Machine
end

