-- ==== Sys2Proof/Machine/Almanac.lean ====
section
/-!
DEFINITION. Sys2Proof/Machine/Almanac.lean: staging (R446 to R451), applying a generation (R452 to R457), boot slots and the
management-firmware slots (R459 to R461).
-/
namespace Sys2Proof.Machine

/-! ## The staging set -/

def stEmpty : Nat := 0
def stOpen : Nat := 1
def stStaged : Nat := 3
def stageState (s : State) : Nat := rd ALM_STAGE_STATUS.STAGE_STATE s
def setStage (n : Nat) (s : State) : State := wr ALM_STAGE_STATUS.STAGE_STATE n s
/-- The end of a staging operation: its status, and the failing section and check (R462). -/
def stageDone (status section_ check : Nat) (s : State) : State :=
  wr ALM_STAGE_STATUS.STATUS status (wr ALM_STAGE_STATUS.FAIL_SECTION section_ (wr ALM_STAGE_STATUS.FAIL_CHECK check s))
def changed (r : Nat) (s : State) : Bool := isSet (ALM_REGION.CHANGED r) s
def changedRegions (s : State) : List Nat := regions.filter (changed · s)
/-- The staged content of a changed region differs from the committed one. -/
def differs (r : Nat) (s : State) : Bool :=
  if r = rgClasses ∨ r = rgTraffic then regsDiffer r s else (sget s.adm.stage r).any (· != heldOf r s)

/-! ## What a change may not touch (R452) -/

/-- A session, image or other allocation lies in a channel (R571). -/
def chanInUse (g : Nat) (s : State) : Bool := decide (0 < chFill g s)
/-- The spare boundary of a stack crosses a channel: it lies on one side of the old region and not of the new. -/
def boundaryMoves (old new : List Byte) (g : Nat) : Bool :=
  let inSpare := fun b => decide (4 * (72 - tierSpare b (g / 32)) < 9 * (g % 32 + 1))
  tierSpare old (g / 32) != tierSpare new (g / 32) &&
    (inSpare old != inSpare new || (inSpare old && decide (9 * (g % 32) < 4 * (72 - min (tierSpare old (g / 32)) (tierSpare new (g / 32))))))
def ckptUsed (s : State) : Nat := (s.ckptImages.map (·.chunks.length)).sum + ((s.ckpt.map (·.chunks.length)).getD 0)
def tierBusy (old new : List Byte) (s : State) : Bool :=
  ((List.range 768).any fun g => chanInUse g s && (tierRaw old g != tierRaw new g || boundaryMoves old new g)) ||
    decide (field new 0x80 4 * 0x10_0000 < s.poolBytes) || decide (field new 0x84 2 < rd TXT_GRAM_STATUS.STORE_USED_MIB s) ||
    decide (field new 0x88 4 < rd DIR_STORE.USED s) || decide (field new 0x8C 4 * 0x4000 < modelCopyUsed s) ||
    decide (field new 0x90 4 * 0x4000 < ckptUsed s) ||
    decide ((rd DPT_CAPACITY.ALLOC_MIB s - 4096 - 1024 * (field new 0x8C 4 + field new 0x90 4)) * 16 + modelCopyUsed s + ckptUsed s <
      s.chunkMap.length)
/-- A bound model's attention record names page class `j`. -/
def pageClassNamed (j : Nat) (s : State) : Bool := s.models.any fun m => m.2.decodeClass == j || m.2.prefillClass == j
/-- Policers whose committed ENABLE is set and of which a field other than ENABLE is staged anew. -/
def policerBusy (s : State) : Bool :=
  s.shadow.any fun p => decide (0x60_0000 ≤ p.1 / 4096) && p.1 / 64 % 64 != 0 && isSet (TM_POL_CFG.ENABLE ((p.1 / 4096 - 0x60_0000) / 32)) s
def fenceBusy (new : List Byte) (s : State) : Bool :=
  (List.range 256).any fun f => f != 0 && rd (HIF_FN_STATUS.STATE f) s != 0 &&
    fenceEntry new f != (rd (HIF_FN_CFG.FENCE_FIRST f) s, rd (HIF_FN_CFG.FENCE_COUNT f) s)
/-- Tiles of a change lie within the three-tile exception: it removes an offline tile that the partition has, or adds back one that
was removed while it was offline (R476). -/
def tilesMayChange (old new : Nat) (s : State) : Bool :=
  (List.range 4).any fun t =>
    (bitOf old t && !bitOf new t && !tileOnline t s && new + 2 ^ t == old) || (!bitOf old t && bitOf new t && tileOnline t s && old + 2 ^ t == new)
def partBusyChange (p : Nat) (new : List Byte) (s : State) : Bool :=
  let x := sgetD s.parts p {}
  isSet (ARY_PART_STATUS.SWAPPING p) s ||
    (isSet (ARY_PART_STATUS.DEFINED p) s && decide (x.model < 16) && isSet (HIF_MODEL.BOUND x.model) s &&
      (new == [] || field new 1 1 != x.model ||
        (field new 4 1 != rd (ARY_PART_STATUS.TILES p) s && !tilesMayChange (rd (ARY_PART_STATUS.TILES p) s) (field new 4 1) s))) ||
    (s.ckpt.any fun c => decide (c.phase ≤ 2 ∨ c.phase = 5) && c.parts.contains p)
/-- Work on an embedding table is in progress: a command, an EMB_POOL kernel, or a block's migration. -/
def embWork (k : Nat) (s : State) : Bool :=
  (s.embLooks.any (·.table == k)) || (s.embQ.any (·.table == k)) || (s.migs.any fun m => m.block.any (·.1 == k)) ||
    (s.net.incoming.any fun n => n.block.any (·.1 == k)) || s.parts.any fun p => p.2.running.any fun r => r.kern.op == 0x000C
def embBusy (k : Nat) (new : List Byte) (s : State) : Bool :=
  let old := heldOf (rgEmb k) s
  isSet (EMB_TABLE.VALID k) s &&
    (if new = [] then embWork k s
     else (old.drop 1).take 2 != (new.drop 1).take 2 || (old.drop 4).take 0x14 != (new.drop 4).take 0x14)
/-- A region meets a condition of R452, as it is staged. -/
def regionInUse (r : Nat) (s : State) : Bool :=
  let new := sgetD s.adm.stage r (heldOf r s)
  differs r s &&
    (if r = rgTier then tierBusy (heldOf r s) new s
     else if r = rgClasses then (List.range 8).any fun j => bitOf s.adm.pageEn j && !bitOf s.adm.pageEnSh j && pageClassNamed j s
     else if r = rgTraffic then policerBusy s
     else if r = rgFences then fenceBusy new s
     else if r = rgPower then false
     else if r < 0x110 then partBusyChange (r - 0x10) new s
     else if r < 0x120 then s.models.any (·.2.tokSet == r - 0x110)
     else if r < 0x160 then
       decide (0 < rd (VEC_INDEX.LIVE (r - 0x120)) s) || isSet (VEC_INDEX.COMPACTING (r - 0x120)) s || s.vecQs.any (·.index == r - 0x120)
     else embBusy (r - 0x160) new s)

/-- Compute INDEPENDENT and IN_USE of every changed region (R450). -/
def showFlags (s : State) : State :=
  regions.foldl (fun s r =>
    let c := changed r s
    let ind := c && (crossBad (· == r) s).isEmpty
    let use := c && regionInUse r s
    if isSet (ALM_REGION.INDEPENDENT r) s = ind ∧ isSet (ALM_REGION.IN_USE r) s = use then s
    else wr (ALM_REGION.INDEPENDENT r) (b2n ind) (wr (ALM_REGION.IN_USE r) (b2n use) s)) s

/-! ## LOAD (R448) -/

/-- A directory entry of an image with its index (R442). -/
structure Sect where
  idx : Nat
  ty : Nat
  region : Nat
  count : Nat
  off : Nat
  bytes : Nat
  digest : Nat
  data : List Byte
deriving DecidableEq, Repr

def sectOf (im : List Byte) (k : Nat) : Sect :=
  let a := 0x40 + 32 * k
  { idx := k, ty := field im a 2, region := field im (a + 2) 2, count := field im (a + 4) 4, off := field im (a + 8) 4,
    bytes := field im (a + 12) 4, digest := field im (a + 16) 16, data := (im.drop (field im (a + 8) 4)).take (field im (a + 12) 4) }
/-- A directory entry and its section agree with R441 and R442. -/
def sectOk (im : List Byte) (e : Sect) : Bool :=
  let sig := field im 0x20 4
  e.off % 64 == 0 && decide (0x40 + 32 * field im 0x10 2 ≤ e.off) && decide (e.off + e.bytes ≤ sig) && decide (e.count ≤ 1) &&
    !(e.count == 0 && within 1 e.ty 5)
def headerOk (im : List Byte) : Bool :=
  let sig := field im 0x20 4
  field im 0 4 == 0x414C_4D31 && field im 4 2 == 1 && field im 6 2 == 0x1728 && within 1 (field im 0x10 2) 1024 &&
    decide (field im 0x14 4 ≤ 1280 * 0x10_0000) && sig % 64 == 0 && decide (0x40 + 32 * field im 0x10 2 ≤ sig) &&
    decide (sig + field im 0x24 4 ≤ field im 0x14 4)
/-- The index of the first section a test refuses. -/
def firstBad (f : Sect → Bool) (es : List Sect) : Option Nat := (es.find? fun e => !f e).map (·.idx)

/-- The sections of an image enter the staging set as the shadows of their regions. -/
def stageSects (es : List Sect) (s : State) : State :=
  es.foldl (fun s e =>
    if e.region = rgClasses ∨ e.region = rgTraffic then regsStage e.region e.data s
    else { s with adm.stage := sset s.adm.stage e.region (if e.count = 0 then [] else e.data) }) s
/-- Every shadow returns to its committed value, and nothing is staged (R451). -/
def clearStage (s : State) : State :=
  let s := regsRevert rgClasses (regsRevert rgTraffic { s with adm.stage := [], adm.image := [] })
  let s := (changedRegions s).foldl (fun s r =>
    wr (ALM_REGION.CHANGED r) 0 (wr (ALM_REGION.INDEPENDENT r) 0 (wr (ALM_REGION.IN_USE r) 0 s))) s
  setStage stEmpty (wr ALM_STAGE_STATUS.DIRTY 0 (wr ALM_STAGE_STATUS.BOOT 0 s))

/-- Steps 2 to 7 on an image: the failing status, check and section. `sigOk` says that both signatures verify (R497), and no image
verifies without an owner record (R555). -/
def imageFails (im : List Byte) (sigOk : Bool) (s : State) : Option (Nat × Nat × Nat) :=
  let es := (List.range (field im 0x10 2)).map (sectOf im)
  let base := field im 0xC 4
  if ¬ headerOk im then some (sRejected, 2, 0xFFF)
  else match firstBad (sectOk im) es with
  | some k => some (sRejected, 2, k)
  | none =>
  if ¬ (sigOk && isSet SEC_ID_STATUS.OWNER_OK s) then some (sAuthFail, 3, 0xFFF)
  else if field im 8 4 ≤ rd ALM_COMMITTED.GEN s then some (sRejected, 4, 0xFFF)
  else match firstBad (fun e => base == 0 || rd (ALM_REGION.COMMITTED_GEN e.region) s == base) es with
  | some k => some (sRejected, 4, k)
  | none =>
  match firstBad (fun e => e.digest == Config.digest e.data % 2 ^ 128 && typeFits e.ty e.region &&
      !(es.any fun x => decide (x.idx < e.idx) && x.region == e.region)) es with
  | some k => some (sRejected, 5, k)
  | none =>
  match firstBad (fun e => e.count == 0 || recordOk e.region e.data s) es with
  | some k => some (sRejected, 6, k)
  | none =>
    match crossBad (fun _ => true) (stageSects es s) with
    | [] => none
    | rs => some (sRejected, 7, ((es.find? fun e => rs.contains e.region).map (·.idx)).getD 0xFFF)

/-- LOAD of an image's bytes, from the bonded tier or from a boot slot. -/
def loadImage (im : List Byte) (sigOk boot : Bool) (s : State) : State :=
  if stageState s ≠ stEmpty ∨ ¬ isSet HUB_DOMAIN_STATUS.MGT_RUNNING s then stageDone sBusy 0xFFF 1 s
  else match imageFails im sigOk s with
  | some (st, check, sect) => stageDone st sect check (if st = sAuthFail then bump SEC_AUTH_FAILS.COUNT 1 s else s)
  | none =>
    let es := (List.range (field im 0x10 2)).map (sectOf im)
    let s := stageSects es { s with adm.image := im.take (field im 0x14 4) }
    let s := es.foldl (fun s e => wr (ALM_REGION.CHANGED e.region) 1 s) s
    let s := wr ALM_STAGE_STATUS.GEN (field im 8 4) (wr ALM_STAGE_STATUS.BOOT (b2n boot) (setStage stStaged s))
    stageDone sOk 0xFFF 0 (showFlags s)
/-- LOAD: the image is at ALM_STAGE_ADDR. `sigOk`: both of its signatures verify. -/
def almLoad (sigOk : Bool) (s : State) : State :=
  let a := rd ALM_STAGE_ADDR.ADDR s * 64
  loadImage (memRead s a (min (field (memRead s a 0x40) 0x14 4) (1280 * 0x10_0000))) sigOk false s
def execAlmLoad (sigOk : Bool) (s : State) : Host.Outcome State Fault Refusal := whenServing s (almLoad sigOk)

/-! ## SEAL, DISCARD and edits (R447, R449, R451) -/

/-- SEAL. -/
def almSeal (s : State) : State :=
  if stageState s = stEmpty then stageDone sRejected 0xFFF 0 s
  else if stageState s ≠ stOpen then stageDone sBusy 0xFFF 0 s
  else if rd ALM_STAGE_GEN.GEN s ≤ rd ALM_COMMITTED.GEN s then stageDone sRejected 0xFFF 0 s
  else if (changedRegions s).any (!editsOk · s) then stageDone sRejected 0xFFF 6 s
  else if crossBad (changed · s) s ≠ [] then stageDone sRejected 0xFFF 7 s
  else
    let s := wr ALM_STAGE_STATUS.GEN (rd ALM_STAGE_GEN.GEN s) (setStage stStaged s)
    stageDone sOk 0xFFF 0 (showFlags s)
def execAlmSeal (s : State) : Host.Outcome State Fault Refusal := whenServing s almSeal

/-- DISCARD; refused while the set is VERIFYING or APPLYING. -/
def almDiscard (s : State) : State :=
  if stageState s = 2 ∨ stageState s = 4 then stageDone sBusy 0xFFF 0 s else stageDone sOk 0xFFF 0 (clearStage s)
def execAlmDiscard (s : State) : Host.Outcome State Fault Refusal := whenServing s almDiscard

/-- An edit is accepted into the shadow, or logged as refused (R447); `off` is the register's BAR0 offset, `edit` what it does. -/
def rwsEdit (off : Nat) (edit : State → State) (s : State) : State :=
  if stageState s = stEmpty ∨ stageState s = stOpen then
    let s := edit (setStage stOpen s)
    let s := [rgClasses, rgTraffic].foldl (fun s r => wr (ALM_REGION.CHANGED r) (b2n (regsDiffer r s)) s) s
    wr ALM_STAGE_STATUS.DIRTY (b2n ((changedRegions s).any fun _ => true)) s
  else wr ALM_WRITE_LOG.OFFSET off (wr ALM_WRITE_LOG.VALID 1 (bump ALM_WRITE_LOG.COUNT 1 s))

/-! ## APPLY_GENERATION (R453 to R457) -/

/-- A rank map of a region names an array that is no longer ENABLED. -/
def mapStale (r : Nat) (s : State) : Bool :=
  decide (0x10 ≤ r) && decide (r < 0x10F) && (recordMap (sgetD s.adm.stage r [])).any fun a => arrState a s != aEnabled
/-- The first failing region of a target and its status (step 3). -/
def applyFails (rs : List Nat) (s : State) : Option (Nat × Nat) :=
  rs.findSome? fun r =>
    if ¬ differs r s then none else if regionInUse r s then some (r, sBusy) else if mapStale r s then some (r, sRejected) else none

/-- MiB of the pool's capacity that stands out of service: 2.25 GiB for each protected channel outside the spare region that holds no data
(R473, R475). -/
def lostMib (s : State) : Nat := 2304 * ((List.range 768).filter fun g => tilePresent (g / 192) s && chProtectedOk g s && !chUp g s).length
/-- Show the pool's size: the tier map's, less what stands out of service. -/
def sizePool (s : State) : State := wr SES_POOL_SIZE.POOL_MIB (field (heldOf rgTier s) 0x80 4 - lostMib s) s
/-- A channel becomes raw, with contents left undefined, or protected, zero-filled (R94). -/
def rawChange (old new : List Byte) (s : State) (g : Nat) : State :=
  if tierRaw old g = tierRaw new g then s
  else
    let t := g / 192
    let j := g / 32 % 6
    let s := wrBit (MEM_CH_CFG.RAW t j) (g % 32) (tierRaw new g) s
    if tierRaw new g then let (bs, s) := openBytes chanBytes s; memWrite (gchanBase g) bs s
    else wr (ALM_REGION.COMPLETING rgTier) 1 (memClear (gchanBase g) chanBytes s)
def commitTier (old new : List Byte) (s : State) : State :=
  let s := (List.range 768).foldl (rawChange old new) s
  let s := (List.range 24).foldl (fun s st => wr (MEM_CH_CFG.SPARE_GIB (st / 6) (st % 6)) (tierSpare new st) s) s
  let s := wr SES_POOL_SIZE.POOL_MIB (field new 0x80 4 - lostMib s) (wr TXT_GRAM_STATUS.STORE_MIB (field new 0x84 2) (wr DIR_STORE.CAPACITY (field new 0x88 4) s))
  { s with modelCopyGib := field new 0x8C 4, ckptGib := field new 0x90 4 }
def commitFences (new : List Byte) (s : State) : State :=
  (List.range 256).foldl (fun s f =>
    if f = 0 then s else wr (HIF_FN_CFG.FENCE_FIRST f) (fenceEntry new f).1 (wr (HIF_FN_CFG.FENCE_COUNT f) (fenceEntry new f).2 s)) s

/-- The partition whose running step an array waits for: one that had it before the commit point and still runs a step, or the one it
waited for already (R456). -/
def arrayHeldBy (a p : Nat) (old : Store Part) : Option Nat :=
  match old.findSome? fun q => (q.2.incoming.find? (·.1 == a)).map (·.2) with
  | some q => if q = p then none else some q
  | none => (old.find? fun q => q.1 != p && q.2.ranks.contains a && q.2.step.isSome).map (·.1)
/-- Arrays that leave a partition's live map show no partition (R456). -/
def leaveMap (ranks : List Nat) (s : State) : State :=
  ranks.foldl (fun s a => wr (ARY_STATUS.PARTITION (a / 512) (a % 512)) 0xFF (wr (ARY_STATUS.RANK (a / 512) (a % 512)) 0 s)) s
/-- The arrays of a new map that join at once show it. -/
def joinMap (p : Nat) (x : Part) (s : State) : State :=
  ((List.range x.ranks.length).zip x.ranks).foldl (fun s ra =>
    if x.incoming.any (·.1 == ra.2) then s
    else wr (ARY_STATUS.PARTITION (ra.2 / 512) (ra.2 % 512)) p (wr (ARY_STATUS.RANK (ra.2 / 512) (ra.2 % 512)) ra.1 s)) s
/-- Weight blocks that a new set of tiles adds are read from the model copy and written to their stack pair (R477). -/
def reshard (p oldTiles newTiles : Nat) (s : State) : State :=
  let x := sgetD s.parts p {}
  if x.model < 16 ∧ isSet (HIF_MODEL.BOUND x.model) s ∧ oldTiles ≠ newTiles ∧ oldTiles ≠ 0 then reshardBlocks x.model oldTiles newTiles s
  else s
/-- A partition's record commits: its map, its flags, the arrays it waits for and the reload (R455 to R457). `old` holds the partitions
before the commit point. -/
def commitPart (old : Store Part) (s : State) (r : Nat) : State :=
  let p := r - 0x10
  let b := sgetD s.adm.stage r []
  let x := sgetD s.parts p {}
  let was := isSet (ARY_PART_STATUS.DEFINED p) s
  let c0 := isSet (ARY_PART_STATUS.CLASS0 p) s
  let map := recordMap b
  let now0 := b != [] && bitOf (field b 5 1) 0
  let reshaped := b != [] && (!was || map != x.ranks)
  let reconf := (c0 || now0) && (was != (b != []) || c0 != now0 || map != x.ranks)
  let s := reshard p (rd (ARY_PART_STATUS.TILES p) s) (field b 4 1) s
  let x' : Part := { x with
    model := if b = [] then 0xFF else field b 1 1, ranks := map, floorMhz := field b 6 2, stepBound := field b 8 4,
    prefillAllow := field b 12 4, residentKib := field b 16 4,
    incoming := map.filterMap fun a => (arrayHeldBy a p old).map fun q => (a, q),
    reload := if b = [] then false else x.reload || reshaped,
    reconf := if reconf then (now0 || x.step.isSome) else x.reconf }
  let s := joinMap p x' { s with parts := sset s.parts p x',
                                 resid := if reshaped || b == [] then s.resid.filter (fun q => q.1 / 2 ^ 32 != p) else s.resid }
  let s := wr (ARY_PART_STATUS.ARRAYS p) map.length (wr (ARY_PART_STATUS.TILES p) (field b 4 1) (wr (ARY_PART_STATUS.DEFINED p) (b2n (b != [])) s))
  let s := wr (ARY_PART_STATUS.CLASS0 p) (b2n now0) (if reshaped || b == [] then wr (ARY_PART_STATUS.DEGRADED p) 0 s else s)
  if reshaped then wr (ALM_REGION.COMPLETING r) 1 s else s
/-- A tokenizer set commits; it is VALID once copied to the engine's tables (R455). -/
def commitTok (k : Nat) (b : List Byte) (s : State) : State :=
  let s := wr (TXT_SET.VALID k) 0 (wr (TXT_SET.MODE k) 0 (wr (TXT_SET.VOCAB k) 0 { s with tokSets := sdel s.tokSets k, badToks := s.badToks.filter (· != k) }))
  wr (ALM_REGION.COMPLETING (rgTok k)) (b2n (b != [])) s
/-- The channels that committed indexes name. -/
def indexChans (s : State) : List Nat :=
  ((List.range 64).map fun i => recordIndexChans (heldOf (rgVec i) s)).flatten
/-- An index commits: it is initialised, and READY once its tables are written (R328, R455). -/
def commitVec (i : Nat) (b : List Byte) (s : State) : State :=
  let s : State := { s with vecs := sdel s.vecs i, vecChans := indexChans s }
  let s := wr (VEC_INDEX.VALID i) 0 (wr (VEC_INDEX.READY i) 0 (wr (VEC_INDEX.SEGMENTS i) 0 s))
  if b = [] then s
  else
    let v : VecIndex := {
      metric := field b 1 1, dim := field b 2 2, m := field b 4 2, degree := field b 6 1, home := field b 7 1, stride := field b 8 2,
      stackSet := field b 10 1, part := field b 11 1, graphCh := field b 12 4, flatCh := field b 16 4, idmapLog2 := field b 0x14 1,
      maxSlots := field b 0x18 4, codebook := field b 0x20 8, slotTab := field b 0x28 8, segTab := field b 0x30 8, idmap := field b 0x38 8 }
    wr (ALM_REGION.COMPLETING (rgVec i)) 1 (wr (VEC_INDEX.READY i) 0 (vecDefine i v s))
/-- Blocks of a table homed here: map entries with bit 0 set (R297). -/
def localBlocks (t : EmbTable) (s : State) : Nat :=
  let count := fun part => ((List.range (ceilDiv (t.rows part) (2 ^ t.blockLog2))).filter fun b =>
    bitOf (leNat (memRead s (mapEntry t part b) 8)) 0).length
  count 0 + (if t.layout = 1 then count 1 else 0)
def commitEmb (k : Nat) (b : List Byte) (s : State) : State :=
  let s := dropReplicas (·.table == k) s
  if b = [] then
    wr (EMB_TABLE.VALID k) 0 (wr (EMB_TABLE.LAYOUT k) 0 (wr (EMB_TABLE.FORMAT k) 0 (wr (EMB_TABLE.DIM k) 0 (wr (EMB_TABLE.LOCAL_BLOCKS k) 0
      { s with embTabs := sdel s.embTabs k }))))
  else
    let t : EmbTable := {
      layout := field b 1 1, format := field b 2 1, flags := field b 3 1, dim := field b 4 2, blockLog2 := field b 6 1, home := field b 7 1,
      seed := field b 8 8, rowsA := field b 0x10 4, rowsB := field b 0x14 4, mapA := field b 0x18 8, mapB := field b 0x20 8 }
    let s := wr (EMB_TABLE.VALID k) 1 (wr (EMB_TABLE.LAYOUT k) t.layout (wr (EMB_TABLE.FORMAT k) t.format (wr (EMB_TABLE.DIM k) t.dim s)))
    wr (EMB_TABLE.LOCAL_BLOCKS k) (localBlocks t s) { s with embTabs := sset s.embTabs k t }

/-- One region commits; content equal to the committed one changes only the generation (R452). -/
def commitRegion (old : Store Part) (gen : Nat) (s : State) (r : Nat) : State :=
  let d := differs r s
  let was := heldOf r s
  let new := sgetD s.adm.stage r was
  let s :=
    if ¬ d then s
    else if r = rgClasses ∨ r = rgTraffic then regsCommit r s
    else
      let s : State := { s with adm.held := sset s.adm.held r new }
      if r = rgTier then commitTier was new s else if r = rgFences then commitFences new s else if r = rgPower then s
      else if r < 0x110 then commitPart old s r else if r < 0x120 then commitTok (r - 0x110) new s
      else if r < 0x160 then commitVec (r - 0x120) new s else commitEmb (r - 0x160) new s
  let s : State := { s with adm.stage := sdel s.adm.stage r }
  wr (ALM_REGION.COMMITTED_GEN r) gen (wr (ALM_REGION.CHANGED r) 0 s)

/-- The class-0 deep-tier bytes admitted in 6 ms (R55). -/
def showDeep6 (s : State) : State :=
  wr SES_C0_ADMIT.DEEP_MIB_6MS (rd (SES_CLASS_CFG.DEEP_SHARE 0) s * 1638336 * 5244 / 100 / 0x10_0000) s
/-- The commit point (R454). Arrays leave the maps of the partitions that change before any joins another (R456). -/
def commitAll (rs : List Nat) (gen : Nat) (s : State) : State :=
  let ps := rs.filter fun r => decide (0x10 ≤ r) && decide (r < 0x10F) && differs r s
  let old := s.parts
  let s1 := ps.foldl (fun s r => leaveMap (sgetD old (r - 0x10) {}).ranks s) s
  let s2 := rs.foldl (commitRegion old gen) s1
  c0Refresh (showPower (showW0 (showDeep6 (polCompare s s2))))

/-- The action of an APPLY_GENERATION entry. -/
def actApply (table idx : Nat) (e : EphEntry) (s : State) : State :=
  let gen := rd ALM_STAGE_STATUS.GEN s
  let rs := if e.target = 0xFFFF then changedRegions s else [e.target]
  if stageState s ≠ stStaged ∨ e.opA ≠ gen ∨ (e.target ≠ 0xFFFF ∧ ¬ (regions.contains e.target && changed e.target s)) then
    actionFail table idx e sRejected s
  else if e.target ≠ 0xFFFF ∧ ¬ isSet (ALM_REGION.INDEPENDENT e.target) s then actionFail table idx e sRejected s
  else match applyFails rs s with
  | some (r, st) =>
    postPf 0x0016 0x14 st r gen
      (wr ALM_APPLY_LOG.REGION r (wr ALM_APPLY_LOG.STATUS st (wr ALM_APPLY_LOG.GEN gen (wr ALM_APPLY_LOG.VALID 1 s))))
  | none =>
    let bid := field s.adm.image 0x18 8
    let s := commitAll rs gen s
    let s : State := { s with adm.buildId := if s.adm.image = [] then s.adm.buildId else bid }
    let s := bump ALM_COMMITTED.APPLIES 1 (wr ALM_COMMITTED.GEN gen s)
    let s := if changedRegions s = [] then clearStage s else s
    actionDone table idx e (showFlags s)

/-- REGION_COMPLETED: the work after the commit point of a region ends (R455). A partition's ends once its arrays have joined and its own
running step under the old map has ended; the resident regions of its ranks are then loaded. -/
def regionCompleted (r : Nat) (s : State) : State :=
  let p := r - 0x10
  let isPart := decide (0x10 ≤ r) && decide (r < 0x10F)
  let x := sgetD s.parts p {}
  if ¬ isSet (ALM_REGION.COMPLETING r) s ∨ (isPart ∧ (x.incoming ≠ [] ∨ x.step.isSome)) then s
  else
    let s := wr (ALM_REGION.COMPLETING r) 0 s
    let s :=
      if isPart then modPart p (fun x => { x with reload := false }) (if x.reload then reloadAll p s else s)
      else if 0x110 ≤ r ∧ r < 0x120 then
        let b := heldOf r s
        wr (TXT_SET.VALID (r - 0x110)) 1 (wr (TXT_SET.MODE (r - 0x110)) (field b 5 1) (wr (TXT_SET.VOCAB (r - 0x110)) (field b 8 4)
          { s with tokSets := sset s.tokSets (r - 0x110) b }))
      else if 0x120 ≤ r ∧ r < 0x160 then wr (VEC_INDEX.READY (r - 0x120)) 1 s
      else s
    postPf 0x0017 0x14 sOk r (rd (ALM_REGION.COMMITTED_GEN r) s) s
def execRegionCompleted (region : Nat) (s : State) : Host.Outcome State Fault Refusal := whenServing s (regionCompleted region)

/-! ## Boot slots (R459) -/

/-- The generation of a boot slot's image; 0 where it is empty or no image. -/
def bootGen (im : List Byte) : Nat := if headerOk im then field im 8 4 else 0
/-- Show the generations of the boot slots (R462). -/
def showBoot (s : State) : State := wr ALM_BOOT.A_GEN (bootGen s.adm.bootA) (wr ALM_BOOT.B_GEN (bootGen s.adm.bootB) s)
/-- WRITE_BOOT: the staged image goes into the slot of lower generation. -/
def writeBoot (s : State) : State :=
  if stageState s ≠ stStaged ∨ isSet ALM_STAGE_STATUS.DIRTY s then stageDone sRejected 0xFFF 0 s
  else stageDone sOk 0xFFF 0
    (showBoot (if bootGen s.adm.bootA ≤ bootGen s.adm.bootB then { s with adm.bootA := s.adm.image } else { s with adm.bootB := s.adm.image }))
def execWriteBoot (s : State) : Host.Outcome State Fault Refusal := whenServing s writeBoot

/-! ## Firmware slots (R460, R461, R464) -/

/-- Show the firmware slots. -/
def showFw (s : State) : State :=
  wr ALM_FW_STATUS.SLOT_A s.adm.fwA.st (wr ALM_FW_STATUS.SLOT_B s.adm.fwB.st (wr ALM_FW_STATUS.RUNNING s.adm.fwRun
    (wr ALM_FW_STATUS.A_SVN s.adm.fwA.svn (wr ALM_FW_STATUS.B_SVN s.adm.fwB.svn s))))
/-- The running slot, and the slot that is not ACTIVE. -/
def fwActive (s : State) : FwSlot := if s.adm.fwRun = 0 then s.adm.fwA else s.adm.fwB
def fwOther (s : State) : FwSlot := if s.adm.fwRun = 0 then s.adm.fwB else s.adm.fwA
def setOther (x : FwSlot) (s : State) : State := showFw (if s.adm.fwRun = 0 then { s with adm.fwB := x } else { s with adm.fwA := x })
def setActive (x : FwSlot) (s : State) : State := showFw (if s.adm.fwRun = 0 then { s with adm.fwA := x } else { s with adm.fwB := x })
def fwDone (status : Nat) (s : State) : State := wr ALM_FW_STATUS.STATUS status (wr ALM_FW_STATUS.BUSY 0 s)
/-- The firmware plane takes no work now: the complex does not run, or an activation or another write is in progress. -/
def fwBusy (s : State) : Bool :=
  !isSet HUB_DOMAIN_STATUS.MGT_RUNNING s || isSet ALM_FW_STATUS.BUSY s || s.adm.fwActivating
/-- An image is verified and written into the slot that is not ACTIVE (R460); `digest` stands for its digest. -/
def fwStore (sigOk : Bool) (svn digest : Nat) (s : State) : Nat × State :=
  if ¬ sigOk then (sAuthFail, bump SEC_AUTH_FAILS.COUNT 1 s)
  else if svn < (fwActive s).svn then (sRejected, s)
  else (sOk, setOther { st := 3, svn := svn, digest := digest } s)
/-- WRITE of the PF. `sigOk`, `svn` and `digest` are what verification of the image at ALM_FW_ADDR finds. -/
def fwWrite (sigOk : Bool) (svn digest : Nat) (s : State) : State :=
  if isSet ALM_FW_STATUS.BUSY s then s
  else if fwBusy s || s.adm.pldmPhase != 0 then fwDone sBusy s
  else let (st, s) := fwStore sigOk (svn % 2 ^ 16) digest s; fwDone st s
def execFwWrite (sigOk : Bool) (svn digest : Nat) (s : State) : Host.Outcome State Fault Refusal := whenServing s (fwWrite sigOk svn digest)

/-- Event 0x0018: an activation ended (R465). -/
def event18 (status : Nat) (s : State) : State := postPf 0x0018 0x14 status s.adm.fwRun (fwActive s).svn s
/-- The new firmware runs: PENDING becomes ACTIVE and the old slot VALID (row 3 of R461). -/
def fwSwitch (s : State) : State :=
  let s := setActive { fwActive s with st := 1 } s
  let s := showFw { s with adm.fwRun := 1 - s.adm.fwRun }
  setActive { fwActive s with st := 2 } s
/-- The complex stops (row 1 of R461, R519): MGT_RUNNING clears, and the secured sessions and messages in flight are gone. -/
def mgtStop (fwState : Nat) (s : State) : State :=
  setMgtRunning false (wr MGT_STATUS.FW_STATE fwState { s with adm.spdm := [], adm.pldmPhase := 0, adm.sens := [] })
/-- ACTIVATE: rows 1 and 2 of R461. `sigOk`: both signatures of the PENDING slot verify; a failed check ends the activation by row 4. -/
def fwActivate (sigOk : Bool) (s : State) : State :=
  if isSet ALM_FW_STATUS.BUSY s then s
  else if fwBusy s then fwDone sBusy s
  else if (fwOther s).st ≠ 3 then fwDone sRejected s
  else if ¬ sigOk then
    event18 sAborted (fwDone sAborted (setOther { fwOther s with st := 4 } (bump SEC_AUTH_FAILS.COUNT 1 (setMgtRunning true (setMgtRunning false s)))))
  else wr ALM_FW_STATUS.BUSY 1 (mgtStop 3 { s with adm.fwActivating := true })
def execFwActivate (sigOk : Bool) (s : State) : Host.Outcome State Fault Refusal := whenServing s (fwActivate sigOk)

/-- INVALIDATE: the slot that is not ACTIVE becomes EMPTY. -/
def fwInvalidate (s : State) : State :=
  if isSet ALM_FW_STATUS.BUSY s then s
  else if fwBusy s || s.adm.pldmPhase != 0 then fwDone sBusy s
  else fwDone sOk (setOther {} s)
def execFwInvalidate (s : State) : Host.Outcome State Fault Refusal := whenServing s fwInvalidate

end Sys2Proof.Machine
end

