-- ==== Sys2Proof/Machine/Blockwise.lean ====
section
/-!
DEFINITION. Sys2Proof/Machine/Blockwise.lean: the ATTENTION operator: visibility, formats, bounds and page selection, poisoned reads, blocks,
partials and outputs (R214 to R222).
-/
namespace Sys2Proof.Machine

/-! ## Visible positions (R214) -/

/-- Positions of a page: first, and one past the last. -/
def pageSpan (x : Sess) (p : Page) : Nat × Nat :=
  let c := spanCls x p.span
  let a := p.span * 1024 + p.slot * pageTokens c
  (a, a + pageTokens c)
/-- The window of a layer; 0 is none. -/
def windowOf (m : Model) (layer : Nat) : Nat := ((m.layers.drop layer).head?.map (·.1)).getD 0
/-- Position j of a layer is visible to a query at position i. -/
def visibleTo (m : Model) (r : SesRun) (layer i j : Nat) : Bool :=
  decide (j ≤ i) && decide (j < r.start + r.count) && (windowOf m layer == 0 || decide (i - j < windowOf m layer))
/-- Positions from `a` up to `b` that some query row of the run sees: first, and one past the last. -/
def visibleRange (m : Model) (r : SesRun) (layer a b : Nat) : Nat × Nat :=
  let lo := if windowOf m layer = 0 then 0 else r.start + 1 - windowOf m layer
  (max a lo, if r.count = 0 then 0 else min b (r.start + r.count))
def visibleCount (m : Model) (r : SesRun) (layer a b : Nat) : Nat :=
  (visibleRange m r layer a b).2 - (visibleRange m r layer a b).1
/-- A page of a layer holds a position visible to some query row of the run. -/
def visiblePage (m : Model) (x : Sess) (r : SesRun) (layer : Nat) (p : Page) : Bool :=
  p.layer == layer && decide (0 < visibleCount m r layer (pageSpan x p).1 (pageSpan x p).2)
/-- The pages of a session's page list, by position in it, that are visible in a layer. -/
def visiblePages (m : Model) (x : Sess) (r : SesRun) (layer : Nat) : List Nat :=
  (List.range x.pages.length).zip x.pages |>.filterMap fun p => if visiblePage m x r layer p.2 then some p.1 else none
/-- A layer of a session attends selectively in this step (R218). -/
def selective (m : Model) (x : Sess) (r : SesRun) (layer : Nat) (s : State) : Bool :=
  isSet KVP_CFG.SPARSE_EN s && m.sparseThresh != 0 && decide (m.sparseThresh < r.start) &&
    !(((m.layers.drop layer).head?.map (·.2.2)).getD false) && decide (m.selPages < (visiblePages m x r layer).length)
/-- A page of a session's page list, and its first position. -/
def pageAt (x : Sess) (k : Nat) : Option Page := (x.pages.drop k).head?
def firstPos (x : Sess) (k : Nat) : Nat := ((pageAt x k).map fun p => (pageSpan x p).1).getD 0
/-- The forced set of R220: the page of position 0 if visible, and the two of highest visible positions. -/
def forcedSet (x : Sess) (vis : List Nat) : List Nat :=
  vis.filter fun k => firstPos x k == 0 || decide ((vis.filter fun j => decide (firstPos x k < firstPos x j)).length < 2)

/-! ## Queries, keys and values (R215) -/

/-- An index of a free value: numbers below 2^32. -/
def freeKey (l : List Nat) : Nat := l.foldl (fun a x => a * 2 ^ 32 + x) 1

/-- Where the query rows and the output rows of a head group lie: the rank, and the offsets in its SRAM. -/
abbrev Place := Nat × Nat × Nat
/-- A query row: row `q` of the session's rows in the step, query head `h` of its group, converted to MXFP8 E4M3 in blocks of 32. -/
def queryRow (m : Model) (arr off q h : Nat) (s : State) : List Val :=
  let row := (pieces 4 m.headDim (sramRead s arr (off + 4 * ((q * m.qPerKv + h) * m.headDim)) (4 * m.headDim))).map fun b => ofF32 (leNat b)
  ((blocks32 row).map fun b => let (sc, cs) := mxBlock 5 true b; cs.map fun c => mxScale sc (e4m3 c)).flatten
/-- Every query row of a head group, row by row and head by head. -/
def queryRows (m : Model) (r : SesRun) (arr off : Nat) (s : State) : List (List Val) :=
  (List.range (r.count * m.qPerKv)).map fun k => queryRow m arr off (k / m.qPerKv) (k % m.qPerKv) s

/-- Rows of a part of a page, D values each: part 2 × h holds the keys of head h, part 2 × h + 1 its values. -/
def partRows (m : Model) (x : Sess) (p : Page) (part : Nat) (bs : List Byte) : List (List Val) :=
  let n := partN m (spanCls x p.span)
  let b := (bs.drop (part * partBytes p.fmt n)).take (partBytes p.fmt n)
  let vals := (partBlocks p.fmt n b (b.drop (n * 4 * fmtBits p.fmt))).flatten
  (List.range (pageTokens (spanCls x p.span))).map fun k => (vals.drop (k * m.headDim)).take m.headDim
/-- A value expanded to BF16. -/
def toBf16 (v : Val) : Val := ofBf16 (elemCode 1 false v)
/-- A key or value row holds a NaN, or a block with scale 0xFF. -/
def rowNan (l : List Val) : Bool := l.any (· == .nan)

/-- Runs of bytes that hold a position's key and value of a head: elements, and in an MX format scales. -/
def rowRuns (m : Model) (x : Sess) (p : Page) (h row : Nat) : List (Nat × Nat) :=
  let n := partN m (spanCls x p.span)
  [2 * h, 2 * h + 1].flatMap fun part =>
    let a := p.addr + part * partBytes p.fmt n
    (a + row * (m.headDim * fmtBits p.fmt / 8), m.headDim * fmtBits p.fmt / 8) ::
      (if p.fmt = 0 then [] else [(a + n * 4 * fmtBits p.fmt + row * (m.headDim / 32), m.headDim / 32)])

/-! ## Bounds and weights (R219) -/

/-- The larger of two FP32 numbers; a NaN stays. -/
def scoreMax (a b : Nat) : Nat := if f32NaN a ∨ f32NaN b then 0x7FC0_0000 else if f32Lt a b then b else a
/-- The larger of two products; a NaN stays. -/
def valTop (a b : Val) : Val := if a = .nan ∨ b = .nan then .nan else if valLt a b then b else a
/-- The bound of a query row at a summary: D maxima, then D minima. -/
def rowBound (m : Model) (q : List Val) (sum : List Nat) (free : Nat) : Nat :=
  let d := m.headDim
  let ts := (q.zip ((sum.take d).zip (sum.drop d))).map fun e => valTop (valMul e.1 (ofBf16 e.2.1)) (valMul e.1 (ofBf16 e.2.2))
  f32Mul m.scale (boundedSum ts free)
/-- The largest bound over query rows. -/
def groupBound (m : Model) (qs : List (List Val)) (sum : List Nat) (draw : Nat) : Nat :=
  (((List.range qs.length).zip qs).map fun q => rowBound m q.2 sum (Config.openAt draw q.1)).foldl scoreMax f32NegInf
/-- The summary at a slot of a head in the summary block of a layer and span; slot S is the span's. -/
def summaryAt (m : Model) (x : Sess) (layer sp h slot : Nat) (s : State) : List Nat :=
  match x.allocs.find? fun a => a.kind == 7 && a.layer == layer && a.span == sp with
  | none => emptySummary m.headDim
  | some a =>
    ofSummaryBs m.headDim (memRead s (a.addr + (h * (pagesPerSpan (spanCls x sp) + 1) + slot) * (4 * m.headDim)) (4 * m.headDim))
/-- The weight of a page or span: `n` visible positions, bound `b`, the largest bound of a page `top`. -/
def boundWeight (n b top free : Nat) : Nat := f32Mul (f32OfNat n) (f32Exp2 free (f32Mul (f32Sub b top) f32Log2e))

/-! ## Selection (R220, R221) -/

/-- What selection finds for a head group: the pages kept, by their place in the page list, the left-out share, and the pages and spans left out for
a NaN bound. -/
structure GroupSel where
  kept : List Nat
  share : Nat
  nan : Nat
deriving DecidableEq, Repr

/-- Rank candidates by weight and keep `n` of them: those kept and the left-out sum. -/
def keepBest (n : Nat) (cs : List (Nat × Nat)) (draw : Nat) : List Nat × Nat :=
  if n = 0 then ([], sumTerms ((cs.filter entryValid).map (·.2)) draw)
  else
    let o := selectRow false 1 0 n cs draw
    (o.entries.map (·.1), o.sOut)

/-- The pages that a head group keeps. Its query rows are `qs`. DESIGN CHOICE (log 138): a page is ranked under its first position, a span under its
number; a span enters stage 1 where it holds a visible page; B_g is that of the pages for spans too. -/
def groupSelect (m : Model) (x : Sess) (r : SesRun) (layer h : Nat) (qs : List (List Val)) (draw : Nat) (s : State) : GroupSel :=
  let vis := visiblePages m x r layer
  let forced := forcedSet x vis
  let pb := vis.map fun k =>
    let p := (pageAt x k).getD { layer := 0, span := 0, slot := 0, addr := 0, chan := 0, bytes := 0 }
    (k, p.span, groupBound m qs (summaryAt m x layer p.span h p.slot s) (Config.openAt draw (freeKey [h, 0, k])))
  let bad := pb.filter fun e => f32NaN e.2.2
  let pb := pb.filter fun e => !f32NaN e.2.2
  let top := (pb.map (·.2.2)).foldl scoreMax f32NegInf
  let pw := pb.map fun e =>
    let a := firstPos x e.1
    (e.1, e.2.1, boundWeight (visibleCount m r layer a (a + pageTokens (spanCls x e.2.1))) e.2.2 top (Config.openAt draw (freeKey [h, 1, e.1])))
  let spans := (vis.map fun k => firstPos x k / 1024).eraseDups
  let elig := spans.filter fun sp => ((x.spans.drop sp).head?.map (·.sumValid)).getD false && !(forced.any fun k => firstPos x k / 1024 == sp)
  let two := decide (m.spanSel < elig.length)
  let sb := if two then elig.map fun sp =>
      (sp, groupBound m qs (summaryAt m x layer sp h (pagesPerSpan (spanCls x sp)) s) (Config.openAt draw (freeKey [h, 2, sp]))) else []
  let sw := (sb.filter fun e => !f32NaN e.2).map fun e =>
    (e.1, boundWeight (visibleCount m r layer (1024 * e.1) (1024 * e.1 + 1024)) e.2 top (Config.openAt draw (freeKey [h, 3, e.1])))
  let (spKept, spOut) := if two then keepBest m.spanSel sw (Config.openAt draw (freeKey [h, 4])) else (elig, 0)
  let cand := pw.filter fun e => !forced.contains e.1 && (!elig.contains e.2.1 || spKept.contains e.2.1)
  let (pos, pgOut) := keepBest (m.selPages - forced.length) (cand.map fun e => (firstPos x e.1, e.2.2)) (Config.openAt draw (freeKey [h, 5]))
  let kept := forced ++ (cand.filter fun e => pos.contains (firstPos x e.1)).map (·.1)
  let sSel := sumTerms ((pw.filter fun e => kept.contains e.1).map (·.2.2)) (Config.openAt draw (freeKey [h, 6]))
  let sOut := f32Add pgOut spOut
  { kept := kept, share := f32Div sOut (f32Add sSel sOut), nan := bad.length + (sb.filter fun e => f32NaN e.2).length }

/-- A share exceeds a limit in 1/65,536. -/
def shareOver (share limit : Nat) : Bool := valLt (.num false limit (-16)) (ofF32 share)
/-- A share in whole 1/65,536, saturated. -/
def shareUnits (share : Nat) : Nat :=
  match ofF32 share with
  | .num false m e => let (p, q) := pow2 (e + 16); min 0xFFFF (m * p / q)
  | _ => 0

/-! ## Poisoned reads (R217) -/

/-- Runs of bytes that the paging unit of a tile reads of a session's table for a layer: the root header and the last 16 span entries where the cache
misses, the other span entries, and the layer's row of each leaf. -/
def tableRuns (x : Sess) (root layer : Nat) (miss : Bool) : List (Nat × Nat) :=
  let n := x.spans.length
  let old := if miss then [(root, 64 + 16 * n)] else [(root + 64, 16 * (n - 16))]
  (old.filter fun e => 0 < e.2) ++ (List.range n).filterMap fun sp => (rowEntry x layer (1024 * sp)).map fun e => (e.1, 16 + 16 * pagesPerSpan (spanCls x sp))
/-- A position of a layer is affected by a poisoned read of the table: the root header, its span entry, its row's header or its page entry. -/
def tablePoison (x : Sess) (root layer j : Nat) (miss : Bool) (s : State) : Bool :=
  (miss && poisonIn root 64 s) || ((miss || decide (j / 1024 + 16 < x.spans.length)) && poisonIn (root + 64 + 16 * (j / 1024)) 16 s) ||
    match rowEntry x layer j with
    | some e => poisonIn e.1 16 s || poisonIn e.2 16 s
    | none => false
/-- A position of a page is affected by a poisoned read for one head. -/
def rowPoison (m : Model) (x : Sess) (p : Page) (h j : Nat) (s : State) : Bool :=
  (rowRuns m x p h (j - (pageSpan x p).1)).any fun e => poisonIn e.1 e.2 s

/-! ## Blocks and partials (R216) -/

/-- Running maximum, sum and output of a query row. -/
structure Stats where
  m : Nat := f32NegInf
  l : Nat := 0
  o : List Nat
deriving DecidableEq, Repr

/-- A block of positions with their scores and values. -/
def blockStep (a : Stats) (b : List (Nat × List Val)) (draw : Nat) : Stats :=
  let mn := (b.map (·.1)).foldl scoreMax a.m
  let f := if a.m = f32NegInf then 0 else f32Exp2 (Config.openAt draw 0) (f32Mul (f32Sub a.m mn) f32Log2e)
  let a := { m := mn, l := f32Mul f a.l, o := a.o.map (f32Mul f) : Stats }
  ((List.range b.length).zip b).foldl (fun a e =>
    let p := f32Exp2 (Config.openAt draw (e.1 + 1)) (f32Mul (f32Sub e.2.1 mn) f32Log2e)
    { a with l := f32Add a.l p, o := (a.o.zip e.2.2).map fun v => cellCycle v.1 [(toBf16 (ofF32 p), v.2)] }) a
/-- Two partial results combined; a term whose m is −∞ contributes 0. -/
def combine (a b : Stats) (draw : Nat) : Stats :=
  let mn := scoreMax a.m b.m
  let w := fun (x : Stats) (k : Nat) => if x.m = f32NegInf then 0 else f32Exp2 (Config.openAt draw k) (f32Mul (f32Sub x.m mn) f32Log2e)
  let add := fun x y => f32Add (f32Mul x (w a 0)) (f32Mul y (w b 1))
  { m := mn, l := add a.l b.l, o := (a.o.zip b.o).map fun v => add v.1 v.2 }
/-- An order that is open (R174): each element in turn goes to a place that a free value gives. -/
def shuffle {α : Type} (draw : Nat) (l : List α) : List α :=
  (((List.range l.length).zip l).foldl (fun (acc : List α) e => acc.insertIdx (Config.openAt draw e.1 % (acc.length + 1)) e.2) [])
/-- Blocks of up to 128 positions. -/
def blocks128 (l : List (Nat × List Val)) : List (List (Nat × List Val)) :=
  (List.range (ceilDiv l.length 128)).map fun k => (l.drop (128 * k)).take 128
/-- Partials combine two at a time in an order that is open. -/
def combineAll (draw : Nat) : Nat → List Stats → Stats → Stats
  | 0, _, z => z
  | _ + 1, [], z => z
  | _ + 1, [a], _ => a
  | n + 1, a :: b :: r, z => combineAll draw n (r.insertIdx (Config.openAt draw (2 * n) % (r.length + 1)) (combine a b (Config.openAt draw (2 * n + 1)))) z
/-- The result of a query row over the unmasked positions of its pages: `pages` gives scores and values page by page. Blocks do not cross pages; which
array takes which block, and the order of blocks and partials, are open. -/
def rowResult (d : Nat) (pages : List (List (Nat × List Val))) (draw : Nat) : List Nat :=
  let z : Stats := { o := List.replicate d 0 }
  let bs := shuffle (Config.openAt draw 0) ((((List.range pages.length).zip pages).map fun p =>
    blocks128 (shuffle (Config.openAt draw (freeKey [1, p.1])) p.2)).flatten)
  let n := bs.length
  let part := fun k => ((List.range n).zip bs).foldl (fun a b =>
    if Config.openAt draw (freeKey [2, b.1]) % (n + 1) = k then blockStep a b.2 (Config.openAt draw (freeKey [3, b.1])) else a) z
  let a := combineAll (Config.openAt draw 1) (n + 2) ((List.range (n + 1)).map part) z
  a.o.map fun v => f32Div v a.l

/-- A position of a page for one head: its position, key row and value row, and whether a NaN masks it. -/
def pagePositions (m : Model) (x : Sess) (p : Page) (h : Nat) (s : State) : List (Nat × List Val × List Val × Bool) :=
  let bs := memRead s p.addr p.bytes
  let ks := partRows m x p (2 * h) bs
  let vs := partRows m x p (2 * h + 1) bs
  (List.range ks.length).zip (ks.zip vs) |>.map fun e =>
    ((pageSpan x p).1 + e.1, e.2.1, e.2.2.map toBf16, rowNan e.2.1 || rowNan e.2.2)

/-- The score of a key: FP32 accumulation of q · k, multiplied by SCALE. -/
def scoreOf (m : Model) (q k : List Val) (free : Nat) : Nat := f32Mul (cellDot 2 (q.zip k) free) m.scale

/-- What a head group attends: the output rows by query row and head, and how many are empty. `ps` holds the positions of each attended page that are
not masked. -/
def groupRows (m : Model) (r : SesRun) (layer : Nat) (qs : List (List Val)) (ps : List (List (Nat × List Val × List Val))) (draw : Nat) :
    List (List Nat) × Nat :=
  let rows := ((List.range qs.length).zip qs).map fun q =>
    let i := r.start + q.1 / m.qPerKv
    let seen := ps.map fun p => (p.filter fun e => visibleTo m r layer i e.1).map fun e =>
      (scoreOf m q.2 e.2.1 (Config.openAt draw (freeKey [1, q.1, e.1])), e.2.2)
    if seen.all (·.isEmpty) then none else some (rowResult m.headDim seen (Config.openAt draw (freeKey [2, q.1])))
  (rows.map fun o => o.getD (List.replicate m.headDim 0), (rows.filter (·.isNone)).length)

/-! ## The operator -/

/-- The head groups that the kernel computes: head, array, place. -/
def groupsOf (p : Nat) (m : Model) (places : List Place) (s : State) : List (Nat × Nat × Place) :=
  ((List.range m.kvHeads).zip places).filterMap fun g => (runArr p g.2.1 s).map fun a => (g.1, a, g.2)

/-- Codewords that the reads of a layer find uncorrectable now: those of the session's resident pages of the layer and of its table. -/
def newPoison (x : Sess) (root layer : Nat) (miss : Bool) (bad : List Nat) (s : State) : State :=
  foundBad (tableRuns x root layer miss ++ ((x.pages.filter fun p => p.layer == layer && resident p).map fun p => (p.addr, p.bytes))) bad s

/-- One head group attends its pages: counters of masked positions and empty rows, and its output rows in the rank's SRAM. The poisoned positions it
met are returned. -/
def attendGroup (p : Nat) (m : Model) (x : Sess) (r : SesRun) (layer : Nat) (miss : Bool) (pages : List Page) (draw : Nat)
    (acc : List Nat × State) (g : Nat × Nat × Place) : List Nat × State :=
  let s := acc.2
  let t := homeTile m layer
  let root := (descOf r.idx s).ptRoot
  let qs := queryRows m r g.2.1 g.2.2.2.1 s
  let all := pages.map fun q => (q, (pagePositions m x q g.1 s).filter fun e =>
    decide ((visibleRange m r layer e.1 (e.1 + 1)).1 < (visibleRange m r layer e.1 (e.1 + 1)).2))
  let hurt := fun (q : Page) (j : Nat) => s.poison != [] && (tablePoison x root layer j miss s || rowPoison m x q g.1 j s)
  let poisoned := all.flatMap fun e => (e.2.filter fun v => hurt e.1 v.1).map (·.1)
  let nan := (all.map fun e => (e.2.filter fun v => !hurt e.1 v.1 && v.2.2.2).length).sum
  let live := all.map fun e => (e.2.filter fun v => !hurt e.1 v.1 && !v.2.2.2).map fun v => (v.1, v.2.1, v.2.2.1)
  let (rows, empty) := groupRows m r layer qs live (Config.openAt draw (freeKey [7, g.1]))
  let s := bump (KVP_NAN_MASKED.COUNT t) nan (bump (KVP_EMPTY_ROWS.COUNT t) empty s)
  ((poisoned ++ acc.1).eraseDups, kernelSram p g.2.2.1 g.2.2.2.2 (rows.flatten.flatMap (leBytes 4)) s)

/-- ATTENTION (R214 to R222) for session `k` of the plan in a layer. -/
def attention (p k layer : Nat) (places : List Place) (bad : List Nat) (fixed : List (Nat × Nat × Nat)) (s : State) : State :=
  match runOf p k s with
  | none => s
  | some r =>
    if !runsOp p 0x0002 s || r.status != 0 then s
    else
      let x := sessOf r.idx s
      let m := modelOf r.params.model s
      let t := homeTile m layer
      let miss := !rootOn t r.idx s
      let root := (descOf r.idx s).ptRoot
      let draw := s.fresh
      let s := rootRead r.idx { s with fresh := s.fresh + 1 } t
      let s := newPoison x root layer miss bad (corrections fixed s)
      let gs := groupsOf p m places s
      let vis := visiblePages m x r layer
      let sel := selective m x r layer s
      let picks := if sel then gs.map fun g => (g, groupSelect m x r layer g.1 (queryRows m r g.2.1 g.2.2.2.1 s) draw s) else []
      let fall := picks.any fun g => shareOver g.2.share (rd (KVP_COVER.COVER_MAX r.params.cls) s)
      let s := if sel then
          raise (KVP_COVER.WORST r.params.cls) ((picks.map fun g => shareUnits g.2.share).foldl max 0)
            (bump (KVP_NAN_MASKED.COUNT t) (picks.map fun g => g.2.nan).sum (bump (KVP_SELECTIVE.COUNT t) 1 s))
        else s
      let s := if fall then bump (KVP_FALLBACKS.COUNT t) 1 s else s
      let work := if sel && !fall then picks.map fun g => (g.1, g.2.kept) else gs.map fun g => (g, vis)
      let need := (work.flatMap (·.2)).eraseDups
      let deep := need.filter fun k => ((pageAt x k).map (·.deepHeld)).getD false
      let pages := fun (ks : List Nat) => (ks.filterMap (pageAt x)).filter resident
      let s := ((tableRuns x root layer miss) ++ (pages need).map fun q => (q.addr, q.bytes)).foldl (fun s e => readBad e.1 e.2 s) s
      let (lost, s) := work.foldl (fun acc w => attendGroup p m x r layer miss (pages w.2) draw acc w.1) ([], s)
      let s := deep.foldl (fun s k => queueFetch r.idx k s) (bump (KVP_POISON.COUNT t) lost.length s)
      modRun p k (fun r => { r with held := r.held || !deep.isEmpty, poisoned := r.poisoned || lost != [] }) s
/-- The places of the head groups, from those of their queries and of their outputs. -/
def headPlaces (qs : List (Nat × Nat)) (outs : List Nat) : List Place := (qs.zip outs).map fun x => (x.1.1, x.1.2, x.2)
def execAttention (part k layer : Nat) (qs : List (Nat × Nat)) (outs bad : List Nat) (fixed : List (Nat × Nat × Nat)) (s : State) :
    Host.Outcome State Fault Refusal := whenServing s (attention part k layer (headPlaces qs outs) bad fixed)

end Sys2Proof.Machine
end

