-- ==== Sys2Proof/Machine/Ephemeris.lean ====
section
/-!
DEFINITION. Sys2Proof/Machine/Ephemeris.lean: ephemeris tables (R78 to R86): submission, dispatch in its two passes, the actions, waits, and
the table controls.
-/
namespace Sys2Proof.Machine

/-! ## Tables -/

def ephOf (t : Nat) (s : State) : EphTable := sgetD s.eph t {}
/-- Put a table, and show it (R89). -/
def putEph (t : Nat) (x : EphTable) (s : State) : State :=
  wr (EPH_TABLE_STATUS.HEAD t) x.head (wr (EPH_TABLE_STATUS.PENDING t) x.entries.length (wr (EPH_TABLE_STATUS.BLOCKED t) (b2n x.blocked.isSome)
    (wr (EPH_TABLE_NEXT.TICK t) ((x.entries.head?.map (·.tick)).getD ones64) { s with eph := sset s.eph t x })))
def ringSize (t : Nat) (s : State) : Nat := 2 ^ rd (EPH_TABLE_CTRL.SIZE_LOG2 t) s
/-- The ring index after the last entry. -/
def ringTail (t : Nat) (s : State) : Nat := ((ephOf t s).head + (ephOf t s).entries.length) % ringSize t s
/-- Take the head entry off; the wait it may be ends with it. -/
def popEph (t : Nat) (s : State) : State :=
  let x := ephOf t s
  putEph t { entries := x.entries.tail, head := (x.head + 1) % ringSize t s } s
/-- Discard every undispatched entry, a blocked wait included (R86). -/
def flushEph (t : Nat) (s : State) : State := putEph t { head := ringTail t s } s
/-- A table dispatches: sequencer and table enabled, neither paused nor blocked (R82, R86). -/
def ephRuns (t : Nat) (s : State) : Bool :=
  isSet EPH_CTRL.ENABLE s && isSet (EPH_TABLE_CTRL.ENABLE t) s && !isSet (EPH_TABLE_CTRL.PAUSE t) s && (ephOf t s).blocked.isNone

/-! ## Actions (R80) -/

def actNop (table idx : Nat) (e : EphEntry) (s : State) : State := actionDone table idx e s
/-- FENCE_SIGNAL: as the command does (R427). -/
def actSignal (table idx : Nat) (e : EphEntry) (s : State) : State :=
  actionDone table idx e (signalFence e.target (e.opB % 2) e.opA s)
/-- FENCE_WAIT (R84): done where the fence has come so far; else the table blocks with the entry at its head. -/
def actWait (table idx : Nat) (e : EphEntry) (s : State) : State :=
  if e.opA ≤ fenceVal e.target s then actionDone table idx e s
  else
    let x := ephOf table s
    let lim := some (if e.opB = 0 then 0 else s.cad.edges + e.opB)
    if x.entries.head? = some e ∧ x.head = idx then putEph table { x with blocked := lim } s
    else putEph table { entries := e :: x.entries, head := idx, blocked := lim } s
/-- The action of an entry other than a FENCE_WAIT. -/
def ephAct (table idx : Nat) (e : EphEntry) (s : State) : State :=
  match e.action with
  | 0 => actNop table idx e s
  | 1 => actLaunch table idx e s
  | 2 => actTransit table idx e s
  | 3 => actSignal table idx e s
  | 5 => actBarrier table idx e s
  | 6 => actSwitch table idx e s
  | 7 => actApply table idx e s
  | _ => s

/-! ## Dispatch (R82, R83) -/

/-- Slippage of an entry at its dispatch (R83). -/
def countSlip (e : EphEntry) (s : State) : State :=
  let d := now s - e.tick
  if d = 0 then s else raise EPH_SLIP.MAX d (bump EPH_SLIP.ENTRIES 1 (bump EPH_SLIP_TICKS.SUM d s))
/-- Dispatch the head entry of a table. -/
def dispatchHead (t : Nat) (s : State) : State :=
  let x := ephOf t s
  match x.entries.head? with
  | none => s
  | some e =>
    let s := countSlip e s
    if poisonIn (rd (EPH_TABLE_BASE.ADDR t) s * 4096 + 32 * (x.head % ringSize t s)) 32 s then
      actionFail t x.head e sDropped (popEph t (readBad (rd (EPH_TABLE_BASE.ADDR t) s * 4096 + 32 * (x.head % ringSize t s)) 32 s))
    else if e.action = 4 ∧ fenceVal e.target s < e.opA then actWait t x.head e s
    else if e.action = 4 then actionDone t x.head e (popEph t s)
    else ephAct t x.head e (popEph t s)
/-- The head entry of a table is due and may dispatch; in the first pass only an APPLY_GENERATION. -/
def headDue (first : Bool) (t : Nat) (s : State) : Bool :=
  ephRuns t s && ((ephOf t s).entries.head?).any fun e => decide (e.tick ≤ now s) && (!first || e.action == 7)
/-- Dispatch a table's due heads in ring order. -/
def dispatchTable (first : Bool) (t : Nat) : Nat → State → State
  | 0, s => s
  | n + 1, s => if headDue first t s then dispatchTable first t n (dispatchHead t s) else s
def dispatchAll (first : Bool) (ts : List Nat) (s : State) : State :=
  ts.foldl (fun s t => dispatchTable first t (ephOf t s).entries.length s) s
/-- EPH_DISPATCH: heads that are APPLY_GENERATION first, then every other due entry by class, table and ring order. -/
def ephDispatch (s : State) : State :=
  let s := dispatchAll true (List.range 64) s
  (List.range 8).foldl (fun s c => dispatchAll false ((List.range 64).filter fun t => rd (EPH_TABLE_CTRL.CLASS t) s == c) s) s

/-- Rows that carry out one action. -/
def execNopEntry (table idx : Nat) (e : EphEntry) (s : State) : Host.Outcome State Fault Refusal := whenServing s (actNop table idx e)
def execLaunchStep (table idx : Nat) (e : EphEntry) (s : State) : Host.Outcome State Fault Refusal := whenServing s (actLaunch table idx e)
def execStartTransit (table idx : Nat) (e : EphEntry) (s : State) : Host.Outcome State Fault Refusal := whenServing s (actTransit table idx e)
def execEphFenceSignal (table idx : Nat) (e : EphEntry) (s : State) : Host.Outcome State Fault Refusal := whenServing s (actSignal table idx e)
def execEphFenceWait (table idx : Nat) (e : EphEntry) (s : State) : Host.Outcome State Fault Refusal := whenServing s (actWait table idx e)
def execCheckpointBarrier (table idx : Nat) (e : EphEntry) (s : State) : Host.Outcome State Fault Refusal := whenServing s (actBarrier table idx e)
def execMigrationSwitch (table idx : Nat) (e : EphEntry) (s : State) : Host.Outcome State Fault Refusal := whenServing s (actSwitch table idx e)
def execApplyGeneration (table idx : Nat) (e : EphEntry) (s : State) : Host.Outcome State Fault Refusal := whenServing s (actApply table idx e)

/-! ## Waits (R84) -/

/-- EPH_TABLE_UNBLOCK: the fence of a blocked head has been reached. -/
def tableUnblock (t : Nat) (s : State) : State :=
  let x := ephOf t s
  match x.blocked, x.entries.head? with
  | some _, some e => if e.opA ≤ fenceVal e.target s then ephDispatch (actionDone t x.head e (popEph t s)) else s
  | _, _ => s
def execEphTableUnblock (table : Nat) (s : State) : Host.Outcome State Fault Refusal := whenServing s (tableUnblock table)
/-- EPH_WAIT_TIMEOUT: a wait's tick edges have passed before the fence came so far. -/
def waitTimeout (t : Nat) (s : State) : State :=
  let x := ephOf t s
  match x.blocked, x.entries.head? with
  | some lim, some e =>
    if 0 < lim ∧ lim ≤ s.cad.edges ∧ fenceVal e.target s < e.opA then
      ephDispatch (postPf 0x0004 0x03 sTimeout e.tag (t * 2 ^ 48 + x.head) (bump EPH_EVENTS.WAIT_TIMEOUTS 1 (popEph t s)))
    else s
  | _, _ => s
def execEphWaitTimeout (table : Nat) (s : State) : Host.Outcome State Fault Refusal := whenServing s (waitTimeout table)

/-! ## Controls (R86, R88) -/

def ephEnable (on : Bool) (s : State) : State := ephDispatch (wr EPH_CTRL.ENABLE (b2n on) s)
def execEphEnable (on : Bool) (s : State) : Host.Outcome State Fault Refusal := whenServing s (ephEnable on)
/-- A table may be enabled: size, alignment, and a window of a stack of a present tile (R86, R93). -/
def ephPlaceOk (t : Nat) (s : State) : Bool :=
  let l := rd (EPH_TABLE_CTRL.SIZE_LOG2 t) s
  let a := rd (EPH_TABLE_BASE.ADDR t) s * 4096
  decide (8 ≤ l) && decide (l ≤ 16) && a % (32 * 2 ^ l) == 0 && decide (a < bondedEnd) && decide (0x700_0000 ≤ stackOff a) &&
    decide (stackOff a < 0x800_0000) && tilePresent (tileOf (stackOf a)) s
/-- Set or clear a table's ENABLE: setting starts it empty at ring index 0, clearing discards its contents. -/
def tableEnable (t : Nat) (on : Bool) (s : State) : State :=
  if 64 ≤ t then s
  else if on then
    if isSet (EPH_TABLE_CTRL.ENABLE t) s ∨ ¬ ephPlaceOk t s then s else putEph t {} (wr (EPH_TABLE_CTRL.ENABLE t) 1 s)
  else if isSet (EPH_TABLE_CTRL.ENABLE t) s then wr (EPH_TABLE_CTRL.ENABLE t) 0 (flushEph t s) else s
def execEphTableEnable (table : Nat) (on : Bool) (s : State) : Host.Outcome State Fault Refusal := whenServing s (tableEnable table on)
def tablePause (t : Nat) (on : Bool) (s : State) : State :=
  if 64 ≤ t then s else ephDispatch (wr (EPH_TABLE_CTRL.PAUSE t) (b2n on) s)
def execEphTablePause (table : Nat) (on : Bool) (s : State) : Host.Outcome State Fault Refusal := whenServing s (tablePause table on)
def tableFlush (t : Nat) (s : State) : State := if 64 ≤ t then s else flushEph t s
def execEphFlush (table : Nat) (s : State) : Host.Outcome State Fault Refusal := whenServing s (tableFlush table)

/-! ## EPHEMERIS_SUBMIT (R70, R81) -/

/-- A valid entry: a defined action, a fence that exists, and zeros in the bytes that R79 and R80 reserve. -/
def ephEntryOk (e : EphEntry) : Bool :=
  decide (e.flags ≤ 1) &&
    match e.action with
    | 0 => e.target == 0 && e.opA == 0 && e.opB == 0
    | 1 => e.opB == 0
    | 2 => e.target == 0 && e.opB == 0
    | 3 => decide (e.target < fences) && decide (e.opB ≤ 1)
    | 4 => decide (e.target < fences)
    | 5 => e.target == 0 && e.opB == 0
    | 6 => e.target == 0 && e.opB == 0
    | 7 => e.opB == 0
    | _ => false
/-- The index of the first entry of a run that fails; `prev` is the tick before it, if any. -/
def badEntry : Option Nat → Nat → List EphEntry → Option Nat
  | _, _, [] => none
  | prev, k, e :: r => if ¬ ephEntryOk e ∨ prev.any (fun p => decide (e.tick < p)) then some k else badEntry (some e.tick) (k + 1) r
/-- Append a run to a table and copy it into its ring. -/
def ephAppend (t : Nat) (es : List EphEntry) (bs : List Byte) (s : State) : State :=
  let x := ephOf t s
  let tail := ringTail t s
  let base := rd (EPH_TABLE_BASE.ADDR t) s * 4096
  let s := ((List.range es.length).zip (pieces 32 es.length bs)).foldl (fun s k => memWrite (base + 32 * ((tail + k.1) % ringSize t s)) k.2 s) s
  let s := bump EPH_EVENTS.LATE_SUBMIT (es.filter fun e => decide (e.tick < now s)).length s
  putEph t { x with entries := x.entries ++ es } s
/-- EPHEMERIS_SUBMIT. -/
def ephSubmit (h : Hdr) (t count : Nat) (buf : Buf) (s : State) : State :=
  let no := fun st r s => complete h 0x40 st 0 0 r s
  if intakeFails h 0x40 false s ∨ count = 0 ∨ 65536 < count ∨ 64 ≤ t then no sRejected ones64 s
  else match bufRead h buf (32 * count) s with
  | none => no sRejected ones64 (bufLost h buf (32 * count) s)
  | some bs =>
    let x := ephOf t s
    let es := (pieces 32 count bs).map entryOf
    if ¬ isSet (EPH_TABLE_CTRL.ENABLE t) s then no sRejected ones64 s
    else if ringSize t s < x.entries.length + count then no sCapacity ones64 s
    else match badEntry (x.entries.getLast?.map (·.tick)) 0 es with
    | some k => no sRejected k s
    | none =>
      let first := ringTail t s
      let st := if cadenceLocked s then sOk else sCadenceLost
      ephDispatch (complete h 0x40 st 0 first ones64 (ephAppend t es bs s))
def execEphemerisSubmit (h : Hdr) (table count : Nat) (buf : Buf) (s : State) : Host.Outcome State Fault Refusal :=
  hostCmd h 0x40 s (ephSubmit h table count buf)

end Sys2Proof.Machine
end

