-- ==== Sys2Proof/Machine/Peer.lean ====
section
/-!
DEFINITION. Sys2Proof/Machine/Peer.lean: what modules send each other beside the directory: incoming migrations, forwarded commands,
answers, drop notices, and the data of COLLECTIVE kernels (R152 to R157, R188, R301, R307, R308, R371, R374, R504).
-/
namespace Sys2Proof.Machine

/-! ## Incoming migrations (R152 to R154) -/

def showIncoming (s : State) : State := wr TRN_MIG_STATUS.IN s.net.incoming.length s
def putIncoming (n : Incoming) (s : State) : State :=
  { s with net.incoming := s.net.incoming.map fun x => if x.src = n.src ∧ x.tag = n.tag then n else x }
def answerXfer (src tag status handle : Nat) (s : State) : State := sendMsg 0x13 src [tag, status, handle] [] s

/-- The set-up of a session (R152 condition 4): a descriptor slot and the space it needs are reserved, and the new handle goes back. -/
def setUpSession (src tag : Nat) (d : Desc) (parked : Bool) (bonded deep : Nat) (s : State) : State :=
  if 256 ≤ s.net.incoming.length then answerXfer src tag sBusy 0 s
  else match (freeHead s).bind fun i => (takeKeyExt i s).map fun s => (i, s) with
  | none => answerXfer src tag sCapacity 0 s
  | some (i, s) =>
    let h := mkHandle (selfId s) i (hGen (descOf i s).handle)
    let enter := fun (bytes : Nat) (ks : List Nat) (s : State) =>
      let n : Incoming := { src := src, tag := tag, idx := i, handle := h, parked := parked, bytes := bytes, chunks := ks, d := d }
      answerXfer src tag sOk h (showIncoming { popFree s with net.incoming := s.net.incoming ++ [n] })
    if parked then match allocDeep deep (parkBase s) deepChunks s with
      | none => answerXfer src tag sCapacity 0 s
      | some (ks, s) => enter 0 ks s
    else if canSupply d.cls bonded s then enter bonded [] (charge d.cls bonded s)
    else answerXfer src tag sCapacity 0 s
/-- The set-up of an embedding block: memory for it in a channel of its table's home tile. The block is no allocation of the device's own (R571): it is not
counted there. -/
def setUpBlock (src tag table part block bytes : Nat) (s : State) : State :=
  if 256 ≤ s.net.incoming.length then answerXfer src tag sBusy 0 s
  else match sget s.embTabs table with
  | none => answerXfer src tag sNotFound 0 s
  | some t => match (leastFilled ((tileChans t.home).filter fun g => chProtectedOk g s) (fun g => (placeIn g bytes 64 s).isSome) s).bind fun g => placeIn g bytes 64 s with
    | none => answerXfer src tag sCapacity 0 s
    | some a =>
      let n : Incoming := { src := src, tag := tag, idx := slots + 1 + tag, handle := 0, bytes := bytes, d := { handle := 0 }, block := some (table, part, block), blockAddr := a }
      answerXfer src tag sOk 0 (showIncoming { s with fresh := s.fresh + 1, net.incoming := s.net.incoming ++ [n] })

/-- Let go of what an incoming migration holds (R157). -/
def dropIncoming (n : Incoming) (s : State) : State :=
  let s := showIncoming { s with net.incoming := s.net.incoming.erase n }
  match n.block with
  | some _ => s
  | none =>
    if n.ready then freeSession n.idx s
    else freeSlot n.idx (freeDeep n.chunks (if n.parked then s else refund n.d.cls n.bytes s))

/-- The bytes received of a migration, chunk after chunk. -/
def payloadOf (n : Incoming) : List Byte := (n.data.map (·.2)).flatten
/-- Cut pages out of a payload by their offsets and sizes. -/
def cutPages (bs : List Byte) : List Nat → List Page → List (List Byte)
  | o :: os, p :: ps => ((bs.drop o).take p.bytes) :: cutPages bs os ps
  | _, _ => []
/-- Rows 2 and 3 of R154: the log applied, the descriptor written in the source's state, the session in its space, and the leader asked
to move the entry. `none` where its space cannot be had. -/
def landSession (n : Incoming) (x : Sess) (s : State) : Option State :=
  let d := { (n.log.getLast?.getD n.d) with handle := n.handle, migrated := false, keySlot := n.idx, transitTag := 0xFFFF_FFFF }
  let im := x.image.map fun im => { im with pageData := cutPages (payloadOf n) im.pageOffs x.pages, chunks := n.chunks, tier := 0 }
  let key := Config.random s.fresh
  let s := putSess n.idx { x with image := im, allocs := [], dirKey := some n.d.handle, mirrored := false, resvBytes := 0 } { s with fresh := s.fresh + 1 }
  let s := giveKey n.idx (x.key.getD key) true (putDesc n.idx { d with parkAddr := if n.parked then (im.map imageAddr).getD 0 else 0 } s)
  if n.parked then some s
  else (placeSession n.idx false (modSess n.idx (fun y => { y with pages := y.pages.map fun p => { p with deepHeld := true } }) (refund n.d.cls n.bytes s))).map fun s =>
    modSess n.idx (fun y => { y with image := none }) (im.elim s fun im => landAll n.idx im s)
/-- A block's rows and map entry at the destination, with the logged updates replayed (R308). -/
def landBlock (n : Incoming) (b : Nat × Nat × Nat) (s : State) : State :=
  match sget s.embTabs b.1 with
  | none => s
  | some t =>
    let s := memWrite n.blockAddr ((payloadOf n).take n.bytes) s
    let s := memWrite (mapEntry t b.2.1 b.2.2) (leBytes 8 (n.blockAddr + 1)) s
    bump (EMB_TABLE.LOCAL_BLOCKS b.1) 1 (n.ulog.foldl (fun s u => applyItem b.1 u.1 t 1 s u.2) s)
/-- The directory's request of a switch (R154 row 3, R385). -/
def askSwitch (n : Incoming) (s : State) : State :=
  let e : DirEntry := match n.block with
    | some b => { type := 3, keyA := b.1 * 256 + b.2.1, keyB := b.2.2, holder := selfId s, adopted := false, version := 0, value := 0, commit := now s, expire := 0 }
    | none => { type := 1, keyA := n.d.handle, keyB := 0, holder := selfId s, adopted := false, version := 0, value := n.handle, commit := now s, expire := 0 }
  dirRequest .other (.switch n.tag) e s
/-- The switch message (R154): all of the log has come. -/
def landIncoming (n : Incoming) (count : Nat) (s : State) : State :=
  if n.ready ∨ n.log.length + n.ulog.length ≠ count then s
  else match n.block, n.x with
  | some _, _ => askSwitch n (putIncoming { n with ready := true } s)
  | none, some x => match landSession n x s with
    | some s => askSwitch n (putIncoming { n with ready := true } s)
    | none => dropIncoming n s
  | none, none => s
/-- XFER_CTRL: the messages of a migration, in flow order. -/
def xferCtrl (src tag : Nat) (b : XferBody) (s : State) : State :=
  match b with
  | .setUp d parked bonded deep => if hasKey src s then setUpSession src tag d parked bonded deep s else answerXfer src tag sAuthFail 0 s
  | .block t p k n => setUpBlock src tag t p k n s
  | b => match s.net.incoming.find? fun n => n.src == src && n.tag == tag with
    | none => s
    | some n => match b with
      | .data x => putIncoming { n with x := some x } s
      | .log ds => putIncoming { n with log := n.log ++ ds } s
      | .updates us => putIncoming { n with ulog := n.ulog ++ us } s
      | .switch k => landIncoming n k s
      | .abandon => dropIncoming n s
      | _ => s
def execXferCtrl (src tag : Nat) (body : XferBody) (s : State) : Host.Outcome State Fault Refusal := whenServing s (xferCtrl src tag body)

/-- A parked session as an image that holds it (R136, R475): its descriptor and what it held, with the image as its only copy. -/
def revertTo (i tier : Nat) (im : Image) (s : State) : State :=
  let d := descOf i s
  let x := sessOf i s
  match im.saved with
  | none => s
  | some sn =>
    let s := putSess i { x with pendTok := sn.pendTok, resvTokens := sn.resvTokens, spanCap := sn.spanCap, spans := sn.spans, pages := sn.pages, pen := sn.pen,
                                penDropped := sn.penDropped, stops := sn.stops, gstack := sn.gstack, mask := none, drawn := none, allocs := [], resvBytes := 0,
                                image := some im, heldSteps := 0, fill := false, back := none } s
    putDesc i { sn.d with handle := d.handle, st := if tier = 0 then stDeep else stHost, prev := sn.d.st, ptRoot := 0, parkAddr := imageAddr im, kvFormat := im.kvFormat,
                          kvBytes := im.kvBytes, keySlot := d.keySlot, mirrorModule := d.mirrorModule, penTable := 0, stopBlock := 0, grammarStack := 0,
                          transitTag := 0xFFFF_FFFF } s
/-- Event 0x001C (R492): a session has gone back to an older image. -/
def revertEv (i was tick : Nat) (s : State) : State := postSes i 0x001C 0x15 sPartial was tick s
/-- A chunk of a mirror that comes back (R475): with the last one the image takes its place in the parking pool, or the session is lost. -/
def mirrorBack (i total : Nat) (d : Desc) (x : Sess) (s : State) : State :=
  let got := ((sessOf i s).back.getD 0) + 1
  if got < total then modSess i (fun y => { y with back := some got }) s
  else
    let was := (descOf i s).prev
    match x.image, allocDeep total (parkBase s) deepChunks s with
    | some im, some (ks, s) =>
      let snap : Snap := im.saved.getD { d := d, pendTok := x.pendTok, resvTokens := x.resvTokens, spanCap := x.spanCap, spans := x.spans, pages := x.pages, pen := x.pen,
                                         penDropped := x.penDropped, stops := x.stops, gstack := x.gstack }
      releaseHeld i (revertEv i was im.writeTick (revertTo i 0 { im with tier := 0, chunks := ks, saved := some snap } s))
    | _, _ => releaseHeld i (backFails i s)
/-- XFER_CHUNK: a chunk of a migration or of a mirror. -/
def xferChunk (src : Nat) (c : ChunkBody) (s : State) : State :=
  match c with
  | .mig tag i bs => match s.net.incoming.find? fun n => n.src == src && n.tag == tag with
    | some n => putIncoming { n with data := sset n.data i bs } s
    | none => s
  | .mirror handle nonce total key d x =>
    let i := hIndex handle
    if !hasKey src s then s
    else if (descOf i s).handle = handle ∧ (descOf i s).mirrorModule = src ∧ (sessOf i s).back.isSome then mirrorBack i total d x s
    else mirrorChunk src handle nonce total key d x s
  | .ckpt id tick jobKey nonce total ranges data => ckptTake src id tick jobKey nonce total ranges data s
def execXferChunk (src : Nat) (chunk : ChunkBody) (s : State) : Host.Outcome State Fault Refusal := whenServing s (xferChunk src chunk)

/-! ## Answers of the directory -/

/-- The acknowledgement of a SWITCH (R154 row 4): at the source it is the switch tick, at the destination the session is its own; a
refusal ends the incoming migration. -/
def switchAnswer (tag status : Nat) (s : State) : State :=
  let s := match s.migs.find? fun m => m.tag == tag && m.phase == 4 with
    | some m => if status = sOk then (match m.block with
        | some b => blockCommit m b s
        | none => switchCommit m s) else s
    | none => s
  match s.net.incoming.find? fun n => n.tag == tag && n.ready with
  | some n =>
    if status = sOk then
      let s := showIncoming { s with net.incoming := s.net.incoming.erase n }
      match n.block with
      | some b => landBlock n b s
      | none => s
    else dropIncoming n s
  | none => s
/-- DIR_RESP: an answer to request `id`; one to a SWITCH carries its `tag`. -/
def execDirResp (src id status : Nat) (tag : Option Nat) (es : List DirEntry) (s : State) : Host.Outcome State Fault Refusal :=
  whenServing s fun s => if src = selfId s then s else
    match tag with
    | some t => switchAnswer t status (dirAnswer id status es s)
    | none => dirAnswer id status es s

/-! ## Forwarded commands (R156) -/

/-- The command a FWD_CMD carries. A MIGRATE to a further peer is judged by that peer's answers, which are open (`k` is their draw); a RESUME's doorbell
rang elsewhere, so it carries no bound. -/
def fwdCmd (h : Hdr) (op : Nat) (a : List Nat) (data : List Byte) (k : Nat) : Option HeldCmd :=
  let n := fun k => a.getD k 0
  let buf : Buf := { addr := 0, data := some data }
  match op with
  | 0x02 => some (.destroy h)
  | 0x03 => some (.appendText h (n 0) buf)
  | 0x04 => some (.appendTokens h (n 0) buf)
  | 0x05 => some (.generate h)
  | 0x06 => some (.toolWait h (n 0) (n 1))
  | 0x07 => some (.resume h 0 0 false)
  | 0x08 => some (.park h (n 0) (n 1) (n 2))
  | 0x09 => some (if n 0 = 3 then .migratePeer h (n 1) (Config.openNat k % 8)
      (if bitOf (Config.openNat k) 3 then some (mkHandle (n 1) (Config.openNat (k + 1) % slots) (Config.openNat (k + 1) % 0x3FFF_FFFF + 1)) else none)
    else .migrate h (n 0) (n 1) (n 2))
  | 0x0A => some (.cancel h)
  | 0x0B => some (.setSampling h { temperature := n 0, topP := n 1, minP := n 2, repPenalty := n 3, presencePenalty := n 4, frequencyPenalty := n 5,
                                   topK := n 6, decMode := n 7, maxTokens := n 8, seed := n 9 } (n 10 == 1) (n 11 == 1))
  | 0x0C => some (.setGrammar h (n 0))
  | 0x0D => some (.setStops h buf (n 0) (n 1))
  | _ => none
/-- FWD_CMD: executed here for the function it came from; its status goes back to the source. -/
def fwdRun (src id fn op handle : Nat) (args : List Nat) (data : List Byte) (s : State) : State :=
  let h : Hdr := { fn := fn, qp := 64 + src, cmdId := id, barrier := false, fenceDone := false, bondedBuf := false, cplFault := false, fence := 0, handle := handle }
  match fwdCmd h op args data s.fresh with
  | some c => runHeldCmd c { s with fresh := s.fresh + 2 }
  | none => sendMsg 0x13 src [id, sRejected] [] s
def execFwdCmd (src id fn op handle : Nat) (args : List Nat) (data : List Byte) (s : State) : Host.Outcome State Fault Refusal :=
  whenServing s (fwdRun src id fn op handle args data)

/-- A forwarded command's answer has come back (R156): its completion carries the new handle. -/
def fwdDone (fn qp cmdId status r0 r1 : Nat) (s : State) : State :=
  match s.fwdWait.find? fun w => w.1.fn == fn && w.1.qp == qp && w.1.cmdId == cmdId with
  | none => s
  | some w => completeFull w.1 w.2.1 status w.2.2 r0 r1 true { s with fwdWait := s.fwdWait.erase w }

/-- RESPONSE: the answers of XFER_CTRL, FWD_CMD, EMB_READ and EMB_UPDATE. A refusal of a migration's messages ends it as a lost
destination does. -/
def response (src id status : Nat) (b : RespBody) (s : State) : State :=
  match b with
  | .xfer => if status = sOk then s else migrationAbandon id true s
  | .fwd fn qp cmdId r0 r1 => fwdDone fn qp cmdId status r0 r1 s
  | .rows rs => lookAnswer src id (if status = sOk then rs else []) s
  | .upd => updateAnswer src id (status == sOk) s
def execResponseMsg (src id status : Nat) (body : RespBody) (s : State) : Host.Outcome State Fault Refusal := whenServing s (response src id status body)

/-- DROP_NOTICE (R374): `ref` is the session slot of a mirror's chunk, or the tag of a migration's. -/
def dropNotice (src id type ref : Nat) (mirror : Bool) (s : State) : State :=
  let s := bump FAB_DROP_NOTICES.COUNT 1 s
  if type = 0x10 then
    let (n, e) := sgetD s.net.dropTries id (0, 0)
    if n < 8 then sendMsg 0x10 src [id, ref] [] { s with net.dropTries := sset s.net.dropTries id (n + 1, s.cad.edges) }
    else
      let s := { s with net.dropTries := sdel s.net.dropTries id }
      if mirror then mirrorRun ref false s else if e ≤ s.cad.edges then migrationAbandon ref true s else s
  else if type = 0x14 then lookAnswer src id [] s
  else if type = 0x15 then match s.embJobs.find? fun j => j.msg == id && j.remote.any (·.1 == src) with
    | some j => sendMsg 0x15 src [id, j.tick] [] s
    | none => s
  else if type = 0x12 then match s.fwdWait.find? fun w => w.1.cmdId == id with
    | some w => fwdDone w.1.fn w.1.qp w.1.cmdId sTimeout 0 0 s
    | none => s
  else s
def execDropNotice (src id type ref : Nat) (mirror : Bool) (s : State) : Host.Outcome State Fault Refusal := whenServing s (dropNotice src id type ref mirror)

/-! ## COLLECTIVE (R188) -/

/-- One transfer: the bytes copied, or FP32 elements summed within the bound of R174. -/
def collSram (p a off : Nat) (bs : List Byte) (s : State) : State := rankSram p ((curRanks p s).findIdx (· == a)) a off bs s
def collMove (p : Nat) (s : State) (m : CollMove) : State :=
  if m.reduce then
    let cols := (List.range (m.len / 4)).map fun k => boundedSum (m.srcs.map fun a => ofF32 (leNat (sramRead s a.1 (a.2 + 4 * k) 4))) (Config.openF32 (s.fresh + k))
    collSram p m.array m.off ((cols.map (leBytes 4)).flatten) { s with fresh := s.fresh + m.len / 4 }
  else match m.srcs.head? with
    | some a => collSram p m.array m.off (sramRead s a.1 a.2 m.len) s
    | none => s
/-- Take the oldest data a module has sent into an array's SRAM. -/
def collTake (p : Nat) (s : State) (r : Nat × Nat × Nat) : State :=
  match s.net.collIn.find? (·.1 == r.1) with
  | some m => collSram p r.2.1 r.2.2 m.2 { s with net.collIn := s.net.collIn.erase m }
  | none => s
/-- COLLECTIVE: the kernel a partition runs takes what came from other modules, moves and reduces between its arrays, and sends. -/
def collective (p : Nat) (recvs : List (Nat × Nat × Nat)) (moves : List CollMove) (sends : List (Nat × List Byte)) (s : State) : State :=
  if !runsOp p 0x000D s ∨ !(recvs.all fun r => (curRanks p s).contains r.2.1) ∨ !(moves.all fun m => (curRanks p s).contains m.array) then s
  else sends.foldl (fun s m => sendMsg 0x16 m.1 [p] m.2 s) (moves.foldl (collMove p) (recvs.foldl (collTake p) s))
def execCollective (part : Nat) (recvs : List (Nat × Nat × Nat)) (moves : List CollMove) (sends : List (Nat × List Byte)) (s : State) :
    Host.Outcome State Fault Refusal := whenServing s (collective part recvs moves sends)
/-- COLLECTIVE_MSG: kernel data of another module, held until a kernel takes it. -/
def execCollectiveMsg (src : Nat) (data : List Byte) (s : State) : Host.Outcome State Fault Refusal :=
  whenServing s fun s => { s with net.collIn := s.net.collIn ++ [(src, data)] }

end Sys2Proof.Machine
end

