-- ==== Sys2Proof/Machine/Reset.lean ====
section
/-!
DEFINITION. Sys2Proof/Machine/Reset.lean: what a reset leaves (R51, R77, R106, R158, R537, R553, R569).
-/
namespace Sys2Proof.Machine

/-- What every reset leaves: the flash (R459, R460, R498), the pins, what the world has been sent, and the commands that wait. -/
def freshStart (s : State) : State :=
  { (State.reset) with
    pending := s.pending, fresh := s.fresh, boots := s.boots + 1, pow := s.pow, cpl := s.cpl, recOut := s.recOut, evOut := s.evOut, msix := s.msix,
    hostOut := s.hostOut, fabOut := s.fabOut, net.wire := s.net.wire,
    adm := { bootA := s.adm.bootA, bootB := s.adm.bootB, fwA := s.adm.fwA, fwB := s.adm.fwB, fwRun := s.adm.fwRun, ownA := s.adm.ownA,
             ownB := s.adm.ownB, mgtOut := s.adm.mgtOut } }

/-- A reset with power held (R553): the hang-dump area with its chunk-map entries (R106, R123) and the trip and brownout latches stay; start-up goes on from
row 2. A dump that was being written has no header yet: its slot is free. -/
def heldReset (cause : Nat) (s : State) : State :=
  let kept := s.dumps.filter fun p => p.2.complete
  let t := { freshStart s with dumps := kept.map (fun p => (p.1, { p.2 with beforeReset := true })), dumpSeq := s.dumpSeq,
                               chunkMap := s.chunkMap.filter (fun p => decide (p.1 < 0x1_0000)),
                               pow := { s.pow with critical := [] } }
  let t := wr DBG_DUMP_STATUS.HELD kept.length (wr DBG_DUMP_STATUS.LATEST (rd DBG_DUMP_STATUS.LATEST s) t)
  wr HUB_BOOT_STATUS.STAGE 2 (wr HUB_BOOT_STATUS.LAST_RESET cause t)

/-- The main rails are off (R77, R553): nothing is kept but the flash and the standby domain. -/
def railsOff (s : State) : State := { freshStart s with pow := { s.pow with rails := false, critical := [], hubFaultPending := false } }
/-- A cold start (row 1 of R554): LAST_RESET tells a trip or a brownout that was latched. -/
def coldStart (s : State) : State :=
  let cause := if s.pow.tripLatch then 5 else if s.pow.brownoutLatch then 6 else 0
  wr HUB_BOOT_STATUS.STAGE 1 (wr HUB_BOOT_STATUS.LAST_RESET cause
    { freshStart s with pow := { s.pow with rails := true, tripLatch := false, brownoutLatch := false, critical := [] } })

/-- A fault that the hub cannot contain (R24, R466, R553): ALERT_N, and a reset with power held. -/
def hubFault (s : State) : State := heldReset 4 { s with pow := { s.pow with hubFaultPending := true } }

end Sys2Proof.Machine
end

