-- ==== Sys2Proof/Machine/Tiles.lean ====
section
/-!
DEFINITION. Sys2Proof/Machine/Tiles.lean: a tile leaves service, planned or by a fault, and returns (R475 to R477).
-/
namespace Sys2Proof.Machine

/-! ## What lies on a tile -/

def chanOnTile (t g : Nat) : Bool := g / 192 == t
/-- A session has resident pages, tables or metadata on a tile. -/
def onTile (t i : Nat) (s : State) : Bool :=
  let x := sessOf i s
  (x.pages.any fun p => resident p && chanOnTile t p.chan) || x.allocs.any fun a => chanOnTile t a.chan
def sessOnTile (t : Nat) (s : State) : List Nat := (s.sess.map (·.1)).filter fun i => onTile t i s
/-- Committed partitions with arrays on a tile. -/
def partsOnTile (t : Nat) (s : State) : List Nat := (s.parts.filter fun p => (p.2.ranks ++ curRanks p.1 s).any fun a => a / 512 == t).map (·.1)

/-- A session's state is lost: its transits end, and a destruction that waited for one takes place. -/
def loseNow (i : Nat) (s : State) : State :=
  let w := (sessOf i s).destroyWait
  let s := endTransits i sDropped (abandonMig i sAborted true s)
  match w with
  | some h => destroyNow h i s
  | none => releaseHeld i (loseSession i s)

/-! ## Rows 1 and 2 (R475) -/

/-- Row 1: the tile is draining, its partitions are DEGRADED, and RECONFIG sets where one serves class 0. -/
def drainBegin (t : Nat) (s : State) : State :=
  let s := setDomain t false true none s
  c0Refresh ((partsOnTile t s).foldl (fun s p =>
    wr (ARY_PART_STATUS.DEGRADED p) 1 (if isSet (ARY_PART_STATUS.CLASS0 p) s then modPart p (fun x => { x with reconf := true }) s else s)) s)
/-- A checkpoint with a range on the tile fails (R484). -/
def tileCkpt (t : Nat) (s : State) : State :=
  if s.ckpt.any fun c => c.ranges.any fun r => stackOf r.1 / 6 == t then ckptFail sAborted s else s
/-- Row 2 of a fault: the tile's arrays reset, the steps that used them fail, and the other ranks stop. -/
def faultArrays (t : Nat) (s : State) : State :=
  let s := (partsOnTile t s).foldl (fun s p =>
    let k := (partOf p s).running
    let (l, o) := runningOp p s
    settleAborts (failStep p l o ((k.map (·.hdr)).getD 0) (haltRanks p s))) s
  (tileArrays t).foldl (fun s a => arrayReset a s) s

/-! ## Row 3 -/

/-- A session is among those a running step runs. -/
def inStep (i : Nat) (s : State) : Bool := s.parts.any fun p => p.2.step.any fun st => st.runs.any fun r => r.idx == i && r.status == 0
/-- Planned: a session with data on the tile is parked as an eviction of its class, once its step has ended; one that cannot be parked is
lost, and counted. -/
def parkOff (i : Nat) (s : State) : State :=
  let d := descOf i s
  if d.st = stTransit ∨ inStep i s ∨ (s.transits.any fun t => t.idx == i && t.kind != 6) ∨ (s.tombs.any fun t => t.idx == i) then s
  else
    let lose := fun (s : State) => { loseNow i s with tileDrain := s.tileDrain.map fun q => (q.1, q.2.1, q.2.2 + 1) }
    let s := abandonMig i sAborted true s
    let s := if d.st = stActive then omitSession s i else s
    if d.st = stFrozen then lose s
    else if (descOf i s).st ≠ stReady ∧ (descOf i s).st ≠ stWaiting then s
    else match (evictTier i (descOf i s) s).bind fun k =>
        queueTransit { idx := i, kind := k, cls := d.cls, origin := 2, demote := 0xFF, destTier := k - 1 } s with
      | some s => s
      | none => lose s
def parkAll (t : Nat) (s : State) : State := (sessOnTile t s).foldl (fun s i => parkOff i s) s

/-- A mirror of a session's last image that its partner holds (R475). -/
def mirrorCurrent (i : Nat) (s : State) : Bool :=
  let x := sessOf i s
  x.mirrored && x.mirrorNonce == x.parkNonce && s.net.members.contains (descOf i s).mirrorModule
/-- The session waits, IN_TRANSIT, for its mirror. -/
def askBack (i : Nat) (s : State) : State :=
  let d := descOf i s
  let s := modSess i (fun x => { x with back := some 0, pages := [], spans := [], mask := none, drawn := none }) (releaseBonded i s)
  let s := modDesc i (fun d => { d with prev := if d.st = stTransit then d.prev else d.st, st := stTransit, ptRoot := 0, parkAddr := 0,
                                        turnPending := false, cancelPending := false, transitTag := 0xFFFF_FFFF }) s
  sendMsg 0x17 d.mirrorModule [4, d.handle, (sessOf i s).mirrorNonce] [] s
/-- A fault takes a session's data: it goes back to its local image, waits for its mirror, or is lost. -/
def faultSession (i : Nat) (s : State) : State :=
  let d := descOf i s
  let was := if d.st = stTransit then d.prev else d.st
  let w := (sessOf i s).destroyWait
  let s := endTransits i sDropped (abandonMig i sAborted true s)
  match w with
  | some h => destroyNow h i s
  | none => match (sessOf i s).image with
    | some im => releaseHeld i (revertEv i was im.writeTick (revertTo i im.tier im (releaseBonded i s)))
    | none =>
      if mirrorCurrent i s then askBack i s
      else { releaseHeld i (loseSession i s) with tileDrain := s.tileDrain.map fun q => (q.1, q.2.1, q.2.2 + 1) }

/-! ## Row 4 -/

/-- A bank operation ends early, with a status for the block that issued it. -/
def dropBankOp (g : Nat) (o : BankOp) (status : Nat) (s : State) : State :=
  let s := if (bankOps g s).head? = some o then
      (copyOther g o).elim s fun d => if (bankOps d s).isEmpty then toMemory d s else s else s
  let s := if o.issuer = 0 then wr (BNK_PF_STATUS.STATUS (g / 32)) status (wr (BNK_PF_STATUS.BUSY (g / 32)) 0 s)
    else if o.issuer = 1 then scanLost o s else if o.issuer = 3 then spanBack o true s else s
  { s with returnReq := s.returnReq.filter (· != g) }
/-- Every bank operation of a channel ends, and the channel is in MEMORY mode. -/
def clearBank (status g : Nat) (s : State) : State :=
  let ops := bankOps g s
  toMemory g (setBankOps g [] (ops.foldl (fun s o => dropBankOp g o status s) s))
/-- The indexes of a tile lose READY; what is under way on them ends with DATA_DROPPED, and a compaction with ABORTED. -/
def dropIndexes (t : Nat) (s : State) : State :=
  let is := (s.vecs.filter fun v => v.2.home == t && isSet (VEC_INDEX.READY v.1) s).map (·.1)
  let s := is.foldl (fun s i => wr (VEC_INDEX.READY i) 0 (wr (VEC_INDEX.COMPACTING i) 0 s)) s
  let qs := s.vecQs.filter fun q => is.contains q.index
  let js := s.vecJobs.filter fun j => is.contains j.index
  let cs := s.vecCompacts.filter fun c => is.contains c.index
  let s := { s with vecQs := s.vecQs.filter (fun q => !is.contains q.index), vecJobs := s.vecJobs.filter (fun j => !is.contains j.index),
                    vecCompacts := s.vecCompacts.filter fun c => !is.contains c.index }
  let s := if cs.any (fun c => c.publish.isNone) then compactEnd sAborted s else s
  let s := qs.foldl (fun s q => refuse q.h 0x10 sDropped s) s
  js.foldl (fun s j => refuse j.h (if j.del then 0x12 else 0x11) sDropped s) s
/-- Row 4: bank operations and page fetches that touch the tile's stacks end, replicas there are dropped. -/
def tileEnds (t : Nat) (s : State) : State :=
  let s := (tileChans t).foldl (fun s g => if (bankOps g s).isEmpty then s else clearBank sAborted g s) s
  let s := (s.bankQ.filter fun q => q.2.any fun o => o.op == 1 && chanOnTile t (gchan o.dst)).foldl (fun s q => clearBank sAborted q.1 s) s
  let s := { s with fetchQ := s.fetchQ.filter (fun f => f.1 / 8 != t), fetchFly := s.fetchFly.filter (fun f => f.1 / 8 != t) }
  let s := showFetch t ((s.replicas.filter fun r => r.tile == t || chanOnTile t r.chan).foldl (fun s r => dropReplica r s) s)
  dropIndexes t s

/-! ## Row 5 -/

/-- Session keys whose extent lies on the tile are lost with it (R502, R503). -/
def loseKeys (test : Nat → Bool) (s : State) : State :=
  let es := (s.keyExts.filter fun e => test (gchan e.2)).map (·.1)
  let is := (s.sess.filter fun p => p.2.key.isSome && es.contains (p.1 / 32768)).map (·.1)
  is.foldl (fun s i => loseNow i (bump SEC_UNWRAP_FAILS.COUNT 1 s)) s
/-- Row 5: the tile is offline with its stacks, the pool shrinks, events 0x0001 and 0x001B are posted. -/
def tileGone (t lost : Nat) (s : State) : State :=
  let s := setDomain t false false (some false) s
  let s := sizePool (bump REL_TILE_OFFLINES.COUNT 1 { s with tileDrain := none })
  let s := postPf 0x001B 0x15 (if lost = 0 then sOk else sDropped) t lost s
  wr REL_CMD_STATUS.ROW 0 s

/-! ## The rows of the table -/

/-- The end of a command written to REL_CMD. -/
def relDone (status : Nat) (s : State) : State := wr REL_CMD_STATUS.BUSY 0 (wr REL_CMD_STATUS.STATUS status s)
/-- Another present tile is offline or draining. -/
def otherTileOut (t : Nat) (s : State) : Bool := (List.range 4).any fun u => u != t && tilePresent u s && !tileOnline u s

/-- TILE_OFFLINE: a planned removal. -/
def tileOffline (t : Nat) (s : State) : State :=
  if isSet REL_CMD_STATUS.BUSY s then s
  else if otherTileOut t s then relDone sBusy s
  else if ¬ tileOnline t s then relDone sRejected s
  else
    let s := wr REL_CMD_STATUS.BUSY 1 (wr REL_CMD_STATUS.ROW 3 s)
    parkAll t (tileCkpt t (drainBegin t { s with tileDrain := some (t, true, 0) }))
def execTileOffline (tile : Nat) (s : State) : Host.Outcome State Fault Refusal := whenServing s (tileOffline tile)

/-- An unplanned loss of a tile; of a second one, the module's (R466). -/
def tileFault (t : Nat) (s : State) : State :=
  if ¬ tilePresent t s then s
  else if otherTileOut t s then hubFault s
  else if ¬ tileOnline t s ∧ ¬ s.tileDrain.any (fun q => q.1 == t && q.2.1) then s
  else
    let lost := (s.tileDrain.map (·.2.2)).getD 0
    let s := faultArrays t (tileCkpt t (drainBegin t { s with tileDrain := some (t, false, lost) }))
    let s := (sessOnTile t s).foldl (fun s i => faultSession i s) s
    wr REL_CMD_STATUS.ROW 4 (tileEnds t (loseKeys (chanOnTile t) s))
/-- TILE_FAULT: a stack retired, a bridge fault, or a fault the tile cannot contain. -/
def execTileFault (tile : Nat) (s : State) : Host.Outcome State Fault Refusal := whenServing s (tileFault tile)

/-- TILE_DRAIN_DONE: rows 2 to 4 have ended; what a planned drain still finds on the tile is parked first. -/
def tileDrainDone (t : Nat) (s : State) : State :=
  match s.tileDrain with
  | none => s
  | some (u, planned, _) =>
    if u ≠ t then s
    else
      let s := if planned then parkAll t s else s
      if (partsOnTile t s).any fun p => (partOf p s).step.isSome || (partOf p s).running.isSome then s
      else if sessOnTile t s ≠ [] then s
      else
        let s := if planned then tileEnds t (loseKeys (chanOnTile t) s) else s
        let s := tileGone t ((s.tileDrain.map (·.2.2)).getD 0) s
        if planned ∨ isSet REL_CMD_STATUS.BUSY s ∧ s.rebuilds = [] ∧ s.deepLeaving = [] then relDone sOk s else s
def execTileDrainDone (tile : Nat) (s : State) : Host.Outcome State Fault Refusal := whenServing s (tileDrainDone tile)

/-- The instance of a tile takes the writes it held while it was offline (R567): `heldWr` and `oldView` are kept by field, those of a
per-tile block under the tile's own offset. -/
def instKeys (t : Nat) (k : Nat) : Bool :=
  let off := k / 4096
  decide (0x10_0000 ≤ off) && decide (off < 0x2C_0000) && off % 0x4_0000 / 0x1_0000 == t
def applyHeld (t : Nat) (s : State) : State :=
  { s with regs := (s.heldWr.filter fun p => instKeys t p.1).foldl (fun m p => sset m p.1 p.2) s.regs,
           heldWr := s.heldWr.filter (fun p => !instKeys t p.1), oldView := s.oldView.filter (fun p => !instKeys t p.1) }

/-- TILE_ONLINE (R477): the arrays are tested (`bad` fail), the stacks trained and filled with zeros, descriptor and chunk-map copies
rewritten, and the tile is online. -/
def tileOnlineRun (t : Nat) (bad : List Nat) (s : State) : State :=
  if isSet REL_CMD_STATUS.BUSY s then s
  else if ¬ tilePresent t s ∨ tileOnline t s ∨ s.tileDrain.any (·.1 == t) then relDone sRejected s
  else
    let s := (bad.filter fun n => decide (n < 352) && arrState (512 * t + n) s != aRetired).foldl (fun s n =>
      elementEv 1 (512 * t + n) 0 (setArr (512 * t + n) aRetired s)) s
    let s := (List.range 6).foldl (fun s j => memClear ((6 * t + j) * 0x12_0000_0000) 0x12_0000_0000 s) s
    elementEv 5 t 0 (relDone sOk (sizePool (setDomain t true false (some true) (applyHeld t s))))
def execTileOnline (tile : Nat) (bad : List Nat) (s : State) : Host.Outcome State Fault Refusal := whenServing s (tileOnlineRun tile bad)

end Sys2Proof.Machine
end

