-- ==== Sys2Proof/Machine/Reliability.lean ====
section
/-!
DEFINITION. Sys2Proof/Machine/Reliability.lean: the scrubbers (R98, R471), retirement of stack channels (R473) and of deep-tier channels
(R103, R474), and the end of a bank operation (R117), which may be what a test waits for.
-/
namespace Sys2Proof.Machine

/-! ## The spare region (R95, R118) -/

/-- The lowest place of a stack that holds no remap, nor, unless it may be given up, staging. -/
def freePlace (st : Nat) (overStaging : Bool) (s : State) : Option Nat :=
  (List.range (placesOf st s)).find? fun p =>
    !(s.remaps.any fun r => r.1 / 32 == st && r.2 == p) && (overStaging || !stagedIn (placeBase st p s) chanBytes s)
/-- A place as pieces by channel. -/
def placePieces (st p : Nat) (s : State) : List (Nat × Nat) :=
  let a := placeBase st p s
  ((List.range 32).map (· + 32 * st)).filterMap fun g =>
    let lo := max a (gchanBase g)
    let hi := min (a + chanBytes) (gchanBase g + chanBytes)
    if lo < hi then some (g, hi - lo) else none
def takePlace (st p : Nat) (s : State) : State := (placePieces st p s).foldl (fun s q => chanTake q.1 (max (placeBase st p s) (gchanBase q.1)) q.2 s) s
def givePlace (st p : Nat) (s : State) : State := (placePieces st p s).foldl (fun s q => chanGive q.1 (max (placeBase st p s) (gchanBase q.1)) q.2 s) s
def setRetired (g : Nat) (b : Bool) (s : State) : State := wrBit (MEM_CH_STATUS.RETIRED (g / 192) ((g / 32) % 6)) (g % 32) b s
def showRemaps (g : Nat) (s : State) : State := wr (MEM_CH_CFG.REMAPS (g / 192) ((g / 32) % 6)) (stackRemaps (g / 32) s) s

/-! ## Retirement of a stack channel (R472, R473) -/

/-- Weight blocks on a channel are rewritten from the other copy of their pair (R187, R473): those that a test of an address picks. -/
def pairRewrite (g : Nat) (test : Alloc → Bool) (s : State) : State :=
  s.models.foldl (fun s m => (m.2.weightAllocs.filter fun a => a.chan == g && test a).foldl (fun s a =>
    match m.2.weightAllocs.find? fun b => b.kind == a.kind && b.layer == a.layer && b.span == a.span && b.chan / 32 != a.chan / 32 with
    | some b => memWrite a.addr (memRead s b.addr blockBytes) s
    | none => s) s) s
/-- A table of a session that a lost channel held: emptied as R467 gives, and placed anew where the pool has room. -/
def replaceTable (i : Nat) (a : Alloc) (s : State) : State :=
  let s := mendTables i { s with poison := (a.addr / 64) :: s.poison }
  let s := freeKind i a.kind s
  match allocState i a.kind a.bytes s with
  | none => loseNow i s
  | some (p, s) => modDesc i (fun d => if a.kind = 3 then { d with penTable := p } else if a.kind = 4 then { d with stopBlock := p } else { d with grammarStack := p }) s
/-- What a session held in a channel that is lost (R473): its tables are mended, and anything else is its state. -/
def loseChanOf (g i : Nat) (s : State) : State :=
  let x := sessOf i s
  let mine := x.allocs.filter (·.chan == g)
  let mend := mine.filter fun a => decide (3 ≤ a.kind) && decide (a.kind ≤ 5)
  if (x.pages.any fun p => resident p && p.chan == g) || mine.length != mend.length then loseNow i s
  else mend.foldl (fun s a => replaceTable i a s) s
/-- A channel retired without a remap loses its allocations, and its range leaves the pool. -/
def loseChan (g : Nat) (s : State) : State :=
  let s := (s.sess.map (·.1)).foldl (fun s i => loseChanOf g i s) s
  let s := (s.replicas.filter (·.chan == g)).foldl (fun s r => dropReplica r s) s
  sizePool (loseKeys (· == g) s)

/-- Row 1 of R473, and for a stack with too many channels retired the loss of its tile. A command's end waits for the rebuild. -/
def retireChan (g : Nat) (byCmd : Bool) (s : State) : State :=
  let st := g / 32
  let s := clearBank sRejected g s
  let s := (s.bankQ.filter fun q => q.2.any fun o => copyOther q.1 o == some g).foldl (fun s q => clearBank sRejected q.1 s) s
  let s := bump REL_CHANNELS_RETIRED.COUNT 1 (setRetired g true { s with ueLog := sdel s.ueLog g })
  let start := fun (p : Nat) (s : State) =>
    wr REL_CMD_STATUS.ROW 2 (takePlace st p { s with remaps := sset s.remaps g p, rebuilds := s.rebuilds ++ [(g, false, byCmd)] })
  let s := match freePlace st false s, freePlace st true s with
    | some p, _ => start p s
    | none, some p => start p (ckptFail sAborted s)
    | none, none =>
      let lost := chFill g s / 64
      let s := elementEv 2 g lost (loseChan g s)
      if byCmd then relDone sOk s else s
  let n := ((List.range 32).filter fun c => chRetired (32 * st + c) s).length
  if rd REL_CFG.STACK_CH_LIMIT s < n then tileFault (st / 6) s else s

/-- RETIRE_CHANNEL. -/
def retireChanCmd (g : Nat) (s : State) : State :=
  if isSet REL_CMD_STATUS.BUSY s then s
  else if 768 ≤ g ∨ ¬ stackOnline (g / 32) s ∨ chRetired g s ∨ s.rebuilds.any (·.1 == g) then relDone sRejected s
  else retireChan g true (wr REL_CMD_STATUS.BUSY 1 s)
def execRetireChannel (chan : Nat) (s : State) : Host.Outcome State Fault Refusal := whenServing s (retireChanCmd chan)

/-- RETURN_CHANNEL: the march finds that the channel passes, or it stays as it is. A remapped range is then copied back; a channel without
one starts empty, its weight blocks rewritten from their pairs. -/
def returnChanCmd (g : Nat) (pass : Bool) (s : State) : State :=
  if isSet REL_CMD_STATUS.BUSY s then s
  else if 768 ≤ g ∨ ¬ stackOnline (g / 32) s ∨ ¬ chRetired g s ∨ s.rebuilds.any (·.1 == g) ∨ ¬ pass then relDone sRejected s
  else if (sget s.remaps g).isSome then
    wr REL_CMD_STATUS.ROW 2 (wr REL_CMD_STATUS.BUSY 1 { s with rebuilds := s.rebuilds ++ [(g, true, true)] })
  else
    let s := pairRewrite g (fun _ => true) (memClear (gchanBase g) chanBytes (setRetired g false s))
    relDone sOk (elementEv 2 g 0 (sizePool s))
def execReturnChannel (chan : Nat) (pass : Bool) (s : State) : Host.Outcome State Fault Refusal := whenServing s (returnChanCmd chan pass)

/-- Every summary block of a raw channel becomes the bound of any page format: maxima 448, minima −448, in BF16. -/
def boundSummaries (g : Nat) (s : State) : State :=
  s.sess.foldl (fun s p => (p.2.allocs.filter fun a => a.kind == 7 && a.chan == g).foldl (fun s a =>
    let d := (modelOf (descOf p.1 s).model s).headDim
    let one := (List.replicate d (leBytes 2 0x43E0) ++ List.replicate d (leBytes 2 0xC3E0)).flatten
    memWrite a.addr (List.replicate (a.bytes / (4 * d)) one).flatten s) s) s
/-- Codewords lost in a rebuild: restored from the second copy in channel 0, from the pair in a weight block, else left uncorrectable. -/
def rebuildLost (g : Nat) (lost : List Nat) (s : State) : State :=
  let inAlloc := fun (k : Nat) (a : Alloc) => decide (a.addr < 64 * k + 64) && decide (64 * k < a.addr + a.bytes)
  let weight := fun (k : Nat) => s.models.any fun m => m.2.weightAllocs.any fun a => a.chan == g && inAlloc k a
  let s' := pairRewrite g (fun a => lost.any fun k => inAlloc k a) s
  let rest := lost.filter fun k => !weight k
  if g % 32 = 0 then bump REL_REWRITES.COUNT rest.length s'
  else if chRaw g s then s'
  else { s' with poison := (rest ++ s'.poison).eraseDups }

/-- CHANNEL_REBUILD_DONE: rows 3 to 5 of R473. `lost` are the codewords found uncorrectable, by number. -/
def rebuildDone (g : Nat) (lost : List Nat) (s : State) : State :=
  match s.rebuilds.find? (·.1 == g) with
  | none => s
  | some (_, back, byCmd) =>
    let lost := lost.filter fun k => gchan (64 * k) == g
    let s := rebuildLost g lost { s with rebuilds := s.rebuilds.filter (·.1 != g) }
    let s := if back then
        let p := sgetD s.remaps g 0
        setRetired g false { givePlace (g / 32) p s with remaps := sdel s.remaps g }
      else if chRaw g s then boundSummaries g s else s
    let s := elementEv 2 g lost.length (showRemaps g s)
    let s := if s.rebuilds = [] then wr REL_CMD_STATUS.ROW 0 s else s
    if byCmd then relDone sOk s else s
def execChannelRebuildDone (chan : Nat) (lost : List Nat) (s : State) : Host.Outcome State Fault Refusal := whenServing s (rebuildDone chan lost)

/-- Channels that have reached CH_UE_LIMIT within the window are retired (R472). -/
def retireDue (s : State) : State :=
  let due := s.ueLog.filter fun q =>
    decide (max 1 (rd REL_CFG.CH_UE_LIMIT s) ≤ (q.2.filter fun e => decide (s.cad.edges < e + rd REL_UE_WINDOW.CH_UE_WINDOW s)).length) &&
      !chRetired q.1 s && stackOnline (q.1 / 32) s
  due.foldl (fun s q => if stackOnline (q.1 / 32) s then retireChan q.1 false s else s) s

/-! ## The scrubbers -/

/-- A directory entry whose store read poisoned is dropped on this replica (R467). -/
def dropPoisoned (s : State) (k : Nat × Nat × Nat) : State :=
  bump REL_REWRITES.COUNT 1 { s with net.dirEnts := s.net.dirEnts.filter fun e => !(e.type == k.1 && e.keyA == k.2.1 && e.keyB == k.2.2) }
/-- PATROL_SCRUB (R96 to R98): the corrections by a stack's dies and by its controller since the last such command, those of the reads and
read-modify-writes of others among them: each returned corrected data and wrote the codeword back, so that the counts are all it leaves. While the
scrubber is on, a stretch of codewords shows besides the uncorrectable ones, with how many of their bytes are in error, and where such a codeword
lies in a tokenizer set, a grammar slot or a directory entry. -/
def patrol (st ondie corrected : Nat) (bad : List (Nat × Nat)) (toks grams : List Nat) (ents : List (Nat × Nat × Nat)) (s : State) : State :=
  if 24 ≤ st ∨ ¬ stackOnline st s then s
  else
    let s := countFixed st ondie corrected s
    if ¬ isSet (MEM_SCRUB.ENABLE (st / 6)) s then s else
    let bad := bad.filter fun b => stackOf (64 * b.1) == st && !chRaw (gchan (64 * b.1)) s && chUp (gchan (64 * b.1)) s
    let s := bad.foldl (fun s b => noteUe (64 * b.1) b.2 s) s
    let s := { s with poison := ((bad.map (·.1)) ++ s.poison).eraseDups, badToks := (toks ++ s.badToks).eraseDups, badGrams := (grams ++ s.badGrams).eraseDups }
    retireDue (ents.foldl dropPoisoned s)
def execPatrolScrub (stack ondie corrected : Nat) (bad : List (Nat × Nat)) (toks grams : List Nat) (ents : List (Nat × Nat × Nat)) (s : State) :
    Host.Outcome State Fault Refusal := whenServing s (patrol stack ondie corrected bad toks grams ents)

/-- The two copies of a weight block are compared and made one (R187, R470). -/
def scrubBlock (slot k : Nat) (s : State) : State :=
  let m := modelOf slot s
  match m.weightAllocs.filter fun a => a.kind == 8 && a.layer == k with
  | [a, b] =>
    if !m.written.contains k || !chUp a.chan s || !chUp b.chan s then s
    else
      let x := memRead s a.addr blockBytes
      let y := memRead s b.addr blockBytes
      let px := poisonIn a.addr blockBytes s
      let py := poisonIn b.addr blockBytes s
      let want := (m.blocks[k]?).map (·.2.2)
      let okx := want == some (Config.digest x)
      let oky := want == some (Config.digest y)
      if px && py then reloadPair slot k a b (readBad a.addr blockBytes (readBad b.addr blockBytes s))
      else if px then memWrite a.addr y (readBad a.addr blockBytes s)
      else if py then memWrite b.addr x (readBad b.addr blockBytes s)
      else if x = y then s
      else
        let s := bump REL_DIVERGENCE.COUNT 1 s
        if okx && !oky then bump REL_REWRITES.COUNT 1 (memWrite b.addr x s)
        else if oky && !okx then bump REL_REWRITES.COUNT 1 (memWrite a.addr y s)
        else reloadPair slot k a b s
  | _ => s
/-- A block of a checkpoint image whose record meets one of its lost chunks (R134, R482). -/
def lostBlocks (m : CkptImage) (c : Nat) : List Nat :=
  let pos := m.chunks.findIdx (· == c)
  let recs := (ckptBlocks m.data).map recordLen
  ((List.range recs.length).zip ((recordOffs m).zip recs)).filterMap fun r =>
    if r.2.1 < 65520 * (pos + 1) ∧ 65520 * pos < r.2.1 + r.2.2 then some r.1 else none
/-- A chunk that cannot be read fails its owner (R467, R474); of a hang dump, its slot (R535). -/
def chunkLost (s : State) (c : Nat) : State :=
  if c < 0x1_0000 then (if (sget s.dumps (c / 64 - 1)).isSome then freeDump (c / 64 - 1) (bump DBG_DUMPS_DROPPED.COUNT 1 s) else s)
  else match s.sess.find? fun p => p.2.image.any fun im => im.tier == 0 && im.chunks.contains c with
  | some p => loseNow p.1 (bump TRN_TAG_FAILS.COUNT 1 s)
  | none => match s.net.mirrors.find? (·.chunks.contains c) with
    | some m => dropMirrorOf m (bump DIR_MIRROR_DROPS.COUNT 1 s)
    | none => match s.net.incoming.find? (·.chunks.contains c) with
      | some n => dropIncoming n s
      | none =>
        if s.models.any fun m => m.2.copyList.contains c then bump REL_REWRITES.COUNT 1 s
        else { s with ckptImages := s.ckptImages.map fun m => if m.chunks.contains c then { m with lost := (m.lost ++ lostBlocks m c).eraseDups } else m }

/-- A codeword of the chunk map reads in neither copy (R467): its entries go back to their home mappings, and what held the chunks fails. -/
def mapCodeLost (c : Nat) (s : State) : State :=
  let ks := ((List.range 16).map (c + ·)).filter fun k => (sget s.chunkMap k).isSome
  let s := ks.foldl (fun s k =>
    let s := chunkLost s k
    if (sget s.chunkMap k).isSome then { s with chunkMap := sset s.chunkMap k ((k % 96) * 2 ^ 19 + k / 96) } else s) s
  mendRead (mapAddr c false) 64 (mendRead (mapAddr c true) 64 s)
/-- The chunk-map codewords of a tile's stacks that read poisoned are rewritten, or lost. -/
def scrubMap (t : Nat) (s : State) : State :=
  (s.poison.filter fun k => stackOf (64 * k) / 6 == t && decide (0x600_0000 ≤ stackOff (64 * k)) && decide (stackOff (64 * k) < 0x700_0000)).foldl
    (fun s k =>
      let c := mapEntryAt (64 * k)
      let s := mendCopies (mapAddr c false) (mapAddr c true) 64 s
      if mapLost c s then mapCodeLost c s else s) s
/-- REPLICA_SCRUB (R471): the scrubber of a tile has compared the weight blocks, descriptors and chunk-map entries of its stacks; `descs` and
`chunks` are those whose two copies were intact and differed. -/
def replicaScrub (t : Nat) (descs chunks : List Nat) (s : State) : State :=
  if 4 ≤ t ∨ ¬ tileOnline t s ∨ ¬ isSet REL_SCRUB.ENABLE s then s
  else
    let n := descs.length + chunks.length
    let s := bump REL_DIVERGENCE.COUNT n (bump REL_REWRITES.COUNT n s)
    let s := s.models.foldl (fun s m => (List.range m.2.blocks.length).foldl (fun s k =>
      if ((m.2.blocks[k]?).map (·.1)) = some t then scrubBlock m.1 k s else s) s) s
    let held := (s.desc.map (·.1)).filter fun i => descAddr i false / 0x12_0000_0000 / 6 == t || descAddr i true / 0x12_0000_0000 / 6 == t
    let s := if s.poison = [] then s else held.foldl (fun s i => readDesc i (mendCopies (descAddr i false) (descAddr i true) 256 s)) s
    retireDue (scrubMap t s)
def execReplicaScrub (tile : Nat) (descs chunks : List Nat) (s : State) : Host.Outcome State Fault Refusal := whenServing s (replicaScrub tile descs chunks)

/-! ## The end of a bank operation (R117) -/

/-- A pattern test of the dark-frame test ends: two failures in a row retire the channel (R472, R488). -/
def testEnded (g fails : Nat) (s : State) : State :=
  if fails = 0 then { s with testFails := sdel s.testFails g }
  else if 1 ≤ sgetD s.testFails g 0 then retireChan g false { s with testFails := sdel s.testFails g }
  else { s with testFails := sset s.testFails g 1 }
/-- BANK_OP_COMPLETE: the operation at the head has run and ends; `poison`: a codeword it read was uncorrectable. -/
def bankComplete (g : Nat) (poison : Bool) (s : State) : State :=
  match bankHead g s with
  | none => s
  | some o =>
    if !o.ran then s
    else
      let s := finishBankOp g o s
      let s := if o.issuer = 1 then scanDone o poison s else if o.issuer = 2 then testEnded g o.matched s else s
      issueScans s
def execBankOpComplete (chan : Nat) (poison : Bool) (s : State) : Host.Outcome State Fault Refusal := whenServing s (bankComplete chan poison)

/-! ## Deep-tier channels (R103, R474) -/

/-- A deep-tier channel's 32 GiB leave the capacity (R90). -/
def deepGone (k lost : Nat) (s : State) : State := c0Refresh (elementEv 3 k lost (drop DPT_CAPACITY.ALLOC_MIB 32768 s))
/-- DEEP_EVACUATION_DONE: the chunks of a channel have been copied elsewhere; `lost` could not be read. Without a free slot the retraining
is abandoned, and a retired channel waits. -/
def evacuated (k : Nat) (lost : List Nat) (s : State) : State :=
  if s.deepLeaving.contains k then
    let s := (lost.filter fun c => (chunksOn k s).contains c).foldl chunkLost s
    let was := s.evacuated
    match evacuate k (chunksOn k s) (k + 1) s with
    | none => s
    | some s =>
      let s := deepFlag (deepGone k lost.length { s with deepLeaving := s.deepLeaving.filter (· != k), evacuated := was })
      if isSet REL_CMD_STATUS.BUSY s ∧ s.deepLeaving = [] ∧ s.rebuilds = [] ∧ s.tileDrain = none then relDone sOk s else s
  else if rd DPT_RETRAIN_STATUS.PHASE s = 1 ∧ rd DPT_RETRAIN_STATUS.CHANNEL s = k then
    match evacuate k (chunksOn k s) (k + 1) s with
    | some s => c0Refresh (wr DPT_RETRAIN_STATUS.PHASE 2 s)
    | none => deepFlag (retrainOver { bump DPT_RETRAIN_STATUS.DEFERRED 1 s with deepSkip := some k })
  else s
def execDeepEvacuationDone (chan : Nat) (lost : List Nat) (s : State) : Host.Outcome State Fault Refusal := whenServing s (evacuated chan lost)

/-- A training of channel `k` has ended with its margins. -/
def trained (k temp timing voltage : Nat) (s : State) : State :=
  wr (DPT_MARGIN.TRAINED_C k) temp (packTemp k temp (wr (DPT_MARGIN.TIMING k) timing (wr (DPT_MARGIN.VOLTAGE k) voltage
    { s with deepTrained := sset s.deepTrained k s.cad.edges })))
/-- DEEP_TRAINING_DONE: phase 3 of R103 ends, and the evacuated chunks move back in phase 4 (R104); on a second failure the channel is retired, its chunks left where phase 1 put them. -/
def deepTrainingDone (ok : Bool) (temp timing voltage : Nat) (s : State) : State :=
  let k := rd DPT_RETRAIN_STATUS.CHANNEL s
  if rd DPT_RETRAIN_STATUS.PHASE s ≠ 3 then s
  else if ok then c0Refresh (wr DPT_RETRAIN_STATUS.PHASE 4 (trained k temp timing voltage { s with moving := s.moving ++ s.evacuated }))
  else if s.deepFails = 0 then { s with deepFails := 1 }
  else
    let s := bump REL_DEEP_RETIRED.COUNT 1 (setDeepOnline k false (setDeepRetired k true s))
    deepFlag (deepGone k 0 (retrainOver s))
def execDeepTrainingDone (ok : Bool) (temp timing voltage : Nat) (s : State) : Host.Outcome State Fault Refusal :=
  whenServing s (deepTrainingDone ok temp timing voltage)

/-- RETIRE_DEEP. -/
def retireDeepCmd (k : Nat) (s : State) : State :=
  if isSet REL_CMD_STATUS.BUSY s then s
  else if 96 ≤ k ∨ ¬ deepOnline k s ∨ (rd DPT_RETRAIN_STATUS.CHANNEL s = k ∧ rd DPT_RETRAIN_STATUS.PHASE s ≠ 0) then relDone sRejected s
  else retireDeep k (wr REL_CMD_STATUS.BUSY 1 s)
def execRetireDeep (chan : Nat) (s : State) : Host.Outcome State Fault Refusal := whenServing s (retireDeepCmd chan)
/-- RETURN_DEEP: a retired channel trains, and where it passes is in service again. -/
def returnDeepCmd (k : Nat) (pass : Bool) (temp timing voltage : Nat) (s : State) : State :=
  if isSet REL_CMD_STATUS.BUSY s then s
  else if 96 ≤ k ∨ ¬ deepRetired k s ∨ s.deepLeaving.contains k ∨ ¬ pass then relDone sRejected s
  else
    let s := setDeepOnline k true (setDeepRetired k false (bump DPT_CAPACITY.ALLOC_MIB 32768 (trained k temp timing voltage s)))
    relDone sOk (elementEv 3 k 0 (c0Refresh (deepFlag { s with deepUeLog := sdel s.deepUeLog k })))
def execReturnDeep (chan : Nat) (pass : Bool) (temp timing voltage : Nat) (s : State) : Host.Outcome State Fault Refusal :=
  whenServing s (returnDeepCmd chan pass temp timing voltage)

end Sys2Proof.Machine
end

