-- ==== Sys2Proof/Machine/DarkFrame.lean ====
section
/-!
DEFINITION. Sys2Proof/Machine/DarkFrame.lean: the dark-frame test of arrays, test channels and fabric ports (R485 to R488), and the end of a
hang dump (R532 to R534).
-/
namespace Sys2Proof.Machine

/-- The window of R488 is open at this count. -/
def windowOpen (s : State) : Bool :=
  let p := rd REL_DF_WINDOW.PERIOD s
  p == 0 || decide ((now s + p * 65536 - rd REL_DF_WINDOW.PHASE s) % p < rd REL_DF_WINDOW.LENGTH s)
/-- The test is on, start-up has ended and the window is open. -/
def testing (s : State) : Bool :=
  isSet REL_DF_WINDOW.ENABLE s && decide (7 ≤ rd HUB_BOOT_STATUS.STAGE s) && windowOpen s

/-- DARK_FRAME_SLICE: an idle array for which no kernel is ready runs a slice (R485 to R487); 512 of them are a pass. `oldest`: the longest
time in ms since an array's last complete pass, as this slice leaves it. -/
def darkSlice (t n : Nat) (ok : Bool) (oldest : Nat) (s : State) : State :=
  let a := t * 512 + n
  let p := arrPart a s
  if 4 ≤ t ∨ 352 ≤ n ∨ ¬ testing s ∨ ¬ tileOnline t s ∨ ¬ (arrState a s = aEnabled ∨ arrState a s = aSpare) ∨
      isSet (ARY_STATUS.BUSY t n) s ∨ (p ≠ 0xFF ∧ ((stepReady p s).isSome ∨ (bestQueued p s).isSome)) then s
  else
    let k := sgetD s.dfPass a 0 + 1
    let s := bump REL_DF_SLICES.COUNT 1 { s with dfPass := sset s.dfPass a (k % 512) }
    let s := wr REL_DF_STATUS.OLDEST_MS (min oldest (fmax REL_DF_STATUS.OLDEST_MS)) (if k = 512 then bump REL_DF_STATUS.PASSES 1 s else s)
    let s := trace { tick := 0, event := 0x0801, src := 0x09, array := a, part := p, arg := b2n (!ok) } s
    if ok then s else countFail a (bump REL_DF_FAILS.COUNT 1 s)
def execDarkFrameSlice (tile n : Nat) (ok : Bool) (oldest : Nat) (s : State) : Host.Outcome State Fault Refusal :=
  whenServing s (darkSlice tile n ok oldest)

/-- The patterns of the channel test, in their cycle (R488). -/
def testPattern (k : Nat) : Nat := [0x5555555555555555, 0x3333333333333333, 0x0F0F0F0F0F0F0F0F, 0x00FF00FF00FF00FF].getD (k % 4) 0
/-- A test channel that nothing uses: no remap, no staging, not retired, with room in its queue. -/
def testFree (g : Nat) (s : State) : Bool :=
  stackOnline (g / 32) s && chTest g s && !chRetired g s && testClear g s &&
    decide ((bankOps g s).length < 16)
/-- DF_BANK_TEST: BANK_TEST_TICKS edges after the last round, the next pattern is queued for each test channel. -/
def bankTest (s : State) : State :=
  if ¬ testing s ∨ s.cad.edges < s.testLast + rd REL_DF_CFG.BANK_TEST_TICKS s then s
  else
    let pat := testPattern s.testPat
    ((List.range 768).filter fun g => testFree g s).foldl
      (fun s g => bankQueue { op := 6, tag := 0, src := gchanBase g, dst := 0, len := 0, stride := 0, a := pat, b := 0, issuer := 2 } s)
      { s with testPat := (s.testPat + 1) % 4, testLast := s.cad.edges }
def execDfBankTest (s : State) : Host.Outcome State Fault Refusal := whenServing s bankTest

/-- DF_PORT_RETRAIN: the receivers of an UP port report an eye; below either limit the scheduler retrains the port, unless another is being
retrained (R362, R488). -/
def portTest (p mv ui lane : Nat) (s : State) : State :=
  if 16 ≤ p ∨ portState p s ≠ pUp then s
  else
    let s := wr (FAB_PORT_MARGIN.EYE_MV p) mv (wr (FAB_PORT_MARGIN.EYE_UI p) ui (wr (FAB_PORT_MARGIN.WORST_LANE p) lane s))
    if testing s ∧ (rd (FAB_PORT_MARGIN.EYE_MV p) s < rd REL_DF_CFG.FAB_EYE_MV s ∨ rd (FAB_PORT_MARGIN.EYE_UI p) s < rd REL_DF_CFG.FAB_EYE_UI s) ∧
        ¬ otherRetrains p s then portRetrain p s
    else s
def execDfPortRetrain (port mv ui lane : Nat) (s : State) : Host.Outcome State Fault Refusal := whenServing s (portTest port mv ui lane)

/-- A dump runs: fewer than eight of those not yet written were declared before it (R534). -/
def dumpRuns (d : Dump) (s : State) : Bool := decide ((s.dumps.filter fun p => !p.2.complete && decide (p.2.seq < d.seq)).length < 8)
/-- A dump's header is written with COMPLETE set (R532, R539). -/
def dumpDone (k : Nat) (s : State) : State :=
  wr DBG_DUMP_STATUS.LATEST k (showDumps { s with dumps := s.dumps.map fun p => if p.1 = k then (p.1, { p.2 with complete := true }) else p })
/-- The layer and the operator of the hang that an array is frozen for. -/
def hangOf (a : Nat) (s : State) : Nat × Nat :=
  match s.traces.find? fun r => r.event == 0x0104 && r.array == a with
  | some r => (r.layer, r.oper)
  | none => (0, 0)
/-- HANG_DUMP: the dump of a frozen array ends, or none was taken; event 0x0021 tells, and the array is reset and replaced. -/
def hangDump (a : Nat) (s : State) : State :=
  if arrState a s ≠ aFrozen ∨ 2048 ≤ a then s
  else
    let (l, o) := hangOf a s
    let arg := a + l * 2 ^ 32 + o * 2 ^ 48
    match s.dumps.find? fun p => p.2.array == a && !p.2.complete with
    | none => retireFrozen a (postPf 0x0021 0x18 sDropped 0xFFFF_FFFF arg s)
    | some (k, d) =>
      if dumpRuns d s then retireFrozen a (postPf 0x0021 0x18 sOk k arg (dumpDone k s)) else s
def execHangDump (array : Nat) (s : State) : Host.Outcome State Fault Refusal := whenServing s (hangDump array)

end Sys2Proof.Machine
end

