-- ==== Sys2Proof/Machine/Security.lean ====
section
/-!
DEFINITION. Sys2Proof/Machine/Security.lean: job-key agreement (R505 to R509), the owner record (R498), the SPDM responder (R513, R514), model
keys (R515) and IDE streams (R512).
-/
namespace Sys2Proof.Machine

/-! ## Agreement blobs (R506) -/

/-- Open bytes of one draw. -/
def freshBytes (d n : Nat) : List Byte := (List.range n).map fun k => Config.openByte d k
/-- The 64-byte header of a blob. -/
def kxHeader (kind job init resp jobId : Nat) : List Byte :=
  leBytes 4 0x4F4B5831 ++ leBytes 1 kind ++ leBytes 1 job ++ leBytes 2 0 ++ leBytes 2 init ++ leBytes 2 resp ++ leBytes 4 0 ++
    leBytes 32 jobId ++ leBytes 16 0
/-- A signature block by the identity keys (R496): the digests name them; keys, signatures and SVN are open. -/
def deviceSig (d : Nat) : List Byte :=
  leBytes 4 0x53474231 ++ leBytes 2 1 ++ leBytes 1 3 ++ leBytes 1 0 ++ freshBytes d 4 ++ leBytes 4 0 ++ leBytes 16 Config.idEd ++
    leBytes 16 Config.idMl ++ freshBytes (d + 1) 5357 ++ leBytes 35 0
/-- Bytes of a blob up to its signature block: 0x500 for an offer, 0x4A0 for a reply. -/
def kxBody (kind : Nat) : Nat := if kind = 1 then 0x500 else 0x4A0
/-- A blob as the device completes it: its public values are fresh. -/
def kxBlob (kind job init resp jobId d : Nat) : List Byte :=
  kxHeader kind job init resp jobId ++ freshBytes (d + 2) (kxBody kind - 64) ++ deviceSig d
/-- The header names this agreement. -/
def kxNames (kind job init resp : Nat) (b : List Byte) : Bool :=
  field b 0 4 == 0x4F4B5831 && field b 4 1 == kind && field b 5 1 == job && field b 8 2 == init && field b 10 2 == resp
/-- A blob of the peer verifies (R497, R498): a signature block of a device whose digests stand in the trust table. -/
def kxVerifies (kind : Nat) (b : List Byte) (sigOk : Bool) (s : State) : Bool :=
  let g := b.drop (kxBody kind)
  sigOk && field g 0 4 == 0x53474231 && field g 6 1 == 3 && trusted (field g 0x10 16) (field g 0x20 16) s
def kxAddr (s : State) : Nat := rd SEC_KX_ADDR.ADDR s * 64
/-- A buffer lies in the bonded tier. -/
def inBonded (a n : Nat) : Bool := decide (a + n ≤ bondedEnd)

/-- The end of a SEC_KX_CTRL operation. -/
def kxDone (status : Nat) (s : State) : State := wr SEC_KX_STATUS.BUSY 0 (wr SEC_KX_STATUS.STATUS status s)
/-- Event 0x001E with the end of an agreement's operation. -/
def kxEnd (job peer status : Nat) (s : State) : State := postPf 0x001E 0x16 status (job * 2 ^ 16 + peer) 0 (kxDone status s)
def kxFail (job peer : Nat) (s : State) : State := kxEnd job peer sAuthFail (bump SEC_KX_FAILS.COUNT 1 s)
/-- Show a job's pairs and the offers. -/
def showJob (job : Nat) (s : State) : State :=
  let n := (s.net.pairs.filter fun p => p.2.job == job).length
  wr (SEC_JOB.PEERS job) n (wr (SEC_JOB.OPEN job) (b2n (n != 0)) (wr SEC_KX_STATUS.PAIRS s.net.pairs.length (wr SEC_KX_STATUS.PENDING s.adm.offers.length s)))
def jobOk (job : Nat) : Bool := decide (1 ≤ job) && decide (job ≤ 127)

/-- The keys of an agreement (R507): 64 bytes, the first half the initiator's sending key. -/
def agreedKeys (offer reply jobId : Nat) : Nat := Config.kdf (Config.agree offer reply) ([0x4F, 0x43, 0x56, 0x4A, 0x4F, 0x42] ++ leBytes 32 jobId ++ leBytes 48 offer ++ leBytes 48 reply)
/-- A new agreement's keys for a pair (R509): parity 0, and the old receiving key serves for 256 tick edges. -/
def installKeys (job peer keys : Nat) (initiator : Bool) (s : State) : State :=
  let a := keys % 2 ^ 256
  let b := keys / 2 ^ 256
  let k := job * 4096 + peer
  let old := (sget s.net.pairs k).map fun p => (p.rx, s.cad.edges + 256, p.top, p.seen)
  let p : Pair := { job := job, peer := peer, tx := if initiator then a else b, rx := if initiator then b else a, old := old }
  showJob job { s with net.pairs := sset s.net.pairs k p }
/-- A pair of the job table, or room for one (R505). -/
def pairRoom (job peer : Nat) (s : State) : Bool := (sget s.net.pairs (job * 4096 + peer)).isSome || decide (s.net.pairs.length < 8192)

/-- OFFER: the header at SEC_KX_ADDR is completed in place. -/
def kxOffer (job peer : Nat) (s : State) : State :=
  let a := kxAddr s
  let h := memRead s a 64
  if isSet SEC_KX_STATUS.BUSY s then s
  else if !jobOk job || 0xFFF ≤ peer || !inBonded a 6720 || field h 4 1 != 1 || field h 5 1 != job || field h 10 2 != peer then kxDone sRejected s
  else if ¬ isSet SEC_ID_STATUS.PUF_OK s then kxFail job peer s
  else if 64 ≤ s.adm.offers.length then kxEnd job peer sCapacity s
  else
    let id := field h 0x10 32
    let b := kxBlob 1 job (rd SES_CTRL.MODULE_ID s) peer id s.fresh
    let o : Offer := { job := job, peer := peer, jobId := id, edge := s.cad.edges, secret := Config.digest (b.take 0x500) }
    kxDone sOk (showJob job (engWrite a b { s with fresh := s.fresh + 3, adm.offers := s.adm.offers ++ [o] }))
def execKxOffer (job peer : Nat) (s : State) : Host.Outcome State Fault Refusal := whenServing s (kxOffer job peer)

/-- ACCEPT: the offer at SEC_KX_ADDR is verified, the reply written 8 KiB on, and the keys installed. -/
def kxAccept (job peer : Nat) (sigOk : Bool) (s : State) : State :=
  let a := kxAddr s
  let self := rd SES_CTRL.MODULE_ID s
  let b := memRead s a 6720
  if isSet SEC_KX_STATUS.BUSY s then s
  else if !jobOk job || 0xFFF ≤ peer || !inBonded a (8192 + 6624) then kxDone sRejected s
  else if ¬ isSet SEC_ID_STATUS.PUF_OK s then kxFail job peer s
  else if !(kxNames 1 job peer self b && kxVerifies 1 b sigOk s) then kxFail job peer (bump SEC_AUTH_FAILS.COUNT 1 s)
  else if !pairRoom job peer s then kxEnd job peer sCapacity s
  else
    let id := field b 0x10 32
    let r := kxBlob 2 job peer self id s.fresh
    let s := engWrite (a + 8192) r { s with fresh := s.fresh + 3 }
    kxEnd job peer sOk (installKeys job peer (agreedKeys (Config.digest (b.take 0x500)) (Config.digest (r.take 0x4A0)) id) false s)
def execKxAccept (job peer : Nat) (sigOk : Bool) (s : State) : Host.Outcome State Fault Refusal := whenServing s (kxAccept job peer sigOk)

/-- COMPLETE: the reply at SEC_KX_ADDR to a pending offer is checked, and the keys installed. -/
def kxComplete (job peer : Nat) (sigOk : Bool) (s : State) : State :=
  let a := kxAddr s
  let b := memRead s a 6624
  if isSet SEC_KX_STATUS.BUSY s then s
  else if !jobOk job || 0xFFF ≤ peer || !inBonded a 6624 then kxDone sRejected s
  else match s.adm.offers.find? fun o => o.job == job && o.peer == peer && o.jobId == field b 0x10 32 with
    | none => kxDone sRejected s
    | some o =>
      if !(kxNames 2 job (rd SES_CTRL.MODULE_ID s) peer b && kxVerifies 2 b sigOk s) then kxFail job peer (bump SEC_AUTH_FAILS.COUNT 1 s)
      else if !pairRoom job peer s then kxEnd job peer sCapacity s
      else
        let s := { s with adm.offers := s.adm.offers.erase o }
        kxEnd job peer sOk (installKeys job peer (agreedKeys o.secret (Config.digest (b.take 0x4A0)) o.jobId) true s)
def execKxComplete (job peer : Nat) (sigOk : Bool) (s : State) : Host.Outcome State Fault Refusal := whenServing s (kxComplete job peer sigOk)

/-- CLOSE: every key of the job goes (R509). -/
def kxClose (job : Nat) (s : State) : State :=
  if isSet SEC_KX_STATUS.BUSY s then s
  else if !jobOk job then kxDone sRejected s
  else kxDone sOk (showJob job { s with net.pairs := s.net.pairs.filter fun p => p.2.job != job })
def execKxClose (job : Nat) (s : State) : Host.Outcome State Fault Refusal := whenServing s (kxClose job)

/-- OFFER_TIMEOUT: 100,000 tick edges after an offer (R506). -/
def offerTimeout (job peer : Nat) (s : State) : State :=
  match s.adm.offers.find? fun o => o.job == job && o.peer == peer && decide (o.edge + 100000 ≤ s.cad.edges) with
  | none => s
  | some o => postPf 0x001E 0x16 sTimeout (job * 2 ^ 16 + peer) 0 (showJob job { s with adm.offers := s.adm.offers.erase o })
def execOfferTimeout (job peer : Nat) (s : State) : Host.Outcome State Fault Refusal := whenServing s (offerTimeout job peer)

/-- OLD_KEY_EXPIRY: 256 tick edges after a replacement or a ratchet (R508, R509). -/
def oldKeyExpiry (job peer : Nat) (s : State) : State :=
  let k := job * 4096 + peer
  match sget s.net.pairs k with
  | none => s
  | some p => match p.old with
    | none => s
    | some (_, lim, _, _) => if lim ≤ s.cad.edges then { s with net.pairs := sset s.net.pairs k { p with old := none } } else s
def execOldKeyExpiry (job peer : Nat) (s : State) : Host.Outcome State Fault Refusal := whenServing s (oldKeyExpiry job peer)

/-! ## The owner record (R498) -/

/-- The owner record in use: the slot of higher SVN. -/
def ownerNow (s : State) : Option (Nat × Nat) :=
  match s.adm.ownA, s.adm.ownB with
  | some a, some b => if a.2 < b.2 then some b else some a
  | some a, none => some a
  | none, b => b
def showOwner (s : State) : State :=
  match ownerNow s with
  | none => s
  | some (keys, svn) => wr SEC_ID_STATUS.OWNER_OK 1 (wr SEC_ID_STATUS.OWNER_KEYS keys (wr SEC_ID_STATUS.OWNER_SVN svn s))
/-- OWNER_UPDATE: the record at SEC_KX_ADDR is verified and written to the slot not in use. `sigOk`: its signatures verify under an anchor of
its KEY_CLASS. -/
def ownerUpdate (sigOk : Bool) (s : State) : State :=
  let a := kxAddr s
  let b := memRead s a (64 + 128 + 5440)
  let keys := field b 8 1
  let g := b.drop (64 + 32 * keys)
  let cls := field g 6 1
  if isSet SEC_KX_STATUS.BUSY s then s
  else if !inBonded a 5632 || field b 0 4 != 0x4F574E31 || keys = 0 || 4 < keys then kxDone sRejected s
  else if !(sigOk && (cls == 1 || (cls == 2 && isSet SEC_ID_STATUS.OWNER_OK s))) then kxDone sAuthFail (bump SEC_AUTH_FAILS.COUNT 1 s)
  else if isSet SEC_ID_STATUS.OWNER_OK s ∧ field b 4 4 ≤ rd SEC_ID_STATUS.OWNER_SVN s then kxDone sRejected s
  else
    let r := some (keys, field b 4 4)
    let s := if ownerNow s = s.adm.ownA ∧ s.adm.ownA ≠ none then { s with adm.ownB := r } else { s with adm.ownA := r }
    kxDone sOk (showOwner s)
def execOwnerUpdate (sigOk : Bool) (s : State) : Host.Outcome State Fault Refusal := whenServing s (ownerUpdate sigOk)

/-! ## The SPDM responder (R513 to R515, R519, R520) -/

/-- A message of the management complex: its binding (0 PCIe, 1 I3C, 2 DOE), MCTP type, and numbers. -/
def mgtSend (bind type : Nat) (ns : List Nat) (s : State) : State := { s with adm.mgtOut := (bind, type, ns) :: s.adm.mgtOut }
/-- The complex hears a request on a binding: it runs, and an MCTP binding has its endpoint identifier. -/
def mgtHears (bind : Nat) (s : State) : Bool :=
  isSet HUB_DOMAIN_STATUS.MGT_RUNNING s &&
    (bind == 2 || (bind == 0 && rd MGT_STATUS.PCIE_EID s != 0) || (bind == 1 && rd MGT_STATUS.I3C_EID s != 0))
/-- An SPDM request is answered, or with an error where identity is missing (R494, R495). -/
def spdmAnswer (bind : Nat) (ok : Bool) (s : State) (f : State → State) : State :=
  if !mgtHears bind s then s
  else if isSet SEC_ID_STATUS.PUF_OK s && isSet SEC_ID_STATUS.CERT_OK s && ok then f s
  else mgtSend bind 5 [0x7F] (bump SEC_SPDM_ERRORS.COUNT 1 s)
/-- A measurement block (R514). -/
def measure (k : Nat) (s : State) : List Nat :=
  match k with
  | 1 => [Config.romDigest]
  | 2 => [(fwActive s).digest, (fwActive s).svn, s.adm.fwRun]
  | 3 => [Config.recordDigest, rd SEC_ID_STATUS.PUF_OK s, rd SEC_ID_STATUS.CERT_OK s]
  | 4 => match ownerNow s with
    | some (n, v) => [n, v]
    | none => []
  | 5 => (regions.map fun r => rd (ALM_REGION.COMMITTED_GEN r) s) ++ [s.adm.buildId]
  | 6 => [rd ALM_STAGE_STATUS.GEN s, rd ALM_STAGE_STATUS.STAGE_STATE s, rd ALM_STAGE_STATUS.DIRTY s]
  | 7 => s.models.flatMap fun m => [m.1, m.2.modelId, m.2.manifest, rd (HIF_MODEL.LOADED m.1) s]
  | 8 => [rd SEC_CFG.LINK_OPEN s, rd SEC_CFG.IDE_REQUIRED s, rd SEC_CFG.LOCK s, rd SEC_CFG.MIRROR_JOB s,
      Config.digest (memRead s (rd SEC_TRUST_ADDR.ADDR s * 64) (32 * rd SEC_TRUST_COUNT.COUNT s))]
  | _ => []
/-- A finished session, on its transport. -/
def inSpdm (bind id : Nat) (s : State) : Bool := s.adm.spdm.contains (id, bind, true)
/-- SPDM_REQUEST: a response has the request's code less 0x80. -/
def spdmRequest (bind : Nat) (r : SpdmReq) (s : State) : State :=
  match r with
  | .plain code => spdmAnswer bind ([0x81, 0x82, 0x83, 0x84, 0xE1, 0xE3].contains code) s (mgtSend bind 5 [code - 0x80])
  | .measurements k =>
    spdmAnswer bind (decide (k ≤ 8) || k == 0xFF) s fun s =>
      mgtSend bind 5 (0x60 :: (if k = 0 then [8] else if k = 0xFF then ([1, 2, 3, 4, 5, 6, 7, 8].flatMap fun k => measure k s) else measure k s)) s
  | .keyExchange id =>
    spdmAnswer bind (decide (s.adm.spdm.length < 4) && !s.adm.spdm.any (·.1 == id)) s fun s =>
      mgtSend bind 5 [0x64, id] { s with adm.spdm := (id, bind, false) :: s.adm.spdm }
  | .inSession code id =>
    let open' := s.adm.spdm.any fun x => x.1 == id && x.2.1 == bind && (x.2.2 || code == 0xE5)
    spdmAnswer bind (open' && [0xE5, 0xE8, 0xE9, 0xEC].contains code) s fun s =>
      let l := if code = 0xEC then s.adm.spdm.filter (·.1 != id) else s.adm.spdm.map fun x => if x.1 = id then (x.1, x.2.1, true) else x
      mgtSend bind 5 [code - 0x80, id] { s with adm.spdm := l }
def execSpdmRequest (bind : Nat) (req : SpdmReq) (s : State) : Host.Outcome State Fault Refusal := whenServing s (spdmRequest bind req)

/-- MODEL_KEY_SET (R515): refused for a bound slot of another model or manifest; replaces any key of the slot. -/
def modelKeySet (bind session slot modelId digest key : Nat) (s : State) : State :=
  let m := modelOf slot s
  let fits := (sget s.models slot).isNone || (m.modelId == modelId && m.manifest == digest)
  spdmAnswer bind (inSpdm bind session s && decide (slot < 16) && fits) s fun s =>
    let s := wrBit SEC_KEYS.MODEL_KEYS slot true { s with adm.modelKeys := sset s.adm.modelKeys slot { modelId := modelId, digest := digest, key := key } }
    mgtSend bind 6 [0x7E, 1, slot] (postPf 0x0020 0x16 sOk slot modelId s)
def execModelKeySet (bind session slot modelId digest key : Nat) (s : State) : Host.Outcome State Fault Refusal :=
  whenServing s (modelKeySet bind session slot modelId digest key)
/-- MODEL_KEY_CLEAR (R515). -/
def modelKeyClear (bind session slot : Nat) (s : State) : State :=
  spdmAnswer bind (inSpdm bind session s && decide (slot < 16)) s fun s => mgtSend bind 6 [0x7E, 2, slot] (eraseModelKey slot s)
def execModelKeyClear (bind session slot : Nat) (s : State) : Host.Outcome State Fault Refusal := whenServing s (modelKeyClear bind session slot)

/-- IDE_KM (R512): a stream's key is programmed, or the stream ends, in a secured session on DOE; at most eight streams. -/
def ideKm (session stream : Nat) (key : Option Nat) (s : State) : State :=
  let room := key.isNone || (sget s.adm.ide stream).isSome || decide (s.adm.ide.length < 8)
  spdmAnswer 2 (inSpdm 2 session s && room) s fun s =>
    let l := match key with
      | some k => sset s.adm.ide stream k
      | none => sdel s.adm.ide stream
    mgtSend 2 6 [0x7E, stream] { s with adm.ide := l }
def execIdeKm (session stream : Nat) (key : Option Nat) (s : State) : Host.Outcome State Fault Refusal := whenServing s (ideKm session stream key)

end Sys2Proof.Machine
end

