-- ==== Sys2Proof/Machine/Management.lean ====
section
/-!
DEFINITION. Sys2Proof/Machine/Management.lean: the management complex (R519), its transports (R520, R521), the PLDM responder (R522 to R525),
and the debug registers (R527, R530, R535, R536).
-/
namespace Sys2Proof.Machine

/-! ## The complex and its transports -/

/-- MGT_WATCHDOG_RESTART: a kick was missed; event 0x0023 follows once MGT_RUNNING sets. -/
def mgtRestart (s : State) : State :=
  if isSet HUB_DOMAIN_STATUS.MGT_RUNNING s then bump MGT_STATUS.RESTARTS 1 (mgtStop 2 s) else s
def execMgtWatchdogRestart (s : State) : Host.Outcome State Fault Refusal := whenServing s mgtRestart

/-- ACTIVATION_TIMEOUT: row 4 of R461: the old slot serves on, the new one is FAILED. -/
def activationTimeout (s : State) : State :=
  if s.adm.fwActivating then
    let s := setOther { fwOther s with st := 4 } { s with adm.fwActivating := false }
    let s := setMgtRunning true (wr MGT_STATUS.FW_STATE 1 s)
    event18 sAborted (fwDone sAborted s)
  else s
def execActivationTimeout (s : State) : Host.Outcome State Fault Refusal := whenServing s activationTimeout

/-- SET_ENDPOINT_ID on a binding (R520); identifiers 0x00 and 0xFF are none. -/
def setEid (bind eid : Nat) (s : State) : State :=
  if ¬ isSet HUB_DOMAIN_STATUS.MGT_RUNNING s ∨ 2 ≤ bind then s
  else if eid = 0 ∨ 255 ≤ eid then mgtSend bind 0 [1, 2] s
  else mgtSend bind 0 [1, 0, eid] (if bind = 0 then wr MGT_STATUS.PCIE_EID eid s else wr MGT_STATUS.I3C_EID eid s)
def execSetEndpointId (bind eid : Nat) (s : State) : Host.Outcome State Fault Refusal := whenServing s (setEid bind eid)

/-- MCTP_MESSAGE (R520): a message to a VF is discarded and counted, one of a type not accepted is discarded, a control message other than Set
Endpoint ID is answered; what a message of types 1, 5 and 6 asks is a command of its own. -/
def mctpMessage (bind fn type code : Nat) (s : State) : State :=
  if ¬ isSet HUB_DOMAIN_STATUS.MGT_RUNNING s ∨ 2 ≤ bind then s
  else if bind = 0 ∧ fn ≠ 0 then bump MGT_MCTP_DROPS.COUNT 1 s
  else if type = 0 then
    let eid := if bind = 0 then rd MGT_STATUS.PCIE_EID s else rd MGT_STATUS.I3C_EID s
    if code = 2 then mgtSend bind 0 [2, 0, eid] s
    else if code = 5 then mgtSend bind 0 [5, 0, 4, 0, 1, 5, 6] s
    else mgtSend bind 0 [code, 5] s
  else s
def execMctpMessage (bind fn type code : Nat) (s : State) : Host.Outcome State Fault Refusal := whenServing s (mctpMessage bind fn type code)

/-- The provisioned ID (R521). -/
def provisionedId : Nat := 0x554D * 2 ^ 32 + Config.serialDigest % 2 ^ 32
/-- ENTDAA: the target answers with its provisioned ID and takes its dynamic address, in a stopped module too (R521, R556). -/
def entdaa (addr : Nat) (s : State) : State := mgtSend 1 0x100 [provisionedId, addr % 128] (wr MGT_STATUS.I3C_ADDR addr s)
def execEntdaa (addr : Nat) (s : State) : Host.Outcome State Fault Refusal := whenLive s (entdaa addr)
/-- GETSTATUS: STOP_CODE in the vendor status byte (R556). -/
def execGetstatus (s : State) : Host.Outcome State Fault Refusal :=
  whenLive s fun s => mgtSend 1 0x101 [rd HUB_BOOT_STATUS.STOP_CODE s] s

/-! ## PLDM: base and platform (R522 to R525) -/

/-- A PLDM request that the complex hears; an answer is its command code, completion code and data. -/
def pldm (bind : Nat) (s : State) (f : State → State) : Host.Outcome State Fault Refusal :=
  whenServing s fun s => if decide (bind < 2) && mgtHears bind s then f s else s

def execGetTid (bind : Nat) (s : State) : Host.Outcome State Fault Refusal := pldm bind s fun s => mgtSend bind 1 [0x02, 0, s.adm.tid] s
/-- SetTID: 0x00 and 0xFF are reserved. -/
def setTid (bind tid : Nat) (s : State) : State :=
  if tid = 0 ∨ 255 ≤ tid then mgtSend bind 1 [0x01, 2] s else mgtSend bind 1 [0x01, 0] { s with adm.tid := tid }
def execSetTid (bind tid : Nat) (s : State) : Host.Outcome State Fault Refusal := pldm bind s (setTid bind tid)
/-- Types 0, 2 and 5, as a bit mask. -/
def execGetPldmTypes (bind : Nat) (s : State) : Host.Outcome State Fault Refusal := pldm bind s (mgtSend bind 1 [0x04, 0, 0x25])
/-- The commands of a type, by code. -/
def pldmCommands (type : Nat) : List Nat :=
  match type with
  | 0 => [0x01, 0x02, 0x03, 0x04, 0x05]
  | 2 => [0x04, 0x0A, 0x11, 0x12, 0x13, 0x21, 0x31, 0x32, 0x50, 0x51]
  | 5 => [0x10, 0x13, 0x14, 0x1A, 0x1B, 0x1C, 0x1D]
  | _ => []
def execGetPldmCommands (bind type : Nat) (s : State) : Host.Outcome State Fault Refusal :=
  pldm bind s (mgtSend bind 1 (if pldmCommands type = [] then [0x05, 0x83] else 0x05 :: 0 :: pldmCommands type))
/-- The version of a type: major, minor. -/
def pldmVersion (type : Nat) : List Nat :=
  match type with
  | 0 => [0x03, 0, Config.pldmBase]
  | 2 => [0x03, 0, 1, 2]
  | 5 => [0x03, 0, 1, 1]
  | _ => [0x03, 0x83]
def execGetPldmVersion (bind type : Nat) (s : State) : Host.Outcome State Fault Refusal := pldm bind s (mgtSend bind 1 (pldmVersion type))

/-- The sensors and the effecter (R523): numeric sensors, state sensors, effecter. -/
def numericIds : List Nat :=
  [0x0001, 0x0002] ++ (List.range 12).map (· + 0x0010) ++ (List.range 4).map (· + 0x0020) ++ (List.range 24).map (· + 0x0024) ++
    [0x003C, 0x003D, 0x0040, 0x0041]
def stateIds : List Nat := [0x0042, 0x0043, 0x0044]
def effecterId : Nat := 0x0100
/-- PDRs in the table's order: identifier, and 1 numeric sensor, 2 state sensor, 3 effecter. -/
def pdrs : List (Nat × Nat) := numericIds.map (·, 1) ++ stateIds.map (·, 2) ++ [(effecterId, 3)]
/-- GetPDR: the record of a handle, 1 for the first, and the handle after it. -/
def getPdr (bind k : Nat) (s : State) : State :=
  let k := if k = 0 then 1 else k
  match pdrs[k - 1]? with
  | some (id, kind) => mgtSend bind 1 [0x51, 0, if k < pdrs.length then k + 1 else 0, id, kind] s
  | none => mgtSend bind 1 [0x51, 0x82] s
def execGetPdr (bind record : Nat) (s : State) : Host.Outcome State Fault Refusal := pldm bind s (getPdr bind record)
def execGetPdrRepositoryInfo (bind : Nat) (s : State) : Host.Outcome State Fault Refusal := pldm bind s (mgtSend bind 1 [0x50, 0, pdrs.length])

/-- The value a sensor takes at a refresh (R523). -/
def sensorValue (id : Nat) (s : State) : Nat :=
  if id = 0x0001 then rd MGT_POWER.MEAN_DW s
  else if id = 0x0002 then rd MGT_ENERGY.ENERGY_MJ s / 1000
  else if id < 0x0020 then rd (MGT_DOMAIN_POWER.MEAN_DW (id - 0x0010)) s
  else if id < 0x0024 then rd MGT_TEMP.TILE_C s / 2 ^ (8 * (id - 0x0020)) % 256
  else if id < 0x003C then rd (MEM_TEMP.EFF_C ((id - 0x0024) / 6) ((id - 0x0024) % 6)) s
  else if id = 0x003C then rd MGT_TEMP.HUB_C s
  else if id = 0x003D then rd MGT_TEMP.DEEP_C s
  else if id = 0x0040 then rd MGT_CAP.APPLIED_W s
  else if id = 0x0041 then rd MGT_CAP.W0_W s
  else if id = 0x0042 then
    if isSet MGT_LEVERS.L4 s then 4 else if rd MGT_LEVERS.L3_HELD s ≠ 0 then 3 else if rd MGT_LEVERS.L2_STEPS s ≠ 0 then 2 else rd MGT_LEVERS.L1 s
  else if id = 0x0043 then rd SID_STATUS.STATE s
  else ((List.range 4).filter fun t => tileOnline t s).length
/-- Which of a sensor's six thresholds a value crosses: three upper ones, at or above, and three lower ones, at or below. -/
def crossings (v : Nat) (l : List (Option Int)) : List Bool :=
  (List.range l.length).zip l |>.map fun p => match p.2 with
    | none => false
    | some t => if p.1 < 3 then decide (t ≤ (v : Int)) else decide ((v : Int) ≤ t)
/-- Messages for the thresholds of a sensor whose crossing changed. -/
def crossEvents (id : Nat) (s : State) : State :=
  let v := sgetD s.adm.sens id 0
  let old := sgetD s.adm.crossed id []
  let new := crossings v (sgetD s.adm.thresh id [])
  let s := { s with adm.crossed := sset s.adm.crossed id new }
  (List.range new.length).foldl (fun s k =>
    match s.adm.evRecv with
    | some (b, eid) => if new.getD k false && !old.getD k false then mgtSend b 1 [0x0A, eid, id, k, v] s else s
    | none => s) s
/-- SENSOR_REFRESH: the die temperatures of T0 to T3, of the hub, and of the hottest deep-tier package are those of `temps`; every value is
taken anew. -/
def sensorRefresh (temps : List Nat) (s : State) : State :=
  let t := fun k => temps.getD k 0 % 256
  let s := wr MGT_TEMP.TILE_C (t 0 + t 1 * 2 ^ 8 + t 2 * 2 ^ 16 + t 3 * 2 ^ 24) (wr MGT_TEMP.HUB_C (t 4) (wr MGT_TEMP.DEEP_C (t 5) s))
  if ¬ isSet HUB_DOMAIN_STATUS.MGT_RUNNING s then s
  else
    let s := { s with adm.sens := (numericIds ++ stateIds).foldl (fun m id => sset m id (sensorValue id s)) [] }
    (s.adm.thresh.map (·.1)).foldl (fun s id => crossEvents id s) s
def execSensorRefresh (temps : List Nat) (s : State) : Host.Outcome State Fault Refusal := whenServing s (sensorRefresh temps)

/-- A reading: operational state 0 and the value, or 2, unavailable, before the first refresh after a restart. -/
def reading (cmd bind : Nat) (ids : List Nat) (id : Nat) (s : State) : State :=
  if !ids.contains id then mgtSend bind 1 [cmd, 0x80] s
  else match sget s.adm.sens id with
    | some v => mgtSend bind 1 [cmd, 0, 0, v] s
    | none => mgtSend bind 1 [cmd, 0, 2] s
def execGetSensorReading (bind id : Nat) (s : State) : Host.Outcome State Fault Refusal := pldm bind s (reading 0x11 bind numericIds id)
def execGetStateSensorReadings (bind id : Nat) (s : State) : Host.Outcome State Fault Refusal := pldm bind s (reading 0x21 bind stateIds id)
/-- SetSensorThresholds: warning, critical and fatal, upper then lower. -/
def setThresholds (bind id : Nat) (l : List (Option Int)) (s : State) : State :=
  if !numericIds.contains id then mgtSend bind 1 [0x13, 0x80] s
  else mgtSend bind 1 [0x13, 0] { s with adm.thresh := sset s.adm.thresh id (l.take 6), adm.crossed := sdel s.adm.crossed id }
def execSetSensorThresholds (bind id : Nat) (levels : List (Option Int)) (s : State) : Host.Outcome State Fault Refusal :=
  pldm bind s (setThresholds bind id levels)
/-- GetSensorThresholds: each threshold as whether it is set, its sign, and its size. -/
def getThresholds (bind id : Nat) (s : State) : State :=
  if !numericIds.contains id then mgtSend bind 1 [0x12, 0x80] s
  else mgtSend bind 1 (0x12 :: 0 :: (sgetD s.adm.thresh id []).flatMap fun t => match t with
    | none => [0, 0, 0]
    | some v => [1, b2n (decide (v < 0)), v.natAbs]) s
def execGetSensorThresholds (bind id : Nat) (s : State) : Host.Outcome State Fault Refusal := pldm bind s (getThresholds bind id)

/-- SetNumericEffecterValue: the management cap, from the next tick edge, within 300 W to 750 W (R524). -/
def setEffecter (bind id v : Nat) (s : State) : State :=
  if id ≠ effecterId then mgtSend bind 1 [0x31, 0x80] s
  else mgtSend bind 1 [0x31, 0] { s with ltPend := sset s.ltPend (fkey MGT_CAP.MGMT_CAP_W) (capOf v) }
def execSetNumericEffecterValue (bind id value : Nat) (s : State) : Host.Outcome State Fault Refusal := pldm bind s (setEffecter bind id value)
/-- GetNumericEffecterValue: the pending and the present value. -/
def getEffecter (bind id : Nat) (s : State) : State :=
  if id ≠ effecterId then mgtSend bind 1 [0x32, 0x80] s
  else
    let v := rd MGT_CAP.MGMT_CAP_W s
    mgtSend bind 1 [0x32, 0, sgetD s.ltPend (fkey MGT_CAP.MGMT_CAP_W) v, v] s
def execGetNumericEffecterValue (bind id : Nat) (s : State) : Host.Outcome State Fault Refusal := pldm bind s (getEffecter bind id)
/-- SetEventReceiver: the receiver's binding and endpoint, or none. -/
def setReceiver (bind eid : Nat) (on : Bool) (s : State) : State :=
  mgtSend bind 1 [0x04, 0] { s with adm.evRecv := if on then some (bind, eid) else none }
def execSetEventReceiver (bind eid : Nat) (on : Bool) (s : State) : Host.Outcome State Fault Refusal := pldm bind s (setReceiver bind eid on)

/-! ## PLDM: firmware update (R460, R461, R522) -/

/-- RequestUpdate: refused while a PF write or another update is in progress. -/
def requestUpdate (bind : Nat) (s : State) : State :=
  if isSet ALM_FW_STATUS.BUSY s ∨ s.adm.pldmPhase ≠ 0 then mgtSend bind 1 [0x10, 0x81] s
  else mgtSend bind 1 [0x10, 0] { s with adm.pldmPhase := 1 }
def execRequestUpdate (bind : Nat) (s : State) : Host.Outcome State Fault Refusal := pldm bind s (requestUpdate bind)
/-- The one component. -/
def ourComponent (classifier identifier : Nat) : Bool := classifier == 0x000A && identifier == 0x0001
/-- A command of the update agent: it moves the update on, the whole image is written to the slot that is not ACTIVE, or the update ends. -/
def updateCmd (bind : Nat) (c : UpdateCmd) (s : State) : State :=
  let p := s.adm.pldmPhase
  let go := fun (cmd from_ to_ : Nat) (ok : Bool) =>
    if p = 0 then mgtSend bind 1 [cmd, 0x80] s
    else if p ≠ from_ then mgtSend bind 1 [cmd, 0x84] s
    else mgtSend bind 1 [cmd, 0, b2n (!ok)] { s with adm.pldmPhase := if ok then to_ else p }
  match c with
  | .passTable cl id => go 0x13 1 2 (ourComponent cl id)
  | .updateComponent cl id => go 0x14 2 3 (ourComponent cl id)
  | .image sigOk svn digest =>
    if p = 3 then
      let (st, s) := fwStore sigOk (svn % 2 ^ 16) digest s
      mgtSend bind 1 [0x17, st] { s with adm.pldmPhase := if st = sOk then 4 else 2 }
    else s
  | .cancelComponent => go 0x1C 3 2 true
  | .cancelUpdate => if p = 0 then mgtSend bind 1 [0x1D, 0x80] s else mgtSend bind 1 [0x1D, 0] { s with adm.pldmPhase := 0 }
  | .getStatus => mgtSend bind 1 [0x1B, 0, p] s
def execPldmUpdateAgentCommand (bind : Nat) (cmd : UpdateCmd) (s : State) : Host.Outcome State Fault Refusal := pldm bind s (updateCmd bind cmd)
/-- ActivateFirmware: with SelfContainedActivationRequest the activation of R461 runs, else the slot stays PENDING. -/
def activateFirmware (bind : Nat) (selfContained sigOk : Bool) (s : State) : State :=
  if s.adm.pldmPhase = 0 then mgtSend bind 1 [0x1A, 0x80] s
  else if s.adm.pldmPhase ≠ 4 then mgtSend bind 1 [0x1A, 0x84] s
  else
    let s := mgtSend bind 1 [0x1A, 0] { s with adm.pldmPhase := 0 }
    if selfContained then fwActivate sigOk s else s
def execActivateFirmware (bind : Nat) (selfContained sigOk : Bool) (s : State) : Host.Outcome State Fault Refusal :=
  pldm bind s (activateFirmware bind selfContained sigOk)

/-! ## Power telemetry, trace, dumps -/

/-- PEAK_DW_READ: MGT_DOMAIN_POWER of domain `d`, or MGT_POWER as 12; the peak goes to 0 in the same access (R527). -/
def peakRead (d : Nat) (s : State) : State :=
  if 13 ≤ d then s
  else
    let mean := if d = 12 then MGT_POWER.MEAN_DW else MGT_DOMAIN_POWER.MEAN_DW d
    let peak := if d = 12 then MGT_POWER.PEAK_DW else MGT_DOMAIN_POWER.PEAK_DW d
    wr peak 0 { s with net.readOut := rd mean s + rd peak s * 2 ^ 16 }
def execPeakDwRead (domain : Nat) (s : State) : Host.Outcome State Fault Refusal := whenLive s (tlpIn (peakRead domain))

/-- DBG_TRACE_ENABLE: a write of DBG_TRACE_BASE (R530, R539). With ENABLE, the collector starts with an empty ring. -/
def traceEnable (on stopMode : Bool) (addr : Nat) (s : State) : State :=
  let s := wr DBG_TRACE_BASE.ENABLE (b2n on) (wr DBG_TRACE_BASE.STOP_MODE (b2n stopMode) (wr DBG_TRACE_BASE.ADDR addr s))
  if on then wr DBG_TRACE_STATUS.WRITTEN 0 (wr DBG_TRACE_STATUS.WRAPPED 0 (wr DBG_TRACE_STATUS.STOPPED 0 s)) else s
def execDbgTraceEnable (on stopMode : Bool) (addr : Nat) (s : State) : Host.Outcome State Fault Refusal := whenLive s (traceEnable on stopMode addr)

def dumpEnd (status : Nat) (s : State) : State := wr DBG_DUMP_STATUS.STATUS status (wr DBG_DUMP_STATUS.BUSY 0 s)
/-- The header of a dump (R533). STATE_BYTES of an engine stall is open. -/
def dumpHeader (d : Dump) (w : Nat) : List Byte :=
  leBytes 4 0x484E4731 ++ leBytes 1 d.kind ++ leBytes 1 d.src ++
    leBytes 2 (b2n d.complete + 2 * b2n d.exported + 4 * b2n d.beforeReset) ++ leBytes 8 d.tick ++ leBytes 4 d.ns ++ leBytes 2 d.array ++
    leBytes 1 d.part ++ leBytes 1 0 ++ leBytes 2 d.layer ++ leBytes 2 d.oper ++ leBytes 4 d.elapsed ++
    leBytes 4 (if d.kind = 1 then 0x20000 else Config.openNat w) ++ leBytes 4 (if d.kind = 1 then 0x200000 else 0) ++
    leBytes 4 d.hist.length ++ leBytes 4 d.seq ++ leBytes 8 d.kernel ++ leBytes 8 0
/-- The 128 KiB of array state in a dump (R533): accumulators and vector registers, code memory, and the DMA state, whose form is open. -/
def dumpState (d : Dump) (w : Nat) : List Byte :=
  (List.range 0x2000).flatMap (fun k => leBytes 4 ((d.regs.map fun x => Config.openAt x k % 2 ^ 32).getD 0)) ++
    ((d.code ++ List.replicate 0x10000 0).take 0x10000) ++ (List.range 0x8000).map fun k => Config.openByte w (0x19000 + k)
/-- The 4 MiB image of a slot, its records oldest first; what no field fills is open. -/
def dumpImage (d : Dump) (w : Nat) : List Byte :=
  let gap := fun (from_ n : Nat) => (List.range n).map fun k => Config.openByte w (from_ + k)
  let sram := (List.range 0x200000).map fun k => if d.kind = 1 then (sget d.sram k).getD (Config.openByte d.draw k) else Config.openByte w (0x21000 + k)
  let hist := d.hist.reverse.flatMap trcBytes
  dumpHeader d w ++ gap 64 (0x1000 - 64) ++ (if d.kind = 1 then dumpState d w else gap 0x1000 0x20000) ++ sram ++ hist ++ gap (0x221000 + hist.length) (0x400000 - 0x221000 - hist.length)
/-- EXPORT: a complete slot goes to the buffer at DBG_DUMP_ADDR and is marked. `tagOk`: its header's tag verifies. -/
def exportRun (k : Nat) (tagOk : Bool) (s : State) : State :=
  let a := rd DBG_DUMP_ADDR.ADDR s * 4096
  if isSet DBG_DUMP_STATUS.BUSY s then s
  else match sget s.dumps k with
    | none => dumpEnd sNotFound s
    | some d =>
      if !d.complete then dumpEnd sBusy s
      else if !tagOk then dumpEnd sAuthFail (freeDump k (bump DBG_DUMPS_DROPPED.COUNT 1 s))
      else if !inBonded a 0x400000 then dumpEnd sRejected s
      else
        let s := engWrite a (dumpImage d s.fresh) { s with fresh := s.fresh + 1 }
        dumpEnd sOk { s with dumps := sset s.dumps k { d with exported := true } }
def execExportDump (slot : Nat) (tagOk : Bool) (s : State) : Host.Outcome State Fault Refusal := whenServing s (exportRun slot tagOk)
/-- RELEASE frees a slot. -/
def releaseRun (k : Nat) (s : State) : State :=
  if isSet DBG_DUMP_STATUS.BUSY s then s
  else match sget s.dumps k with
    | none => dumpEnd sNotFound s
    | some d => if d.complete then dumpEnd sOk (freeDump k s) else dumpEnd sBusy s
def execReleaseDump (slot : Nat) (s : State) : Host.Outcome State Fault Refusal := whenServing s (releaseRun slot)

/-- The engines with a progress monitor, coded as in R270. -/
def monitored : List Nat := [0x03, 0x04, 0x05, 0x0D, 0x10, 0x12, 0x13, 0x16]
/-- ENGINE_STALL: an engine with work has completed none for `ms` ms: a dump of KIND 2, event 0x0022 (R536). -/
def engineStall (block ms : Nat) (s : State) : State :=
  if !monitored.contains block || ms < rd DBG_DUMP_CFG.ENGINE_STALL_MS s then s
  else
    let (slot, s) := startDump { kind := 2, src := block, tick := 0, elapsed := ms * 1000, seq := 0 } s
    let s := match slot with
      | some k => dumpDone k s
      | none => s
    postPf 0x0022 0x18 sTimeout block (slot.getD ones64) (bump DBG_ENGINE_STALLS.COUNT 1 s)
def execEngineStall (block ms : Nat) (s : State) : Host.Outcome State Fault Refusal := whenServing s (engineStall block ms)

end Sys2Proof.Machine
end

