-- ==== Sys2Proof/Machine/RegMap.lean ====
section
/-!
DEFINITION. Sys2Proof/Machine/RegMap.lean: every register, where it lies in BAR0 (R563, R564), and how each of its fields is read and written (R5). The registers of queue pairs lie in BAR2; here they stand from 0x1000_0000 on, 2 MiB for each function.
-/
namespace Sys2Proof.Machine

/-- The access types (R5). A write of a WO field is a command of its own. -/
inductive Acc where
  | rw
  | w1c
  | lt
  | rws
  | ro
  | wo
deriving DecidableEq, Repr
/-- A register, or an array of registers: the stride and number of each index, the widest stride first; whether its block has an instance for
each tile, and whether all instances are one register (R567); its fields, by tile and indices. -/
structure WReg where
  base : Nat
  dims : List (Nat × Nat)
  tile : Bool
  shared : Bool
  flds : Nat → List Nat → List (Fld × Acc)
/-- The n-th index. -/
def ix (i : List Nat) (n : Nat) : Nat := i.getD n 0

def regMap0 : List WReg := [
  { base := 0x30008, dims := [], tile := false, shared := false,
    flds := fun _ _ => [(SES_POOL_SIZE.POOL_MIB, .ro)] },
  { base := 0x30010, dims := [], tile := false, shared := false,
    flds := fun _ _ => [(SES_POOL_USED.USED_MIB, .ro), (SES_POOL_USED.SESSIONS, .ro)] },
  { base := 0x30018, dims := [], tile := false, shared := false,
    flds := fun _ _ => [(SES_POOL_WM.HIGH, .lt), (SES_POOL_WM.LOW, .lt)] },
  { base := 0x30140, dims := [(8, 8)], tile := false, shared := false,
    flds := fun _ i => [(SES_CLASS_TUNE.DEFAULT_TTL (ix i 0), .lt), (SES_CLASS_TUNE.WAKE_GUARD (ix i 0), .lt)] },
  { base := 0x30180, dims := [(8, 8)], tile := false, shared := false,
    flds := fun _ i => [(SES_CLASS_USAGE.USED_MIB (ix i 0), .ro), (SES_CLASS_USAGE.SESSIONS (ix i 0), .ro)] },
  { base := 0x301c0, dims := [], tile := false, shared := false,
    flds := fun _ _ => [(SES_C0_ADMIT.RES_PER_MS, .lt), (SES_C0_ADMIT.DEEP_MIB_6MS, .ro)] },
  { base := 0x301c8, dims := [], tile := false, shared := false,
    flds := fun _ _ => [(SES_C0_STATUS.ARMED, .ro), (SES_C0_STATUS.NO_RESERVE, .ro), (SES_C0_STATUS.CADENCE, .ro), (SES_C0_STATUS.RECONFIG, .ro), (SES_C0_STATUS.POWER, .ro), (SES_C0_STATUS.WORST_RES_US, .ro), (SES_C0_STATUS.WORST_DEEP_US, .ro)] },
  { base := 0x301d0, dims := [], tile := false, shared := false,
    flds := fun _ _ => [(SES_C0_COUNTS.UNGUARANTEED, .ro), (SES_C0_COUNTS.VIOLATIONS, .ro)] },
  { base := 0x30200, dims := [(8, 9)], tile := false, shared := false,
    flds := fun _ i => [(SES_STATE_COUNT.COUNT (ix i 0), .ro)] },
  { base := 0x30280, dims := [], tile := false, shared := false,
    flds := fun _ _ => [(SES_EVICTIONS.COUNT, .ro)] },
  { base := 0x30288, dims := [], tile := false, shared := false,
    flds := fun _ _ => [(SES_EXPIRIES.COUNT, .ro)] },
  { base := 0x30290, dims := [], tile := false, shared := false,
    flds := fun _ _ => [(SES_EXPIRE_SLIP.COUNT, .ro), (SES_EXPIRE_SLIP.MAX, .ro)] }]

def regMap1 : List WReg := [
  { base := 0x30298, dims := [], tile := false, shared := false,
    flds := fun _ _ => [(SES_PLAN_SKIPS.COUNT, .ro)] },
  { base := 0x302a0, dims := [], tile := false, shared := false,
    flds := fun _ _ => [(SES_CAPACITY_FAILS.COUNT, .ro)] },
  { base := 0x302a8, dims := [], tile := false, shared := false,
    flds := fun _ _ => [(SES_DATA_DROPPED.COUNT, .ro)] },
  { base := 0x10000, dims := [], tile := false, shared := false,
    flds := fun _ _ => [(SID_COUNT.COUNT, .ro)] },
  { base := 0x10008, dims := [], tile := false, shared := false,
    flds := fun _ _ => [(SID_STATUS.STATE, .ro), (SID_STATUS.SYNTH_RUN, .ro), (SID_STATUS.PERIOD_VALID, .ro), (SID_STATUS.PERIOD_NS, .ro)] },
  { base := 0x10010, dims := [], tile := false, shared := false,
    flds := fun _ _ => [(SID_CTRL.SOFT_TICK, .wo)] },
  { base := 0x10018, dims := [], tile := false, shared := false,
    flds := fun _ _ => [(SID_EPOCH_TX.VALUE, .wo)] },
  { base := 0x10020, dims := [], tile := false, shared := false,
    flds := fun _ _ => [(SID_EPOCH_LOCAL.VALUE, .wo)] },
  { base := 0x10028, dims := [], tile := false, shared := false,
    flds := fun _ _ => [(SID_EPOCH_LAST.VALUE, .ro)] },
  { base := 0x10030, dims := [], tile := false, shared := false,
    flds := fun _ _ => [(SID_JUMP.DELTA, .ro)] },
  { base := 0x10038, dims := [], tile := false, shared := false,
    flds := fun _ _ => [(SID_PULSE_COUNTS.GLITCH, .ro), (SID_PULSE_COUNTS.EXTRA, .ro), (SID_PULSE_COUNTS.HOLDOVERS, .ro), (SID_PULSE_COUNTS.FREEWHEELS, .ro)] },
  { base := 0x10040, dims := [], tile := false, shared := false,
    flds := fun _ _ => [(SID_EPOCH_COUNTS.APPLIED, .ro), (SID_EPOCH_COUNTS.NOOP, .ro), (SID_EPOCH_COUNTS.LATE, .ro), (SID_EPOCH_COUNTS.BACKWARD, .ro)] }]

def regMap2 : List WReg := [
  { base := 0x20000, dims := [], tile := false, shared := false,
    flds := fun _ _ => [(EPH_CTRL.ENABLE, .rw)] },
  { base := 0x20008, dims := [], tile := false, shared := false,
    flds := fun _ _ => [(EPH_SLIP.ENTRIES, .ro), (EPH_SLIP.MAX, .ro)] },
  { base := 0x20010, dims := [], tile := false, shared := false,
    flds := fun _ _ => [(EPH_SLIP_TICKS.SUM, .ro)] },
  { base := 0x20018, dims := [], tile := false, shared := false,
    flds := fun _ _ => [(EPH_SLIP_BUSY.COUNT, .ro), (EPH_SLIP_BUSY.MAX, .ro)] },
  { base := 0x20020, dims := [], tile := false, shared := false,
    flds := fun _ _ => [(EPH_EVENTS.LATE_SUBMIT, .ro), (EPH_EVENTS.WAIT_TIMEOUTS, .ro), (EPH_EVENTS.ACTION_FAILS, .ro)] },
  { base := 0x20100, dims := [(8, 64)], tile := false, shared := false,
    flds := fun _ i => [(EPH_TABLE_BASE.ADDR (ix i 0), .rw)] },
  { base := 0x20300, dims := [(8, 64)], tile := false, shared := false,
    flds := fun _ i => [(EPH_TABLE_CTRL.ENABLE (ix i 0), .rw), (EPH_TABLE_CTRL.PAUSE (ix i 0), .rw), (EPH_TABLE_CTRL.FLUSH (ix i 0), .wo), (EPH_TABLE_CTRL.CLASS (ix i 0), .rw), (EPH_TABLE_CTRL.SIZE_LOG2 (ix i 0), .rw)] },
  { base := 0x20500, dims := [(8, 64)], tile := false, shared := false,
    flds := fun _ i => [(EPH_TABLE_STATUS.HEAD (ix i 0), .ro), (EPH_TABLE_STATUS.PENDING (ix i 0), .ro), (EPH_TABLE_STATUS.BLOCKED (ix i 0), .ro)] },
  { base := 0x20700, dims := [(8, 64)], tile := false, shared := false,
    flds := fun _ i => [(EPH_TABLE_NEXT.TICK (ix i 0), .ro)] },
  { base := 0x100000, dims := [(8, 6)], tile := true, shared := false,
    flds := fun t i => [(MEM_CH_STATUS.PROCESSOR t (ix i 0), .ro), (MEM_CH_STATUS.RETIRED t (ix i 0), .ro)] },
  { base := 0x100040, dims := [(8, 6)], tile := true, shared := false,
    flds := fun t i => [(MEM_CH_CFG.RAW t (ix i 0), .ro), (MEM_CH_CFG.SPARE_GIB t (ix i 0), .ro), (MEM_CH_CFG.REMAPS t (ix i 0), .ro)] },
  { base := 0x100080, dims := [(8, 6)], tile := true, shared := false,
    flds := fun t i => [(MEM_TEMP.SENSOR_C t (ix i 0), .ro), (MEM_TEMP.EFF_C t (ix i 0), .ro), (MEM_TEMP.BAND t (ix i 0), .ro), (MEM_TEMP.PEAK_C t (ix i 0), .ro), (MEM_TEMP.BAND_CHANGES t (ix i 0), .ro)] }]

def regMap3 : List WReg := [
  { base := 0x1000c0, dims := [], tile := true, shared := false,
    flds := fun t _ => [(MEM_THERMAL.ACT_GAIN_C t, .lt)] },
  { base := 0x1000c8, dims := [], tile := true, shared := false,
    flds := fun t _ => [(MEM_REFRESH_HINT.PERIOD t, .lt), (MEM_REFRESH_HINT.PHASE t, .lt)] },
  { base := 0x1000d0, dims := [], tile := true, shared := false,
    flds := fun t _ => [(MEM_MODE_WAIT.WAIT_US t, .lt), (MEM_MODE_WAIT.HOLD_US t, .lt)] },
  { base := 0x1000d8, dims := [], tile := true, shared := false,
    flds := fun t _ => [(MEM_SCRUB.RATE_MBPS t, .lt), (MEM_SCRUB.ENABLE t, .lt)] },
  { base := 0x100100, dims := [(8, 6)], tile := true, shared := false,
    flds := fun t i => [(MEM_ECC_COUNTS.CORRECTED t (ix i 0), .ro), (MEM_ECC_COUNTS.UNCORRECTABLE t (ix i 0), .ro), (MEM_ECC_COUNTS.ONDIE t (ix i 0), .ro)] },
  { base := 0x100140, dims := [], tile := true, shared := false,
    flds := fun t _ => [(MEM_ERR_LOG.ADDR t, .ro), (MEM_ERR_LOG.BYTES t, .ro), (MEM_ERR_LOG.VALID t, .w1c)] },
  { base := 0x100148, dims := [], tile := true, shared := false,
    flds := fun t _ => [(MEM_MODE_COUNTS.ENTRIES t, .ro), (MEM_MODE_COUNTS.RETURNS t, .ro), (MEM_MODE_COUNTS.MAX_RETURN_US t, .ro)] },
  { base := 0x100180, dims := [(8, 6)], tile := true, shared := false,
    flds := fun t i => [(MEM_CH_USED.ALLOCATED t (ix i 0), .ro)] },
  { base := 0x60000, dims := [(8, 24)], tile := false, shared := false,
    flds := fun _ i => [(BNK_PF_OP.ADDR (ix i 0), .wo)] },
  { base := 0x60100, dims := [(8, 24)], tile := false, shared := false,
    flds := fun _ i => [(BNK_PF_STATUS.STATUS (ix i 0), .ro), (BNK_PF_STATUS.BUSY (ix i 0), .ro), (BNK_PF_STATUS.TAG (ix i 0), .ro)] },
  { base := 0x60200, dims := [(8, 24)], tile := false, shared := false,
    flds := fun _ i => [(BNK_COUNTS.OPS (ix i 0), .ro), (BNK_COUNTS.REJECTED (ix i 0), .ro), (BNK_COUNTS.SUSPENDS (ix i 0), .ro)] },
  { base := 0x60300, dims := [(8, 24)], tile := false, shared := false,
    flds := fun _ i => [(BNK_TEST.LAST_FAIL (ix i 0), .ro), (BNK_TEST.FAILS (ix i 0), .ro)] }]

def regMap4 : List WReg := [
  { base := 0x50000, dims := [], tile := false, shared := false,
    flds := fun _ _ => [(DPT_ONLINE_LO.ONLINE, .ro)] },
  { base := 0x50008, dims := [], tile := false, shared := false,
    flds := fun _ _ => [(DPT_ONLINE_HI.ONLINE, .ro)] },
  { base := 0x50010, dims := [], tile := false, shared := false,
    flds := fun _ _ => [(DPT_RETIRED_LO.RETIRED, .ro)] },
  { base := 0x50018, dims := [], tile := false, shared := false,
    flds := fun _ _ => [(DPT_RETIRED_HI.RETIRED, .ro)] },
  { base := 0x50020, dims := [], tile := false, shared := false,
    flds := fun _ _ => [(DPT_CAPACITY.ALLOC_MIB, .ro), (DPT_CAPACITY.USED_MIB, .ro)] },
  { base := 0x50028, dims := [], tile := false, shared := false,
    flds := fun _ _ => [(DPT_RETRAIN_CFG.PERIOD_TICKS, .lt), (DPT_RETRAIN_CFG.DRIFT_C, .lt), (DPT_RETRAIN_CFG.MARGIN_MIN, .lt), (DPT_RETRAIN_CFG.EVAC_GBPS, .lt)] },
  { base := 0x50030, dims := [], tile := false, shared := false,
    flds := fun _ _ => [(DPT_RETRAIN_STATUS.CHANNEL, .ro), (DPT_RETRAIN_STATUS.PHASE, .ro), (DPT_RETRAIN_STATUS.COMPLETED, .ro), (DPT_RETRAIN_STATUS.DEFERRED, .ro)] },
  { base := 0x50100, dims := [(8, 96)], tile := false, shared := false,
    flds := fun _ i => [(DPT_ERR.LINK_CORRECTED (ix i 0), .ro), (DPT_ERR.RETRIES (ix i 0), .ro), (DPT_ERR.UNCORRECTABLE (ix i 0), .ro)] },
  { base := 0x50400, dims := [(8, 96)], tile := false, shared := false,
    flds := fun _ i => [(DPT_MARGIN.TIMING (ix i 0), .ro), (DPT_MARGIN.VOLTAGE (ix i 0), .ro), (DPT_MARGIN.TRAINED_C (ix i 0), .ro), (DPT_MARGIN.TEMP_C (ix i 0), .ro)] },
  { base := 0xa2000, dims := [(16, 64)], tile := false, shared := false,
    flds := fun _ i => [(HIF_HTIER_BASE.ENABLE (ix i 0), .rw), (HIF_HTIER_BASE.ADDR (ix i 0), .rw)] },
  { base := 0xa2008, dims := [(16, 64)], tile := false, shared := false,
    flds := fun _ i => [(HIF_HTIER_SIZE.UNITS (ix i 0), .rw), (HIF_HTIER_SIZE.USED_MIB (ix i 0), .ro)] },
  { base := 0x40000, dims := [], tile := false, shared := false,
    flds := fun _ _ => [(TRN_CFG.C0_SLOTS, .rws), (TRN_CFG.SPARSE_EN, .rws)] }]

def regMap5 : List WReg := [
  { base := 0x40008, dims := [], tile := false, shared := false,
    flds := fun _ _ => [(TRN_TUNE.MIG_GBPS, .lt), (TRN_TUNE.PRECOPY_PASSES, .lt), (TRN_TUNE.DIRTY_THRESH_MIB, .lt)] },
  { base := 0x40010, dims := [], tile := false, shared := false,
    flds := fun _ _ => [(TRN_STATUS.ACTIVE, .ro), (TRN_STATUS.QUEUED, .ro), (TRN_STATUS.C0_ACTIVE, .ro)] },
  { base := 0x40018, dims := [], tile := false, shared := false,
    flds := fun _ _ => [(TRN_MIG_STATUS.OUT, .ro), (TRN_MIG_STATUS.IN, .ro), (TRN_MIG_STATUS.TOMBSTONES, .ro)] },
  { base := 0x40200, dims := [(8, 8)], tile := false, shared := false,
    flds := fun _ i => [(TRN_CLASS_BYTES.BYTES (ix i 0), .ro)] },
  { base := 0x40100, dims := [], tile := false, shared := false,
    flds := fun _ _ => [(TRN_PARKS.COUNT, .ro)] },
  { base := 0x40108, dims := [], tile := false, shared := false,
    flds := fun _ _ => [(TRN_REVIVALS.COUNT, .ro)] },
  { base := 0x40110, dims := [], tile := false, shared := false,
    flds := fun _ _ => [(TRN_SPARSE.COUNT, .ro)] },
  { base := 0x40118, dims := [], tile := false, shared := false,
    flds := fun _ _ => [(TRN_SPARSE_FALLBACK.COUNT, .ro)] },
  { base := 0x40120, dims := [], tile := false, shared := false,
    flds := fun _ _ => [(TRN_MOVES.COUNT, .ro)] },
  { base := 0x40128, dims := [], tile := false, shared := false,
    flds := fun _ _ => [(TRN_MIRRORS.COUNT, .ro)] },
  { base := 0x40130, dims := [], tile := false, shared := false,
    flds := fun _ _ => [(TRN_MIRROR_FAILS.COUNT, .ro)] },
  { base := 0x40138, dims := [], tile := false, shared := false,
    flds := fun _ _ => [(TRN_MIGRATIONS.COUNT, .ro)] }]

def regMap6 : List WReg := [
  { base := 0x40140, dims := [], tile := false, shared := false,
    flds := fun _ _ => [(TRN_MIG_ABANDONED.COUNT, .ro)] },
  { base := 0x40148, dims := [], tile := false, shared := false,
    flds := fun _ _ => [(TRN_FORWARDED.COUNT, .ro)] },
  { base := 0x40150, dims := [], tile := false, shared := false,
    flds := fun _ _ => [(TRN_DEADLINE_MISSES.COUNT, .ro), (TRN_DEADLINE_MISSES.MAX, .ro)] },
  { base := 0x40158, dims := [], tile := false, shared := false,
    flds := fun _ _ => [(TRN_TAG_FAILS.COUNT, .ro)] },
  { base := 0x40160, dims := [], tile := false, shared := false,
    flds := fun _ _ => [(TRN_FROZEN.COUNT, .ro)] },
  { base := 0x40168, dims := [], tile := false, shared := false,
    flds := fun _ _ => [(TRN_NAN_BLOCKS.COUNT, .ro)] },
  { base := 0x140000, dims := [(8, 352)], tile := true, shared := false,
    flds := fun t i => [(ARY_STATUS.STATE t (ix i 0), .ro), (ARY_STATUS.BUSY t (ix i 0), .ro), (ARY_STATUS.FAILS t (ix i 0), .ro), (ARY_STATUS.PARTITION t (ix i 0), .ro), (ARY_STATUS.RANK t (ix i 0), .ro), (ARY_STATUS.LAYER t (ix i 0), .ro), (ARY_STATUS.OPERATOR t (ix i 0), .ro)] },
  { base := 0x140b00, dims := [], tile := true, shared := false,
    flds := fun t _ => [(ARY_CMD.INDEX t, .wo), (ARY_CMD.OP t, .wo)] },
  { base := 0x140b08, dims := [], tile := true, shared := false,
    flds := fun t _ => [(ARY_CMD_STATUS.BUSY t, .ro), (ARY_CMD_STATUS.STATUS t, .ro)] },
  { base := 0x140b10, dims := [], tile := true, shared := false,
    flds := fun t _ => [(ARY_COUNTS.ENABLED t, .ro), (ARY_COUNTS.SPARE t, .ro), (ARY_COUNTS.RETIRED t, .ro)] },
  { base := 0x140b18, dims := [], tile := true, shared := false,
    flds := fun t _ => [(ARY_KERNEL_COUNTS.KERNELS t, .ro), (ARY_KERNEL_COUNTS.HANGS t, .ro)] },
  { base := 0x140b20, dims := [], tile := true, shared := false,
    flds := fun t _ => [(ARY_OVERRUNS.COUNT t, .ro), (ARY_OVERRUNS.MAX_US t, .ro)] }]

def regMap7 : List WReg := [
  { base := 0x140b28, dims := [], tile := true, shared := false,
    flds := fun t _ => [(ARY_OVERRUN_LOG.LAYER t, .ro), (ARY_OVERRUN_LOG.OPERATOR t, .ro), (ARY_OVERRUN_LOG.ARRAY t, .ro), (ARY_OVERRUN_LOG.VALID t, .w1c)] },
  { base := 0x140b30, dims := [], tile := true, shared := false,
    flds := fun t _ => [(ARY_SRAM_ECC.CORRECTED t, .ro), (ARY_SRAM_ECC.UNCORRECTABLE t, .ro), (ARY_SRAM_ECC.LAST_ARRAY t, .ro)] },
  { base := 0x140b38, dims := [], tile := true, shared := false,
    flds := fun t _ => [(ARY_NUM_COUNTS.SATURATED t, .ro), (ARY_NUM_COUNTS.NAN_RESULTS t, .ro)] },
  { base := 0x140b40, dims := [], tile := true, shared := false,
    flds := fun t _ => [(ARY_CLOCK.MHZ t, .ro), (ARY_CLOCK.FLOOR_MHZ t, .ro)] },
  { base := 0x140b48, dims := [], tile := true, shared := false,
    flds := fun t _ => [(ARY_WATCHDOG.BOUND_NS t, .ro), (ARY_WATCHDOG.HANG_MULT t, .ro)] },
  { base := 0x180000, dims := [], tile := true, shared := true,
    flds := fun _ _ => [(KVP_CFG.SPARSE_EN, .rws)] },
  { base := 0x180008, dims := [], tile := true, shared := false,
    flds := fun t _ => [(KVP_ROOT_CACHE.ENTRIES t, .ro), (KVP_ROOT_CACHE.CLASS0 t, .ro), (KVP_ROOT_CACHE.MISSES t, .ro)] },
  { base := 0x180010, dims := [], tile := true, shared := false,
    flds := fun t _ => [(KVP_FETCH_STATUS.QUEUED t, .ro), (KVP_FETCH_STATUS.IN_FLIGHT t, .ro)] },
  { base := 0x180100, dims := [(8, 8)], tile := true, shared := true,
    flds := fun _ i => [(KVP_COVER.COVER_MAX (ix i 0), .lt), (KVP_COVER.WORST (ix i 0), .ro)] },
  { base := 0x180300, dims := [(8, 16)], tile := true, shared := true,
    flds := fun _ i => [(KVP_MODEL.BOUND (ix i 0), .ro), (KVP_MODEL.DIRECT (ix i 0), .ro), (KVP_MODEL.RECORD_ADDR (ix i 0), .ro)] },
  { base := 0x180200, dims := [], tile := true, shared := false,
    flds := fun t _ => [(KVP_SELECTIVE.COUNT t, .ro)] },
  { base := 0x180208, dims := [], tile := true, shared := false,
    flds := fun t _ => [(KVP_FALLBACKS.COUNT t, .ro)] }]

def regMap8 : List WReg := [
  { base := 0x180210, dims := [], tile := true, shared := false,
    flds := fun t _ => [(KVP_HOLDS.COUNT t, .ro)] },
  { base := 0x180218, dims := [], tile := true, shared := false,
    flds := fun t _ => [(KVP_FETCHES.COUNT t, .ro)] },
  { base := 0x180220, dims := [], tile := true, shared := false,
    flds := fun t _ => [(KVP_FETCH_DROPS.COUNT t, .ro)] },
  { base := 0x180228, dims := [], tile := true, shared := false,
    flds := fun t _ => [(KVP_NAN_MASKED.COUNT t, .ro)] },
  { base := 0x180230, dims := [], tile := true, shared := false,
    flds := fun t _ => [(KVP_POISON.COUNT t, .ro)] },
  { base := 0x180238, dims := [], tile := true, shared := false,
    flds := fun t _ => [(KVP_EMPTY_ROWS.COUNT t, .ro)] },
  { base := 0x180240, dims := [], tile := true, shared := false,
    flds := fun t _ => [(KVP_ALLOC_FAILS.COUNT t, .ro)] },
  { base := 0x180248, dims := [], tile := true, shared := false,
    flds := fun t _ => [(KVP_SPAN_SUMMARIES.COUNT t, .ro)] },
  { base := 0x1c0000, dims := [], tile := true, shared := false,
    flds := fun t _ => [(SEL_KERNELS.COUNT t, .ro)] },
  { base := 0x1c0008, dims := [], tile := true, shared := false,
    flds := fun t _ => [(SEL_SHORT.COUNT t, .ro)] },
  { base := 0x1c0010, dims := [], tile := true, shared := false,
    flds := fun t _ => [(SEL_NAN.COUNT t, .ro)] },
  { base := 0x1c0018, dims := [], tile := true, shared := false,
    flds := fun t _ => [(SEL_EMPTY_INDEX.COUNT t, .ro)] }]

def regMap9 : List WReg := [
  { base := 0x1c0020, dims := [], tile := true, shared := false,
    flds := fun t _ => [(SEL_TIES.COUNT t, .ro)] },
  { base := 0x1c0028, dims := [], tile := true, shared := false,
    flds := fun t _ => [(SEL_DUPLICATES.COUNT t, .ro)] },
  { base := 0x1c0030, dims := [], tile := true, shared := false,
    flds := fun t _ => [(SEL_APPROX.COUNT t, .ro)] },
  { base := 0x1c0038, dims := [], tile := true, shared := false,
    flds := fun t _ => [(SEL_REJECTS.COUNT t, .ro)] },
  { base := 0x200000, dims := [(8, 16)], tile := true, shared := true,
    flds := fun _ i => [(DEC_MODEL.VOCAB (ix i 0), .ro), (DEC_MODEL.BOUND (ix i 0), .ro)] },
  { base := 0x200080, dims := [(8, 16)], tile := true, shared := true,
    flds := fun _ i => [(DEC_END.END0 (ix i 0), .ro), (DEC_END.END1 (ix i 0), .ro), (DEC_END.END2 (ix i 0), .ro)] },
  { base := 0x200100, dims := [], tile := true, shared := false,
    flds := fun t _ => [(DEC_DRAWS.COUNT t, .ro)] },
  { base := 0x200108, dims := [], tile := true, shared := false,
    flds := fun t _ => [(DEC_SUPPRESSED.COUNT t, .ro)] },
  { base := 0x200110, dims := [], tile := true, shared := false,
    flds := fun t _ => [(DEC_EOS.COUNT t, .ro)] },
  { base := 0x200118, dims := [], tile := true, shared := false,
    flds := fun t _ => [(DEC_STOPS.COUNT t, .ro)] },
  { base := 0x200120, dims := [], tile := true, shared := false,
    flds := fun t _ => [(DEC_MAX_TOKENS.COUNT t, .ro)] },
  { base := 0x200128, dims := [], tile := true, shared := false,
    flds := fun t _ => [(DEC_GRAMMAR_STALLS.COUNT t, .ro)] }]

def regMap10 : List WReg := [
  { base := 0x200130, dims := [], tile := true, shared := false,
    flds := fun t _ => [(DEC_NO_FINITE.COUNT t, .ro)] },
  { base := 0x200138, dims := [], tile := true, shared := false,
    flds := fun t _ => [(DEC_MASK_LATE.COUNT t, .ro)] },
  { base := 0x200140, dims := [], tile := true, shared := false,
    flds := fun t _ => [(DEC_OUT_STALLS.COUNT t, .ro)] },
  { base := 0x200148, dims := [], tile := true, shared := false,
    flds := fun t _ => [(DEC_PARTIAL.COUNT t, .ro)] },
  { base := 0x200150, dims := [], tile := true, shared := false,
    flds := fun t _ => [(DEC_TOPP_SHORT.COUNT t, .ro)] },
  { base := 0x200158, dims := [], tile := true, shared := false,
    flds := fun t _ => [(DEC_PEN_OVERFLOW.COUNT t, .ro)] },
  { base := 0x70000, dims := [(8, 16)], tile := false, shared := false,
    flds := fun _ i => [(TXT_SET.VALID (ix i 0), .ro), (TXT_SET.MODE (ix i 0), .ro), (TXT_SET.IN_USE (ix i 0), .ro), (TXT_SET.VOCAB (ix i 0), .ro)] },
  { base := 0x70080, dims := [(8, 16)], tile := false, shared := false,
    flds := fun _ i => [(TXT_MODEL.SET (ix i 0), .ro), (TXT_MODEL.BOUND (ix i 0), .ro)] },
  { base := 0x70100, dims := [], tile := false, shared := false,
    flds := fun _ _ => [(TXT_GRAM_LOAD.ADDR, .wo), (TXT_GRAM_LOAD.SLOT, .wo), (TXT_GRAM_LOAD.OP, .wo)] },
  { base := 0x70108, dims := [], tile := false, shared := false,
    flds := fun _ _ => [(TXT_GRAM_STATUS.BUSY, .ro), (TXT_GRAM_STATUS.STATUS, .ro), (TXT_GRAM_STATUS.LOADED, .ro), (TXT_GRAM_STATUS.STORE_USED_MIB, .ro), (TXT_GRAM_STATUS.STORE_MIB, .ro)] },
  { base := 0x70110, dims := [], tile := false, shared := false,
    flds := fun _ _ => [(TXT_MASK_STATUS.QUEUED, .ro), (TXT_MASK_STATUS.MAX_QUEUED, .ro)] },
  { base := 0x70200, dims := [], tile := false, shared := false,
    flds := fun _ _ => [(TXT_INTAKE_BYTES.COUNT, .ro)] }]

def regMap11 : List WReg := [
  { base := 0x70208, dims := [], tile := false, shared := false,
    flds := fun _ _ => [(TXT_TOKENS_IN.COUNT, .ro)] },
  { base := 0x70210, dims := [], tile := false, shared := false,
    flds := fun _ _ => [(TXT_FALLBACK_BYTES.COUNT, .ro)] },
  { base := 0x70218, dims := [], tile := false, shared := false,
    flds := fun _ _ => [(TXT_INVALID_UTF8.COUNT, .ro)] },
  { base := 0x70220, dims := [], tile := false, shared := false,
    flds := fun _ _ => [(TXT_LONG_CUTS.COUNT, .ro)] },
  { base := 0x70228, dims := [], tile := false, shared := false,
    flds := fun _ _ => [(TXT_DETOK_BYTES.COUNT, .ro)] },
  { base := 0x70230, dims := [], tile := false, shared := false,
    flds := fun _ _ => [(TXT_MASKS.COUNT, .ro)] },
  { base := 0x70238, dims := [], tile := false, shared := false,
    flds := fun _ _ => [(TXT_GRAM_LOOPS.COUNT, .ro)] },
  { base := 0x70240, dims := [], tile := false, shared := false,
    flds := fun _ _ => [(TXT_GRAM_OVERFLOW.COUNT, .ro)] },
  { base := 0x240000, dims := [(8, 256)], tile := true, shared := true,
    flds := fun _ i => [(EMB_TABLE.VALID (ix i 0), .ro), (EMB_TABLE.LAYOUT (ix i 0), .ro), (EMB_TABLE.FORMAT (ix i 0), .ro), (EMB_TABLE.DIM (ix i 0), .ro), (EMB_TABLE.LOCAL_BLOCKS (ix i 0), .ro)] },
  { base := 0x240800, dims := [], tile := true, shared := true,
    flds := fun _ _ => [(EMB_HOT_CFG.HOT_THRESH, .lt), (EMB_HOT_CFG.HOT_WINDOW, .lt)] },
  { base := 0x240808, dims := [], tile := true, shared := true,
    flds := fun _ _ => [(EMB_APPLY.APPLY_KIB, .lt), (EMB_APPLY.TIMEOUT_TICKS, .lt)] },
  { base := 0x240810, dims := [], tile := true, shared := false,
    flds := fun t _ => [(EMB_HOT_STATUS.REPLICAS t, .ro), (EMB_HOT_STATUS.TRACKED t, .ro)] }]

def regMap12 : List WReg := [
  { base := 0x240900, dims := [], tile := true, shared := false,
    flds := fun t _ => [(EMB_LOOKUPS.COUNT t, .ro)] },
  { base := 0x240908, dims := [], tile := true, shared := false,
    flds := fun t _ => [(EMB_ROWS_READ.COUNT t, .ro)] },
  { base := 0x240910, dims := [], tile := true, shared := false,
    flds := fun t _ => [(EMB_REMOTE_READS.COUNT t, .ro)] },
  { base := 0x240918, dims := [], tile := true, shared := false,
    flds := fun t _ => [(EMB_REMOTE_MISS.COUNT t, .ro)] },
  { base := 0x240920, dims := [], tile := true, shared := false,
    flds := fun t _ => [(EMB_ROWS_LOST.COUNT t, .ro)] },
  { base := 0x240928, dims := [], tile := true, shared := false,
    flds := fun t _ => [(EMB_BAD_WEIGHTS.COUNT t, .ro)] },
  { base := 0x240930, dims := [], tile := true, shared := false,
    flds := fun t _ => [(EMB_UPDATES.COUNT t, .ro)] },
  { base := 0x240938, dims := [], tile := true, shared := false,
    flds := fun t _ => [(EMB_UPDATE_DEFER.COUNT t, .ro)] },
  { base := 0x240940, dims := [], tile := true, shared := false,
    flds := fun t _ => [(EMB_LATE_REMOTE.COUNT t, .ro)] },
  { base := 0x240948, dims := [], tile := true, shared := false,
    flds := fun t _ => [(EMB_REPLICAS_MADE.COUNT t, .ro)] },
  { base := 0x240950, dims := [], tile := true, shared := false,
    flds := fun t _ => [(EMB_REPLICAS_DROPPED.COUNT t, .ro)] },
  { base := 0x240958, dims := [], tile := true, shared := false,
    flds := fun t _ => [(EMB_FORWARDED.COUNT t, .ro)] }]

def regMap13 : List WReg := [
  { base := 0x280000, dims := [(8, 64)], tile := true, shared := true,
    flds := fun _ i => [(VEC_INDEX.VALID (ix i 0), .ro), (VEC_INDEX.READY (ix i 0), .ro), (VEC_INDEX.COMPACTING (ix i 0), .ro), (VEC_INDEX.SEGMENTS (ix i 0), .ro), (VEC_INDEX.LIVE (ix i 0), .ro)] },
  { base := 0x280200, dims := [], tile := true, shared := true,
    flds := fun _ _ => [(VEC_CFG.PREFETCH, .lt), (VEC_CFG.EXPAND_PER_KERNEL, .lt), (VEC_CFG.SCAN_CAP, .lt)] },
  { base := 0x280208, dims := [], tile := true, shared := true,
    flds := fun _ _ => [(VEC_COMPACT.INDEX, .wo), (VEC_COMPACT.FIRST, .wo), (VEC_COMPACT.COUNT, .wo)] },
  { base := 0x280210, dims := [], tile := true, shared := true,
    flds := fun _ _ => [(VEC_COMPACT_STATUS.BUSY, .ro), (VEC_COMPACT_STATUS.STATUS, .ro), (VEC_COMPACT_STATUS.NEW_SEGMENT, .ro), (VEC_COMPACT_STATUS.BUILT, .ro)] },
  { base := 0x280400, dims := [(8, 64)], tile := true, shared := true,
    flds := fun _ i => [(VEC_REPAIR.QUEUED (ix i 0), .ro)] },
  { base := 0x280300, dims := [], tile := true, shared := false,
    flds := fun t _ => [(VEC_QUERIES.COUNT t, .ro)] },
  { base := 0x280308, dims := [], tile := true, shared := false,
    flds := fun t _ => [(VEC_UPSERTS.COUNT t, .ro)] },
  { base := 0x280310, dims := [], tile := true, shared := false,
    flds := fun t _ => [(VEC_DELETES.COUNT t, .ro)] },
  { base := 0x280318, dims := [], tile := true, shared := false,
    flds := fun t _ => [(VEC_EXPANSIONS.COUNT t, .ro)] },
  { base := 0x280320, dims := [], tile := true, shared := false,
    flds := fun t _ => [(VEC_SCANS.COUNT t, .ro)] },
  { base := 0x280328, dims := [], tile := true, shared := false,
    flds := fun t _ => [(VEC_RESCANS.COUNT t, .ro)] },
  { base := 0x280330, dims := [], tile := true, shared := false,
    flds := fun t _ => [(VEC_STALE_EDGES.COUNT t, .ro)] }]

def regMap14 : List WReg := [
  { base := 0x280338, dims := [], tile := true, shared := false,
    flds := fun t _ => [(VEC_REPAIRS.COUNT t, .ro)] },
  { base := 0x280340, dims := [], tile := true, shared := false,
    flds := fun t _ => [(VEC_REPAIR_DROPS.COUNT t, .ro)] },
  { base := 0x280348, dims := [], tile := true, shared := false,
    flds := fun t _ => [(VEC_DELETED_RETURNED.COUNT t, .ro)] },
  { base := 0x280350, dims := [], tile := true, shared := false,
    flds := fun t _ => [(VEC_VISITED_OVERFLOW.COUNT t, .ro)] },
  { base := 0x280358, dims := [], tile := true, shared := false,
    flds := fun t _ => [(VEC_BAD_RECORDS.COUNT t, .ro)] },
  { base := 0x141400, dims := [(8, 255)], tile := true, shared := true,
    flds := fun _ i => [(ARY_SCHED_CFG.INTERLEAVE_US (ix i 0), .lt)] },
  { base := 0x141c00, dims := [(8, 255)], tile := true, shared := true,
    flds := fun _ i => [(ARY_SCHED_STATUS.EFF_CLASS (ix i 0), .ro), (ARY_SCHED_STATUS.STEP_RUNNING (ix i 0), .ro), (ARY_SCHED_STATUS.WAITING (ix i 0), .ro), (ARY_SCHED_STATUS.QUEUED (ix i 0), .ro), (ARY_SCHED_STATUS.PREFILL_OVER (ix i 0), .ro), (ARY_SCHED_STATUS.OVER_SKIPS (ix i 0), .ro)] },
  { base := 0x400000, dims := [(8, 19)], tile := false, shared := false,
    flds := fun _ i => [(TM_PORT.RATE_MBPS (ix i 0), .ro), (TM_PORT.UP (ix i 0), .ro)] },
  { base := 0x400100, dims := [(8, 19)], tile := false, shared := false,
    flds := fun _ i => [(TM_PORT_SHAPER.REFILL (ix i 0), .lt), (TM_PORT_SHAPER.BURST (ix i 0), .lt), (TM_PORT_SHAPER.ENABLE (ix i 0), .lt)] },
  { base := 0x400200, dims := [(64, 19), (8, 8)], tile := false, shared := false,
    flds := fun _ i => [(TM_CLASS.SHARE (ix i 0) (ix i 1), .rws), (TM_CLASS.WEIGHT (ix i 0) (ix i 1), .lt)] },
  { base := 0x400800, dims := [(64, 19), (8, 8)], tile := false, shared := false,
    flds := fun _ i => [(TM_CLASS_SHAPER.REFILL (ix i 0) (ix i 1), .lt), (TM_CLASS_SHAPER.BURST (ix i 0) (ix i 1), .lt), (TM_CLASS_SHAPER.ENABLE (ix i 0) (ix i 1), .lt)] },
  { base := 0x401000, dims := [(64, 19), (8, 8)], tile := false, shared := false,
    flds := fun _ i => [(TM_HWM.DEPTH (ix i 0) (ix i 1), .ro), (TM_HWM.DELAY_NS (ix i 0) (ix i 1), .ro)] }]

def regMap15 : List WReg := [
  { base := 0x401800, dims := [(64, 19), (8, 8)], tile := false, shared := false,
    flds := fun _ i => [(TM_CLASS_BYTES.BYTES (ix i 0) (ix i 1), .ro)] },
  { base := 0x402000, dims := [], tile := false, shared := false,
    flds := fun _ _ => [(TM_XS_SEL.CLASS, .rw), (TM_XS_SEL.PORT, .rw), (TM_XS_SEL.FUNCTION, .rw), (TM_XS_SEL.ALL_FUNCTIONS, .rw)] },
  { base := 0x402008, dims := [], tile := false, shared := false,
    flds := fun _ _ => [(TM_XS_SAMPLE.DEPTH, .ro), (TM_XS_SAMPLE.SEQ, .ro), (TM_XS_SAMPLE.DELAY, .ro), (TM_XS_SAMPLE.VALID, .ro)] },
  { base := 0x402010, dims := [], tile := false, shared := false,
    flds := fun _ _ => [(TM_BAD_COLOUR.COUNT, .ro)] },
  { base := 0x500000, dims := [(32768, 19), (4096, 8), (16, 256)], tile := false, shared := false,
    flds := fun _ i => [(TM_LEAF_SHAPER.REFILL (ix i 0) (ix i 1) (ix i 2), .lt), (TM_LEAF_SHAPER.BURST (ix i 0) (ix i 1) (ix i 2), .lt), (TM_LEAF_SHAPER.ENABLE (ix i 0) (ix i 1) (ix i 2), .lt)] },
  { base := 0x500008, dims := [(32768, 19), (4096, 8), (16, 256)], tile := false, shared := false,
    flds := fun _ i => [(TM_LEAF_WEIGHT.WEIGHT (ix i 0) (ix i 1) (ix i 2), .lt)] },
  { base := 0x600000, dims := [(32, 4096)], tile := false, shared := false,
    flds := fun _ i => [(TM_POL_CFG.ENABLE (ix i 0), .rws), (TM_POL_CFG.POINT (ix i 0), .rws), (TM_POL_CFG.TWO_RATE (ix i 0), .rws), (TM_POL_CFG.AWARE (ix i 0), .rws), (TM_POL_CFG.YELLOW_ACT (ix i 0), .rws), (TM_POL_CFG.RED_ACT (ix i 0), .rws), (TM_POL_CFG.ALL_FUNCTIONS (ix i 0), .rws), (TM_POL_CFG.PORT (ix i 0), .rws), (TM_POL_CFG.CLASS (ix i 0), .rws), (TM_POL_CFG.FUNCTION (ix i 0), .rws)] },
  { base := 0x600008, dims := [(32, 4096)], tile := false, shared := false,
    flds := fun _ i => [(TM_POL_RATE_C.CIR (ix i 0), .lt), (TM_POL_RATE_C.CBS (ix i 0), .lt)] },
  { base := 0x600010, dims := [(32, 4096)], tile := false, shared := false,
    flds := fun _ i => [(TM_POL_RATE_E.EIR_PIR (ix i 0), .lt), (TM_POL_RATE_E.EBS_PBS (ix i 0), .lt)] },
  { base := 0x620000, dims := [(32, 4096)], tile := false, shared := false,
    flds := fun _ i => [(TM_POL_COUNT_GREEN.COUNT (ix i 0), .ro)] },
  { base := 0x620008, dims := [(32, 4096)], tile := false, shared := false,
    flds := fun _ i => [(TM_POL_COUNT_YELLOW.COUNT (ix i 0), .ro)] },
  { base := 0x620010, dims := [(32, 4096)], tile := false, shared := false,
    flds := fun _ i => [(TM_POL_COUNT_RED.COUNT (ix i 0), .ro)] }]

def regMap16 : List WReg := [
  { base := 0x620018, dims := [(32, 4096)], tile := false, shared := false,
    flds := fun _ i => [(TM_POL_COUNT_DROPPED.COUNT (ix i 0), .ro)] },
  { base := 0x700000, dims := [(64, 256), (8, 8)], tile := false, shared := false,
    flds := fun _ i => [(TM_FN_WAIT.COUNT (ix i 0) (ix i 1), .ro)] },
  { base := 0x704000, dims := [(8, 256)], tile := false, shared := false,
    flds := fun _ i => [(TM_FN_PREEMPT.COUNT (ix i 0), .ro)] },
  { base := 0x90000, dims := [(8, 16)], tile := false, shared := false,
    flds := fun _ i => [(FAB_PORT_STATUS.STATE (ix i 0), .ro), (FAB_PORT_STATUS.LANES (ix i 0), .ro), (FAB_PORT_STATUS.NEIGHBOUR (ix i 0), .ro), (FAB_PORT_STATUS.TRAININGS (ix i 0), .ro)] },
  { base := 0x90080, dims := [(8, 16)], tile := false, shared := false,
    flds := fun _ i => [(FAB_PORT_CTRL.ENABLE (ix i 0), .rw), (FAB_PORT_CTRL.RETRAIN (ix i 0), .wo), (FAB_PORT_CTRL.RETIRE (ix i 0), .wo), (FAB_PORT_CTRL.RETURN (ix i 0), .wo)] },
  { base := 0x90100, dims := [(8, 16)], tile := false, shared := false,
    flds := fun _ i => [(FAB_PORT_ERR.CRC (ix i 0), .ro), (FAB_PORT_ERR.RETRIES (ix i 0), .ro), (FAB_PORT_ERR.LINK_DOWNS (ix i 0), .ro)] },
  { base := 0x90180, dims := [(8, 16)], tile := false, shared := false,
    flds := fun _ i => [(FAB_PORT_MARGIN.EYE_MV (ix i 0), .ro), (FAB_PORT_MARGIN.EYE_UI (ix i 0), .ro), (FAB_PORT_MARGIN.WORST_LANE (ix i 0), .ro)] },
  { base := 0x90200, dims := [], tile := false, shared := false,
    flds := fun _ _ => [(FAB_VC_CFG.CREDITS, .rws)] },
  { base := 0x90208, dims := [], tile := false, shared := false,
    flds := fun _ _ => [(FAB_CFG.CADENCE_DOMAIN, .rw), (FAB_CFG.EPOCH_HOPS, .rw)] },
  { base := 0x91000, dims := [(8, 4096)], tile := false, shared := false,
    flds := fun _ i => [(FAB_ROUTE.PORTS (ix i 0), .rw), (FAB_ROUTE.VIA (ix i 0), .rw)] },
  { base := 0x90300, dims := [], tile := false, shared := false,
    flds := fun _ _ => [(FAB_EPOCH_FOREIGN.COUNT, .ro)] },
  { base := 0x90308, dims := [], tile := false, shared := false,
    flds := fun _ _ => [(FAB_MISROUTED.COUNT, .ro)] }]

def regMap17 : List WReg := [
  { base := 0x90310, dims := [], tile := false, shared := false,
    flds := fun _ _ => [(FAB_AUTH_FAILS.COUNT, .ro)] },
  { base := 0x90318, dims := [], tile := false, shared := false,
    flds := fun _ _ => [(FAB_DROP_NOTICES.COUNT, .ro)] },
  { base := 0x90320, dims := [], tile := false, shared := false,
    flds := fun _ _ => [(FAB_RESENT.COUNT, .ro)] },
  { base := 0x90328, dims := [], tile := false, shared := false,
    flds := fun _ _ => [(FAB_CMD_IGNORED.COUNT, .ro)] },
  { base := 0x80000, dims := [], tile := false, shared := false,
    flds := fun _ _ => [(DIR_SELF.MODULE_ID, .rw), (DIR_SELF.JOIN, .wo), (DIR_SELF.STANDALONE, .wo), (DIR_SELF.LEAVE, .wo), (DIR_SELF.STATE, .ro)] },
  { base := 0x80008, dims := [], tile := false, shared := false,
    flds := fun _ _ => [(DIR_VIEW.VIEW, .ro), (DIR_VIEW.MEMBERS, .ro), (DIR_VIEW.STEWARD, .ro), (DIR_VIEW.FOREIGN_VIEW, .ro)] },
  { base := 0x80010, dims := [], tile := false, shared := false,
    flds := fun _ _ => [(DIR_TIMING.SUSPECT_TICKS, .lt), (DIR_TIMING.ISOLATE_TICKS, .lt), (DIR_TIMING.LEASE_TICKS, .lt), (DIR_TIMING.RENEW_TICKS, .lt), (DIR_TIMING.GUARD_TICKS, .lt), (DIR_TIMING.LOOKUP_WAIT, .lt)] },
  { base := 0x80018, dims := [], tile := false, shared := false,
    flds := fun _ _ => [(DIR_STORE.CAPACITY, .ro), (DIR_STORE.USED, .ro)] },
  { base := 0x80020, dims := [], tile := false, shared := false,
    flds := fun _ _ => [(DIR_ENTRY_TTL.SESSION_ENTRY_TICKS, .lt)] },
  { base := 0x80028, dims := [], tile := false, shared := false,
    flds := fun _ _ => [(DIR_MIRROR.HELD, .ro), (DIR_MIRROR.ADOPTING, .ro), (DIR_MIRROR.MIRROR_AUDIT_TICKS, .lt)] },
  { base := 0x81000, dims := [(8, 4096)], tile := false, shared := false,
    flds := fun _ i => [(DIR_SHARD.ROLE (ix i 0), .ro), (DIR_SHARD.INDEX (ix i 0), .ro), (DIR_SHARD.LOST (ix i 0), .ro), (DIR_SHARD.TERM (ix i 0), .ro), (DIR_SHARD.ENTRIES (ix i 0), .ro)] },
  { base := 0x80100, dims := [], tile := false, shared := false,
    flds := fun _ _ => [(DIR_LOOKUPS.COUNT, .ro)] }]

def regMap18 : List WReg := [
  { base := 0x80108, dims := [], tile := false, shared := false,
    flds := fun _ _ => [(DIR_COMMITS.COUNT, .ro)] },
  { base := 0x80110, dims := [], tile := false, shared := false,
    flds := fun _ _ => [(DIR_REFUSED.COUNT, .ro)] },
  { base := 0x80118, dims := [], tile := false, shared := false,
    flds := fun _ _ => [(DIR_LOOKUP_TIMEOUTS.COUNT, .ro)] },
  { base := 0x80120, dims := [], tile := false, shared := false,
    flds := fun _ _ => [(DIR_FAILOVERS.COUNT, .ro)] },
  { base := 0x80128, dims := [], tile := false, shared := false,
    flds := fun _ _ => [(DIR_VIEW_CHANGES.COUNT, .ro)] },
  { base := 0x80130, dims := [], tile := false, shared := false,
    flds := fun _ _ => [(DIR_SHARD_LOSSES.COUNT, .ro)] },
  { base := 0x80138, dims := [], tile := false, shared := false,
    flds := fun _ _ => [(DIR_ADOPTIONS.COUNT, .ro)] },
  { base := 0x80140, dims := [], tile := false, shared := false,
    flds := fun _ _ => [(DIR_MIRROR_DROPS.COUNT, .ro)] },
  { base := 0x80148, dims := [], tile := false, shared := false,
    flds := fun _ _ => [(DIR_RECONCILED.COUNT, .ro)] },
  { base := 0xa0000, dims := [], tile := false, shared := false,
    flds := fun _ _ => [(HIF_LINK.RATE, .ro), (HIF_LINK.WIDTH, .ro), (HIF_LINK.FLIT, .ro), (HIF_LINK.SUPPORTED, .ro), (HIF_LINK.CHANGES, .ro)] },
  { base := 0xa0008, dims := [], tile := false, shared := false,
    flds := fun _ _ => [(HIF_BAR4_WINDOW.ADDR, .rw)] },
  { base := 0xa0010, dims := [], tile := false, shared := false,
    flds := fun _ _ => [(HIF_EVQ_BASE.ENABLE, .rw), (HIF_EVQ_BASE.ADDR, .rw)] }]

def regMap19 : List WReg := [
  { base := 0xa0018, dims := [], tile := false, shared := false,
    flds := fun _ _ => [(HIF_EVQ_CFG.LOG2, .rw), (HIF_EVQ_CFG.COAL_ENTRIES, .rw), (HIF_EVQ_CFG.COAL_US, .rw), (HIF_EVQ_CFG.INT_EN, .rw)] },
  { base := 0xa0020, dims := [], tile := false, shared := false,
    flds := fun _ _ => [(HIF_EVQ_PI.ADDR, .rw)] },
  { base := 0xa0028, dims := [], tile := false, shared := false,
    flds := fun _ _ => [(HIF_EVQ_CI.CI, .wo)] },
  { base := 0xa0100, dims := [(8, 256)], tile := false, shared := false,
    flds := fun _ i => [(HIF_FN_CFG.CLASS_MASK (ix i 0), .rw), (HIF_FN_CFG.SESSION_LIMIT (ix i 0), .rw), (HIF_FN_CFG.FENCE_FIRST (ix i 0), .ro), (HIF_FN_CFG.FENCE_COUNT (ix i 0), .ro)] },
  { base := 0xa0900, dims := [(8, 256)], tile := false, shared := false,
    flds := fun _ i => [(HIF_FN_STATUS.STATE (ix i 0), .ro), (HIF_FN_STATUS.SESSIONS (ix i 0), .ro), (HIF_FN_STATUS.ABORTS (ix i 0), .ro), (HIF_FN_STATUS.RESETS (ix i 0), .ro)] },
  { base := 0xa1200, dims := [(8, 16)], tile := false, shared := false,
    flds := fun _ i => [(HIF_MODEL.BOUND (ix i 0), .ro), (HIF_MODEL.LOADED (ix i 0), .ro), (HIF_MODEL.BLOCKS_LOADED (ix i 0), .ro), (HIF_MODEL.BLOCKS (ix i 0), .ro)] },
  { base := 0xa1100, dims := [], tile := false, shared := false,
    flds := fun _ _ => [(HIF_COMMANDS.COUNT, .ro)] },
  { base := 0xa1108, dims := [], tile := false, shared := false,
    flds := fun _ _ => [(HIF_REJECTS.COUNT, .ro)] },
  { base := 0xa1110, dims := [], tile := false, shared := false,
    flds := fun _ _ => [(HIF_HOST_FAULTS.COUNT, .ro)] },
  { base := 0xa1118, dims := [], tile := false, shared := false,
    flds := fun _ _ => [(HIF_EVENT_DROPS.COUNT, .ro)] },
  { base := 0xa1120, dims := [], tile := false, shared := false,
    flds := fun _ _ => [(HIF_COMPLETION_DROPS.COUNT, .ro)] },
  { base := 0xa1128, dims := [], tile := false, shared := false,
    flds := fun _ _ => [(HIF_DISCARDED.COUNT, .ro)] }]

def regMap20 : List WReg := [
  { base := 0xa1130, dims := [], tile := false, shared := false,
    flds := fun _ _ => [(HIF_QP_ERRORS.COUNT, .ro)] },
  { base := 0x10040000, dims := [(2097152, 256), (64, 64)], tile := false, shared := false,
    flds := fun _ i => [(HIF_QP_SQ.LOG2 (ix i 0) (ix i 1), .rw), (HIF_QP_SQ.ADDR (ix i 0) (ix i 1), .rw)] },
  { base := 0x10040008, dims := [(2097152, 256), (64, 64)], tile := false, shared := false,
    flds := fun _ i => [(HIF_QP_CQ.LOG2 (ix i 0) (ix i 1), .rw), (HIF_QP_CQ.ADDR (ix i 0) (ix i 1), .rw)] },
  { base := 0x10040010, dims := [(2097152, 256), (64, 64)], tile := false, shared := false,
    flds := fun _ i => [(HIF_QP_OUT.LOG2 (ix i 0) (ix i 1), .rw), (HIF_QP_OUT.ADDR (ix i 0) (ix i 1), .rw)] },
  { base := 0x10040018, dims := [(2097152, 256), (64, 64)], tile := false, shared := false,
    flds := fun _ i => [(HIF_QP_OUT_PI.ADDR (ix i 0) (ix i 1), .rw)] },
  { base := 0x10040020, dims := [(2097152, 256), (64, 64)], tile := false, shared := false,
    flds := fun _ i => [(HIF_QP_CTRL.ENABLE (ix i 0) (ix i 1), .rw), (HIF_QP_CTRL.CLASS (ix i 0) (ix i 1), .rw), (HIF_QP_CTRL.INT_EN (ix i 0) (ix i 1), .rw), (HIF_QP_CTRL.COAL_ENTRIES (ix i 0) (ix i 1), .rw), (HIF_QP_CTRL.COAL_US (ix i 0) (ix i 1), .rw)] },
  { base := 0x10040028, dims := [(2097152, 256), (64, 64)], tile := false, shared := false,
    flds := fun _ i => [(HIF_QP_STATUS.STATE (ix i 0) (ix i 1), .ro), (HIF_QP_STATUS.SQ_HEAD (ix i 0) (ix i 1), .ro), (HIF_QP_STATUS.CQ_TAIL (ix i 0) (ix i 1), .ro), (HIF_QP_STATUS.CAUSE (ix i 0) (ix i 1), .ro)] },
  { base := 0x10040030, dims := [(2097152, 256), (64, 64)], tile := false, shared := false,
    flds := fun _ i => [(HIF_QP_OUT_STATUS.PI (ix i 0) (ix i 1), .ro), (HIF_QP_OUT_STATUS.PENDING_EVENTS (ix i 0) (ix i 1), .ro)] },
  { base := 0x2c0000, dims := [(8, 16384)], tile := false, shared := false,
    flds := fun _ i => [(FEN_VALUE.VALUE (ix i 0), .ro)] },
  { base := 0x2e0000, dims := [], tile := false, shared := false,
    flds := fun _ _ => [(FEN_RESET.FENCE, .wo)] },
  { base := 0x2e0008, dims := [], tile := false, shared := false,
    flds := fun _ _ => [(FEN_STATUS.WAITS, .ro)] },
  { base := 0x2e0010, dims := [], tile := false, shared := false,
    flds := fun _ _ => [(FEN_SIGNALS.COUNT, .ro)] }]

def regMap21 : List WReg := [
  { base := 0x2e0018, dims := [], tile := false, shared := false,
    flds := fun _ _ => [(FEN_STALE_SETS.COUNT, .ro)] },
  { base := 0x2e0020, dims := [], tile := false, shared := false,
    flds := fun _ _ => [(FEN_TIMEOUTS.COUNT, .ro)] },
  { base := 0xb0000, dims := [], tile := false, shared := false,
    flds := fun _ _ => [(ALM_STAGE_CTRL.OP, .wo)] },
  { base := 0xb0008, dims := [], tile := false, shared := false,
    flds := fun _ _ => [(ALM_STAGE_ADDR.ADDR, .rw)] },
  { base := 0xb0010, dims := [], tile := false, shared := false,
    flds := fun _ _ => [(ALM_STAGE_GEN.GEN, .rw)] },
  { base := 0xb0018, dims := [], tile := false, shared := false,
    flds := fun _ _ => [(ALM_STAGE_STATUS.STAGE_STATE, .ro), (ALM_STAGE_STATUS.BUSY, .ro), (ALM_STAGE_STATUS.DIRTY, .ro), (ALM_STAGE_STATUS.BOOT, .ro), (ALM_STAGE_STATUS.STATUS, .ro), (ALM_STAGE_STATUS.FAIL_SECTION, .ro), (ALM_STAGE_STATUS.FAIL_CHECK, .ro), (ALM_STAGE_STATUS.GEN, .ro)] },
  { base := 0xb0020, dims := [], tile := false, shared := false,
    flds := fun _ _ => [(ALM_COMMITTED.GEN, .ro), (ALM_COMMITTED.APPLIES, .ro)] },
  { base := 0xb0028, dims := [], tile := false, shared := false,
    flds := fun _ _ => [(ALM_WRITE_LOG.OFFSET, .ro), (ALM_WRITE_LOG.COUNT, .ro), (ALM_WRITE_LOG.VALID, .w1c)] },
  { base := 0xb0030, dims := [], tile := false, shared := false,
    flds := fun _ _ => [(ALM_APPLY_LOG.REGION, .ro), (ALM_APPLY_LOG.STATUS, .ro), (ALM_APPLY_LOG.GEN, .ro), (ALM_APPLY_LOG.VALID, .w1c)] },
  { base := 0xb0038, dims := [], tile := false, shared := false,
    flds := fun _ _ => [(ALM_BOOT.A_GEN, .ro), (ALM_BOOT.B_GEN, .ro)] },
  { base := 0xb0100, dims := [], tile := false, shared := false,
    flds := fun _ _ => [(ALM_FW_CTRL.OP, .wo)] },
  { base := 0xb0108, dims := [], tile := false, shared := false,
    flds := fun _ _ => [(ALM_FW_ADDR.ADDR, .rw)] }]

def regMap22 : List WReg := [
  { base := 0xb0110, dims := [], tile := false, shared := false,
    flds := fun _ _ => [(ALM_FW_STATUS.SLOT_A, .ro), (ALM_FW_STATUS.SLOT_B, .ro), (ALM_FW_STATUS.RUNNING, .ro), (ALM_FW_STATUS.BUSY, .ro), (ALM_FW_STATUS.STATUS, .ro), (ALM_FW_STATUS.A_SVN, .ro), (ALM_FW_STATUS.B_SVN, .ro)] },
  { base := 0xc0000, dims := [], tile := false, shared := false,
    flds := fun _ _ => [(REL_CFG.CH_UE_LIMIT, .lt), (REL_CFG.STACK_CH_LIMIT, .lt), (REL_CFG.RELOAD_CLASS, .lt)] },
  { base := 0xc0008, dims := [], tile := false, shared := false,
    flds := fun _ _ => [(REL_UE_WINDOW.CH_UE_WINDOW, .lt)] },
  { base := 0xc0010, dims := [], tile := false, shared := false,
    flds := fun _ _ => [(REL_SCRUB.REPLICA_MBPS, .lt), (REL_SCRUB.ENABLE, .lt)] },
  { base := 0xc0018, dims := [], tile := false, shared := false,
    flds := fun _ _ => [(REL_CMD.OP, .wo), (REL_CMD.TARGET, .wo)] },
  { base := 0xc0020, dims := [], tile := false, shared := false,
    flds := fun _ _ => [(REL_CMD_STATUS.BUSY, .ro), (REL_CMD_STATUS.STATUS, .ro), (REL_CMD_STATUS.ROW, .ro)] },
  { base := 0xc0028, dims := [], tile := false, shared := false,
    flds := fun _ _ => [(REL_CKPT_STATUS.PHASE, .ro), (REL_CKPT_STATUS.OP, .ro), (REL_CKPT_STATUS.STAGED_GIB, .ro), (REL_CKPT_STATUS.ID_LOW, .ro)] },
  { base := 0xc0030, dims := [], tile := false, shared := false,
    flds := fun _ _ => [(REL_CKPT_TIMES.CAPTURE_US, .ro), (REL_CKPT_TIMES.DURABLE_MS, .ro)] },
  { base := 0xc0038, dims := [], tile := false, shared := false,
    flds := fun _ _ => [(REL_DF_WINDOW.PERIOD, .lt), (REL_DF_WINDOW.PHASE, .lt), (REL_DF_WINDOW.LENGTH, .lt), (REL_DF_WINDOW.ENABLE, .lt)] },
  { base := 0xc0040, dims := [], tile := false, shared := false,
    flds := fun _ _ => [(REL_DF_CFG.BANK_TEST_TICKS, .lt), (REL_DF_CFG.FAB_EYE_MV, .lt), (REL_DF_CFG.FAB_EYE_UI, .lt)] },
  { base := 0xc0048, dims := [], tile := false, shared := false,
    flds := fun _ _ => [(REL_DF_STATUS.OLDEST_MS, .ro), (REL_DF_STATUS.PASSES, .ro)] },
  { base := 0xc0100, dims := [], tile := false, shared := false,
    flds := fun _ _ => [(REL_REWRITES.COUNT, .ro)] }]

def regMap23 : List WReg := [
  { base := 0xc0108, dims := [], tile := false, shared := false,
    flds := fun _ _ => [(REL_DIVERGENCE.COUNT, .ro)] },
  { base := 0xc0110, dims := [], tile := false, shared := false,
    flds := fun _ _ => [(REL_PEN_RESETS.COUNT, .ro)] },
  { base := 0xc0118, dims := [], tile := false, shared := false,
    flds := fun _ _ => [(REL_GRAMMAR_RESETS.COUNT, .ro)] },
  { base := 0xc0120, dims := [], tile := false, shared := false,
    flds := fun _ _ => [(REL_STOPS_CLEARED.COUNT, .ro)] },
  { base := 0xc0128, dims := [], tile := false, shared := false,
    flds := fun _ _ => [(REL_TABLE_FAULTS.COUNT, .ro)] },
  { base := 0xc0130, dims := [], tile := false, shared := false,
    flds := fun _ _ => [(REL_POISON_OUT.COUNT, .ro)] },
  { base := 0xc0138, dims := [], tile := false, shared := false,
    flds := fun _ _ => [(REL_CHANNELS_RETIRED.COUNT, .ro)] },
  { base := 0xc0140, dims := [], tile := false, shared := false,
    flds := fun _ _ => [(REL_DEEP_RETIRED.COUNT, .ro)] },
  { base := 0xc0148, dims := [], tile := false, shared := false,
    flds := fun _ _ => [(REL_TILE_OFFLINES.COUNT, .ro)] },
  { base := 0xc0150, dims := [], tile := false, shared := false,
    flds := fun _ _ => [(REL_RESHARD_BYTES.COUNT, .ro)] },
  { base := 0xc0158, dims := [], tile := false, shared := false,
    flds := fun _ _ => [(REL_HELD_WRITES.COUNT, .ro)] },
  { base := 0xc0160, dims := [], tile := false, shared := false,
    flds := fun _ _ => [(REL_CKPT_DONE.COUNT, .ro)] }]

def regMap24 : List WReg := [
  { base := 0xc0168, dims := [], tile := false, shared := false,
    flds := fun _ _ => [(REL_CKPT_FAILED.COUNT, .ro)] },
  { base := 0xc0170, dims := [], tile := false, shared := false,
    flds := fun _ _ => [(REL_CKPT_BLOCKS_LOST.COUNT, .ro)] },
  { base := 0xc0178, dims := [], tile := false, shared := false,
    flds := fun _ _ => [(REL_DF_SLICES.COUNT, .ro)] },
  { base := 0xc0180, dims := [], tile := false, shared := false,
    flds := fun _ _ => [(REL_DF_FAILS.COUNT, .ro)] },
  { base := 0xd0000, dims := [], tile := false, shared := false,
    flds := fun _ _ => [(SEC_ID_STATUS.PUF_OK, .ro), (SEC_ID_STATUS.PUF_RETRIES, .ro), (SEC_ID_STATUS.RECORD_OK, .ro), (SEC_ID_STATUS.RECORD_COPY, .ro), (SEC_ID_STATUS.CERT_OK, .ro), (SEC_ID_STATUS.OWNER_OK, .ro), (SEC_ID_STATUS.OWNER_KEYS, .ro), (SEC_ID_STATUS.OWNER_SVN, .ro)] },
  { base := 0xd0008, dims := [], tile := false, shared := false,
    flds := fun _ _ => [(SEC_CFG.LINK_OPEN, .rw), (SEC_CFG.IDE_REQUIRED, .rw), (SEC_CFG.LOCK, .rw), (SEC_CFG.MIRROR_JOB, .rw)] },
  { base := 0xd0010, dims := [], tile := false, shared := false,
    flds := fun _ _ => [(SEC_TRUST_ADDR.ADDR, .rw)] },
  { base := 0xd0018, dims := [], tile := false, shared := false,
    flds := fun _ _ => [(SEC_TRUST_COUNT.COUNT, .rw)] },
  { base := 0xd0020, dims := [], tile := false, shared := false,
    flds := fun _ _ => [(SEC_KX_CTRL.OP, .wo), (SEC_KX_CTRL.JOB, .wo), (SEC_KX_CTRL.PEER, .wo)] },
  { base := 0xd0028, dims := [], tile := false, shared := false,
    flds := fun _ _ => [(SEC_KX_ADDR.ADDR, .rw)] },
  { base := 0xd0030, dims := [], tile := false, shared := false,
    flds := fun _ _ => [(SEC_KX_STATUS.BUSY, .ro), (SEC_KX_STATUS.STATUS, .ro), (SEC_KX_STATUS.PENDING, .ro), (SEC_KX_STATUS.PAIRS, .ro)] },
  { base := 0xd0038, dims := [], tile := false, shared := false,
    flds := fun _ _ => [(SEC_KEYS.SESSION_KEYS, .ro), (SEC_KEYS.MODEL_KEYS, .ro)] }]

def regMap25 : List WReg := [
  { base := 0xd0100, dims := [(8, 128)], tile := false, shared := false,
    flds := fun _ i => [(SEC_JOB.OPEN (ix i 0), .ro), (SEC_JOB.PEERS (ix i 0), .ro), (SEC_JOB.RATCHETS (ix i 0), .ro)] },
  { base := 0xd0500, dims := [], tile := false, shared := false,
    flds := fun _ _ => [(SEC_AUTH_FAILS.COUNT, .ro)] },
  { base := 0xd0508, dims := [], tile := false, shared := false,
    flds := fun _ _ => [(SEC_KX_FAILS.COUNT, .ro)] },
  { base := 0xd0510, dims := [], tile := false, shared := false,
    flds := fun _ _ => [(SEC_LINK_FAILS.COUNT, .ro)] },
  { base := 0xd0518, dims := [], tile := false, shared := false,
    flds := fun _ _ => [(SEC_REPLAYS.COUNT, .ro)] },
  { base := 0xd0520, dims := [], tile := false, shared := false,
    flds := fun _ _ => [(SEC_UNWRAP_FAILS.COUNT, .ro)] },
  { base := 0xd0528, dims := [], tile := false, shared := false,
    flds := fun _ _ => [(SEC_IDE_BLOCKED.COUNT, .ro)] },
  { base := 0xd0530, dims := [], tile := false, shared := false,
    flds := fun _ _ => [(SEC_SPDM_ERRORS.COUNT, .ro)] },
  { base := 0xe0000, dims := [], tile := false, shared := false,
    flds := fun _ _ => [(MGT_STATUS.FW_STATE, .ro), (MGT_STATUS.PCIE_EID, .ro), (MGT_STATUS.I3C_EID, .ro), (MGT_STATUS.I3C_ADDR, .ro), (MGT_STATUS.RESTARTS, .ro)] },
  { base := 0xe0008, dims := [], tile := false, shared := false,
    flds := fun _ _ => [(MGT_CAP.HOST_CAP_W, .lt), (MGT_CAP.MGMT_CAP_W, .ro), (MGT_CAP.APPLIED_W, .ro), (MGT_CAP.W0_W, .ro)] },
  { base := 0xe0010, dims := [], tile := false, shared := false,
    flds := fun _ _ => [(MGT_POWER.MEAN_DW, .ro), (MGT_POWER.PEAK_DW, .ro)] },
  { base := 0xe0018, dims := [], tile := false, shared := false,
    flds := fun _ _ => [(MGT_ENERGY.ENERGY_MJ, .ro)] }]

def regMap26 : List WReg := [
  { base := 0xe0020, dims := [], tile := false, shared := false,
    flds := fun _ _ => [(MGT_LEVERS.L1, .ro), (MGT_LEVERS.L2_STEPS, .ro), (MGT_LEVERS.L3_HELD, .ro), (MGT_LEVERS.L4, .ro), (MGT_LEVERS.POWER, .ro), (MGT_LEVERS.CHANGES, .ro)] },
  { base := 0xe0028, dims := [], tile := false, shared := false,
    flds := fun _ _ => [(MGT_TEMP.TILE_C, .ro), (MGT_TEMP.HUB_C, .ro), (MGT_TEMP.DEEP_C, .ro)] },
  { base := 0xe0030, dims := [], tile := false, shared := false,
    flds := fun _ _ => [(MGT_MCTP_DROPS.COUNT, .ro)] },
  { base := 0xe0100, dims := [(8, 12)], tile := false, shared := false,
    flds := fun _ i => [(MGT_DOMAIN_POWER.MEAN_DW (ix i 0), .ro), (MGT_DOMAIN_POWER.PEAK_DW (ix i 0), .ro)] },
  { base := 0xf0000, dims := [], tile := false, shared := false,
    flds := fun _ _ => [(DBG_TRACE_BASE.ENABLE, .rw), (DBG_TRACE_BASE.STOP_MODE, .rw), (DBG_TRACE_BASE.ADDR, .rw)] },
  { base := 0xf0008, dims := [], tile := false, shared := false,
    flds := fun _ _ => [(DBG_TRACE_SIZE.LOG2, .rw)] },
  { base := 0xf0010, dims := [], tile := false, shared := false,
    flds := fun _ _ => [(DBG_TRACE_FILTER.EVENTS, .lt), (DBG_TRACE_FILTER.PARTITION, .lt), (DBG_TRACE_FILTER.FUNCTION, .lt), (DBG_TRACE_FILTER.ALL_FN, .lt), (DBG_TRACE_FILTER.TILE_MASK, .lt)] },
  { base := 0xf0018, dims := [], tile := false, shared := false,
    flds := fun _ _ => [(DBG_TRACE_LAYER.LAYER_LO, .lt), (DBG_TRACE_LAYER.LAYER_HI, .lt), (DBG_TRACE_LAYER.OPERATOR, .lt)] },
  { base := 0xf0020, dims := [], tile := false, shared := false,
    flds := fun _ _ => [(DBG_TRACE_STATUS.WRITTEN, .ro), (DBG_TRACE_STATUS.WRAPPED, .ro), (DBG_TRACE_STATUS.STOPPED, .ro), (DBG_TRACE_STATUS.DROPPED, .ro)] },
  { base := 0xf0100, dims := [], tile := false, shared := false,
    flds := fun _ _ => [(DBG_DUMP_CTRL.OP, .wo), (DBG_DUMP_CTRL.SLOT, .wo)] },
  { base := 0xf0108, dims := [], tile := false, shared := false,
    flds := fun _ _ => [(DBG_DUMP_ADDR.ADDR, .rw)] },
  { base := 0xf0110, dims := [], tile := false, shared := false,
    flds := fun _ _ => [(DBG_DUMP_STATUS.BUSY, .ro), (DBG_DUMP_STATUS.STATUS, .ro), (DBG_DUMP_STATUS.HELD, .ro), (DBG_DUMP_STATUS.LATEST, .ro)] }]

def regMap27 : List WReg := [
  { base := 0xf0118, dims := [], tile := false, shared := false,
    flds := fun _ _ => [(DBG_DUMP_CFG.ENGINE_STALL_MS, .lt)] },
  { base := 0xf0200, dims := [], tile := false, shared := false,
    flds := fun _ _ => [(DBG_DUMPS_DROPPED.COUNT, .ro)] },
  { base := 0xf0208, dims := [], tile := false, shared := false,
    flds := fun _ _ => [(DBG_ENGINE_STALLS.COUNT, .ro)] },
  { base := 0xf0210, dims := [], tile := false, shared := false,
    flds := fun _ _ => [(DBG_TRACE_RECORDS.COUNT, .ro)] },
  { base := 0x0, dims := [], tile := false, shared := false,
    flds := fun _ _ => [(HUB_PART_ID.VENDOR_CODE, .ro), (HUB_PART_ID.PART_CODE, .ro), (HUB_PART_ID.STEPPING, .ro), (HUB_PART_ID.POWER_GRADE, .ro)] },
  { base := 0x8, dims := [], tile := false, shared := false,
    flds := fun _ _ => [(HUB_DOMAIN_STATUS.TILE_ONLINE, .ro), (HUB_DOMAIN_STATUS.TILE_DRAINING, .ro), (HUB_DOMAIN_STATUS.TILE_PRESENT, .ro), (HUB_DOMAIN_STATUS.HUB_OK, .ro), (HUB_DOMAIN_STATUS.MGT_RUNNING, .ro), (HUB_DOMAIN_STATUS.DEEP_DEGRADED, .ro), (HUB_DOMAIN_STATUS.STACK_ONLINE, .ro)] },
  { base := 0x10, dims := [], tile := false, shared := false,
    flds := fun _ _ => [(HUB_DOMAIN_CHANGE.TILE_CHANGED, .w1c), (HUB_DOMAIN_CHANGE.STACK_CHANGED, .w1c), (HUB_DOMAIN_CHANGE.MGT_CHANGED, .w1c), (HUB_DOMAIN_CHANGE.DEEP_CHANGED, .w1c)] },
  { base := 0x18, dims := [], tile := false, shared := false,
    flds := fun _ _ => [(HUB_BAR4_DISCARD.COUNT, .ro), (HUB_BAR4_DISCARD.LAST_REGION, .ro)] },
  { base := 0x30000, dims := [], tile := false, shared := false,
    flds := fun _ _ => [(SES_CTRL.EVICT_EN, .rws), (SES_CTRL.EXPIRE_EN, .rws), (SES_CTRL.INIT_DONE, .ro), (SES_CTRL.MODULE_ID, .ro)] },
  { base := 0x30100, dims := [(8, 8)], tile := false, shared := false,
    flds := fun _ i => [(SES_CLASS_CFG.RESERVE_GIB (ix i 0), .rws), (SES_CLASS_CFG.KV_CAP (ix i 0), .rws), (SES_CLASS_CFG.DEMOTE (ix i 0), .rws), (SES_CLASS_CFG.HOST_PARK (ix i 0), .rws), (SES_CLASS_CFG.DEEP_SHARE (ix i 0), .rws)] },
  { base := 0x140c00, dims := [(8, 255)], tile := true, shared := true,
    flds := fun _ i => [(ARY_PART_STATUS.ARRAYS (ix i 0), .ro), (ARY_PART_STATUS.TILES (ix i 0), .ro), (ARY_PART_STATUS.DEFINED (ix i 0), .ro), (ARY_PART_STATUS.SWAPPING (ix i 0), .ro), (ARY_PART_STATUS.DEGRADED (ix i 0), .ro), (ARY_PART_STATUS.CLASS0 (ix i 0), .ro), (ARY_PART_STATUS.STEP_FAILS (ix i 0), .ro), (ARY_PART_STATUS.SWAPS (ix i 0), .ro)] },
  { base := 0x1c0040, dims := [], tile := true, shared := false,
    flds := fun t _ => [(SEL_LAST_REJECT.LAYER t, .ro), (SEL_LAST_REJECT.OPERATOR t, .ro), (SEL_LAST_REJECT.ARRAY t, .ro), (SEL_LAST_REJECT.CHECK t, .ro), (SEL_LAST_REJECT.VALID t, .w1c)] }]

def regMap28 : List WReg := [
  { base := 0xb1000, dims := [(8, 608)], tile := false, shared := false,
    flds := fun _ i => [(ALM_REGION.COMMITTED_GEN (ix i 0), .ro), (ALM_REGION.CHANGED (ix i 0), .ro), (ALM_REGION.INDEPENDENT (ix i 0), .ro), (ALM_REGION.IN_USE (ix i 0), .ro), (ALM_REGION.COMPLETING (ix i 0), .ro)] },
  { base := 0x20, dims := [], tile := false, shared := false,
    flds := fun _ _ => [(HUB_BOOT_STATUS.STAGE, .ro), (HUB_BOOT_STATUS.STOP_CODE, .ro), (HUB_BOOT_STATUS.LAST_RESET, .ro), (HUB_BOOT_STATUS.SLOT_ID, .ro), (HUB_BOOT_STATUS.HUB_OK_MS, .ro)] },
  { base := 0x28, dims := [], tile := false, shared := false,
    flds := fun _ _ => [(HUB_EDGE_CFG.OD_EDGE, .rw), (HUB_EDGE_CFG.I3C_EDGE, .rw)] }]

def regMap : List WReg := regMap0 ++ regMap1 ++ regMap2 ++ regMap3 ++ regMap4 ++ regMap5 ++ regMap6 ++ regMap7 ++ regMap8 ++ regMap9 ++ regMap10 ++ regMap11 ++ regMap12 ++ regMap13 ++ regMap14 ++ regMap15 ++ regMap16 ++ regMap17 ++ regMap18 ++ regMap19 ++ regMap20 ++ regMap21 ++ regMap22 ++ regMap23 ++ regMap24 ++ regMap25 ++ regMap26 ++ regMap27 ++ regMap28

/-- The indices an offset from a register's base stands for. -/
def unstride : List (Nat × Nat) → Nat → Option (List Nat)
  | [], o => if o = 0 then some [] else none
  | (stride, n) :: r, o => if o / stride < n then (unstride r (o % stride)).map (o / stride :: ·) else none
/-- The offset lies in a block with an instance for each tile; and its tile (R563). -/
def perTile (off : Nat) : Bool := decide (0x10_0000 ≤ off) && decide (off < 0x2C_0000)
def instTile (off : Nat) : Nat := if perTile off then off / 0x1_0000 % 4 else 0
/-- The register at an offset, with its tile and indices. -/
def regAt (off : Nat) : Option (WReg × Nat × List Nat) :=
  let t := instTile off
  let o := off - 0x1_0000 * t
  regMap.findSome? fun r => if o < r.base ∨ r.tile != perTile off then none else (unstride r.dims (o - r.base)).map fun i => (r, t, i)

end Sys2Proof.Machine
end

