-- ==== Sys2Proof/Machine/Startup.lean ====
section
/-!
DEFINITION. Sys2Proof/Machine/Startup.lean: power, reset pins, thermal limits and start-up (R543 to R560), and function-level resets (R403).
-/
namespace Sys2Proof.Machine

/-! ## Power and resets (R543, R552, R553) -/

/-- PWR_EN: rising is a cold start, falling removes the main rails; a level it already has is nothing. -/
def pwrEn (high : Bool) (s : State) : State :=
  if high = s.pow.pwrEn then s
  else
    let s := { s with pow := { s.pow with pwrEn := high } }
    if !high then railsOff s else if s.pow.p54v then coldStart s else s
def execPwrEn (high : Bool) (s : State) : Host.Outcome State Fault Refusal := .next (pwrEn high s)

/-- P54V_CHANGE: applied, the straps are sampled, and with PWR_EN high this is a cold start; below 36 V the standby domain is lost too. -/
def p54vChange (on : Bool) (slotId : Nat) (s : State) : State :=
  if on = s.pow.p54v then s
  else if on then
    let s := { s with pow := { s.pow with p54v := true, slotId := slotId % 8 } }
    if s.pow.pwrEn then coldStart s else s
  else
    let t := railsOff s
    { t with pow := { t.pow with p54v := false, tripLatch := false, brownoutLatch := false } }
def execP54vChange (on : Bool) (slotId : Nat) (s : State) : Host.Outcome State Fault Refusal := .next (p54vChange on slotId s)

/-- BROWNOUT: the rails go, and the cause is latched. -/
def brownout (s : State) : State :=
  if pwrGood s then railsOff { s with pow := { s.pow with brownoutLatch := true } } else s
def execBrownout (s : State) : Host.Outcome State Fault Refusal := .next (brownout s)

/-- A pin that holds the module in reset while low. -/
def perstN (high : Bool) (s : State) : State :=
  if high = !s.pow.perst then s
  else
    let s := { s with pow := { s.pow with perst := !high } }
    if !high && pwrGood s then heldReset 1 s else s
def execPerstN (high : Bool) (s : State) : Host.Outcome State Fault Refusal := .next (perstN high s)
def modRstN (high : Bool) (s : State) : State :=
  if high = !s.pow.modRst then s
  else
    let s := { s with pow := { s.pow with modRst := !high } }
    if !high && pwrGood s then heldReset 3 s else s
def execModRstN (high : Bool) (s : State) : Host.Outcome State Fault Refusal := .next (modRstN high s)
def execPcieHotReset (s : State) : Host.Outcome State Fault Refusal := whenLive s (heldReset 1)
def execHubFault (s : State) : Host.Outcome State Fault Refusal := whenLive s hubFault

/-- A function-level reset: of the PF a reset with power held, of a VF an abort and what R403 adds. -/
def fnReset (f : Nat) (s : State) : State :=
  if f = 0 then heldReset 2 s else if serving s && decide (f < 256) then abortFn f none true s else s
def execFunctionLevelReset (fn : Nat) (s : State) : Host.Outcome State Fault Refusal := whenLive s (fnReset fn)
/-- NUMVFS_CHANGE: each VF that is added is enabled, each that is removed is reset. -/
def numVfsChange (n : Nat) (s : State) : State :=
  let gone := ((List.range 256).filter fun f => decide (n < f) && decide (f ≤ s.numVfs))
  let new := (List.range 256).filter fun f => decide (s.numVfs < f) && decide (f ≤ n)
  let s := new.foldl (fun s f => wr (HIF_FN_STATUS.STATE f) 1 s) { s with numVfs := min n 255 }
  if serving s then gone.foldl (fun s f => abortFn f none true s) s else s
def execNumvfsChange (count : Nat) (s : State) : Host.Outcome State Fault Refusal := whenLive s (numVfsChange count)

/-! ## Thermal limits (R550 to R552) -/

/-- Operating, critical and trip limit of a kind of sensor, and how many there are. -/
def limits (kind : Nat) : Option (Nat × Nat × Nat × Nat) :=
  match kind with
  | 1 => some (95, 100, 105, 24)
  | 2 => some (105, 110, 115, 4)
  | 3 => some (100, 105, 110, 1)
  | 4 => some (95, 100, 105, 24)
  | _ => none
/-- Event 0x0025, and what follows from the sensors above critical: POWER, and the clocks of the tiles. -/
def criticalEv (kind index entered temp : Nat) (s : State) : State :=
  postPf 0x0025 0x17 sOk (kind * 2 ^ 24 + index * 2 ^ 8 + entered) temp (showPower s)
/-- CRITICAL_LIMIT: a reading above the critical limit enters the critical state, one 5 °C or more below leaves it. -/
def criticalLimit (kind index temp : Nat) (s : State) : State :=
  match limits kind with
  | none => s
  | some (_, c, _, n) =>
    let k := kind * 0x10000 + index
    if n ≤ index then s
    else if c < temp ∧ ¬ s.pow.critical.contains k then
      criticalEv kind index 1 temp { s with pow := { s.pow with critical := s.pow.critical ++ [k] } }
    else if temp + 5 ≤ c ∧ s.pow.critical.contains k then
      criticalEv kind index 0 temp { s with pow := { s.pow with critical := s.pow.critical.filter (· != k) } }
    else s
def execCriticalLimit (kind index temp : Nat) (s : State) : Host.Outcome State Fault Refusal := whenLive s (criticalLimit kind index temp)
/-- THERMAL_TRIP: the trip is latched in the standby domain and the main rails go. -/
def thermalTrip (kind index temp : Nat) (s : State) : State :=
  match limits kind with
  | none => s
  | some (_, _, t, n) => if index < n ∧ t ≤ temp ∧ pwrGood s then railsOff { s with pow := { s.pow with tripLatch := true } } else s
def execThermalTrip (kind index temp : Nat) (s : State) : Host.Outcome State Fault Refusal := .next (thermalTrip kind index temp s)

/-! ## Start-up (R554 to R557) -/

/-- Start-up stops (R556): every fabric port is held DOWN. -/
def stopStart (code : Nat) (s : State) : State :=
  let s := (List.range 16).foldl (fun s p => setPort p pDown 0 s) s
  wr HUB_BOOT_STATUS.STAGE 0xF (wr HUB_BOOT_STATUS.STOP_CODE code s)
/-- Start-up goes on. -/
def starting (s : State) : Bool := rd HUB_BOOT_STATUS.STOP_CODE s == 0 && !isSet HUB_DOMAIN_STATUS.HUB_OK s

/-- Row 3: the PUF, the identity record and the owner record (R494, R495, R498). -/
def bootIdentity (r : BootResult) (s : State) : State :=
  let s := match r.puf with
    | some n => wr SEC_ID_STATUS.PUF_OK 1 (wr SEC_ID_STATUS.PUF_RETRIES n s)
    | none => wr SEC_ID_STATUS.PUF_OK 0 (wr SEC_ID_STATUS.PUF_RETRIES 2 s)
  let s := match r.record with
    | some c => wr SEC_ID_STATUS.RECORD_OK 1 (wr SEC_ID_STATUS.RECORD_COPY c s)
    | none => s
  let s := wr SEC_ID_STATUS.CERT_OK (b2n (r.cert && r.puf.isSome && r.record.isSome)) s
  let keep := fun (ok : Bool) (o : Option (Nat × Nat)) => if ok then o else none
  showOwner { s with adm.ownA := keep r.ownerA s.adm.ownA, adm.ownB := keep r.ownerB s.adm.ownB }
/-- Row 5: each array passes its test, or is RETIRED (R166). -/
def bootArrays (r : BootResult) (s : State) : State :=
  let bad := fun a => r.faulty.contains a || r.badArrays.contains a
  let s := (List.range 4).foldl (fun s t => (tileArrays t).foldl (fun s a =>
    if bad a then wr (ARY_STATUS.STATE t (a % 512)) aRetired s
    else if arrState a s = aTesting then wr (ARY_STATUS.STATE t (a % 512)) aSpare s else s) s) s
  (List.range 4).foldl (fun s t => rankPassed t s) s
/-- A tile is present (R557). -/
def bootTile (r : BootResult) (s : State) (t : Nat) : Bool :=
  decide (336 ≤ ((tileArrays t).filter fun a => arrState a s == aEnabled || arrState a s == aSpare).length) &&
    !(r.badStacks.any fun st => st / 6 == t) && !r.badBridges.contains t
/-- Deep-tier channels after training: those found working serve (R90, R101, R123). -/
def bootDeep (r : BootResult) (s : State) : State :=
  let ok := (List.range 96).filter fun k => !r.badDeep.contains k
  let s := ok.foldl (fun s k =>
    let m := r.margins.getD k (0, 0, 0)
    setDeepOnline k true (trained k m.1 m.2.1 m.2.2 s)) s
  let s := ((List.range 96).filter fun k => r.badDeep.contains k).foldl (fun s k => setDeepRetired k true (bump REL_DEEP_RETIRED.COUNT 1 s)) s
  showDeep (wr DPT_CAPACITY.ALLOC_MIB ((ok.length - 1) * 32768) s)
/-- The domains come into service in one update of HUB_DOMAIN_STATUS, with one record (R30, R31). -/
def bootDomains (tiles : List Nat) (s : State) : State :=
  let tm := (tiles.map (2 ^ ·)).sum
  let sm := (((List.range 24).filter fun st => tiles.contains (st / 6)).map (2 ^ ·)).sum
  let dd := (List.range 96).any fun k => deepRetired k s
  let s := wr HUB_DOMAIN_STATUS.TILE_PRESENT tm (wr HUB_DOMAIN_STATUS.TILE_ONLINE tm (wr HUB_DOMAIN_STATUS.STACK_ONLINE sm
    (wr HUB_DOMAIN_STATUS.DEEP_DEGRADED (b2n dd) (wr HUB_DOMAIN_STATUS.HUB_OK 1 s))))
  let s := wr HUB_DOMAIN_CHANGE.STACK_CHANGED sm (wr HUB_DOMAIN_CHANGE.DEEP_CHANGED (b2n dd) s)
  latchChange HUB_DOMAIN_CHANGE.TILE_CHANGED tm s
/-- Every port whose ENABLE is set begins training (R362). -/
def bootPorts (s : State) : State :=
  (List.range 16).foldl (fun s p => if isSet (FAB_PORT_CTRL.ENABLE p) s then setPort p pTraining 0 (putLink p freshLink s) else s) s

/-- START_UP_ENGINE_DONE: rows 3 and 5 have ended, or start-up stops. -/
def bootDone (r : BootResult) (s : State) : State :=
  if !starting s then s
  else
    let s := wr HUB_BOOT_STATUS.SLOT_ID s.pow.slotId (showBoot (showFw (bootIdentity r s)))
    if r.record = none then stopStart 1 s
    else if !r.hubOk then stopStart 4 s
    else
      let s := bootArrays r s
      let tiles := (List.range 4).filter (bootTile r s)
      if tiles.length < 3 then stopStart 3 (wr HUB_DOMAIN_STATUS.TILE_PRESENT ((tiles.map (2 ^ ·)).sum) s)
      else if 96 < 48 + r.badDeep.eraseDups.length then stopStart 5 s
      else
        let s := wr SES_CTRL.INIT_DONE 1 (wr (SES_STATE_COUNT.COUNT 0) 0x40_0000 (bootDomains tiles (bootDeep r s)))
        let s := wr HUB_BOOT_STATUS.HUB_OK_MS (min r.ms 0xFFFF) { s with pow := { s.pow with hubFaultPending := false } }
        let s := wr HUB_BOOT_STATUS.STAGE (if isSet HUB_DOMAIN_STATUS.MGT_RUNNING s then 7 else 6) s
        let s := bootPorts (c0Refresh (wr (HIF_FN_STATUS.STATE 0) 1 s))
        (r.badChans.filter fun g => tiles.contains (g / 192)).foldl (fun s g => if chRetired g s then s else retireChan g false s) s
def execStartUpEngineDone (r : BootResult) (s : State) : Host.Outcome State Fault Refusal := whenLive s (bootDone r)

/-- OPERATING_LIMIT_STOP (R550, R556). -/
def operatingStop (kind index temp : Nat) (s : State) : State :=
  match limits kind with
  | none => s
  | some (o, _, _, n) =>
    if index < n ∧ o < temp ∧ rd HUB_BOOT_STATUS.STOP_CODE s = 0 ∧ rd HUB_BOOT_STATUS.STAGE s ≠ 8 then stopStart 6 s else s
def execOperatingLimitStop (kind index temp : Nat) (s : State) : Host.Outcome State Fault Refusal := whenLive s (operatingStop kind index temp)

/-- The firmware is up: MGT_RUNNING sets. -/
def mgtUp (s : State) : State :=
  let s := setMgtRunning true (wr MGT_STATUS.FW_STATE 1 (showFw s))
  if isSet HUB_DOMAIN_STATUS.HUB_OK s && rd HUB_BOOT_STATUS.STAGE s == 6 then wr HUB_BOOT_STATUS.STAGE 7 s else s
/-- The first start (R555): the ACTIVE slot, else the other where it is VALID or PENDING; a slot that fails is FAILED. -/
def firstFirmware (runOk otherOk : Bool) (s : State) : State :=
  if runOk then mgtUp s
  else
    let s := setActive { fwActive s with st := 4 } s
    if (fwOther s).st = 1 ∨ (fwOther s).st = 3 then
      if otherOk then
        let s := { s with adm.fwRun := 1 - s.adm.fwRun }
        mgtUp (setActive { fwActive s with st := 2 } s)
      else stopStart 2 (setOther { fwOther s with st := 4 } s)
    else stopStart 2 s
/-- FIRMWARE_SELF_TEST_DONE: at start-up, after a restart (R519), or in an activation (R461). -/
def selfTestDone (aOk bOk : Bool) (s : State) : State :=
  let runOk := if s.adm.fwRun = 0 then aOk else bOk
  let otherOk := if s.adm.fwRun = 0 then bOk else aOk
  if rd HUB_BOOT_STATUS.STOP_CODE s ≠ 0 ∨ isSet HUB_DOMAIN_STATUS.MGT_RUNNING s then s
  else if s.adm.fwActivating then
    if otherOk then event18 sOk (fwDone sOk (mgtUp (fwSwitch { s with adm.fwActivating := false }))) else activationTimeout s
  else if rd MGT_STATUS.FW_STATE s = 2 then
    if runOk then postPf 0x0023 0x17 sOk (rd MGT_STATUS.RESTARTS s) s.adm.fwRun (mgtUp s) else s
  else firstFirmware runOk otherOk s
def execFirmwareSelfTestDone (aOk bOk : Bool) (s : State) : Host.Outcome State Fault Refusal := whenLive s (selfTestDone aOk bOk)

/-- BOOT_ALMANAC_LOAD (R459): the valid slot of higher generation, then the other. -/
def bootAlmanac (aOk bOk : Bool) (s : State) : State :=
  if rd HUB_BOOT_STATUS.STAGE s ≠ 7 then s
  else
    let a := (s.adm.bootA, aOk)
    let b := (s.adm.bootB, bOk)
    let order := if bootGen b.1 ≤ bootGen a.1 then [a, b] else [b, a]
    let s := order.foldl (fun s x => if bootGen x.1 = 0 ∨ stageState s ≠ stEmpty then s else loadImage x.1 x.2 true s) s
    wr HUB_BOOT_STATUS.STAGE 8 s
def execBootAlmanacLoad (aOk bOk : Bool) (s : State) : Host.Outcome State Fault Refusal := whenServing s (bootAlmanac aOk bOk)

end Sys2Proof.Machine
end

