-- ==== Sys2Proof/Machine/Registers.lean ====
section
/-!
DEFINITION. Sys2Proof/Machine/Registers.lean: what a write of a register does (R5 to R7, R563 to R568).
-/
namespace Sys2Proof.Machine

/-- A field after a write: the bits of `mask` from the value, the others as before. -/
def merged (f : Fld) (value mask : Nat) (s : State) : Nat :=
  let old := rd f s
  let m := bitsOf mask f.hi f.lo
  old - Nat.land old m + Nat.land (bitsOf value f.hi f.lo) m

/-- The registers that take writes only in some states (R86, R109, R376, R402, R405, R516): whether this field takes one now. -/
def takesWrite (off : Nat) (f : Fld) (v : Nat) (s : State) : Bool :=
  if 0x2_0100 ≤ off ∧ off < 0x2_0300 then
    !isSet (EPH_TABLE_CTRL.ENABLE ((off - 0x2_0100) / 8)) s
  else if 0x2_0300 ≤ off ∧ off < 0x2_0500 then f.lo == 0 || f.lo == 1 || !isSet (EPH_TABLE_CTRL.ENABLE ((off - 0x2_0300) / 8)) s
  else if 0xA_2000 ≤ off ∧ off < 0xA_2400 then f.lo == 0 && off % 16 == 0 || !isSet (HIF_HTIER_BASE.ENABLE ((off - 0xA_2000) / 16)) s
  else if off = 0x8_0000 then rd DIR_SELF.STATE s == 0 && v != 0xFFF
  else if off = 0xA_0008 then v % s.bar4Gib == 0
  else if off = 0xD_0008 ∨ off = 0xD_0010 ∨ off = 0xD_0018 then !isSet SEC_CFG.LOCK s
  else if 0x1000_0000 ≤ off then
    let fn := (off - 0x1000_0000) / 0x20_0000
    let qp := off % 0x1000 / 64
    (off % 64 == 0x20 && f.lo != 1) || off % 64 == 0x18 || !isSet (HIF_QP_CTRL.ENABLE fn qp) s
  else true

/-- A write of an RW field that does more than store (R86, R88, R109, R362, R405, R409, R530). -/
def setRw (off : Nat) (f : Fld) (v : Nat) (s : State) : State :=
  if off = 0x2_0000 then ephEnable (v == 1) s
  else if 0x2_0300 ≤ off ∧ off < 0x2_0500 ∧ f.lo = 0 then tableEnable ((off - 0x2_0300) / 8) (v == 1) s
  else if 0x2_0300 ≤ off ∧ off < 0x2_0500 ∧ f.lo = 1 then tablePause ((off - 0x2_0300) / 8) (v == 1) s
  else if 0xA_2000 ≤ off ∧ off < 0xA_2400 ∧ off % 16 = 0 ∧ f.lo = 0 then
    if isSet f s = (v == 1) then s else htierEnable ((off - 0xA_2000) / 16) (v == 1) s
  else if 0x9_0080 ≤ off ∧ off < 0x9_0100 ∧ f.lo = 0 then
    if isSet f s = (v == 1) then s else portEnable ((off - 0x9_0080) / 8) (v == 1) s
  else if off = 0xA_0010 ∧ f.lo = 0 then evqBase (v == 1) s
  else if off = 0xF_0000 ∧ f.lo = 0 then traceEnable (v == 1) (isSet DBG_TRACE_BASE.STOP_MODE s) (rd DBG_TRACE_BASE.ADDR s) s
  else if 0x1000_0000 ≤ off ∧ off % 64 = 0x20 ∧ f.lo = 0 then
    if v = 0 ∧ ¬ isSet f s then s else qpEnable ((off - 0x1000_0000) / 0x20_0000) (off % 0x1000 / 64) (v == 1) s
  else wr f v s

/-- One field takes a write, by its access type (R5); a 32-bit write counts for RW fields only (R7). RWS fields follow, all in one edit. -/
def writeFld (off value mask : Nat) (wide : Bool) (s : State) (x : Fld × Acc) : State :=
  let (f, acc) := x
  let v := merged f value mask s
  if bitsOf mask f.hi f.lo = 0 then s
  else match acc with
  | .rw => setRw off f v s
  | .w1c => if wide then wr f (rd f s - Nat.land (rd f s) (bitsOf value f.hi f.lo)) s else s
  | .lt => if wide then { s with ltPend := sset s.ltPend (fkey f) v } else s
  | .rws | .ro | .wo => s
/-- The RWS fields of a register take a 64-bit write in one edit, accepted or refused as a whole (R447). -/
def writeRws (off value mask : Nat) (wide : Bool) (fs : List (Fld × Acc)) (s : State) : State :=
  let rs := fs.filter fun x => x.2 == .rws
  if !wide || rs.isEmpty then s else rwsEdit off (fun s => rs.foldl (fun s x => setShadow x.1 (merged x.1 value mask s) s) s) s

/-- Offline instances go on showing the value a shared register had (R567). -/
def keepView (r : WReg) (t : Nat) (i : List Nat) (s : State) : State :=
  ((List.range 4).filter fun u => tilePresent u s && !tileOnline u s).foldl (fun s u =>
    (r.flds t i).foldl (fun s x =>
      let k := fkey { x.1 with off := x.1.off + 0x1_0000 * u }
      if (sget s.oldView k).isSome then s else { s with oldView := sset s.oldView k (rd x.1 s) }) s) s
/-- Writes that an offline instance holds until its tile returns (R567). -/
def holdWrite (value mask : Nat) (wide : Bool) (s : State) (x : Fld × Acc) : State :=
  if x.2 = .rw ∨ (x.2 = .lt ∧ wide) then { s with heldWr := sset s.heldWr (fkey x.1) (merged x.1 value mask s) } else s

/-- The mask of the bits that a write covers: all of the register, or the half at its offset. -/
def writeMask (off : Nat) (wide : Bool) : Nat := if wide then 2 ^ 64 - 1 else if off % 8 = 0 then 2 ^ 32 - 1 else 2 ^ 64 - 2 ^ 32
/-- A register takes a write of those fields that `which` picks; what stands before the write decides which fields take it, and an ENABLE in
bit 0 acts last. -/
def writeReg (which : Acc → Bool) (addr value : Nat) (wide : Bool) (s : State) : State :=
  let off := addr / 8 * 8
  let mask := writeMask addr wide
  let value := if wide then value else value % 2 ^ 32 * 2 ^ (8 * (addr % 8))
  match regAt off with
  | none => s
  | some (r, t, i) =>
    let fs := (r.flds t i).filter fun x => which x.2 && x.2 != .ro && x.2 != .wo
    let t := instTile off
    if fs = [] ∨ (perTile off ∧ ¬ tilePresent t s) then s
    else if r.tile && !r.shared && isSet HUB_DOMAIN_STATUS.HUB_OK s && !tileOnline t s then fs.foldl (holdWrite value mask wide) s
    else
      let s := if r.shared && isSet HUB_DOMAIN_STATUS.HUB_OK s then keepView r t i s else s
      let off := if r.shared then off - 0x1_0000 * t else off
      let fs := fs.filter fun x => x.2 != .rw || takesWrite off x.1 (merged x.1 value mask s) s
      writeRws off value mask wide fs (fs.reverse.foldl (writeFld off value mask wide) s)

/-! ## Reads (R5 to R7, R566 to R568) -/

/-- The number under which a field of tile `u`'s instance of a shared register is held. -/
def viewKey (f : Fld) (u : Nat) : Nat := fkey { f with off := f.off + 0x1_0000 * u }
/-- What a read of a field returns, by its access type (R5): nothing of a WO field, the shadow of an RWS field, and of an RW or LT field the last
value written, in effect or not yet. `view` is the instance of a shared register that is read while its tile is offline (R567). -/
def readFld (view : Option Nat) (s : State) (x : Fld × Acc) : Nat :=
  let (f, acc) := x
  match acc with
  | .wo => 0
  | .rws => shadowOf f s
  | .rw => sgetD s.heldWr (fkey f) (match view with
    | some u => sgetD s.oldView (viewKey f u) (rd f s)
    | none => rd f s)
  | .lt => sgetD s.heldWr (fkey f) (sgetD s.ltPend (fkey f) (match view with
    | some u => sgetD s.oldView (viewKey f u) (rd f s)
    | none => rd f s))
  | .ro | .w1c => match view with
    | some u => sgetD s.oldView (viewKey f u) (rd f s)
    | none => rd f s
/-- The host's writes reach registers: start-up has not stopped (R556). -/
def reachable (s : State) : Bool := rd HUB_BOOT_STATUS.STOP_CODE s == 0
/-- The 64 bits of the register at a BAR0 offset (queue pairs from 0x1000_0000 on): each field at its bits, reserved bits 0; 0 where no register
lies (R6, R563), and where the instance's tile is not present (R567). -/
def readReg (off : Nat) (s : State) : Nat :=
  match regAt off with
  | none => 0
  | some (r, t, i) =>
    let u := instTile off
    if perTile off ∧ ¬ tilePresent u s then 0
    else
      let view := if r.shared && isSet HUB_DOMAIN_STATUS.HUB_OK s && !tileOnline u s then some u else none
      ((r.flds t i).map fun x => readFld view s x * 2 ^ x.1.lo).sum
/-- What a function's BAR2 shows at an 8-byte step (R401, R565): its queue pairs, its own configuration and status, the part and the time, its
accounting, its fences, its MSI-X table. Doorbells are WO. -/
def readBar2 (fn off : Nat) (s : State) : Nat :=
  if 0x4_0000 ≤ off ∧ off < 0x4_1000 then readReg (0x1000_0000 + 0x20_0000 * fn + off) s
  else if off = 0x5_0000 then readReg (0xA_0100 + 8 * fn) s
  else if off = 0x5_0008 then readReg (HIF_FN_STATUS.STATE fn).off s
  else if off = 0x6_0000 then readReg 0 s
  else if off = 0x6_0008 then readReg 8 s
  else if off = 0x6_0010 then readReg SID_COUNT.COUNT.off s
  else if off = 0x6_0018 then readReg SID_STATUS.STATE.off s
  else if 0x7_0000 ≤ off ∧ off < 0x7_0040 then readReg (0x70_0000 + 64 * fn + (off - 0x7_0000)) s
  else if off = 0x7_0040 then readReg (0x70_4000 + 8 * fn) s
  else if 0x8_0000 ≤ off ∧ off < 0xA_0000 then
    let i := (off - 0x8_0000) / 8
    if i < rd (HIF_FN_CFG.FENCE_COUNT fn) s then fenceVal (rd (HIF_FN_CFG.FENCE_FIRST fn) s + i) s else 0
  else if 0x1F_0000 ≤ off ∧ off < 0x1F_8000 then sgetD s.msixTab (fn * 4096 + (off - 0x1F_0000) / 8) 0
  else 0
/-- What an aligned read of a register returns (R7, R566): all 64 bits, or the 32-bit half at the offset; nothing where the function does not
reach the register, the read is not aligned, or start-up has stopped: then only the PF reads BAR0, and not after codes 1 and 4 (R556). The reads that change something have rows of their own, TM_HWM_READ and PEAK_DW_READ (R568). -/
def registerRead (fn bar off : Nat) (wide : Bool) (s : State) : Option Nat :=
  let half := fun v => if wide then v else v / 2 ^ (8 * (off % 8)) % 2 ^ 32
  if ¬ live s ∨ [1, 4].contains (rd HUB_BOOT_STATUS.STOP_CODE s) ∨ (¬ reachable s ∧ (fn ≠ 0 ∨ bar ≠ 0)) ∨ off % (if wide then 8 else 4) ≠ 0 ∨ 256 ≤ fn then none
  else if bar = 0 then if fn = 0 ∧ off < 0x1000_0000 then some (half (readReg (off / 8 * 8) s)) else none
  else if bar = 2 then if off < 0x20_0000 then some (half (readBar2 fn (off / 8 * 8) s)) else none
  else none

/-- A write of the MSI-X table of a function (R401). -/
def writeMsix (fn off value : Nat) (wide : Bool) (s : State) : State :=
  let k := fn * 4096 + (off - 0x1F_0000) / 8
  let n := if fn = 0 then 65 else 64
  if (off - 0x1F_0000) / 16 < n then
    let old := sgetD s.msixTab k 0
    let m := writeMask off wide
    let v := if wide then value % 2 ^ 64 else value % 2 ^ 32 * 2 ^ (8 * (off % 8))
    { s with msixTab := sset s.msixTab k (old - Nat.land old m + Nat.land v m) }
  else s

/-- A write is aligned (R7). -/
def aligned (off : Nat) (wide : Bool) : Bool := off % (if wide then 8 else 4) == 0
/-- REGISTER_WRITE: the PF reaches BAR0, each function its own BAR2 (R566). -/
def registerWrite (fn bar off value : Nat) (wide : Bool) (s : State) : State :=
  if ¬ reachable s ∨ ¬ aligned off wide ∨ 256 ≤ fn then s
  else if bar = 0 then if fn = 0 ∧ off < 0x1000_0000 then writeReg (fun _ => true) off value wide s else s
  else if bar = 2 then
    if 0x4_0000 ≤ off ∧ off < 0x4_1000 then writeReg (fun _ => true) (0x1000_0000 + 0x20_0000 * fn + off) value wide s
    else if 0x1F_0000 ≤ off ∧ off < 0x1F_8000 then writeMsix fn off value wide s
    else s
  else s
def execRegisterWrite (fn bar off value : Nat) (wide : Bool) (s : State) : Host.Outcome State Fault Refusal :=
  whenLive s (tlpIn (registerWrite fn bar off value wide))

/-- RWS_WRITE (R447): a 64-bit write of the PF to the RWS fields of a register. -/
def rwsWrite (off value : Nat) (s : State) : State :=
  if ¬ reachable s ∨ ¬ aligned off true ∨ 0x1000_0000 ≤ off then s else writeReg (· == .rws) off value true s
def execRwsWrite (off value : Nat) (s : State) : Host.Outcome State Fault Refusal := whenLive s (tlpIn (rwsWrite off value))

end Sys2Proof.Machine
end

