-- ==== Sys2Proof/Machine/Sidereal.lean ====
section
/-!
DEFINITION. Sys2Proof/Machine/Sidereal.lean: the cadence input, the sidereal count and its states, epoch sets, and the tick edge (R64 to R77).
Times are kept in 1/64 ns.
-/
namespace Sys2Proof.Machine

/-! ## Epoch sets (R72, R73) -/

/-- The frames due at an edge: those that arrived at least 2 µs before it, one for each source and value. -/
def framesDue (t : Nat) (s : State) : List (Nat × Nat) :=
  ((s.cad.frames.filter fun f => decide (f.2.2 + 128000 ≤ t)).map fun f => (f.1, f.2.1)).eraseDups
/-- Of frames due at a real edge, the one of lowest source, and of its values the highest. -/
def frameChosen (fs : List (Nat × Nat)) : Option (Nat × Nat) :=
  fs.foldl (fun b f => match b with
    | none => some f
    | some g => if f.1 < g.1 ∨ (f.1 = g.1 ∧ g.2 < f.2) then some f else some g) none
/-- A written value is due: one for this module alone at any edge, one to broadcast at a real edge. -/
def writtenDue (real : Bool) (s : State) : Option (Nat × Bool) := s.cad.written.bind fun w => if w.2 && !real then none else some w
/-- The count after an edge that loads `v`, where advancing gives `adv`, with what R73 records of it. -/
def loadEpoch (v adv : Nat) (s : State) : State :=
  let s := wr SID_EPOCH_LAST.VALUE v s
  let s := if v = adv then bump SID_EPOCH_COUNTS.NOOP 1 s
    else wr SID_JUMP.DELTA (v + 2 ^ 64 - adv) (if adv < v then bump SID_EPOCH_COUNTS.APPLIED 1 s else bump SID_EPOCH_COUNTS.BACKWARD 1 s)
  wr SID_COUNT.COUNT v s
/-- EPOCH_LOAD and the advance of the count (row 1 of R74). Says whether a value loaded. `kind`: 0 real, 1 synthetic, 2 soft. -/
def countEdge (kind t : Nat) (s : State) : Bool × State :=
  let real := kind == 0
  let adv := (now s + 1) % 2 ^ 64
  let due := if kind = 2 then [] else framesDue t s
  let s := if kind = 2 then s else { s with cad.frames := s.cad.frames.filter fun f => !decide (f.2.2 + 128000 ≤ t) }
  match writtenDue real s with
  | some (v, tx) =>
    let s := bump SID_EPOCH_COUNTS.LATE due.length { s with cad.written := none, cad.bcast := if tx then some ((v + 1) % 2 ^ 64, 3) else s.cad.bcast }
    (true, loadEpoch v adv s)
  | none =>
    match if real then frameChosen due else none with
    | some f => (true, loadEpoch f.2 adv (bump SID_EPOCH_COUNTS.LATE (due.length - 1) s))
    | none => (false, wr SID_COUNT.COUNT adv (bump SID_EPOCH_COUNTS.LATE due.length s))
/-- EPOCH_BROADCAST: after a real edge, the next frame of a set goes out on every up port, and to this module itself. -/
def epochBroadcast (t : Nat) (s : State) : State :=
  match s.cad.bcast with
  | none => s
  | some (v, n) =>
    let dom := rd FAB_CFG.CADENCE_DOMAIN s
    let s := ((List.range 16).filter fun q => portState q s == pUp).foldl (fun s q => sendMsg 0x01 0xFFF [selfId s, dom, v, 4 - n, 0, q] [] s) s
    let s := { s with cad.bcast := if n ≤ 1 then none else some ((v + 1) % 2 ^ 64, n - 1), net.epochSeen := ((selfId s, v) :: s.net.epochSeen).take 4096 }
    if periodQ s = 0 then bump SID_EPOCH_COUNTS.LATE 1 s else { s with cad.frames := s.cad.frames ++ [(selfId s, v, t)] }

/-! ## The cadence state (R67, R68) -/

/-- CADENCE_STATE_CHANGE at a pulse accepted or absorbed; `loaded` says that an epoch set was applied at a real edge. -/
def cadenceReal (loaded : Bool) (s : State) : State :=
  let st := rd SID_STATUS.STATE s
  let s := if st = cNoPulse then setCadence cUnaligned none s else if st = cHoldover then setCadence cLocked (some sOk) s else s
  let st := rd SID_STATUS.STATE s
  if loaded ∧ (st = cUnaligned ∨ st = cFreewheel) then setCadence cLocked (some sOk) s else s
/-- CADENCE_STATE_CHANGE at a synthetic tick: the first of a run is the missing pulse. -/
def cadenceSynth (s : State) : State :=
  let st := rd SID_STATUS.STATE s
  let n := rd SID_STATUS.SYNTH_RUN s + 1
  let s := bump SID_STATUS.SYNTH_RUN 1 s
  if st = cLocked then setCadence cHoldover (some sCadenceLost) (bump SID_PULSE_COUNTS.HOLDOVERS 1 s)
  else if st = cHoldover ∧ n = 65 then setCadence cFreewheel (some sCadenceLost) (bump SID_PULSE_COUNTS.FREEWHEELS 1 s)
  else s

/-! ## The tick edge (R74) -/

/-- LT_TAKE_EFFECT: pending values take effect together, and what is compared with them is (R75, R346, R347). -/
def applyLt (s : State) : State :=
  let n : State := { s with regs := s.ltPend.foldl (fun m p => sset m p.1 p.2) s.regs, ltPend := [] }
  c0Refresh (polCompare s (shapersCompare s n))
/-- TICK_EDGE at time `t`: the count, LT values, refills and timers, the apply pass, the heartbeat, and dispatch. Says whether a value loaded. -/
def tickEdge (kind t : Nat) (pw : TickPower) (s : State) : State :=
  let (loaded, s) := countEdge kind t s
  let s := { s with cad.edges := s.cad.edges + 1, cad.realEdges := s.cad.realEdges + b2n (kind == 0) }
  let s := if kind = 0 then epochBroadcast t (cadenceReal loaded s) else if kind = 1 then cadenceSynth s else s
  let s := applyLt s
  let s := xsSample (t / 64) (policersRefill (shapersRefill (refillShares s)))
  ephDispatch (retryAbandons (heartbeatSend (applyPass (markWaits (governorTick pw s)))))

/-! ## Pulses (R64, R65) -/

/-- Show P (R65). -/
def showPeriod (s : State) : State :=
  wr SID_STATUS.PERIOD_VALID (b2n (periodQ s != 0)) (wr SID_STATUS.PERIOD_NS (periodQ s / 16) s)
/-- A real edge at `t`: synthetic ticks stop, and the next one falls 1.25 × P later. -/
def realEdge (t : Nat) (s : State) : State :=
  wr SID_STATUS.SYNTH_RUN 0
    { s with cad.lastEdge := some t, cad.lastReal := some t, cad.lastSynthetic := false, cad.synthSinceReal := false, cad.nextSynth := t + 5 * periodQ s }
/-- A pulse that is absorbed takes the place of the synthetic tick before it. -/
def absorbPulse (t : Nat) (s : State) : State := epochBroadcast t (cadenceReal false (realEdge t s))
/-- A pulse that is accepted: a period interval ends where no synthetic tick came since the last real edge, and a tick edge follows. -/
def acceptPulse (t : Nat) (pw : TickPower) (s : State) : State :=
  let s := match s.cad.lastReal with
    | some r =>
      if s.cad.synthSinceReal then s
      else { s with cad.intervals := (s.cad.intervals ++ [(t - r) / 64]).drop (s.cad.intervals.length - 15) }
    | none => s
  tickEdge 0 t pw (realEdge t (showPeriod s))
/-- SIDEREAL_PULSE: rising at `t` ns, high for `high` ns. -/
def siderealPulse (t high : Nat) (pw : TickPower) (s : State) : State :=
  let gap := s.cad.lastEdge.map fun e => 64 * t - e
  if high < 200 then bump SID_PULSE_COUNTS.GLITCH 1 s
  else if gap.any (fun g => decide (g < 40000 * 64)) then bump SID_PULSE_COUNTS.EXTRA 1 s
  else if s.cad.lastSynthetic && gap.any (fun g => decide (g < 2 * periodQ s)) then absorbPulse (64 * t) s
  else acceptPulse (64 * t) pw s
def execSiderealPulse (t high : Nat) (pw : TickPower) (s : State) : Host.Outcome State Fault Refusal := whenLive s (siderealPulse t high pw)

/-- SYNTHETIC_TICK: P is valid and no pulse has come in its time. -/
def syntheticTick (pw : TickPower) (s : State) : State :=
  if periodQ s = 0 then s
  else
    let t := s.cad.nextSynth
    tickEdge 1 t pw { s with cad.lastEdge := some t, cad.lastSynthetic := true, cad.synthSinceReal := true, cad.nextSynth := t + 4 * periodQ s }
def execSyntheticTick (pw : TickPower) (s : State) : Host.Outcome State Fault Refusal := whenLive s (syntheticTick pw)

/-- SOFT_TICK: a tick edge by register write, in NOPULSE only (R71); `t` is its time in ns. -/
def softTick (t : Nat) (pw : TickPower) (s : State) : State :=
  if rd SID_STATUS.STATE s = cNoPulse then tickEdge 2 (64 * t) pw s else s
def execSoftTick (t : Nat) (pw : TickPower) (s : State) : Host.Outcome State Fault Refusal := whenLive s (softTick t pw)

/-- SID_EPOCH_TX and SID_EPOCH_LOCAL: a written value waits for its edge, in place of one still waiting (R72). -/
def writeEpoch (v : Nat) (tx : Bool) (s : State) : State := { s with cad.written := some (v % 2 ^ 64, tx) }
def epochTx (v : Nat) (s : State) : State := writeEpoch v true s
def epochLocal (v : Nat) (s : State) : State := writeEpoch v false s
def execSidEpochTx (v : Nat) (s : State) : Host.Outcome State Fault Refusal := whenLive s (epochTx v)
def execSidEpochLocal (v : Nat) (s : State) : Host.Outcome State Fault Refusal := whenLive s (epochLocal v)

end Sys2Proof.Machine
end

