-- ==== Sys2Proof/Machine/Dispatch.lean ====
section
/-!
DEFINITION. Sys2Proof/Machine/Dispatch.lean: the effect of a command, one arm for each row of spec/opcode_table.json.
-/
namespace Sys2Proof.Machine

/-- The effect of one command on everything but the queue. -/
def exec (i : Instr) (s : State) : Host.Outcome State Fault Refusal :=
  match i with
  | .siderealPulse t high pw => Sys2Proof.Machine.execSiderealPulse t high pw s
  | .syntheticTick pw => Sys2Proof.Machine.execSyntheticTick pw s
  | .softTick t pw => Sys2Proof.Machine.execSoftTick t pw s
  | .sidEpochTx v => Sys2Proof.Machine.execSidEpochTx v s
  | .sidEpochLocal v => Sys2Proof.Machine.execSidEpochLocal v s
  | .epochMsg port src domain value rep hops time => Sys2Proof.Machine.execEpochMsg port src domain value rep hops time s
  | .nopEntry table idx e => Sys2Proof.Machine.execNopEntry table idx e s
  | .launchStep table idx e => Sys2Proof.Machine.execLaunchStep table idx e s
  | .startTransit table idx e => Sys2Proof.Machine.execStartTransit table idx e s
  | .ephFenceSignal table idx e => Sys2Proof.Machine.execEphFenceSignal table idx e s
  | .ephFenceWait table idx e => Sys2Proof.Machine.execEphFenceWait table idx e s
  | .checkpointBarrier table idx e => Sys2Proof.Machine.execCheckpointBarrier table idx e s
  | .migrationSwitch table idx e => Sys2Proof.Machine.execMigrationSwitch table idx e s
  | .applyGeneration table idx e => Sys2Proof.Machine.execApplyGeneration table idx e s
  | .ephWaitTimeout table => Sys2Proof.Machine.execEphWaitTimeout table s
  | .ephTableUnblock table => Sys2Proof.Machine.execEphTableUnblock table s
  | .ephEnable on => Sys2Proof.Machine.execEphEnable on s
  | .ephTableEnable table on => Sys2Proof.Machine.execEphTableEnable table on s
  | .ephTablePause table on => Sys2Proof.Machine.execEphTablePause table on s
  | .ephFlush table => Sys2Proof.Machine.execEphFlush table s
  | .ephemerisSubmit h table count buf => Sys2Proof.Machine.execEphemerisSubmit h table count buf s
  | .sessionCreate h o => Sys2Proof.Machine.execSessionCreate h o s
  | .sessionDestroy h => Sys2Proof.Machine.execSessionDestroy h s
  | .appendText h length buf => Sys2Proof.Machine.execAppendText h length buf s
  | .appendTokens h count buf => Sys2Proof.Machine.execAppendTokens h count buf s
  | .generate h => Sys2Proof.Machine.execGenerate h s
  | .toolWait h wake ttl => Sys2Proof.Machine.execToolWait h wake ttl s
  | .resume h t us => Sys2Proof.Machine.execResume h t us s
  | .park h tier demote region => Sys2Proof.Machine.execPark h tier demote region s
  | .migrate h target demote region => Sys2Proof.Machine.execMigrate h target demote region s
  | .migratePeer h dest answers reach free reserved => Sys2Proof.Machine.execMigratePeer h dest answers reach free reserved s
  | .migrateEmbBlock h dest table part block answers reach free room => Sys2Proof.Machine.execMigrateEmbBlock h dest table part block answers reach free room s
  | .cancel h => Sys2Proof.Machine.execCancel h s
  | .setSampling h p withSeed withMax => Sys2Proof.Machine.execSetSampling h p withSeed withMax s
  | .setGrammar h gid => Sys2Proof.Machine.execSetGrammar h gid s
  | .setStops h buf stopLen incl => Sys2Proof.Machine.execSetStops h buf stopLen incl s
  | .sessionExpiry idx => Sys2Proof.Machine.execSessionExpiry idx s
  | .expiredEventWrite idx => Sys2Proof.Machine.execExpiredEventWrite idx s
  | .eviction => Sys2Proof.Machine.execEviction s
  | .tombstoneClose idx => Sys2Proof.Machine.execTombstoneClose idx s
  | .patrolScrub stack ondie corrected bad toks grams ents => Sys2Proof.Machine.execPatrolScrub stack ondie corrected bad toks grams ents s
  | .channelToProcessor chan => Sys2Proof.Machine.execChannelToProcessor chan s
  | .channelWaitTimeout chan => Sys2Proof.Machine.execChannelWaitTimeout chan s
  | .channelReturn chan us => Sys2Proof.Machine.execChannelReturn chan us s
  | .bnkPfOp stack addr => Sys2Proof.Machine.execBnkPfOp stack addr s
  | .bankCopy chan => Sys2Proof.Machine.execBankCopy chan s
  | .bankFill chan => Sys2Proof.Machine.execBankFill chan s
  | .maskedScan chan => Sys2Proof.Machine.execMaskedScan chan s
  | .codeDistance chan => Sys2Proof.Machine.execCodeDistance chan s
  | .summaryRecompute chan => Sys2Proof.Machine.execSummaryRecompute chan s
  | .patternTest chan fails => Sys2Proof.Machine.execPatternTest chan fails s
  | .bankOpComplete chan poison => Sys2Proof.Machine.execBankOpComplete chan poison s
  | .thermalSample stack sensor act => Sys2Proof.Machine.execThermalSample stack sensor act s
  | .deepRetrainStart chan temp margin => Sys2Proof.Machine.execDeepRetrainStart chan temp margin s
  | .deepDrainDone => Sys2Proof.Machine.execDeepDrainDone s
  | .deepTrainingDone ok temp timing voltage => Sys2Proof.Machine.execDeepTrainingDone ok temp timing voltage s
  | .deepReturnDone => Sys2Proof.Machine.execDeepReturnDone s
  | .htierEnable n on => Sys2Proof.Machine.execHtierEnable n on s
  | .transitSlotGrant => Sys2Proof.Machine.execTransitSlotGrant s
  | .transitChunk idx ok => Sys2Proof.Machine.execTransitChunk idx ok s
  | .parkComplete idx => Sys2Proof.Machine.execParkComplete idx s
  | .reviveComplete idx us => Sys2Proof.Machine.execReviveComplete idx us s
  | .reviveSparseComplete idx us => Sys2Proof.Machine.execReviveSparseComplete idx us s
  | .moveComplete idx => Sys2Proof.Machine.execMoveComplete idx s
  | .mirrorImage idx ok => Sys2Proof.Machine.execMirrorImage idx ok s
  | .backgroundFill idx => Sys2Proof.Machine.execBackgroundFill idx s
  | .precopyPassEnd tag dirty => Sys2Proof.Machine.execPrecopyPassEnd tag dirty s
  | .migrationSwitchRun tag => Sys2Proof.Machine.execMigrationSwitchRun tag s
  | .migrationAbandon tag lost => Sys2Proof.Machine.execMigrationAbandon tag lost s
  | .stepStart part poison => Sys2Proof.Machine.execStepStart part poison s
  | .kernelStart part x => Sys2Proof.Machine.execKernelStart part x s
  | .kernelEnd part us sat nan out fixed => Sys2Proof.Machine.execKernelEnd part us sat nan out fixed s
  | .watchdogOverrun part rank => Sys2Proof.Machine.execWatchdogOverrun part rank s
  | .hangDeclared part rank => Sys2Proof.Machine.execHangDeclared part rank s
  | .hangDump array => Sys2Proof.Machine.execHangDump array s
  | .knownAnswerTestDone tile n pass => Sys2Proof.Machine.execKnownAnswerTestDone tile n pass s
  | .rankMapSwap part => Sys2Proof.Machine.execRankMapSwap part s
  | .residentReloadDone part => Sys2Proof.Machine.execResidentReloadDone part s
  | .aryRetire tile n => Sys2Proof.Machine.execAryRetire tile n s
  | .aryReturn tile n => Sys2Proof.Machine.execAryReturn tile n s
  | .sramUncorrectable tile n off => Sys2Proof.Machine.execSramUncorrectable tile n off s
  | .selectRow part rank poison => Sys2Proof.Machine.execSelectRow part rank poison s
  | .selectMerge part rank poison => Sys2Proof.Machine.execSelectMerge part rank poison s
  | .sample part rank k off base count => Sys2Proof.Machine.execSample part rank k off base count s
  | .kvScatterAppend part k layer bad fixed => Sys2Proof.Machine.execKvScatterAppend part k layer bad fixed s
  | .attention part k layer qs outs bad fixed => Sys2Proof.Machine.execAttention part k layer qs outs bad fixed s
  | .embPool part rank table fmt sram dst bags bad badRep => Sys2Proof.Machine.execEmbPool part rank table fmt sram dst bags bad badRep s
  | .vecTraverse part built poison => Sys2Proof.Machine.execVecTraverse part built poison s
  | .collective part recvs moves sends => Sys2Proof.Machine.execCollective part recvs moves sends s
  | .spanSummaryDone idx span => Sys2Proof.Machine.execSpanSummaryDone idx span s
  | .kvFetch tile => Sys2Proof.Machine.execKvFetch tile s
  | .kvFetchComplete idx k ok => Sys2Proof.Machine.execKvFetchComplete idx k ok s
  | .draw part k off => Sys2Proof.Machine.execDraw part k off s
  | .detokenize idx => Sys2Proof.Machine.execDetokenize idx s
  | .outputRecordWrite fn qp ok => Sys2Proof.Machine.execOutputRecordWrite fn qp ok s
  | .grammarMask => Sys2Proof.Machine.execGrammarMask s
  | .gramLoad slot addr => Sys2Proof.Machine.execGramLoad slot addr s
  | .gramUnload slot => Sys2Proof.Machine.execGramUnload slot s
  | .embLookup h table fmt bags entries ents offs out outBytes homes bad => Sys2Proof.Machine.execEmbLookup h table fmt bags entries ents offs out outBytes homes bad s
  | .embUpdate h table count buf homes => Sys2Proof.Machine.execEmbUpdate h table count buf homes s
  | .embHotHalving tile => Sys2Proof.Machine.execEmbHotHalving tile s
  | .embReplicaValid tile table part row => Sys2Proof.Machine.execEmbReplicaValid tile table part row s
  | .embRemoteTimeout fn qp cmdId => Sys2Proof.Machine.execEmbRemoteTimeout fn qp cmdId s
  | .embRead src msg table rows bad => Sys2Proof.Machine.execEmbRead src msg table rows bad s
  | .embUpdateMsg src msg table tick items => Sys2Proof.Machine.execEmbUpdateMsg src msg table tick items s
  | .vecQuery h query result bytes skip => Sys2Proof.Machine.execVecQuery h query result bytes skip s
  | .vecUpsert h index count buf => Sys2Proof.Machine.execVecUpsert h index count buf s
  | .vecDelete h index count buf => Sys2Proof.Machine.execVecDelete h index count buf s
  | .vecUpsertCommit index => Sys2Proof.Machine.execVecUpsertCommit index s
  | .vecDeleteApply index => Sys2Proof.Machine.execVecDeleteApply index s
  | .vecQueryMerge query => Sys2Proof.Machine.execVecQueryMerge query s
  | .vecEdgeRepair index => Sys2Proof.Machine.execVecEdgeRepair index s
  | .vecCompact index first count => Sys2Proof.Machine.execVecCompact index first count s
  | .vecCompactPublish index => Sys2Proof.Machine.execVecCompactPublish index s
  | .vecCompactRelease index => Sys2Proof.Machine.execVecCompactRelease index s
  | .tmUnitStart port chan time arrivals => Sys2Proof.Machine.execTmUnitStart port chan time arrivals s
  | .tmHwmRead port cls half => Sys2Proof.Machine.execTmHwmRead port cls half s
  | .fabPortEnable port on => Sys2Proof.Machine.execFabPortEnable port on s
  | .fabRetrain port => Sys2Proof.Machine.execFabRetrain port s
  | .fabRetire port => Sys2Proof.Machine.execFabRetire port s
  | .fabReturn port => Sys2Proof.Machine.execFabReturn port s
  | .linkTrainingDone port ok lanes neighbour mv ui worst ms => Sys2Proof.Machine.execLinkTrainingDone port ok lanes neighbour mv ui worst ms s
  | .trainingRetry port => Sys2Proof.Machine.execTrainingRetry port s
  | .portDrainDone port late => Sys2Proof.Machine.execPortDrainDone port late s
  | .linkDown port cause => Sys2Proof.Machine.execLinkDown port cause s
  | .frameReceive port bytes auth => Sys2Proof.Machine.execFrameReceive port bytes auth s
  | .frameSend port mgmt => Sys2Proof.Machine.execFrameSend port mgmt s
  | .ackTimer port => Sys2Proof.Machine.execAckTimer port s
  | .heartbeatMsg src viewId => Sys2Proof.Machine.execHeartbeatMsg src viewId s
  | .viewMsg src viewId number kind members => Sys2Proof.Machine.execViewMsg src viewId number kind members s
  | .dirReq src id op es => Sys2Proof.Machine.execDirReq src id op es s
  | .dirResp src id status tag es => Sys2Proof.Machine.execDirResp src id status tag es s
  | .dirRepl src shard term body => Sys2Proof.Machine.execDirRepl src shard term body s
  | .xferChunk src chunk => Sys2Proof.Machine.execXferChunk src chunk s
  | .xferCtrl src tag body => Sys2Proof.Machine.execXferCtrl src tag body s
  | .fwdCmd src id fn op handle args data => Sys2Proof.Machine.execFwdCmd src id fn op handle args data s
  | .responseMsg src id status body => Sys2Proof.Machine.execResponseMsg src id status body s
  | .collectiveMsg src data => Sys2Proof.Machine.execCollectiveMsg src data s
  | .mirrorCtrl src handle nonce kind => Sys2Proof.Machine.execMirrorCtrl src handle nonce kind s
  | .dropNotice src id type ref mirror => Sys2Proof.Machine.execDropNotice src id type ref mirror s
  | .memberSuspect => Sys2Proof.Machine.execMemberSuspect s
  | .viewProposalRetry => Sys2Proof.Machine.execViewProposalRetry s
  | .isolation => Sys2Proof.Machine.execIsolation s
  | .leaseRenew shard => Sys2Proof.Machine.execLeaseRenew shard s
  | .leaseExpire shard => Sys2Proof.Machine.execLeaseExpire shard s
  | .leaderElection shard => Sys2Proof.Machine.execLeaderElection shard s
  | .candidateYield shard => Sys2Proof.Machine.execCandidateYield shard s
  | .dirLookupTimeout id => Sys2Proof.Machine.execDirLookupTimeout id s
  | .dirEntryExpire keyA => Sys2Proof.Machine.execDirEntryExpire keyA s
  | .mirrorAudit src handle => Sys2Proof.Machine.execMirrorAudit src handle s
  | .joinView => Sys2Proof.Machine.execJoinView s
  | .standalone => Sys2Proof.Machine.execStandalone s
  | .leaveView => Sys2Proof.Machine.execLeaveView s
  | .linkOffer port ed ml blob ms sigOk => Sys2Proof.Machine.execLinkOffer port ed ml blob ms sigOk s
  | .linkReply port ed ml blob ms sigOk => Sys2Proof.Machine.execLinkReply port ed ml blob ms sigOk s
  | .sqTail fn qp idx => Sys2Proof.Machine.execSqTail fn qp idx s
  | .cqHead fn qp idx => Sys2Proof.Machine.execCqHead fn qp idx s
  | .outCi fn qp n => Sys2Proof.Machine.execOutCi fn qp n s
  | .sqEntryFetch fn qp entry => Sys2Proof.Machine.execSqEntryFetch fn qp entry s
  | .qpEnable fn qp on => Sys2Proof.Machine.execQpEnable fn qp on s
  | .msixCoalesceTimeout fn vec => Sys2Proof.Machine.execMsixCoalesceTimeout fn vec s
  | .functionLevelReset fn => Sys2Proof.Machine.execFunctionLevelReset fn s
  | .numvfsChange count => Sys2Proof.Machine.execNumvfsChange count s
  | .pcieLinkChange rate width flit => Sys2Proof.Machine.execPcieLinkChange rate width flit s
  | .bar4Write off data => Sys2Proof.Machine.execBar4Write off data s
  | .fenceSignal h fence mode value => Sys2Proof.Machine.execFenceSignal h fence mode value s
  | .fenceWait h fence value timeout => Sys2Proof.Machine.execFenceWait h fence value timeout s
  | .fenceWaitTimeout fn qp cmdId => Sys2Proof.Machine.execFenceWaitTimeout fn qp cmdId s
  | .fenReset fence => Sys2Proof.Machine.execFenReset fence s
  | .modelBind h slot tokSet vocab recordAddr modelId end0 end1 end2 shard m => Sys2Proof.Machine.execModelBind h slot tokSet vocab recordAddr modelId end0 end1 end2 shard m s
  | .modelUnbind h slot => Sys2Proof.Machine.execModelUnbind h slot s
  | .weightsLoad h slot count first buf good => Sys2Proof.Machine.execWeightsLoad h slot count first buf good s
  | .checkpoint h addr => Sys2Proof.Machine.execCheckpoint h addr s
  | .abortFunction h fn => Sys2Proof.Machine.execAbortFunction h fn s
  | .abortArrayReset part => Sys2Proof.Machine.execAbortArrayReset part s
  | .evqCi n => Sys2Proof.Machine.execEvqCi n s
  | .eventQueueWrite => Sys2Proof.Machine.execEventQueueWrite s
  | .almLoad sigOk => Sys2Proof.Machine.execAlmLoad sigOk s
  | .almSeal => Sys2Proof.Machine.execAlmSeal s
  | .almDiscard => Sys2Proof.Machine.execAlmDiscard s
  | .writeBoot => Sys2Proof.Machine.execWriteBoot s
  | .rwsWrite off value => Sys2Proof.Machine.execRwsWrite off value s
  | .regionCompleted region => Sys2Proof.Machine.execRegionCompleted region s
  | .fwWrite sigOk svn digest => Sys2Proof.Machine.execFwWrite sigOk svn digest s
  | .fwActivate sigOk => Sys2Proof.Machine.execFwActivate sigOk s
  | .fwInvalidate => Sys2Proof.Machine.execFwInvalidate s
  | .activationTimeout => Sys2Proof.Machine.execActivationTimeout s
  | .retireChannel chan => Sys2Proof.Machine.execRetireChannel chan s
  | .returnChannel chan pass => Sys2Proof.Machine.execReturnChannel chan pass s
  | .channelRebuildDone chan lost => Sys2Proof.Machine.execChannelRebuildDone chan lost s
  | .tileOffline tile => Sys2Proof.Machine.execTileOffline tile s
  | .tileFault tile => Sys2Proof.Machine.execTileFault tile s
  | .tileDrainDone tile => Sys2Proof.Machine.execTileDrainDone tile s
  | .tileOnline tile bad => Sys2Proof.Machine.execTileOnline tile bad s
  | .retireDeep chan => Sys2Proof.Machine.execRetireDeep chan s
  | .returnDeep chan pass temp timing voltage => Sys2Proof.Machine.execReturnDeep chan pass temp timing voltage s
  | .replicaScrub tile descs chunks => Sys2Proof.Machine.execReplicaScrub tile descs chunks s
  | .captureDone us => Sys2Proof.Machine.execCaptureDone us s
  | .packDone ms => Sys2Proof.Machine.execPackDone ms s
  | .ckptMirrorDone => Sys2Proof.Machine.execCkptMirrorDone s
  | .restoreDone bad far => Sys2Proof.Machine.execRestoreDone bad far s
  | .darkFrameSlice tile n ok oldest => Sys2Proof.Machine.execDarkFrameSlice tile n ok oldest s
  | .dfBankTest => Sys2Proof.Machine.execDfBankTest s
  | .dfPortRetrain port mv ui lane => Sys2Proof.Machine.execDfPortRetrain port mv ui lane s
  | .kxOffer job peer => Sys2Proof.Machine.execKxOffer job peer s
  | .kxAccept job peer sigOk => Sys2Proof.Machine.execKxAccept job peer sigOk s
  | .kxComplete job peer sigOk => Sys2Proof.Machine.execKxComplete job peer sigOk s
  | .kxClose job => Sys2Proof.Machine.execKxClose job s
  | .ownerUpdate sigOk => Sys2Proof.Machine.execOwnerUpdate sigOk s
  | .offerTimeout job peer => Sys2Proof.Machine.execOfferTimeout job peer s
  | .oldKeyExpiry job peer => Sys2Proof.Machine.execOldKeyExpiry job peer s
  | .spdmRequest bind req => Sys2Proof.Machine.execSpdmRequest bind req s
  | .modelKeySet bind session slot modelId digest key => Sys2Proof.Machine.execModelKeySet bind session slot modelId digest key s
  | .modelKeyClear bind session slot => Sys2Proof.Machine.execModelKeyClear bind session slot s
  | .ideKm session stream key => Sys2Proof.Machine.execIdeKm session stream key s
  | .mgtWatchdogRestart => Sys2Proof.Machine.execMgtWatchdogRestart s
  | .sensorRefresh temps => Sys2Proof.Machine.execSensorRefresh temps s
  | .setEndpointId bind eid => Sys2Proof.Machine.execSetEndpointId bind eid s
  | .mctpMessage bind fn type code => Sys2Proof.Machine.execMctpMessage bind fn type code s
  | .entdaa addr => Sys2Proof.Machine.execEntdaa addr s
  | .getstatus => Sys2Proof.Machine.execGetstatus s
  | .getTid bind => Sys2Proof.Machine.execGetTid bind s
  | .setTid bind tid => Sys2Proof.Machine.execSetTid bind tid s
  | .getPldmTypes bind => Sys2Proof.Machine.execGetPldmTypes bind s
  | .getPldmCommands bind type => Sys2Proof.Machine.execGetPldmCommands bind type s
  | .getPldmVersion bind type => Sys2Proof.Machine.execGetPldmVersion bind type s
  | .getPdr bind record => Sys2Proof.Machine.execGetPdr bind record s
  | .getPdrRepositoryInfo bind => Sys2Proof.Machine.execGetPdrRepositoryInfo bind s
  | .getSensorReading bind id => Sys2Proof.Machine.execGetSensorReading bind id s
  | .getStateSensorReadings bind id => Sys2Proof.Machine.execGetStateSensorReadings bind id s
  | .setSensorThresholds bind id levels => Sys2Proof.Machine.execSetSensorThresholds bind id levels s
  | .getSensorThresholds bind id => Sys2Proof.Machine.execGetSensorThresholds bind id s
  | .setNumericEffecterValue bind id value => Sys2Proof.Machine.execSetNumericEffecterValue bind id value s
  | .getNumericEffecterValue bind id => Sys2Proof.Machine.execGetNumericEffecterValue bind id s
  | .setEventReceiver bind eid on => Sys2Proof.Machine.execSetEventReceiver bind eid on s
  | .requestUpdate bind => Sys2Proof.Machine.execRequestUpdate bind s
  | .activateFirmware bind selfContained sigOk => Sys2Proof.Machine.execActivateFirmware bind selfContained sigOk s
  | .dbgTraceEnable on stopMode addr => Sys2Proof.Machine.execDbgTraceEnable on stopMode addr s
  | .exportDump slot tagOk => Sys2Proof.Machine.execExportDump slot tagOk s
  | .releaseDump slot => Sys2Proof.Machine.execReleaseDump slot s
  | .engineStall block ms => Sys2Proof.Machine.execEngineStall block ms s
  | .peakDwRead domain => Sys2Proof.Machine.execPeakDwRead domain s
  | .pwrEn high => Sys2Proof.Machine.execPwrEn high s
  | .firmwareSelfTestDone aOk bOk => Sys2Proof.Machine.execFirmwareSelfTestDone aOk bOk s
  | .bootAlmanacLoad aOk bOk => Sys2Proof.Machine.execBootAlmanacLoad aOk bOk s
  | .brownout => Sys2Proof.Machine.execBrownout s
  | .perstN high => Sys2Proof.Machine.execPerstN high s
  | .modRstN high => Sys2Proof.Machine.execModRstN high s
  | .pcieHotReset => Sys2Proof.Machine.execPcieHotReset s
  | .hubFault => Sys2Proof.Machine.execHubFault s
  | .criticalLimit kind index temp => Sys2Proof.Machine.execCriticalLimit kind index temp s
  | .thermalTrip kind index temp => Sys2Proof.Machine.execThermalTrip kind index temp s
  | .registerWrite fn bar off value wide => Sys2Proof.Machine.execRegisterWrite fn bar off value wide s
  | .p54vChange on slotId => Sys2Proof.Machine.execP54vChange on slotId s
  | .startUpEngineDone r => Sys2Proof.Machine.execStartUpEngineDone r s
  | .deepEvacuationDone chan lost => Sys2Proof.Machine.execDeepEvacuationDone chan lost s
  | .operatingLimitStop kind index temp => Sys2Proof.Machine.execOperatingLimitStop kind index temp s
  | .pldmUpdateAgentCommand bind cmd => Sys2Proof.Machine.execPldmUpdateAgentCommand bind cmd s

end Sys2Proof.Machine
end

