-- ==== Sys2Proof/Safety.lean ====
section
/-!
DEFINITION. Sys2Proof/Safety.lean: what counts as a safe state of the module, and the conditions under which a command has its own
effect, in the terms that claims use.
-/
namespace Sys2Proof.Machine

/-- Both tiers' memories are in their canonical form. -/
def memOk (s : State) : Bool := Memory.wf s.mem && Memory.wf s.deepMem

/-- The shape that every step keeps: both memories in canonical form, and each register field and each descriptor held once. -/
def Inv (s : State) : Prop := memOk s = true ∧ sorted s.regs = true ∧ sorted s.desc = true

/-- A host command that names no session passes the intake (R415, checks 1 to 3) and is carried out. -/
def passes (h : Hdr) (op : Nat) (bad : Bool) (s : State) : Bool := cmdRuns h s && !intakeFails h op bad s

/-- A copy of a slot's descriptor reads clean: its tile is online and no codeword of it is uncorrectable. -/
def copyClean (i : Nat) (second : Bool) (s : State) : Bool :=
  stackOnline (stackOf (descAddr i second)) s && !poisonIn (descAddr i second) 256 s
/-- A read of a slot's descriptor finds it and rewrites nothing (R25): no codeword is uncorrectable, the primary copy reads clean, or its
tile is offline and the second copy does. -/
def descReads (i : Nat) (s : State) : Bool :=
  s.poison.isEmpty || copyClean i false s || (!stackOnline (stackOf (descAddr i false)) s && copyClean i true s)

/-- A session command is carried out on slot `i`: it passes every check of R415 in a state of the session in which R41 applies it, the
slot is no tombstone (R156), not held for a switch (R154) or by a class-0 resume (R56), and its descriptor reads (R25). -/
def actsOn (h : Hdr) (op : Nat) (bad : Bool) (i : Nat) (s : State) : Bool :=
  passes h op bad s && descReads (hIndex h.handle) s && (handleCheck h.fn h.handle s == .found i) && s.tombs.all (·.idx != i) &&
    !armed i s && !resuming i s && (judge op (descOf i s) == .apply)

/-- The state in which a host command takes effect: the command is among those started (R407). -/
def entered (h : Hdr) (op : Nat) (s : State) : State := noteStarted h op s

/-- The free list of session slots, its head first (R34): slots never used since start-up, then slots freed since. -/
def freeList (s : State) : List Nat := (List.range (slots - s.freeNext)).map (· + s.freeNext) ++ s.freed

/-- A register field outside the session block, the host interface, the fence unit, the queue pairs and the count of requests that IDE
discards, which completions and session counts change. -/
def beyondHost (f : Fld) : Bool :=
  decide (f.lo < 64) && decide (f.hi < 64) && decide (f.off < 0x1000_0000) && decide (f.off ≠ 0xD_0528) && !(decide (0x3_0000 ≤ f.off) && decide (f.off < 0x4_0000)) &&
    !(decide (0xA_0000 ≤ f.off) && decide (f.off < 0xB_0000)) && !(decide (0x2C_0000 ≤ f.off) && decide (f.off < 0x30_0000))

end Sys2Proof.Machine
end

