-- ==== Sys2Proof/Certificates/Slice0/Obligations.lean ====
section
/-!
DEFINITION. Sys2Proof/Certificates/Slice0/Obligations.lean: the statements about the module, for the provers. Statements that a command
answers a next state give it whole, or with what it holds; what such a next state does not name is as in the state before.
-/
open Sys2Proof Sys2Proof.Machine

/-- A step is exec of the front command with the rest of the queue (98_reader.md). For every command c, rest and state s: a step of s with c
at the front of its queue is exec of c on s with the queue's rest, and a step with an empty queue leaves the state as it is (the model's
choice, log entry 2). -/
def Obligations.StepTakesFront : Prop :=
  (∀ (c : Instr) (rest : List Instr) (s : State), step { s with pending := c :: rest } = exec c { s with pending := rest }) ∧
  (∀ s : State, step { s with pending := [] } = .next { s with pending := [] })

/-- What reset leaves (R8, R51, R426, R123). After reset every register field holds its reset value, every slot is FREE with a generation that
is never 0, every fence is 0, both tiers read as zero, and no session, transit, command or completion exists. Values that the spec states
none for are the model's choice (log entry 3). -/
def Obligations.ResetState : Prop :=
  (∀ f : Fld, rd f State.reset = f.rst) ∧
  (∀ i : Nat, (descOf i State.reset).st = stFree) ∧
  (∀ n : Nat, fenceVal n State.reset = 0) ∧
  (∀ boot i : Nat, 0 < startGen boot i ∧ startGen boot i < 2 ^ 30) ∧
  (∀ a : Nat, memByte State.reset a = 0#8) ∧
  State.reset.pending = [] ∧ State.reset.sess = [] ∧ State.reset.transits = [] ∧ State.reset.started = [] ∧ State.reset.cpl = [] ∧
  State.reset.parts = [] ∧ State.reset.net.members = []

/-- The state after reset has the canonical shape (R4, R123, 04_memory_tiers.md). The state after reset meets Inv: both memories in canonical
form, every register field and every descriptor held once. -/
def Obligations.ResetInv : Prop :=
  Inv State.reset

/-- Every step keeps the canonical shape of memory, registers and descriptors (R4, R123, 04_memory_tiers.md). From every state that meets Inv,
whatever command stands in front, a step that answers a next state answers one that meets Inv: both memories stay in canonical form
(addresses strictly rising, no listed byte zero), and each register field and each descriptor stays held once. -/
def Obligations.StepKeepsInv : Prop :=
  ∀ s t : State, Inv s → step s = .next t → Inv t

/-- Every step takes exactly the front command off the queue (98_reader.md). Whatever the command, a step that answers a next state leaves the
rest of the queue as it was, in its order: no command adds to, removes from or reorders the commands that wait. -/
def Obligations.StepTakesOne : Prop :=
  ∀ s t : State, step s = .next t → t.pending = s.pending.tail

/-- No command ever stops the model (98_reader.md, R559). For every command and every state exec answers a next state: every failure that the
spec describes is an effect (a status, an event, a counter), and a module without power or not serving leaves the command without effect. -/
def Obligations.StepCompletes : Prop :=
  ∀ (c : Instr) (s : State), ∃ t : State, exec c s = .next t

/-- A write to the bonded tier reads back, and leaves every other byte (R4, 04_memory_tiers.md). In a state whose memories are canonical,
writing a byte at a bonded address makes that address read as the byte; writing a run leaves every address outside the run as it read
before; and writing keeps the canonical form. -/
def Obligations.MemoryReadAfterWrite : Prop :=
  (∀ (s : State) (a : Nat) (v : Byte), memOk s = true → a < bondedEnd → memByte (memWrite a [v] s) a = v) ∧
  (∀ (s : State) (a x : Nat) (bs : List Byte), x < a ∨ a + bs.length ≤ x → memByte (memWrite a bs s) x = memByte s x) ∧
  (∀ (s : State) (a : Nat) (bs : List Byte), memOk s = true → memOk (memWrite a bs s) = true)

/-- A register field holds what was put there, cut to its width, and counters saturate (R4, R8). Writing a field makes it read as the value
modulo 2 to its width, leaves every field of another place, and a counter that would pass its largest value stays at all ones. -/
def Obligations.RegisterFields : Prop :=
  (∀ (f : Fld) (v : Nat) (s : State), rd f (wr f v s) = v % 2 ^ fwidth f) ∧
  (∀ (f g : Fld) (v : Nat) (s : State), fkey f ≠ fkey g → rd f (wr g v s) = rd f s) ∧
  (∀ (f : Fld) (n : Nat) (s : State), rd f (bump f n s) = satAdd (fwidth f) (rd f s) n) ∧
  (∀ (f : Fld) (s : State), rd f s = fmax f → rd f (bump f 1 s) = fmax f)

/-- Doorbell writes move the host's indices, or put the queue pair in ERROR, or are counted while IDE shuts the link (R406, R433, R435, R409,
R512). While memory requests are taken (R512): on a queue pair that runs SQ_TAIL sets the tail, and on one that does not run it is lost;
on one that runs or drains CQ_HEAD sets the head and OUT_CI the consumed byte count, and the first event that waited joins the ring's
records where it has room; an index past the ring, or a count ahead of the producer, puts the queue pair in ERROR with cause 1. EVQ_CI
sets the consumed count of the event queue. Where IDE is required and no stream stands, each of the four is only counted in
SEC_IDE_BLOCKED. -/
def Obligations.Doorbells : Prop :=
  (∀ (fn qp idx : Nat) (s : State), live s = true → ideShut s = false → qpState fn qp s = 1 → idx < sqSize fn qp s →
    exec (.sqTail fn qp idx) s = .next (putQp fn qp { qpOf fn qp s with sqTail := idx } s)) ∧
  (∀ (fn qp idx : Nat) (s : State), live s = true → ideShut s = false → qpState fn qp s = 1 → sqSize fn qp s ≤ idx →
    exec (.sqTail fn qp idx) s = .next (qpError fn qp 1 s)) ∧
  (∀ (fn qp idx : Nat) (s : State), live s = true → ideShut s = false → qpState fn qp s ≠ 1 → exec (.sqTail fn qp idx) s = .next s) ∧
  (∀ (fn qp idx : Nat) (s : State), live s = true → ideShut s = false → (qpState fn qp s = 1 ∨ qpState fn qp s = 2) → idx < cqSize fn qp s →
    exec (.cqHead fn qp idx) s = .next (putQp fn qp { qpOf fn qp s with cqHead := idx } s)) ∧
  (∀ (fn qp idx : Nat) (s : State), live s = true → ideShut s = false → (qpState fn qp s = 1 ∨ qpState fn qp s = 2) → cqSize fn qp s ≤ idx →
    exec (.cqHead fn qp idx) s = .next (qpError fn qp 1 s)) ∧
  (∀ (fn qp n : Nat) (s : State), live s = true → ideShut s = false → (qpState fn qp s = 1 ∨ qpState fn qp s = 2) →
    (rd (HIF_QP_OUT_STATUS.PI fn qp) s + 2 ^ 32 - n % 2 ^ 32) % 2 ^ 32 ≤ outSize fn qp s → (qpOf fn qp s).evs = [] →
    exec (.outCi fn qp n) s = .next (putQp fn qp { qpOf fn qp s with outCi := n % 2 ^ 32 } s)) ∧
  (∀ (fn qp n : Nat) (r : Rec) (rest : List Rec) (s : State), live s = true → ideShut s = false → (qpState fn qp s = 1 ∨ qpState fn qp s = 2) →
    (rd (HIF_QP_OUT_STATUS.PI fn qp) s + 2 ^ 32 - n % 2 ^ 32) % 2 ^ 32 ≤ outSize fn qp s → (qpOf fn qp s).evs = r :: rest →
    recSize r ≤ ringFree fn qp (putQp fn qp { qpOf fn qp s with outCi := n % 2 ^ 32 } s) →
    ∃ t, exec (.outCi fn qp n) s = .next t ∧ (qpOf fn qp t).outCi = n % 2 ^ 32 ∧ r ∈ (qpOf fn qp t).recs) ∧
  (∀ (fn qp n : Nat) (s : State), live s = true → ideShut s = false → (qpState fn qp s = 1 ∨ qpState fn qp s = 2) →
    outSize fn qp s < (rd (HIF_QP_OUT_STATUS.PI fn qp) s + 2 ^ 32 - n % 2 ^ 32) % 2 ^ 32 →
    exec (.outCi fn qp n) s = .next (qpError fn qp 1 s)) ∧
  (∀ (n : Nat) (s : State), live s = true → ideShut s = false → exec (.evqCi n) s = .next { s with evqCi := n % 2 ^ 32 }) ∧
  (∀ (fn qp n : Nat) (s : State), live s = true → ideShut s = true →
    exec (.sqTail fn qp n) s = .next (bump SEC_IDE_BLOCKED.COUNT 1 s) ∧ exec (.cqHead fn qp n) s = .next (bump SEC_IDE_BLOCKED.COUNT 1 s) ∧
    exec (.outCi fn qp n) s = .next (bump SEC_IDE_BLOCKED.COUNT 1 s) ∧ exec (.evqCi n) s = .next (bump SEC_IDE_BLOCKED.COUNT 1 s))

/-- Enabling a valid queue pair runs it from index 0, an invalid one goes to ERROR, and clearing ENABLE stops it (R405). With a configuration
that R405 allows, setting ENABLE makes STATE 1 with the tail, the heads, the consumed count and the producer count at 0 and CAUSE clear.
An invalid configuration leads to ERROR with cause 4 and ENABLE clear. Setting ENABLE of a queue pair that runs changes nothing. Clearing
ENABLE makes STATE 0. -/
def Obligations.QueuePairEnable : Prop :=
  (∀ (fn qp : Nat) (s : State), serving s = true → ideShut s = false → fn < 256 → qp < 64 → qpState fn qp s ≠ 1 → qpValid fn qp s = true →
    ∃ t, exec (.qpEnable fn qp true) s = .next t ∧ qpState fn qp t = 1 ∧ rd (HIF_QP_STATUS.CAUSE fn qp) t = 0 ∧
      rd (HIF_QP_STATUS.SQ_HEAD fn qp) t = 0 ∧ rd (HIF_QP_STATUS.CQ_TAIL fn qp) t = 0 ∧ rd (HIF_QP_OUT_STATUS.PI fn qp) t = 0 ∧
      rd (HIF_QP_CTRL.ENABLE fn qp) t = 1 ∧ (qpOf fn qp t).sqTail = 0 ∧ (qpOf fn qp t).cqHead = 0 ∧ (qpOf fn qp t).outCi = 0) ∧
  (∀ (fn qp : Nat) (s : State), serving s = true → ideShut s = false → fn < 256 → qp < 64 → qpState fn qp s ≠ 1 → qpValid fn qp s = false →
    ∃ t, exec (.qpEnable fn qp true) s = .next t ∧ qpState fn qp t = 3 ∧ rd (HIF_QP_STATUS.CAUSE fn qp) t = 4 ∧
      rd (HIF_QP_CTRL.ENABLE fn qp) t = 0) ∧
  (∀ (fn qp : Nat) (s : State), serving s = true → ideShut s = false → qpState fn qp s = 1 → exec (.qpEnable fn qp true) s = .next s) ∧
  (∀ (fn qp : Nat) (s : State), serving s = true → ideShut s = false →
    exec (.qpEnable fn qp false) s =
      .next (wr (HIF_QP_STATUS.STATE fn qp) 0 (wr (HIF_QP_CTRL.ENABLE fn qp) 0 s)))

/-- The intake takes an entry in its turn, records reach their ring, held events and interrupts go out (R407, R408, R409, R410, R411, R415,
R435, R512). In a queue pair's turn an entry that passes checks 1 to 3 of R415 joins the started commands and SQ_HEAD advances in the
ring; one with an undefined opcode, a stray byte, an undefined code or a form for the PF alone completes with REJECTED; a failed fetch is
cause 2; out of its turn nothing is fetched. The front record of a ring with room is written; a failed write is cause 3. The oldest held
event is written where the event queue has room. A vector with entries not yet covered fires at its timeout, that of a queue pair or of
the event queue. -/
def Obligations.IntakeAndOutput : Prop :=
  (∀ (fn qp : Nat) (e : List Byte) (d : List (Nat × Nat)) (s : State), serving s = true → ideShut s = false → mayFetch fn qp (field e 0 1) s = true →
    fetchTurn fn qp (field e 0 1) s = true →
    rd (HIF_QP_SQ.LOG2 fn qp) s ≤ 16 → opBytes (field e 0 1) = some d → strayByte e d = false → badCode fn (field e 0 1) e = false →
    (pfOnly (field e 0 1) = true → fn = 0) → ((hdrOf fn qp e).bondedBuf = true → fn = 0) →
    (field e 8 8 = 0 ∨ namesSession (field e 0 1) = true) → ((hdrOf fn qp e).fenceDone = true → mayFence fn (hdrOf fn qp e).fence s = true) →
    ∃ t, exec (.sqEntryFetch fn qp (some e)) s = .next t ∧ t.started = s.started ++ [{ h := hdrOf fn qp e, opcode := field e 0 1 }] ∧
      t.cpl = s.cpl ∧ rd (HIF_QP_STATUS.SQ_HEAD fn qp) t = (rd (HIF_QP_STATUS.SQ_HEAD fn qp) s + 1) % sqSize fn qp s) ∧
  (∀ (fn qp : Nat) (e : List Byte) (s : State), serving s = true → ideShut s = false → mayFetch fn qp (field e 0 1) s = true →
    fetchTurn fn qp (field e 0 1) s = true →
    (opBytes (field e 0 1) = none ∨ ∃ d, opBytes (field e 0 1) = some d ∧ (strayByte e d = true ∨ badCode fn (field e 0 1) e = true ∨
      (pfOnly (field e 0 1) = true ∧ fn ≠ 0) ∨ ((hdrOf fn qp e).bondedBuf = true ∧ fn ≠ 0))) →
    exec (.sqEntryFetch fn qp (some e)) s =
      .next (refuse (hdrOf fn qp e) (field e 0 1) sRejected
        { wr (HIF_QP_STATUS.SQ_HEAD fn qp) ((rd (HIF_QP_STATUS.SQ_HEAD fn qp) s + 1) % sqSize fn qp s)
            { s with fetchLast := sset s.fetchLast (rd (HIF_QP_CTRL.CLASS fn qp) s) (qpKey fn qp) } with
          started := s.started ++ [{ h := hdrOf fn qp e, opcode := field e 0 1 }] })) ∧
  (∀ (fn qp : Nat) (s : State), serving s = true → ideShut s = false → mayFetch fn qp 0 s = true → fetchTurn fn qp 0 s = true →
    exec (.sqEntryFetch fn qp none) s = .next (qpError fn qp 2 s)) ∧
  (∀ (fn qp : Nat) (e : List Byte) (s : State), serving s = true → ideShut s = false → fetchTurn fn qp (field e 0 1) s = false →
    exec (.sqEntryFetch fn qp (some e)) s = .next s) ∧
  (∀ (fn qp : Nat) (r : Rec) (rest : List Rec) (s : State), serving s = true → ideShut s = false → (qpState fn qp s = 1 ∨ qpState fn qp s = 2) →
    (qpOf fn qp s).recs = r :: rest →
    (rd (HIF_QP_OUT_STATUS.PI fn qp) s + 2 ^ 32 - (qpOf fn qp s).outCi) % 2 ^ 32 + recSize r ≤ outSize fn qp s →
    ∃ t, exec (.outputRecordWrite fn qp true) s = .next t ∧ (fn, qp, r) ∈ t.recOut) ∧
  (∀ (fn qp : Nat) (s : State), serving s = true → ideShut s = false → (qpState fn qp s = 1 ∨ qpState fn qp s = 2) → (qpOf fn qp s).recs ≠ [] →
    exec (.outputRecordWrite fn qp false) s = .next (qpError fn qp 3 s)) ∧
  (∀ (e : Ev) (rest : List Ev) (s : State), serving s = true → s.evHeld = e :: rest → evqRoom s = true →
    ∃ t, exec .eventQueueWrite s = .next t ∧ e ∈ t.evOut) ∧
  (∀ (fn vec : Nat) (s : State), serving s = true → vec < 64 → sgetD s.coal (fn * 128 + vec) 0 ≠ 0 → rd (HIF_QP_CTRL.INT_EN fn vec) s = 1 →
    exec (.msixCoalesceTimeout fn vec) s =
      .next { s with coal := sset s.coal (fn * 128 + vec) 0, msix := (fn, vec) :: s.msix }) ∧
  (∀ s : State, serving s = true → sgetD s.coal 64 0 ≠ 0 → rd HIF_EVQ_CFG.INT_EN s = 1 →
    exec (.msixCoalesceTimeout 0 64) s = .next { s with coal := sset s.coal 64 0, msix := (0, 64) :: s.msix })

/-- A link change sets rate, width and port capacity; a BAR4 write reaches the bonded tier but for protected areas (R21, R32, R397, R398,
R402, R110, R481). After PCIE_LINK_CHANGE the link register shows the trained rate and width, and ports 0 and 1 are up with the capacity
of a supported link and down with none on another. A BAR4 write that meets no protected area of channel 0 goes, as every write through the
controllers does, to the window's address in the bonded tier: it is stored where none of its channels is in PROCESSOR mode and no capture
runs, and waits in the controller's queue in the first case. A write that meets protected areas is counted once with the code of the last
of them, and its other bytes are written. -/
def Obligations.HostLinkAndBar4 : Prop :=
  (∀ (rate width : Nat) (flit : Bool) (s : State), live s = true → rate < 16 → width < 64 →
    ∃ t, exec (.pcieLinkChange rate width flit) s = .next t ∧ rd HIF_LINK.RATE t = rate ∧ rd HIF_LINK.WIDTH t = width ∧
      rd HIF_LINK.SUPPORTED t = b2n (linkSupported rate width) ∧ rd (TM_PORT.UP 0) t = b2n (linkSupported rate width) ∧
      rd (TM_PORT.UP 1) t = b2n (linkSupported rate width) ∧
      rd (TM_PORT.RATE_MBPS 0) t = (if linkSupported rate width then linkMbps rate width else 0) ∧
      rd (TM_PORT.RATE_MBPS 1) t = (if linkSupported rate width then linkMbps rate width else 0)) ∧
  (∀ (off : Nat) (data : List Byte) (s : State), live s = true → ideShut s = false → data ≠ [] → off + data.length ≤ s.bar4Gib * 2 ^ 30 →
    rd HIF_BAR4_WINDOW.ADDR s * 2 ^ 30 + off + data.length ≤ bondedEnd →
    (∀ k, k < data.length → bar4Area (rd HIF_BAR4_WINDOW.ADDR s * 2 ^ 30 + off + k) = 0) → s.ckpt = none →
    chansOwned (rd HIF_BAR4_WINDOW.ADDR s * 2 ^ 30 + off) data.length s = false →
    exec (.bar4Write off data) s = .next (memWrite (rd HIF_BAR4_WINDOW.ADDR s * 2 ^ 30 + off) data s)) ∧
  (∀ (off : Nat) (data : List Byte) (s : State), live s = true → ideShut s = false → data ≠ [] → off + data.length ≤ s.bar4Gib * 2 ^ 30 →
    rd HIF_BAR4_WINDOW.ADDR s * 2 ^ 30 + off + data.length ≤ bondedEnd →
    (∀ k, k < data.length → bar4Area (rd HIF_BAR4_WINDOW.ADDR s * 2 ^ 30 + off + k) = 0) →
    chansOwned (rd HIF_BAR4_WINDOW.ADDR s * 2 ^ 30 + off) data.length s = true →
    exec (.bar4Write off data) s = .next { s with chanWait := s.chanWait ++ [(rd HIF_BAR4_WINDOW.ADDR s * 2 ^ 30 + off, data)] }) ∧
  (∀ (off k : Nat) (data : List Byte) (s : State), live s = true → ideShut s = false → off + data.length ≤ s.bar4Gib * 2 ^ 30 →
    rd HIF_BAR4_WINDOW.ADDR s * 2 ^ 30 + off + data.length ≤ bondedEnd → k < data.length →
    bar4Area (rd HIF_BAR4_WINDOW.ADDR s * 2 ^ 30 + off + k) ≠ 0 →
    (∀ j, k < j → j < data.length → bar4Area (rd HIF_BAR4_WINDOW.ADDR s * 2 ^ 30 + off + j) = 0) →
    exec (.bar4Write off data) s =
      .next (bump HUB_BAR4_DISCARD.COUNT 1
        (wr HUB_BAR4_DISCARD.LAST_REGION (bar4Area (rd HIF_BAR4_WINDOW.ADDR s * 2 ^ 30 + off + k))
          ((bar4Runs (rd HIF_BAR4_WINDOW.ADDR s * 2 ^ 30 + off) data).foldl (fun s r => engWrite r.1 r.2 s) s))))

/-- SET, ADD, waits, timeouts and reset of fences (R427, R428, R429, R426). A FENCE_SIGNAL that passes its checks makes the fence the greater
of value and old value for SET and the saturated sum for ADD, where no wait and no FENCE_DONE adds to it. A FENCE_WAIT whose value is
reached completes with OK and the fence's value, and another is held with its limit, or completes with BUSY where 4,096 wait. A held wait
whose limit has passed completes with TIMEOUT and is counted. FEN_RESET sets a fence to 0 and changes nothing else. -/
def Obligations.FenceRules : Prop :=
  (∀ (h : Hdr) (fence mode v : Nat) (s : State), passes h 0x20 (decide (1 < mode)) s = true → mayFence h.fn fence s = true → mode ≤ 1 →
    v < 2 ^ 64 → fenceVal fence s < 2 ^ 64 → s.fenWaits = [] → h.fenceDone = false → h.fn < 256 → h.qp < 64 →
    ∃ t, exec (.fenceSignal h fence mode v) s = .next t ∧
      fenceVal fence t = if mode = 0 then max (fenceVal fence s) v else satAdd 64 (fenceVal fence s) v) ∧
  (∀ (h : Hdr) (fence v timeout : Nat) (s : State), passes h 0x21 false s = true → mayFence h.fn fence s = true → v ≤ fenceVal fence s →
    exec (.fenceWait h fence v timeout) s = .next (complete h 0x21 sOk 0 (fenceVal fence s) 0 (entered h 0x21 s))) ∧
  (∀ (h : Hdr) (fence v timeout : Nat) (s : State), passes h 0x21 false s = true → mayFence h.fn fence s = true → fenceVal fence s < v →
    s.fenWaits.length < 4096 →
    ∃ t, exec (.fenceWait h fence v timeout) s = .next t ∧ t.cpl = s.cpl ∧
      t.fenWaits = s.fenWaits ++ [{ h := h, fence := fence, value := v, limit := if timeout = 0 then 0 else s.cad.edges + timeout }]) ∧
  (∀ (h : Hdr) (fence v timeout : Nat) (s : State), passes h 0x21 false s = true → mayFence h.fn fence s = true → fenceVal fence s < v →
    4096 ≤ s.fenWaits.length →
    exec (.fenceWait h fence v timeout) s = .next (complete h 0x21 sBusy 0 (fenceVal fence s) 0 (entered h 0x21 s))) ∧
  (∀ (w : FWait) (s : State), serving s = true → s.fenWaits = [w] → w.limit ≠ 0 → w.limit ≤ s.cad.edges →
    exec (.fenceWaitTimeout w.h.fn w.h.qp w.h.cmdId) s = .next (bump FEN_TIMEOUTS.COUNT 1 (endWait w sTimeout s))) ∧
  (∀ (fence : Nat) (s : State), live s = true → fence < fences → exec (.fenReset fence) s = .next (wr (FEN_VALUE.VALUE fence) 0 s))

/-- FENCE_DONE adds 1 to its fence after the completion entry is written, whatever the status (R429). The completion of a command with
FENCE_DONE, on a queue pair that takes entries over an open link, with whatever opcode, status and results, first has its entry in front
of the completions; then, the completions as they are with that entry, its fence is 1 higher (saturating, R427); and only then do waits
that this satisfies complete. -/
def Obligations.FenceDone : Prop :=
  ∀ (h : Hdr) (op st hd a b : Nat) (s : State), h.fn < 256 → h.qp < 64 → qpState h.fn h.qp s ≠ 0 → qpState h.fn h.qp s ≠ 3 → ideShut s = false →
    h.cplFault = false → h.fenceDone = true → mayFence h.fn h.fence s = true →
    ∃ c u, u.cpl = c :: s.cpl ∧ c.fn = h.fn ∧ c.qp = h.qp ∧ c.cmdId = h.cmdId ∧ c.opcode = op ∧ c.status = st ∧
      fenceVal h.fence u = fenceVal h.fence s ∧ u.fenWaits = s.fenWaits ∧
      fenceVal h.fence (fenceApply h.fence 1 1 u) = satAdd 64 (fenceVal h.fence s) 1 ∧ (fenceApply h.fence 1 1 u).cpl = c :: s.cpl ∧
      complete h op st hd a b s = settleWaits s.fenWaits.length (fenceApply h.fence 1 1 u)

/-- SOFT_TICK makes one soft tick edge in NOPULSE and is ignored in every other state (R71). In a live module whose cadence state is NOPULSE,
SOFT_TICK makes one soft tick edge; in any other state nothing changes. -/
def Obligations.SoftTick : Prop :=
  (∀ (t : Nat) (pw : TickPower) (s : State), live s = true → rd SID_STATUS.STATE s = cNoPulse →
    exec (.softTick t pw) s = .next (tickEdge 2 (64 * t) pw s)) ∧
  (∀ (t : Nat) (pw : TickPower) (s : State), live s = true → rd SID_STATUS.STATE s ≠ cNoPulse →
    exec (.softTick t pw) s = .next s)

/-- A pulse is a glitch, extra, absorbed or accepted; synthetic ticks and written epoch values (R64, R65, R72). A pulse shorter than 200 ns is
counted as a glitch, one less than 40 µs after the last edge as extra, one less than 2P after a synthetic tick is absorbed with no edge of
its own, and any other makes a real tick edge. A synthetic tick falls at its time where P is valid. A written epoch value waits for its
edge. -/
def Obligations.PulseClasses : Prop :=
  (∀ (t high : Nat) (pw : TickPower) (s : State), live s = true → high < 200 →
    exec (.siderealPulse t high pw) s = .next (bump SID_PULSE_COUNTS.GLITCH 1 s)) ∧
  (∀ (t high e : Nat) (pw : TickPower) (s : State), live s = true → 200 ≤ high → s.cad.lastEdge = some e → 64 * t - e < 40000 * 64 →
    exec (.siderealPulse t high pw) s = .next (bump SID_PULSE_COUNTS.EXTRA 1 s)) ∧
  (∀ (t high e : Nat) (pw : TickPower) (s : State), live s = true → 200 ≤ high → s.cad.lastEdge = some e → 40000 * 64 ≤ 64 * t - e →
    s.cad.lastSynthetic = true → 64 * t - e < 2 * periodQ s →
    exec (.siderealPulse t high pw) s = .next (epochBroadcast (64 * t) (cadenceReal false (realEdge (64 * t) s)))) ∧
  (∀ (t high : Nat) (pw : TickPower) (s : State), live s = true → 200 ≤ high →
    (∀ e, s.cad.lastEdge = some e → 40000 * 64 ≤ 64 * t - e ∧ (s.cad.lastSynthetic = true → 2 * periodQ s ≤ 64 * t - e)) →
    exec (.siderealPulse t high pw) s = .next (acceptPulse (64 * t) pw s)) ∧
  (∀ (pw : TickPower) (s : State), live s = true → periodQ s ≠ 0 →
    exec (.syntheticTick pw) s = .next (tickEdge 1 s.cad.nextSynth pw
      { s with cad.lastEdge := some s.cad.nextSynth, cad.lastSynthetic := true, cad.synthSinceReal := true,
               cad.nextSynth := s.cad.nextSynth + 4 * periodQ s })) ∧
  (∀ (v : Nat) (s : State), live s = true → exec (.sidEpochTx v) s = .next { s with cad.written := some (v % 2 ^ 64, true) }) ∧
  (∀ (v : Nat) (s : State), live s = true → exec (.sidEpochLocal v) s = .next { s with cad.written := some (v % 2 ^ 64, false) })

/-- An edge advances the sidereal count by one, unless an epoch set loads its value (R66, R72, R73). With no frame waiting, an edge with no
written value advances SID_COUNT by 1 modulo 2^64; a value written for this module alone loads at an edge of any kind; a value written for
broadcast waits at an edge that is not real and loads at a real one. -/
def Obligations.CountAtEdge : Prop :=
  (∀ (kind t : Nat) (s : State), s.cad.written = none → s.cad.frames = [] → now (countEdge kind t s).2 = (now s + 1) % 2 ^ 64) ∧
  (∀ (kind t v : Nat) (s : State), s.cad.written = some (v, false) → v < 2 ^ 64 → now (countEdge kind t s).2 = v ∧ (countEdge kind t s).1 = true) ∧
  (∀ (t v : Nat) (s : State), s.cad.written = some (v, true) → v < 2 ^ 64 → now (countEdge 0 t s).2 = v ∧ (countEdge 0 t s).1 = true) ∧
  (∀ (kind t v : Nat) (s : State), kind ≠ 0 → s.cad.written = some (v, true) → s.cad.frames = [] →
    now (countEdge kind t s).2 = (now s + 1) % 2 ^ 64 ∧ (countEdge kind t s).2.cad.written = some (v, true))

/-- The LT values that wait take effect together at the edge (R5, R75). After an edge no LT value waits; of the values that waited, whatever
others waited with it, one for a pool water mark, the pre-copy threshold or the management cap is what its field then reads. -/
def Obligations.LtTakesEffect : Prop :=
  (∀ (s : State), (applyLt s).ltPend = []) ∧
  (∀ (s : State) (f : Fld) (v : Nat), f ∈ [SES_POOL_WM.HIGH, SES_POOL_WM.LOW, TRN_TUNE.DIRTY_THRESH_MIB, MGT_CAP.MGMT_CAP_W] →
    (fkey f, v) ∈ s.ltPend → (∀ w, (fkey f, w) ∈ s.ltPend → w = v) → rd f (applyLt s) = v)

/-- What the NOP, FENCE_SIGNAL and FENCE_WAIT entries do, and how a blocked table goes on (R79, R80, R82, R84, R85, R427). A NOP entry does
nothing but the NOTIFY it asks for; a FENCE_SIGNAL entry signals its fence and is done; a FENCE_WAIT entry whose fence has come so far is
done at once, and another blocks its table at its place. Where the fence of a blocked head has reached its value the head leaves the ring,
its action is done and due entries dispatch. Where the edges of its wait have passed first, the head leaves, the timeout is counted and
posted as event 0x0004, and due entries dispatch. -/
def Obligations.EphemerisActions : Prop :=
  (∀ (table idx : Nat) (e : EphEntry) (s : State), serving s = true → bitOf e.flags 0 = false → exec (.nopEntry table idx e) s = .next s) ∧
  (∀ (table idx : Nat) (e : EphEntry) (s : State), serving s = true → bitOf e.flags 0 = true →
    exec (.nopEntry table idx e) s = .next (postPf 0x0003 0x03 sOk e.tag (table * 2 ^ 48 + idx) s)) ∧
  (∀ (table idx : Nat) (e : EphEntry) (s : State), serving s = true →
    exec (.ephFenceSignal table idx e) s = .next (actionDone table idx e (signalFence e.target (e.opB % 2) e.opA s))) ∧
  (∀ (table idx : Nat) (e : EphEntry) (s : State), serving s = true → e.opA ≤ fenceVal e.target s →
    exec (.ephFenceWait table idx e) s = .next (actionDone table idx e s)) ∧
  (∀ (table idx : Nat) (e : EphEntry) (s : State), serving s = true → fenceVal e.target s < e.opA →
    ∃ t, exec (.ephFenceWait table idx e) s = .next t ∧ (ephOf table t).entries.head? = some e ∧ (ephOf table t).head = idx ∧
      (ephOf table t).blocked = some (if e.opB = 0 then 0 else s.cad.edges + e.opB) ∧ t.desc = s.desc ∧ t.mem = s.mem) ∧
  (∀ (table lim : Nat) (e : EphEntry) (s : State), serving s = true → (ephOf table s).blocked = some lim →
    (ephOf table s).entries.head? = some e → e.opA ≤ fenceVal e.target s →
    exec (.ephTableUnblock table) s = .next (ephDispatch (actionDone table (ephOf table s).head e (popEph table s)))) ∧
  (∀ (table lim : Nat) (e : EphEntry) (s : State), serving s = true → (ephOf table s).blocked = some lim →
    (ephOf table s).entries.head? = some e → fenceVal e.target s < e.opA → 0 < lim → lim ≤ s.cad.edges →
    exec (.ephWaitTimeout table) s = .next (ephDispatch
      (postPf 0x0004 0x03 sTimeout e.tag (table * 2 ^ 48 + (ephOf table s).head) (bump EPH_EVENTS.WAIT_TIMEOUTS 1 (popEph table s)))))

/-- Enabling, pausing, flushing and filling ephemeris tables (R81, R86, R88, R89). Setting a table's ENABLE starts it empty at index 0 where
R86 allows its place; clearing it discards the contents; FLUSH empties it and keeps the tail; PAUSE and the sequencer's ENABLE are written
and due entries dispatch; an accepted run joins the end of the table and its entries show as pending. -/
def Obligations.EphemerisControls : Prop :=
  (∀ (table : Nat) (s : State), serving s = true → table < 64 → isSet (EPH_TABLE_CTRL.ENABLE table) s = false → ephPlaceOk table s = true →
    ∃ t, exec (.ephTableEnable table true) s = .next t ∧ ephOf table t = {} ∧ rd (EPH_TABLE_CTRL.ENABLE table) t = 1 ∧
      rd (EPH_TABLE_STATUS.PENDING table) t = 0 ∧ rd (EPH_TABLE_STATUS.HEAD table) t = 0 ∧ t.desc = s.desc ∧ t.mem = s.mem) ∧
  (∀ (table : Nat) (s : State), serving s = true → table < 64 → isSet (EPH_TABLE_CTRL.ENABLE table) s = true →
    ∃ t, exec (.ephTableEnable table false) s = .next t ∧ (ephOf table t).entries = [] ∧ rd (EPH_TABLE_CTRL.ENABLE table) t = 0 ∧ t.desc = s.desc ∧
      t.mem = s.mem) ∧
  (∀ (table : Nat) (s : State), serving s = true → table < 64 →
    ∃ t, exec (.ephFlush table) s = .next t ∧ (ephOf table t).entries = [] ∧ (ephOf table t).blocked = none ∧ ringTail table t = ringTail table s ∧
      t.desc = s.desc ∧ t.mem = s.mem) ∧
  (∀ (table : Nat) (on : Bool) (s : State), serving s = true → table < 64 →
    exec (.ephTablePause table on) s = .next (ephDispatch (wr (EPH_TABLE_CTRL.PAUSE table) (b2n on) s))) ∧
  (∀ (on : Bool) (s : State), serving s = true → exec (.ephEnable on) s = .next (ephDispatch (wr EPH_CTRL.ENABLE (b2n on) s))) ∧
  (∀ (h : Hdr) (table count : Nat) (buf : Buf) (bs : List Byte) (s : State), passes h 0x40 false s = true → count ≠ 0 → count ≤ 65536 → table < 64 →
    bufRead h buf (32 * count) s = some bs → isSet (EPH_TABLE_CTRL.ENABLE table) s = true →
    (ephOf table s).entries.length + count ≤ ringSize table s →
    badEntry ((ephOf table s).entries.getLast?.map (·.tick)) 0 ((pieces 32 count bs).map entryOf) = none →
    exec (.ephemerisSubmit h table count buf) s =
      .next (ephDispatch (complete h 0x40 (if cadenceLocked s then sOk else sCadenceLost) 0 (ringTail table s) ones64
        (ephAppend table ((pieces 32 count bs).map entryOf) bs (entered h 0x40 s)))))

/-- GENERATE, TOOL_WAIT and CANCEL on a session that R41 lets them act on (R40, R41, R43, R49, R418). GENERATE makes the session READY with
TURN_PENDING set, the next TURN_ID, no tokens in the turn and LAST_ACTIVE the present tick. TOOL_WAIT writes the wake hint and a nonzero
TTL and makes a READY session WAITING. CANCEL of a pending turn on a READY session ends it at once with LAST_END 4, on a READY session
without one it completes with OK and changes nothing else, and on an ACTIVE session it sets CANCEL_PENDING. Other sessions' descriptors
stay. -/
def Obligations.SessionTurns : Prop :=
  (∀ (h : Hdr) (i : Nat) (s : State), actsOn h 0x05 false i s = true →
    ∃ t, exec (.generate h) s = .next t ∧ (descOf i t).st = stReady ∧ (descOf i t).turnPending = true ∧
      (descOf i t).turnId = ((descOf i s).turnId + 1) % 2 ^ 32 ∧ (descOf i t).turnTokens = 0 ∧ (descOf i t).lastActive = now s ∧
      (∀ j, j ≠ i → descOf j t = descOf j s)) ∧
  (∀ (h : Hdr) (wake ttl i : Nat) (s : State), actsOn h 0x06 false i s = true →
    ∃ t, exec (.toolWait h wake ttl) s = .next t ∧
      descOf i t = { descOf i s with lastActive := now s, wakeHint := wake, ttl := if ttl = 0 then (descOf i s).ttl else ttl,
                                     st := if (descOf i s).st = stReady then stWaiting else (descOf i s).st } ∧
      (∀ j, j ≠ i → descOf j t = descOf j s) ∧ t.sess = s.sess ∧ t.deepMem = s.deepMem) ∧
  (∀ (h : Hdr) (i : Nat) (s : State), actsOn h 0x0A false i s = true → (descOf i s).st = stReady → (descOf i s).turnPending = true →
    ∃ t, exec (.cancel h) s = .next t ∧ (descOf i t).st = stReady ∧ (descOf i t).turnPending = false ∧ (descOf i t).lastEnd = 4 ∧
      (∀ j, j ≠ i → descOf j t = descOf j s)) ∧
  (∀ (h : Hdr) (i : Nat) (s : State), actsOn h 0x0A false i s = true → (descOf i s).st = stReady → (descOf i s).turnPending = false →
    exec (.cancel h) s = .next (complete h 0x0A sOk (descOf i s).handle (descOf i s).turnId 0 (entered h 0x0A s))) ∧
  (∀ (h : Hdr) (i : Nat) (s : State), actsOn h 0x0A false i s = true → (descOf i s).st = stActive →
    ∃ t, exec (.cancel h) s = .next t ∧ descOf i t = { descOf i s with cancelPending := true } ∧
      (∀ j, j ≠ i → descOf j t = descOf j s))

/-- SET_SAMPLING, SET_GRAMMAR and SET_STOPS give a session its settings (R249, R251, R262, R288, R415, R420, R422). SET_SAMPLING with every
field in range writes them, the seed with RNG_COUNTER cleared and MAX_TOKENS only where asked; otherwise it is REJECTED. SET_GRAMMAR with
0xFFFF leaves the session without grammar; with a grammar that is loaded for the session's tokenizer set it binds it, from its first state
with an empty stack, in the stack the session has, or, where it has none and is not parked, in 4 KiB that it takes; with any other number
it is REJECTED. SET_STOPS with lengths of at most 64 writes the eight strings and their lengths, and INCLUDE_STOP where asked; with a
longer one it is REJECTED. Other sessions' descriptors stay. -/
def Obligations.SessionSettings : Prop :=
  (∀ (h : Hdr) (p : Sampling) (withSeed withMax : Bool) (i : Nat) (s : State), actsOn h 0x0B false i s = true → samplingOk p = true →
    ∃ t, exec (.setSampling h p withSeed withMax) s = .next t ∧
      descOf i t = { descOf i s with
        lastActive := now s, temperature := p.temperature, topP := p.topP, minP := p.minP, repPenalty := p.repPenalty,
        presencePenalty := p.presencePenalty, frequencyPenalty := p.frequencyPenalty, topK := p.topK, decMode := p.decMode,
        maxTokens := if withMax then p.maxTokens else (descOf i s).maxTokens, seed := if withSeed then p.seed else (descOf i s).seed,
        rngCounter := if withSeed then 0 else (descOf i s).rngCounter } ∧
      (∀ j, j ≠ i → descOf j t = descOf j s) ∧ t.sess = s.sess) ∧
  (∀ (h : Hdr) (p : Sampling) (withSeed withMax : Bool) (i : Nat) (s : State), actsOn h 0x0B false i s = true → samplingOk p = false →
    exec (.setSampling h p withSeed withMax) s = .next (refuse h 0x0B sRejected (entered h 0x0B s))) ∧
  (∀ (h : Hdr) (i : Nat) (s : State), actsOn h 0x0C false i s = true →
    ∃ t, exec (.setGrammar h 0xFFFF) s = .next t ∧ (descOf i t).grammarId = 0xFFFF ∧ (descOf i t).grammarState = 0 ∧
      (descOf i t).grammarStack = 0 ∧ (∀ j, j ≠ i → descOf j t = descOf j s)) ∧
  (∀ (h : Hdr) (gid i : Nat) (s : State), actsOn h 0x0C false i s = true → gid ≠ 0xFFFF → (sget s.grams gid).isSome = true →
    field (sgetD s.grams gid []) 6 1 = rd (TXT_MODEL.SET (descOf i s).model) s →
    ((descOf i s).grammarStack ≠ 0 ∨ (descOf i s).st = stDeep ∨ (descOf i s).st = stHost) →
    ∃ t, exec (.setGrammar h gid) s = .next t ∧
      descOf i t = { descOf i s with lastActive := now s, grammarId := gid, grammarState := field (sgetD s.grams gid []) 0xC 4, grammarDepth := 0 } ∧
      (sessOf i t).gstack = [] ∧ (∀ j, j ≠ i → descOf j t = descOf j s)) ∧
  (∀ (h : Hdr) (gid i a : Nat) (s u : State), actsOn h 0x0C false i s = true → gid ≠ 0xFFFF → (sget s.grams gid).isSome = true →
    field (sgetD s.grams gid []) 6 1 = rd (TXT_MODEL.SET (descOf i s).model) s →
    (descOf i s).grammarStack = 0 → (descOf i s).st ≠ stDeep → (descOf i s).st ≠ stHost → canSupply (descOf i s).cls 4096 s = true →
    allocState i 5 4096 (entered h 0x0C s) = some (a, u) →
    ∃ t, exec (.setGrammar h gid) s = .next t ∧ (descOf i t).grammarId = gid ∧ (descOf i t).grammarStack = a ∧
      (descOf i t).grammarState = field (sgetD s.grams gid []) 0xC 4 ∧ (descOf i t).grammarDepth = 0 ∧ (sessOf i t).gstack = [] ∧
      (∀ j, j ≠ i → descOf j t = descOf j s)) ∧
  (∀ (h : Hdr) (gid i : Nat) (s : State), actsOn h 0x0C false i s = true → gid ≠ 0xFFFF →
    ((sget s.grams gid).isNone = true ∨ field (sgetD s.grams gid []) 6 1 ≠ rd (TXT_MODEL.SET (descOf i s).model) s) →
    exec (.setGrammar h gid) s = .next (refuse h 0x0C sRejected (entered h 0x0C s))) ∧
  (∀ (h : Hdr) (buf : Buf) (stopLen incl i : Nat) (bs : List Byte) (s : State), actsOn h 0x0D (decide (2 < incl)) i s = true →
    ((leBytes 8 stopLen).map (·.toNat)).all (· ≤ 64) = true → bufRead h buf 512 s = some bs →
    ∃ t, exec (.setStops h buf stopLen incl) s = .next t ∧ (sessOf i t).stops = pieces 64 8 bs ∧
      descOf i t = { descOf i s with lastActive := now s, stopLen := stopLen,
                                     includeStop := if incl = 1 then false else if incl = 2 then true else (descOf i s).includeStop } ∧
      (∀ j, j ≠ i → descOf j t = descOf j s)) ∧
  (∀ (h : Hdr) (buf : Buf) (stopLen incl i : Nat) (s : State), actsOn h 0x0D (decide (2 < incl)) i s = true →
    ((leBytes 8 stopLen).map (·.toNat)).any (64 < ·) = true →
    exec (.setStops h buf stopLen incl) s = .next (refuse h 0x0D sRejected (entered h 0x0D s)))

/-- APPEND_TEXT and APPEND_TOKENS add all their tokens in one change (R40, R48, R211, R283, R284, R420). Where the buffer can be read, the
session's tables read clean, every token is below VOCAB, and the reservation is supplied, the tokens join the pending input in their order
and the session is READY. For text they are what the model's tokenizer set makes of the bytes. A count or length of 0, or above its limit,
and a token that is not below VOCAB are REJECTED, the last with its place. -/
def Obligations.SessionInput : Prop :=
  (∀ (h : Hdr) (count i : Nat) (buf : Buf) (bs : List Byte) (s u : State), actsOn h 0x04 false i s = true → count ≠ 0 → count ≤ 0x100_0000 →
    bufRead h buf (4 * count) s = some bs →
    ((pieces 4 count bs).map leNat).all (· < rd (DEC_MODEL.VOCAB (descOf i s).model) s) = true →
    (sessOf i s).allocs.all (fun a => !poisonIn a.addr a.bytes s) = true →
    reserveMore i count (entered h 0x04 s) = some u →
    ∃ t, exec (.appendTokens h count buf) s = .next t ∧ (sessOf i t).pendTok = (sessOf i s).pendTok ++ (pieces 4 count bs).map leNat ∧
      (descOf i t).st = stReady) ∧
  (∀ (h : Hdr) (length i : Nat) (buf : Buf) (bs : List Byte) (s u : State), actsOn h 0x03 false i s = true → length ≠ 0 → length ≤ 0x400_0000 →
    bufRead h buf length s = some bs → tokBad (descOf i s).model s = false →
    (sessOf i s).allocs.all (fun a => !poisonIn a.addr a.bytes s) = true →
    reserveMore i (tokenize (modelSet (descOf i s).model s) bs).toks.length (entered h 0x03 s) = some u →
    ∃ t, exec (.appendText h length buf) s = .next t ∧
      (sessOf i t).pendTok = (sessOf i s).pendTok ++ (tokenize (modelSet (descOf i s).model s) bs).toks ∧ (descOf i t).st = stReady) ∧
  (∀ (h : Hdr) (n i : Nat) (buf : Buf) (s : State), actsOn h 0x03 false i s = true → (n = 0 ∨ 0x400_0000 < n) →
    exec (.appendText h n buf) s = .next (refuse h 0x03 sRejected (entered h 0x03 s))) ∧
  (∀ (h : Hdr) (n i : Nat) (buf : Buf) (s : State), actsOn h 0x04 false i s = true → (n = 0 ∨ 0x100_0000 < n) →
    exec (.appendTokens h n buf) s = .next (complete h 0x04 sRejected h.handle 0 ones64 (entered h 0x04 s))) ∧
  (∀ (h : Hdr) (count k i : Nat) (buf : Buf) (bs : List Byte) (s : State), actsOn h 0x04 false i s = true → count ≠ 0 → count ≤ 0x100_0000 →
    bufRead h buf (4 * count) s = some bs →
    ((pieces 4 count bs).map leNat).findIdx? (rd (DEC_MODEL.VOCAB (descOf i s).model) s ≤ ·) = some k →
    exec (.appendTokens h count buf) s = .next (complete h 0x04 sRejected h.handle 0 k (entered h 0x04 s)))

/-- Creation, destruction, expiry and the end of a slot (R34, R40, R49, R156, R419). A SESSION_CREATE that finds a slot and its space makes
that slot READY under the function, class and model of the command. SESSION_DESTROY, the write of an expired session's event and the close
of a tombstone make the slot FREE and put it at the tail of the free list. A due session in a state that permits it becomes EXPIRED and
holds no storage. -/
def Obligations.SessionLife : Prop :=
  (∀ (h : Hdr) (o : CreateOps) (p : Sampling) (i pt pen stop : Nat) (s u : State),
    passes h 0x01 (o.hostPark == 3 || decide (3 < o.hostPark) || decide (0xFFF < o.mirror)) s = true → isSet SES_CTRL.INIT_DONE s = true →
    rd SES_CTRL.MODULE_ID s ≠ 0xFFF → o.cls ≤ 7 → rdBit (HIF_FN_CFG.CLASS_MASK h.fn) o.cls s = true → o.model ≤ 15 →
    isSet (HIF_MODEL.LOADED o.model) s = true → o.outQueue ≤ 63 → isSet (HIF_QP_CTRL.ENABLE h.fn o.outQueue) s = true →
    o.mirror ≠ rd SES_CTRL.MODULE_ID s → createSampling h o s = some p → samplingOk p = true →
    rd (HIF_FN_STATUS.SESSIONS h.fn) s < rd (HIF_FN_CFG.SESSION_LIMIT h.fn) s → freeHead s = some i →
    ((takeKeyExt i (entered h 0x01 s)).bind (createAlloc o.cls o.model i)) = some (pt, pen, stop, u) →
    ∃ t, exec (.sessionCreate h o) s = .next t ∧ (descOf i t).st = stReady ∧ (descOf i t).cls = o.cls ∧ (descOf i t).fn = h.fn ∧
      (descOf i t).model = o.model ∧ (descOf i t).ptRoot = pt ∧ (descOf i t).hostTag = o.hostTag) ∧
  (∀ (h : Hdr) (i : Nat) (s : State), actsOn h 0x02 false i s = true →
    ∃ t, exec (.sessionDestroy h) s = .next t ∧ (descOf i t).st = stFree ∧ sget t.sess i = none ∧ t.freed.getLast? = some i) ∧
  (∀ (i : Nat) (s : State), serving s = true → descReads i s = true → isSet SES_CTRL.EXPIRE_EN s = true → isDue i s = true → mayExpire (descOf i s) = true →
    ∃ t, exec (.sessionExpiry i) s = .next t ∧ (descOf i t).st = stExpired ∧ (descOf i t).ptRoot = 0 ∧ (descOf i t).parkAddr = 0 ∧
      (descOf i t).kvBytes = 0 ∧ (descOf i t).turnPending = false ∧ (sessOf i t).pages = []) ∧
  (∀ (i : Nat) (s : State), serving s = true → (descOf i s).st = stExpired → qpState (descOf i s).fn (descOf i s).outQueue s = 1 →
    48 ≤ ringFree (descOf i s).fn (descOf i s).outQueue s →
    ∃ t, exec (.expiredEventWrite i) s = .next t ∧ (descOf i t).st = stFree ∧ t.freed.getLast? = some i) ∧
  (∀ (tb : Tomb) (s : State), serving s = true → s.tombs = [tb] → tb.limit ≤ s.cad.edges → tb.block = none →
    ∃ t, exec (.tombstoneClose tb.idx) s = .next t ∧ t.tombs = [] ∧ (descOf tb.idx t).st = stFree ∧ t.freed.getLast? = some tb.idx)

/-- A slot that becomes FREE takes the next generation and joins the tail of the free list, whose head SESSION_CREATE takes (R34). Freeing a
slot leaves every field of its descriptor zero but the handle, whose generation is one more, with 0x3FFF_FFFF followed by 1; the slot
joins the tail of the free list, and other descriptors stay. So it is when a session is destroyed, its expired event is written, or its
tombstone closes. SESSION_CREATE takes the head of the list, and its handle has MODULE_ID as HOME and the INDEX and GEN that the FREE
descriptor held. -/
def Obligations.GenerationRule : Prop :=
  (∀ (i : Nat) (s : State), descOf i (freeSlot i s) = { handle := mkHandle 0 i (nextGen (hGen (descOf i s).handle)) }) ∧
  (∀ (i j : Nat) (s : State), j ≠ i → descOf j (freeSlot i s) = descOf j s) ∧
  (∀ (i : Nat) (s : State), freeList (freeSlot i s) = freeList s ++ [i]) ∧
  (∀ g : Nat, g < 0x3FFF_FFFF → nextGen g = g + 1) ∧ nextGen 0x3FFF_FFFF = 1 ∧
  (∀ home i g : Nat, i < 2 ^ 22 → g < 2 ^ 30 → mkHandle home i g = home * 2 ^ 52 + i * 2 ^ 30 + g ∧ hIndex (mkHandle home i g) = i ∧
    hGen (mkHandle home i g) = g) ∧
  (∀ (i : Nat) (r : List Nat) (s : State), freeList s = i :: r → freeHead s = some i ∧ freeList (popFree s) = r) ∧
  (∀ (h : Hdr) (i : Nat) (s : State), actsOn h 0x02 false i s = true →
    ∃ t, exec (.sessionDestroy h) s = .next t ∧ descOf i t = { handle := mkHandle 0 i (nextGen (hGen (descOf i s).handle)) } ∧
      freeList t = freeList s ++ [i]) ∧
  (∀ (i : Nat) (s : State), serving s = true → (descOf i s).st = stExpired → qpState (descOf i s).fn (descOf i s).outQueue s = 1 →
    48 ≤ ringFree (descOf i s).fn (descOf i s).outQueue s →
    ∃ t, exec (.expiredEventWrite i) s = .next t ∧ descOf i t = { handle := mkHandle 0 i (nextGen (hGen (descOf i s).handle)) } ∧
      freeList t = freeList s ++ [i]) ∧
  (∀ (tb : Tomb) (s : State), serving s = true → s.tombs = [tb] → tb.limit ≤ s.cad.edges → tb.block = none →
    ∃ t, exec (.tombstoneClose tb.idx) s = .next t ∧
      descOf tb.idx t = { handle := mkHandle 0 tb.idx (nextGen (hGen (descOf tb.idx s).handle)) } ∧ freeList t = freeList s ++ [tb.idx]) ∧
  (∀ (h : Hdr) (o : CreateOps) (p : Sampling) (i g pt pen stop : Nat) (r : List Nat) (s u : State),
    passes h 0x01 (o.hostPark == 3 || decide (3 < o.hostPark) || decide (0xFFF < o.mirror)) s = true → isSet SES_CTRL.INIT_DONE s = true →
    rd SES_CTRL.MODULE_ID s ≠ 0xFFF → o.cls ≤ 7 → rdBit (HIF_FN_CFG.CLASS_MASK h.fn) o.cls s = true → o.model ≤ 15 →
    isSet (HIF_MODEL.LOADED o.model) s = true → o.outQueue ≤ 63 → isSet (HIF_QP_CTRL.ENABLE h.fn o.outQueue) s = true →
    o.mirror ≠ rd SES_CTRL.MODULE_ID s → createSampling h o s = some p → samplingOk p = true →
    rd (HIF_FN_STATUS.SESSIONS h.fn) s < rd (HIF_FN_CFG.SESSION_LIMIT h.fn) s → freeList s = i :: r → g < 2 ^ 30 →
    descOf i s = { handle := mkHandle 0 i g } →
    ((takeKeyExt i (entered h 0x01 s)).bind (createAlloc o.cls o.model i)) = some (pt, pen, stop, u) →
    ∃ t, exec (.sessionCreate h o) s = .next t ∧ (descOf i t).handle = mkHandle (rd SES_CTRL.MODULE_ID s) i g ∧ freeList t = r)

/-- RESUME of a session in the bonded tier, and the commands that queue a transit (R40, R41, R47, R49, R53, R56, R129, R130, R149, R152, R308,
R421). RESUME of a READY, WAITING or FROZEN session whose state is in the bonded tier leaves it READY, a WAITING one without its wake
hint, with LAST_ACTIVE at the present tick, its root in the root caches that have room for it; in class 0, while channels of its page
table are in PROCESSOR mode, it waits for them. RESUME of a parked session, PARK of one, MIGRATE of a parked one to the bonded tier, and
an eviction add their transit at the end of the list with its kind, where the queue has room. PARK and MIGRATE to the tier where the
session is complete with OK. MIGRATE to a parked tier acts as PARK. A peer migration that passes its checks is entered with its
destination, its new handle and the bytes of its first pass. -/
def Obligations.ResumeAndTransitRequests : Prop :=
  (∀ (h : Hdr) (t0 us i : Nat) (s : State), actsOn h 0x07 false i s = true →
    ((descOf i s).st = stReady ∨ (descOf i s).st = stWaiting ∨
      ((descOf i s).st = stFrozen ∧ (descOf i s).ptRoot ≠ 0 ∧ stateLost i s = false)) → ((descOf i s).cls ≠ 0 ∨ tableAway i s = []) →
    ∃ t, exec (.resume h t0 us) s = .next t ∧ (descOf i t).st = stReady ∧ (descOf i t).lastActive = now s ∧
      ((descOf i s).st = stWaiting → (descOf i t).wakeHint = 0) ∧ (∀ j, j ≠ i → descOf j t = descOf j s) ∧
      (∀ q, q ∈ rootTiles i s → ((descOf i s).cls = 0 ∨ (sgetD s.rootCache q []).length < 32768) → rootOn q i t = true)) ∧
  (∀ (h : Hdr) (t0 us i : Nat) (s : State), actsOn h 0x07 false i s = true →
    ((descOf i s).st = stReady ∨ (descOf i s).st = stWaiting ∨
      ((descOf i s).st = stFrozen ∧ (descOf i s).ptRoot ≠ 0 ∧ stateLost i s = false)) → (descOf i s).cls = 0 → tableAway i s ≠ [] →
    ∃ t, exec (.resume h t0 us) s = .next t ∧ t.cpl = s.cpl ∧
      t.c0Wait = s.c0Wait ++ [{ idx := i, h := h, us := us, bound := c0Guaranteed i t0 s }] ∧
      (∀ g, g ∈ tableAway i s → g ∈ t.returnReq)) ∧
  (∀ (h : Hdr) (t0 us i : Nat) (s : State), actsOn h 0x07 false i s = true →
    ((descOf i s).st = stDeep ∨ (descOf i s).st = stHost ∨ ((descOf i s).st = stFrozen ∧ (descOf i s).ptRoot = 0)) → queuedTransits s < 65536 →
    ∃ t, exec (.resume h t0 us) s = .next t ∧ (descOf i t).lastActive = now s ∧
      t.transits = s.transits ++ [{ idx := i, kind := 3, cls := (descOf i s).cls, origin := 0, requester := some (h, 0x07),
                                    c0Bound := (descOf i s).cls == 0 && c0Guaranteed i t0 s }]) ∧
  (∀ (h : Hdr) (tier demote region i : Nat) (s : State), actsOn h 0x08 (demoteBad demote region) i s = true → preCopying i s = false →
    ((descOf i s).st = stReady ∨ (descOf i s).st = stWaiting) → queuedTransits s < 65536 →
    (tier = 1 ∨ (tier = 2 ∧ (descOf i s).hostParkOk = true ∧ deepTakes i (demoteOf (descOf i s).cls demote s) s = false)) →
    ∃ t, exec (.park h tier demote region) s = .next t ∧
      t.transits = s.transits ++ [{ idx := i, kind := tier, cls := (descOf i s).cls, origin := 1, demote := demote, region := region,
                                    destTier := tier - 1, requester := some (h, 0x08) }]) ∧
  (∀ (h : Hdr) (tier demote region i : Nat) (s : State), actsOn h 0x08 (demoteBad demote region) i s = true → preCopying i s = false →
    (((descOf i s).st = stHost ∧ tier = 1) ∨ ((descOf i s).st = stDeep ∧ tier = 2 ∧ (descOf i s).hostParkOk = true)) → queuedTransits s < 65536 →
    ∃ t, exec (.park h tier demote region) s = .next t ∧
      t.transits = s.transits ++ [{ idx := i, kind := 5, cls := (descOf i s).cls, origin := 1, region := region, destTier := tier - 1,
                                    requester := some (h, 0x08) }]) ∧
  (∀ (h : Hdr) (tier demote region i : Nat) (s : State), actsOn h 0x08 (demoteBad demote region) i s = true → preCopying i s = false →
    (((descOf i s).st = stDeep ∧ tier = 1) ∨ ((descOf i s).st = stHost ∧ tier = 2)) →
    exec (.park h tier demote region) s =
      .next (complete h 0x08 sOk (descOf i s).handle (descOf i s).kvBytes (descOf i s).st (entered h 0x08 s))) ∧
  (∀ (h : Hdr) (target demote region i : Nat) (s : State), actsOn h 0x09 (demoteBad demote region) i s = true → (target = 1 ∨ target = 2) →
    exec (.migrate h target demote region) s = .next (parkNow h 0x09 target demote region i (entered h 0x09 s))) ∧
  (∀ (h : Hdr) (demote region i : Nat) (s : State), actsOn h 0x09 false i s = true → preCopying i s = false →
    ((descOf i s).st = stDeep ∨ (descOf i s).st = stHost) → queuedTransits s < 65536 →
    ∃ t, exec (.migrate h 0 demote region) s = .next t ∧
      t.transits = s.transits ++ [{ idx := i, kind := 3, cls := (descOf i s).cls, origin := 1, requester := some (h, 0x09) }]) ∧
  (∀ (h : Hdr) (demote region i : Nat) (s : State), actsOn h 0x09 false i s = true → preCopying i s = false →
    (descOf i s).st ≠ stDeep → (descOf i s).st ≠ stHost →
    exec (.migrate h 0 demote region) s =
      .next (complete h 0x09 sOk (descOf i s).handle (descOf i s).kvBytes (descOf i s).st (entered h 0x09 s))) ∧
  (∀ (i k : Nat) (d : Desc) (s : State), serving s = true → isSet SES_CTRL.EVICT_EN s = true → evictAbove s = true → nextVictim s = some (i, d) →
    evictTier i d s = some k → queuedTransits s < 65536 →
    ∃ t, exec .eviction s = .next t ∧ t.evicting = true ∧
      t.transits = s.transits ++ [{ idx := i, kind := k, cls := d.cls, origin := 2, demote := 0xFF, destTier := k - 1 }]) ∧
  (∀ (h : Hdr) (dest i new : Nat) (s : State), actsOn h 0x09 (decide (0xFFF < dest)) i s = true → preCopying i s = false →
    (s.transits.any fun t => t.idx == i && t.kind != 6) = false →
    rd DIR_SELF.STATE s ≠ 3 → s.migs.length < 256 → hasKey dest s = true → queuedTransits s < 65536 →
    ∃ t, exec (.migratePeer h dest true true true (some new)) s = .next t ∧
      t.migs = s.migs ++ [{ entry := newMigEntry s, tag := newMigTag s, idx := i, dest := dest, newHandle := new, cls := (descOf i s).cls,
                            unsent := passOneLen i (entered h 0x09 s) }])

/-- A granted park or revival puts its session in transit; chunks move one by one (R105, R130, R131, R132, R133, R138, R144, R146, R503). The
next grantable park whose session is READY or WAITING and whose space is found, in the deep tier or in the host tier, and the next revival
of a session that has its image and whose key unwraps, take a slot: the session is IN_TRANSIT and TRANSIT_TAG holds the slot. A chunk of
an active transit counts 65,536 bytes for its class and one chunk more, one of a revival lands what it ends; a chunk read whose tag fails,
or whose map entry reads in neither copy, ends the transit. A revival without its space asks for it again. A START_TRANSIT entry whose
descriptor and handle are good is taken as R41 says for its kind; a park of a session that may be parked joins the queue. -/
def Obligations.TransitStarts : Prop :=
  (∀ (x : Transit) (ks : List Nat) (s u : State), serving s = true → nextGrant s = some x → x.kind = 1 → descReads x.idx s = true →
    ((descOf x.idx s).st = stReady ∨ (descOf x.idx s).st = stWaiting) →
    allocDeep (imageChunks (metaSize x.idx s) (narrowedKv x.idx (demoteOf (descOf x.idx s).cls x.demote s) s)) (parkBase s) deepChunks
      { s with fresh := s.fresh + 1 } = some (ks, u) →
    ∃ t, exec .transitSlotGrant s = .next t ∧ (descOf x.idx t).st = stTransit ∧ (descOf x.idx t).transitTag = pickSlot s) ∧
  (∀ (x : Transit) (n r : Nat) (us : List Nat) (s u : State), serving s = true → nextGrant s = some x → x.kind = 2 → descReads x.idx s = true →
    ((descOf x.idx s).st = stReady ∨ (descOf x.idx s).st = stWaiting) → (descOf x.idx s).hostParkOk = true →
    n = imageChunks (metaSize x.idx s) (narrowedKv x.idx (demoteOf (descOf x.idx s).cls x.demote s) s) →
    (deepFits n s = false ∨ x.origin = 2) → allocHost n x.region { s with fresh := s.fresh + 1 } = some (r, us, u) →
    ∃ t, exec .transitSlotGrant s = .next t ∧ (descOf x.idx t).st = stTransit ∧ (descOf x.idx t).transitTag = pickSlot s) ∧
  (∀ (x : Transit) (im : Image) (s : State), serving s = true → nextGrant s = some x → (x.kind = 3 ∨ x.kind = 4) → descReads x.idx s = true →
    (sessOf x.idx s).image = some im → unwrapFails x.idx s = false →
    ((descOf x.idx s).st = stDeep ∨ (descOf x.idx s).st = stHost ∨ (descOf x.idx s).st = stFrozen) →
    ∃ t, exec .transitSlotGrant s = .next t ∧ (descOf x.idx t).st = stTransit ∧ (descOf x.idx t).transitTag = pickSlot s) ∧
  (∀ (i : Nat) (ok : Bool) (x : Transit) (s u : State), serving s = true → transitOf i s = some x → x.placed = true → x.chunk < x.total →
    (x.kind = 1 ∨ x.kind = 2 ∨ (x.kind = 5 ∧ ok = true)) → x.stop = false →
    (x.kind = 5 → mapGone x s = false) → mapUse x s = u →
    exec (.transitChunk i ok) s =
      .next (setTransit x { x with chunk := x.chunk + 1 } ((chunkNow x u).elim (bump (TRN_CLASS_BYTES.BYTES x.cls) 65536 u)
        (fun c => linkUse c (bump (TRN_CLASS_BYTES.BYTES x.cls) 65536 u))))) ∧
  (∀ (i : Nat) (x : Transit) (im : Image) (s u : State), serving s = true → transitOf i s = some x → x.placed = true → x.chunk < x.total →
    (x.kind = 3 ∨ x.kind = 4) → mapGone x s = false → mapUse x s = u → (sessOf i u).image = some im →
    (x.chunk = 0 → imageHeaderOk i im = true) → x.stop = false →
    exec (.transitChunk i true) s =
      .next (setTransit x { x with chunk := x.chunk + 1 }
        (landChunk i (((readChunks (x.kind == 4) (sessOf i u) im)[x.chunk]?).getD 0) im
          ((chunkNow x u).elim (bump (TRN_CLASS_BYTES.BYTES x.cls) 65536 u) (fun c => linkUse c (bump (TRN_CLASS_BYTES.BYTES x.cls) 65536 u)))))) ∧
  (∀ (i : Nat) (ok : Bool) (x : Transit) (s u : State), serving s = true → transitOf i s = some x → x.placed = true → x.chunk < x.total →
    (x.kind = 3 ∨ x.kind = 4 ∨ x.kind = 5) → (ok = false ∨ mapGone x s = true) → mapUse x s = u →
    exec (.transitChunk i ok) s =
      .next (tagFail x ((chunkNow x u).elim (bump (TRN_CLASS_BYTES.BYTES x.cls) 65536 u)
        (fun c => linkUse c (bump (TRN_CLASS_BYTES.BYTES x.cls) 65536 u))))) ∧
  (∀ (i : Nat) (ok : Bool) (x : Transit) (s : State), serving s = true → transitOf i s = some x → x.kind ≠ 7 → x.placed = false → x.stop = false →
    exec (.transitChunk i ok) s = .next (placeRevival x s)) ∧
  (∀ (tb ix i : Nat) (e : EphEntry) (s : State), serving s = true → e.opA % 32 = 0 → e.opA + 32 ≤ bondedEnd →
    1 ≤ field (memRead s e.opA 32) 8 1 → field (memRead s e.opA 32) 8 1 ≤ 5 → field (memRead s e.opA 32) 9 1 ≤ 1 →
    field (memRead s e.opA 32) 0xB 1 = 0 → field (memRead s e.opA 32) 0xE 2 = 0 → field (memRead s e.opA 32) 0x18 8 = 0 →
    demoteBad (field (memRead s e.opA 32) 0xA 1) (field (memRead s e.opA 32) 0xC 2) = false →
    handleCheck 0 (field (memRead s e.opA 32) 0 8) s = .found i → s.tombs.any (·.idx == i) = false →
    exec (.startTransit tb ix e) s =
      .next (transitOn i (field (memRead s e.opA 32) 8 1) (field (memRead s e.opA 32) 9 1) (field (memRead s e.opA 32) 0xA 1)
        (field (memRead s e.opA 32) 0xC 2) (field (memRead s e.opA 32) 0x10 8) tb ix e s)) ∧
  (∀ (i flags demote region deadline tb ix : Nat) (e : EphEntry) (s : State), armed i s = false → resuming i s = false → preCopying i s = false →
    ((descOf i s).st = stReady ∨ (descOf i s).st = stWaiting) → queuedTransits s < 65536 →
    (transitOn i 1 flags demote region deadline tb ix e s).transits =
      s.transits ++ [{ idx := i, kind := 1, cls := (descOf i s).cls, origin := 1, demote := demote, region := region, deadline := deadline,
                       fill := bitOf flags 0, destTier := 0, eph := some (tb, ix, e) }])

/-- The end of a park, a revival, a move and a mirror (R40, R110, R138, R144, R145, R147, R150, R151, R207). With no command held, no stop
asked for and every chunk moved: a park whose channels are in MEMORY mode leaves the session PARKED_DEEP or PARKED_HOST by its tier, with
no page table in the bonded tier and its image; a revival leaves it READY by RESUME and else in PREV_STATE, without image, its root in the
root caches that have room; a sparse one likewise, with FILL as asked; a move leaves the image on the other tier; a mirror that the
partner takes, under a key, marks the session mirrored; a background fill brings its page in and counts its bytes. -/
def Obligations.TransitEnds : Prop :=
  (∀ (i : Nat) (x : Transit) (s : State), serving s = true → s.heldCmds = [] → transitOf i s = some x → x.kind ≤ 2 → x.total ≤ x.chunk →
    x.stop = false → (allChans i s).any (chProcessor · s) = false →
    ∃ t, exec (.parkComplete i) s = .next t ∧ (descOf i t).st = (if x.destTier = 0 then stDeep else stHost) ∧ (descOf i t).ptRoot = 0 ∧
      (descOf i t).transitTag = 0xFFFF_FFFF ∧ ((sessOf i t).image.map (·.tier)) = some x.destTier) ∧
  (∀ (i us : Nat) (x : Transit) (s : State), serving s = true → s.heldCmds = [] → transitOf i s = some x → x.kind = 3 → revived x s = true →
    x.stop = false →
    ∃ t, exec (.reviveComplete i us) s = .next t ∧ (descOf i t).st = (if x.origin = 0 then stReady else (descOf i s).prev) ∧
      (descOf i t).parkAddr = 0 ∧ (sessOf i t).image = none ∧
      (∀ q, q ∈ rootTiles i s → ((descOf i s).cls = 0 ∨ (sgetD s.rootCache q []).length < 32768) → rootOn q i t = true)) ∧
  (∀ (i us : Nat) (x : Transit) (s : State), serving s = true → s.heldCmds = [] → transitOf i s = some x → x.kind = 4 → revived x s = true →
    x.stop = false →
    ∃ t, exec (.reviveSparseComplete i us) s = .next t ∧ (descOf i t).st = (if x.origin = 0 then stReady else (descOf i s).prev) ∧
      (descOf i t).parkAddr = 0 ∧ (sessOf i t).fill = x.fill) ∧
  (∀ (i : Nat) (x : Transit) (im : Image) (s : State), serving s = true → s.heldCmds = [] → transitOf i s = some x →
    (sessOf i s).image = some im → x.kind = 5 → x.total ≤ x.chunk → x.stop = false →
    ∃ t, exec (.moveComplete i) s = .next t ∧ (descOf i t).st = (if x.destTier = 0 then stDeep else stHost) ∧
      (sessOf i t).image = some { im with tier := x.destTier, region := x.region, chunks := x.dest }) ∧
  (∀ (i : Nat) (x : Transit) (im : Image) (s : State), serving s = true →
    s.transits.find? (fun t => t.idx == i && t.kind == 6 && t.slot.isSome) = some x → (sessOf i s).image = some im →
    rd DIR_SELF.STATE s ≠ 3 → unwrapFails i s = false → hasKey (descOf i s).mirrorModule s = true →
    ∃ t, exec (.mirrorImage i true) s = .next t ∧ (sessOf i t).mirrored = true ∧ (sessOf i t).mirrorNonce = im.nonce) ∧
  (∀ (i k : Nat) (s u : State), serving s = true → (sessOf i s).fill = true → (descOf i s).st ≠ stTransit →
    (sessOf i s).pages.findIdx? (fun p => p.deepHeld && !p.fetching) = some k → bringPage i k s = some u →
    exec (.backgroundFill i) s = .next (bump (TRN_CLASS_BYTES.BYTES (descOf i u).cls)
      ((((sessOf i s).pages.drop k).head?.map (·.bytes)).getD 0) u))

/-- Pre-copy passes, the armed switch, its run, abandonment; host regions (R109, R153, R154, R157). Of a migration whose transit holds its
slot: a pass that ends with more ranges dirty than the threshold, and is not the last allowed, begins another with those ranges to send;
any other ends the pre-copy. A MIGRATION_SWITCH entry arms a migration in pre-copy. An armed switch whose session is not ACTIVE runs, its
descriptor log sent, with 32 edges for its answer. A migration that is abandoned, with no commit of its switch taken here, leaves the
list. Clearing a host region's ENABLE loses the sessions with an image there. -/
def Obligations.PeerMigration : Prop :=
  (∀ (tag n : Nat) (m : Migration) (s : State), serving s = true → s.migs.find? (·.tag == tag) = some m → m.cls < 8 → m.phase = 1 →
    peerRuns m s = true → rd TRN_TUNE.DIRTY_THRESH_MIB s * 0x10_0000 < (m.dirty.drop (m.dirty.length - n)).length * 65536 →
    m.passes < rd TRN_TUNE.PRECOPY_PASSES s →
    exec (.precopyPassEnd tag n) s = .next
      (setMig tag (fun x => { x with unsent := (m.dirty.drop (m.dirty.length - n)).length, send := m.dirty.drop (m.dirty.length - n), dirty := [],
                                     phase := 1, passes := x.passes + 1 }) (sendChunks m (passMsgs m s) m.unsent s))) ∧
  (∀ (tag n : Nat) (m : Migration) (s : State), serving s = true → s.migs.find? (·.tag == tag) = some m → m.cls < 8 → m.phase = 1 →
    peerRuns m s = true → ((m.dirty.drop (m.dirty.length - n)).length * 65536 ≤ rd TRN_TUNE.DIRTY_THRESH_MIB s * 0x10_0000 ∨
      rd TRN_TUNE.PRECOPY_PASSES s ≤ m.passes) →
    exec (.precopyPassEnd tag n) s = .next
      (setMig tag (fun x => { x with unsent := (m.dirty.drop (m.dirty.length - n)).length, send := m.dirty.drop (m.dirty.length - n), dirty := [],
                                     phase := 2, passes := x.passes + 1 }) (sendChunks m (passMsgs m s) m.unsent s))) ∧
  (∀ (table idx : Nat) (e : EphEntry) (m : Migration) (s : State), serving s = true →
    s.migs.find? (fun m => m.tag == e.opA && decide (m.phase ≤ 2)) = some m →
    exec (.migrationSwitch table idx e) s = .next
      (setMig e.opA (fun m => { m with phase := 3, notify := if bitOf e.flags 0 then some (table, idx, e.tag) else none }) s)) ∧
  (∀ (tag : Nat) (m : Migration) (s : State), serving s = true → s.migs.find? (·.tag == tag) = some m → m.phase = 3 → peerRuns m s = true →
    (m.block ≠ none ∨ (descOf m.idx s).st ≠ stActive) →
    ∃ t, exec (.migrationSwitchRun tag) s = .next t ∧
      t.migs = s.migs.map (fun x => if x.tag = tag then { x with phase := 4, limit := s.cad.edges + 32, unsent := 0, send := [], dirty := [] } else x) ∧
      t.fabOut.head? = some { type := 0x11, dst := m.dest, args := [3, tag, m.log.length + m.ulog.length], data := m.log.flatMap descBytes }) ∧
  (∀ (tag : Nat) (lost : Bool) (m : Migration) (s : State), serving s = true → s.heldCmds = [] → s.migs.find? (·.tag == tag) = some m →
    (lost = true ∨ (m.phase = 4 ∧ m.limit ≤ s.cad.edges)) → (m.phase = 4 → s.net.doneTags.contains m.tag = false) →
    ∃ t, exec (.migrationAbandon tag lost) s = .next t ∧ t.migs = s.migs.filter (·.idx != m.idx)) ∧
  (∀ (n : Nat) (s : State), serving s = true → n < 64 → exec (.htierEnable n true) s = .next (wr (HIF_HTIER_BASE.ENABLE n) 1 s)) ∧
  (∀ (n : Nat) (s : State), serving s = true → n < 64 →
    exec (.htierEnable n false) s = .next
      (((s.sess.filter fun p => p.2.image.any fun im => im.tier == 1 && im.region == n).map (·.1)).foldl
        (fun s i => loseSession i s) (wr (HIF_HTIER_BASE.ENABLE n) 0 s)))

/-- LAUNCH_STEP joins the waiting launches or is refused, and STEP_START begins the step of the next launch or fails it (R83, R85, R193, R332,
R333, R334, R424, R467). A LAUNCH_STEP of a partition that is defined, not DEGRADED and has its model LOADED joins the end of the waiting
launches where fewer than two wait; it is marked as having waited where a step, a replacement, a checkpoint or a lever holds it or another
waits before it. On a partition that is undefined, DEGRADED or without its model LOADED, or with two launches waiting, the action fails
with REJECTED. STEP_START on a partition that runs no step and no kernel takes the next launch out of the waiting list, counts its wait if
it waited, and has the text engine finish the partition's sessions; on a partition DEGRADED since, the action fails with REJECTED; where
the plan reads poisoned it fails with DROPPED; where the plan is not valid it fails with REJECTED; otherwise a step of that launch begins
with the plan's kernel list, none of it started. -/
def Obligations.LaunchStarts : Prop :=
  (∀ (table idx : Nat) (e : EphEntry) (s : State), serving s = true → e.target < 255 → isSet (ARY_PART_STATUS.DEFINED e.target) s = true →
    isSet (ARY_PART_STATUS.DEGRADED e.target) s = false → (partOf e.target s).model ≠ 0xFF →
    isSet (HIF_MODEL.LOADED (partOf e.target s).model) s = true → waitingLaunches e.target s < 2 →
    ∃ t, exec (.launchStep table idx e) s = .next t ∧
      (partOf e.target t).waiting = (partOf e.target s).waiting ++
        [{ table := table, idx := idx, e := e, edge := s.cad.edges,
           busy := partBusy e.target s || ckptHolds e.target e.tick s ||
             leverHolds (launchClass e.target { table := table, idx := idx, e := e, edge := s.cad.edges } s) s ||
             !(partOf e.target s).waiting.isEmpty }] ∧
      (∀ q, q ≠ e.target → partOf q t = partOf q s) ∧ t.desc = s.desc ∧ t.sess = s.sess ∧ t.mem = s.mem ∧ t.deepMem = s.deepMem) ∧
  (∀ (table idx : Nat) (e : EphEntry) (s : State), serving s = true →
    (255 ≤ e.target ∨ isSet (ARY_PART_STATUS.DEFINED e.target) s = false ∨ isSet (ARY_PART_STATUS.DEGRADED e.target) s = true ∨
      (partOf e.target s).model = 0xFF ∨ isSet (HIF_MODEL.LOADED (partOf e.target s).model) s = false ∨ 2 ≤ waitingLaunches e.target s) →
    exec (.launchStep table idx e) s = .next (actionFail table idx e sRejected s)) ∧
  (∀ (p : Nat) (l : Launch) (pl : Plan) (s v w u : State), serving s = true → partBusy p s = false → (partOf p s).running = none →
    nextLaunch p s = some l → w = modPart p (fun x => { x with waiting := x.waiting.erase l }) s → v = (if l.busy then countBusy l w else w) →
    u = (activeOn p v).foldl (fun s i => detokenize i s) v →
    isSet (ARY_PART_STATUS.DEGRADED p) u = false → poisonIn l.e.opA 64 u = false → planOf p l.e.opA u = some pl →
    ∃ t, exec (.stepStart p false) s = .next t ∧
      ((partOf p t).step.map fun st => (st.launch, st.plan, st.hdrs, st.next)) = some (l, l.e.opA, pl.hdrs, 0)) ∧
  (∀ (p : Nat) (l : Launch) (s v w u : State), serving s = true → partBusy p s = false → (partOf p s).running = none →
    nextLaunch p s = some l → w = modPart p (fun x => { x with waiting := x.waiting.erase l }) s → v = (if l.busy then countBusy l w else w) →
    u = (activeOn p v).foldl (fun s i => detokenize i s) v →
    isSet (ARY_PART_STATUS.DEGRADED p) u = false → poisonIn l.e.opA 64 u = false → planOf p l.e.opA u = none →
    exec (.stepStart p false) s = .next (showSched p (actionFail l.table l.idx l.e sRejected u))) ∧
  (∀ (p : Nat) (l : Launch) (s v w u : State), serving s = true → partBusy p s = false → (partOf p s).running = none →
    nextLaunch p s = some l → w = modPart p (fun x => { x with waiting := x.waiting.erase l }) s → v = (if l.busy then countBusy l w else w) →
    u = spoilIf true l.e.opA 64 ((activeOn p v).foldl (fun s i => detokenize i s) v) → isSet (ARY_PART_STATUS.DEGRADED p) u = false →
    exec (.stepStart p true) s = .next (showSched p (actionFail l.table l.idx l.e sDropped (readBad l.e.opA 64 u)))) ∧
  (∀ (p : Nat) (poison : Bool) (l : Launch) (s v w u : State), serving s = true → partBusy p s = false → (partOf p s).running = none →
    nextLaunch p s = some l → w = modPart p (fun x => { x with waiting := x.waiting.erase l }) s → v = (if l.busy then countBusy l w else w) →
    u = spoilIf poison l.e.opA 64 ((activeOn p v).foldl (fun s i => detokenize i s) v) → isSet (ARY_PART_STATUS.DEGRADED p) u = true →
    exec (.stepStart p poison) s = .next (showSched p (actionFail l.table l.idx l.e sRejected u)))

/-- KERNEL_START starts the first ready kernel of a free partition, and at KERNEL_END none runs; the last one ends its step (R178, R180, R185,
R190, R191, R213, R335, R336, R338). On a partition that is free to start a kernel (none runs, and no hang, replacement, reload or hand-
over stops it), the step's next kernel starts where its header, code and digest pass and every rank has an enabled array, unless one of
the queue has a lower class, which then starts first; a kernel of the queue starts also where the step has none ready. A kernel of the
step whose header or code reads poisoned or fails a launch check fails the step: it ends and nothing runs. At the end of a kernel nothing
runs on the partition; a step with kernels left goes on, the time of a kernel of its own class that is not its own counted against it;
after the step's last kernel the step is over. -/
def Obligations.KernelsRun : Prop :=
  (∀ (p : Nat) (dma : List (Nat × Dma)) (st : Step) (a : Nat) (h : KHdr) (s : State), serving s = true → partFree p s = true → stepReady p s = some st →
    (∀ k, bestQueued p s = some k → st.eff ≤ k.cls) → a = (st.hdrs.drop st.next).head?.getD 0 → h = khdrOf (memRead s a 64) →
    protAddr a 64 s = true → poisonIn a 64 s = false → (∀ f ∈ stepFns st, f < 256) → khdrOk p h s = true → kernelCodeOk h s = true →
    ranksUp p s = true → poisonIn h.codeAddr h.codeBytes s = false →
    ∃ t, exec (.kernelStart p { clean := true, dma := dma }) s = .next t ∧ ((partOf p t).step.map (·.next)) = some (st.next + 1) ∧ (partOf p t).head = h ∧
      (partOf p t).running = some
        { ofStep := true, hdr := a, ranks := curRanks p s,
          kern := { cls := st.eff, fn := (stepFns st).headD 0, queued := 0, op := h.op, layer := h.layer } }) ∧
  (∀ (p : Nat) (x : KStart) (k : Kern) (s : State), serving s = true → partFree p s = true → bestQueued p s = some k →
    (∀ st, stepReady p s = some st → k.cls < st.eff) →
    ∃ t, exec (.kernelStart p x) s = .next t ∧
      (partOf p t).running = some { ofStep := false, kern := k, ranks := curRanks p s } ∧
      (partOf p t).queue = (partOf p s).queue.erase k) ∧
  (∀ (p : Nat) (x : KStart) (st : Step) (a : Nat) (h : KHdr) (s : State), serving s = true → partFree p s = true →
    stepReady p s = some st → (∀ k, bestQueued p s = some k → st.eff ≤ k.cls) → a = (st.hdrs.drop st.next).head?.getD 0 →
    h = khdrOf (memRead s a 64) → (∀ f ∈ stepFns st, f < 256) →
    (x.clean = false ∨ protAddr a 64 s = false ∨ khdrOk p h s = false ∨ kernelCodeOk h s = false ∨ ranksUp p s = false ∨
      poisonIn a 64 s = true ∨ poisonIn h.codeAddr h.codeBytes s = true) →
    ∃ t, exec (.kernelStart p x) s = .next t ∧ (partOf p t).step = none ∧ (partOf p t).running = none) ∧
  (∀ (p us : Nat) (sat nan : Bool) (out : KOut) (fixed : List (Nat × Nat))
    (k : Running) (st : Step) (s : State),
    serving s = true → (partOf p s).running = some k → (partOf p s).step = some st → st.next < st.hdrs.length → s.retireWait = [] →
    ∃ t, exec (.kernelEnd p us sat nan out fixed) s = .next t ∧ (partOf p t).running = none ∧
      (partOf p t).step = some { st with interNs := if k.ofStep = false ∧ st.eff = k.kern.cls then st.interNs + us * 1000 else st.interNs } ∧
      t.desc = s.desc ∧ t.sess = s.sess ∧ t.deepMem = s.deepMem) ∧
  (∀ (p us : Nat) (sat nan : Bool) (out : KOut) (fixed : List (Nat × Nat))
    (k : Running) (st : Step) (s : State),
    serving s = true → (partOf p s).running = some k → (partOf p s).step = some st → st.next = st.hdrs.length →
    ∃ t, exec (.kernelEnd p us sat nan out fixed) s = .next t ∧ (partOf p t).running = none ∧ (partOf p t).step = none) ∧
  (∀ (p us : Nat) (sat nan : Bool) (out : KOut) (fixed : List (Nat × Nat))
    (k : Running) (s : State), serving s = true → (partOf p s).running = some k → (partOf p s).step = none →
    ∃ t, exec (.kernelEnd p us sat nan out fixed) s = .next t ∧ (partOf p t).running = none ∧ (partOf p t).step = none)

/-- Array commands, known-answer tests, overruns, hangs and the steps of a replacement change arrays and partitions as stated (R166, R177,
R182, R185, R189, R191, R194, R196). ARY_RETIRE of a SPARE array retires it; of an idle ENABLED one with a spare on its tile it retires
and its replacement begins; otherwise it is REJECTED. ARY_RETURN takes a RETIRED array into its test, whose end makes it SPARE or RETIRED
and completes the command. ARY_RETIRE of an ENABLED BUSY array with a spare waits for its kernel. A command to an array that is BUSY with
another, or of a tile that is not there, changes nothing. An overrun marks the running kernel. A hang freezes the array of its rank, the
other ranks run on, and a step of the partition fails; a dump that has been taken, or was dropped, ends with the array reset, retired and
replaced. RANK_MAP_SWAP gives a tested spare the rank of the failed array, and RESIDENT_RELOAD_DONE ends the replacements whose rank has
changed, or a reload after an array reset. -/
def Obligations.ArrayLife : Prop :=
  (∀ (t n : Nat) (s : State), serving s = true → t < 4 → n < 352 → isSet (ARY_CMD_STATUS.BUSY t) s = false → arrState (t * 512 + n) s = aSpare →
    ∃ u, exec (.aryRetire t n) s = .next u ∧ arrState (t * 512 + n) u = aRetired ∧ rd (ARY_CMD_STATUS.STATUS t) u = sOk) ∧
  (∀ (t n a : Nat) (s : State), serving s = true → t < 4 → n < 352 → isSet (ARY_CMD_STATUS.BUSY t) s = false →
    arrState (t * 512 + n) s = aEnabled → lowestSpare t s = some a → isSet (ARY_STATUS.BUSY t n) s = false →
    exec (.aryRetire t n) s = .next (aryCmdDone t sOk (retireArr (t * 512 + n) s))) ∧
  (∀ (t n a : Nat) (s : State), serving s = true → t < 4 → n < 352 → isSet (ARY_CMD_STATUS.BUSY t) s = false →
    arrState (t * 512 + n) s = aEnabled → lowestSpare t s = some a → isSet (ARY_STATUS.BUSY t n) s = true →
    exec (.aryRetire t n) s = .next (wr (ARY_CMD_STATUS.BUSY t) 1
      { s with retireWait := s.retireWait.filter (·.1 != t * 512 + n) ++ [(t * 512 + n, true)] })) ∧
  (∀ (t n : Nat) (s : State), serving s = true → (4 ≤ t ∨ isSet (ARY_CMD_STATUS.BUSY t) s = true) →
    exec (.aryRetire t n) s = .next s ∧ exec (.aryReturn t n) s = .next s) ∧
  (∀ (t n : Nat) (s : State), serving s = true → t < 4 → isSet (ARY_CMD_STATUS.BUSY t) s = false →
    (352 ≤ n ∨ arrState (t * 512 + n) s ≠ aRetired) → exec (.aryReturn t n) s = .next (aryCmdDone t sRejected s)) ∧
  (∀ (t n : Nat) (s : State), serving s = true → t < 4 → isSet (ARY_CMD_STATUS.BUSY t) s = false →
    (352 ≤ n ∨ (arrState (t * 512 + n) s ≠ aSpare ∧ (arrState (t * 512 + n) s ≠ aEnabled ∨ lowestSpare t s = none))) →
    exec (.aryRetire t n) s = .next (aryCmdDone t sRejected s)) ∧
  (∀ (t n : Nat) (s : State), serving s = true → t < 4 → n < 352 → isSet (ARY_CMD_STATUS.BUSY t) s = false → arrState (t * 512 + n) s = aRetired →
    ∃ u, exec (.aryReturn t n) s = .next u ∧ arrState (t * 512 + n) u = aTesting ∧ rd (ARY_CMD_STATUS.BUSY t) u = 1 ∧
      sget u.arrTests (t * 512 + n) = some 1) ∧
  (∀ (t n : Nat) (pass : Bool) (s : State), live s = true → t < 4 → n < 352 → arrState (t * 512 + n) s = aTesting →
    sget s.arrTests (t * 512 + n) = some 1 →
    ∃ u, exec (.knownAnswerTestDone t n pass) s = .next u ∧ arrState (t * 512 + n) u = (if pass then aSpare else aRetired) ∧
      rd (ARY_CMD_STATUS.BUSY t) u = 0 ∧ rd (ARY_CMD_STATUS.STATUS t) u = sOk) ∧
  (∀ (p r a : Nat) (k : Running) (s : State), serving s = true → (partOf p s).running = some k → runArr p r s = some a →
    ∃ u, exec (.watchdogOverrun p r) s = .next u ∧ (partOf p u).running = some { k with overrun := true } ∧ (partOf p u).step = (partOf p s).step) ∧
  (∀ (p r a : Nat) (k : Running) (s : State), serving s = true → (partOf p s).running = some k → runArr p r s = some a →
    ∃ u, exec (.hangDeclared p r) s = .next u ∧ (partOf p u).running = some { k with hung := true, ranks := k.ranks.set r 0xFFFF } ∧
      (partOf p u).step = none) ∧
  (∀ (p r a : Nat) (k : Running) (s : State), serving s = true → (partOf p s).running = some k → runArr p r s = some a → a % 512 < 352 →
    p < 255 → (∀ q ∈ s.parts, q.2.incoming = []) →
    ∃ u, exec (.hangDeclared p r) s = .next u ∧ arrState a u = aFrozen) ∧
  (∀ (a k : Nat) (d : Dump) (s : State), serving s = true → a < 2048 → arrState a s = aFrozen →
    s.dumps.find? (fun p => p.2.array == a && !p.2.complete) = some (k, d) → dumpRuns d s = true →
    exec (.hangDump a) s =
      .next (retireFrozen a (postPf 0x0021 0x18 sOk k (a + (hangOf a s).1 * 2 ^ 32 + (hangOf a s).2 * 2 ^ 48) (dumpDone k s)))) ∧
  (∀ (a : Nat) (s : State), serving s = true → a < 2048 → arrState a s = aFrozen →
    s.dumps.find? (fun p => p.2.array == a && !p.2.complete) = none →
    exec (.hangDump a) s =
      .next (retireFrozen a (postPf 0x0021 0x18 sDropped 0xFFFF_FFFF (a + (hangOf a s).1 * 2 ^ 32 + (hangOf a s).2 * 2 ^ 48) s))) ∧
  (∀ (p : Nat) (w : Swap) (s : State), serving s = true → (partOf p s).swaps = [w] → w.phase = 2 → w.spare < 2048 → w.spare % 512 < 352 →
    w.failed < 2048 → w.failed % 512 < 352 → w.failed ≠ w.spare → p < 255 →
    ∃ u, exec (.rankMapSwap p) s = .next u ∧ arrState w.spare u = aEnabled ∧ arrPart w.spare u = p ∧
      (partOf p u).swaps = [{ w with phase := 3 }] ∧
      (partOf p u).ranks = (partOf p s).ranks.map fun a => if a = w.failed then w.spare else a) ∧
  (∀ (p : Nat) (s : State), serving s = true → (partOf p s).swaps ≠ [] → (partOf p s).swaps.all (·.phase == 3) = true →
    ∃ u, exec (.residentReloadDone p) s = .next u ∧ (partOf p u).swaps = [] ∧ (partOf p u).step = (partOf p s).step) ∧
  (∀ (p : Nat) (s : State), serving s = true → (partOf p s).reload = true → (partOf p s).incoming = [] →
    isSet (ALM_REGION.COMPLETING (0x10 + p)) s = false →
    ∃ u, exec (.residentReloadDone p) s = .next u ∧ (partOf p u).reload = false)

/-- SRAM_UNCORRECTABLE records the array and counts one failure of it; only a word of the working region fails the step (R163, R190, R196,
R472). SRAM_UNCORRECTABLE of a word of an array records the array, counts the error on its tile and counts one failure of the array. Where
the array is in a partition and the word lies in the working region of the SRAM as the partition's kernel divides it, the step that the
partition runs fails first; otherwise no step changes. -/
def Obligations.SramErrors : Prop :=
  (∀ (t n off : Nat) (s u : State), serving s = true → t < 4 → n < 352 →
    u = wr (ARY_SRAM_ECC.LAST_ARRAY t) n (bump (ARY_SRAM_ECC.UNCORRECTABLE t) 1 s) →
    (arrPart (t * 512 + n) u = 0xFF ∨ regionOf (arrPart (t * 512 + n) u) off u ≠ 3) →
    exec (.sramUncorrectable t n off) s = .next (countFail (t * 512 + n) u)) ∧
  (∀ (t n off p hdr : Nat) (s u : State), serving s = true → t < 4 → n < 352 →
    u = wr (ARY_SRAM_ECC.LAST_ARRAY t) n (bump (ARY_SRAM_ECC.UNCORRECTABLE t) 1 s) →
    p = arrPart (t * 512 + n) u → p ≠ 0xFF → regionOf p off u = 3 → hdr = ((partOf p u).running.map (·.hdr)).getD 0 →
    exec (.sramUncorrectable t n off) s =
      .next (countFail (t * 512 + n) (failStep p (runningOp p u).1 (runningOp p u).2 hdr u)))

/-- SELECT, by row or merging, writes the result that R235 or R239 forms, or refuses at the first failing check (R232, R234, R235, R239,
R243). A SELECT kernel whose parameter block passes every check of R234 writes and counts the result of its row, or of its partial
results; one that fails a check, an unreadable block among them, is refused with that check, its layer, operator and array. A result of a
row holds at most K entries, each of them an entry of the row, none a NaN or of the empty index; a merged result holds at most K entries,
no index twice, none a NaN or of the empty index. -/
def Obligations.SelectResults : Prop :=
  (∀ (p rank layer arr : Nat) (q : SelPar) (s u : State), serving s = true → selKernel p rank s = some (q, layer, arr) → q.mode ≠ 1 →
    selCheck arr q (selPoison p rank s) s = 0 → u = selRead p rank false s →
    exec (.selectRow p rank false) s = .next (selWrite p arr q (selectRow (q.order == 1) q.sum q.scale q.k
      (((List.range q.length).zip (pieces (selSize q.source) q.length (kernRead arr q.srcSram q.src (srcBytes q) u))).map
        fun e => selElem q.source q.base e.1 e.2) u.fresh) { u with fresh := u.fresh + 2 })) ∧
  (∀ (p rank layer arr : Nat) (poison : Bool) (q : SelPar) (s : State), serving s = true → selKernel p rank s = some (q, layer, arr) → q.mode ≠ 1 →
    selCheck arr q (poison || selPoison p rank s) s ≠ 0 →
    exec (.selectRow p rank poison) s =
      .next (selReject p arr q (selCheck arr q (poison || selPoison p rank s) s) layer 0x0007 (selRead p rank poison s))) ∧
  (∀ (p rank layer arr : Nat) (poison : Bool) (q : SelPar) (s : State), serving s = true → selKernel p rank s = some (q, layer, arr) → q.mode = 1 →
    selCheck arr q (poison || selPoison p rank s) s ≠ 0 →
    exec (.selectMerge p rank poison) s =
      .next (selReject p arr q (selCheck arr q (poison || selPoison p rank s) s) layer 0x0007 (selRead p rank poison s))) ∧
  (∀ (p rank layer arr : Nat) (q : SelPar) (s u : State), serving s = true → selKernel p rank s = some (q, layer, arr) → q.mode = 1 →
    selCheck arr q (selPoison p rank s) s = 0 → u = selRead p rank false s →
    exec (.selectMerge p rank false) s = .next (selWrite p arr q
      (selectMerge (q.order == 1) q.sum q.scale q.k ((partials arr q u).filterMap id) u.fresh) { u with fresh := u.fresh + 2 })) ∧
  (∀ (asc : Bool) (sum scale k draw : Nat) (items : List (Nat × Nat)),
    (selectRow asc sum scale k items draw).entries.length ≤ k ∧
    (∀ x ∈ (selectRow asc sum scale k items draw).entries, x ∈ items ∧ entryValid x = true)) ∧
  (∀ (asc : Bool) (sum scale k draw : Nat) (ps : List Partial),
    (selectMerge asc sum scale k ps draw).entries.length ≤ k ∧
    (∀ x ∈ (selectMerge asc sum scale k ps draw).entries, entryValid x = true) ∧
    ((selectMerge asc sum scale k ps draw).entries.map (·.1)).Nodup)

/-- SAMPLE, GRAMMAR_MASK and DRAW decide each session of the step in the order of R260 (R246, R252, R256, R259, R260, R271, R291, R293, R467).
SAMPLE adjusts the rank's share of the logits of a session the step runs, or marks a session late whose mask has not come. GRAMMAR_MASK
forms the mask of the first request in the queue, an EMPTY one where the token set or the grammar is damaged. DRAW decides a session whose
turn it is in plan order and leaves one whose turn has not come: a held, a late or an output-stalled session draws nothing; then one
without a page ends its turn with reason 2, one with an EMPTY mask or without a finite entry with reason 3; another draws the token of
R259 from the kept set and reserves 2,048 B of its ring. -/
def Obligations.SamplingAndDraws : Prop :=
  (∀ (p rank k off base count : Nat) (r : SesRun) (s : State), serving s = true → runsOp p 0x0008 s = true → runOf p k s = some r → r.status = 0 →
    (r.params.grammarId = 0xFFFF ∨ (sessOf r.idx s).mask.isSome = true) →
    exec (.sample p rank k off base count) s =
      .next (sampleShare r.params (sessOf r.idx s).pen (sessOf r.idx s).mask (rankArr p rank s) off base count s)) ∧
  (∀ (p rank k off base count : Nat) (r : SesRun) (s : State), serving s = true → runsOp p 0x0008 s = true → runOf p k s = some r → r.status = 0 →
    r.params.grammarId ≠ 0xFFFF → (sessOf r.idx s).mask = none →
    ∃ t, exec (.sample p rank k off base count) s = .next t ∧ runOf p k t = some { r with late := true } ∧ t.sram = s.sram) ∧
  (∀ (i : Nat) (rest : List Nat) (s : State), serving s = true → s.maskQ = i :: rest → s.poison = [] → tokBad (descOf i s).model s = false →
    s.badGrams.contains (descOf i s).grammarId = false →
    ∃ t, exec .grammarMask s = .next t ∧ t.maskQ = rest ∧
      (sessOf i t).mask = some (maskOf (modelSet (descOf i s).model s) (sgetD s.grams (descOf i s).grammarId [])
        (rd (DEC_MODEL.VOCAB (descOf i s).model) s) (modelEnds (descOf i s).model s) (descOf i s).grammarState (sessOf i s).gstack).1) ∧
  (∀ (i : Nat) (rest : List Nat) (s : State), serving s = true → s.maskQ = i :: rest → s.poison = [] →
    (tokBad (descOf i s).model s = true ∨ s.badGrams.contains (descOf i s).grammarId = true) →
    ∃ t, exec .grammarMask s = .next t ∧ t.maskQ = rest ∧ (sessOf i t).mask = some { allowed := [], empty := true }) ∧
  (∀ (p k off : Nat) (r : SesRun) (s : State), serving s = true → runOf p k s = some r → drawWaits p k s = true →
    exec (.draw p k off) s = .next s) ∧
  (∀ (p k off : Nat) (r : SesRun) (s : State), serving s = true → runOf p k s = some r → r.status = 0 → r.outcome = none →
    (descOf r.idx s).st = stActive → drawWaits p k s = false →
    (r.held = true ∨ r.late = true ∨ ringReserve (descOf r.idx s) s = false) →
    ∃ t, exec (.draw p k off) s = .next t ∧ runOf p k t = some { r with outcome := some 0, reason := 0xFF, noFinite := false } ∧
      t.desc = s.desc ∧ t.sess = s.sess ∧ t.mem = s.mem ∧ t.queues = s.queues) ∧
  (∀ (p k off : Nat) (r : SesRun) (s : State), serving s = true → runOf p k s = some r → r.status = 0 → r.outcome = none →
    (descOf r.idx s).st = stActive → drawWaits p k s = false →
    r.held = false → r.late = false → ringReserve (descOf r.idx s) s = true → r.noPage = true →
    ∃ t, exec (.draw p k off) s = .next t ∧ runOf p k t = some { r with outcome := some 3, reason := 2, noFinite := false }) ∧
  (∀ (p k off : Nat) (r : SesRun) (res : SelRes) (s : State), serving s = true → runOf p k s = some r → r.status = 0 → r.outcome = none →
    (descOf r.idx s).st = stActive → drawWaits p k s = false →
    r.held = false → r.late = false → ringReserve (descOf r.idx s) s = true → r.noPage = false →
    res = selResOf (sramRead s (rankArr p 0 s) off (32 + 8 * leNat (sramRead s (rankArr p 0 s) off 2))) →
    (((sessOf r.idx s).mask.map (·.empty)).getD false = true ∨ res.n = 0 ∨ res.ref = f32NegInf) →
    ∃ t, exec (.draw p k off) s = .next t ∧ runOf p k t = some
      { r with outcome := some 3, reason := 3, noFinite := !((sessOf r.idx s).mask.map (·.empty)).getD false }) ∧
  (∀ (p k off : Nat) (r : SesRun) (res : SelRes) (s : State), serving s = true → runOf p k s = some r → r.status = 0 → r.outcome = none →
    (descOf r.idx s).st = stActive → drawWaits p k s = false →
    r.held = false → r.late = false → ringReserve (descOf r.idx s) s = true → r.noPage = false →
    ((sessOf r.idx s).mask.map (·.empty)).getD false = false →
    res = selResOf (sramRead s (rankArr p 0 s) off (32 + 8 * leNat (sramRead s (rankArr p 0 s) off 2))) → res.n ≠ 0 → res.ref ≠ f32NegInf →
    ∃ t, exec (.draw p k off) s = .next t ∧ ((runOf p k t).map fun q => (q.outcome, q.token, q.reserved)) =
        some (some 1, drawToken (keptSet r.params res s.fresh).1 (drawU r.params.seed (descOf r.idx s).rngCounter), true) ∧
      (qpOf (descOf r.idx s).fn (descOf r.idx s).outQueue t).resv = (qpOf (descOf r.idx s).fn (descOf r.idx s).outQueue s).resv + 2048)

/-- DETOKENIZE takes up the committed token; GRAM_LOAD and GRAM_UNLOAD fill and empty grammar slots or say why not (R263, R264, R266, R268,
R286, R288). With no poisoned codeword held: a session with no committed token is left as it is; a committed token that does not end the
turn adds its bytes to the turn stream and is taken up; one committed under a cancel is taken up and adds nothing, and where it would have
ended the turn the turn ends with reason 4. A token that ends the turn ends it with its reason. GRAM_LOAD is REJECTED for a bad grammar,
BUSY for a slot a session uses, CAPACITY for one without room, and otherwise the slot holds the grammar; GRAM_UNLOAD of an unused slot
empties it and of a used one is BUSY, and of an empty one changes no slot; each ends with its status and BUSY clear. -/
def Obligations.TextOutput : Prop :=
  (∀ (i : Nat) (s : State), serving s = true → s.poison = [] → (sessOf i s).drawn = none → exec (.detokenize i) s = .next s) ∧
  (∀ (i tok a b : Nat) (c : Bool) (s : State), serving s = true → s.poison = [] → (sessOf i s).drawn = some (tok, 0xFF, a, b, c) →
    (descOf i s).st = stActive → (descOf i s).cancelPending = false →
    ∃ t, exec (.detokenize i) s = .next t ∧ (sessOf i t).drawn = none ∧
      (sessOf i t).stream = (sessOf i s).stream ++ tokBytes (modelSet (descOf i s).model s) tok ∧ t.desc = s.desc) ∧
  (∀ (i tok reason a b : Nat) (c : Bool) (s : State), serving s = true → s.poison = [] → (sessOf i s).drawn = some (tok, reason, a, b, c) →
    (descOf i s).st = stActive → (descOf i s).cancelPending = false → reason ≠ 0xFF →
    ∃ t, exec (.detokenize i) s = .next t ∧ (sessOf i t).drawn = none ∧ (descOf i t).st = stReady ∧ (descOf i t).lastEnd = reason ∧
      (descOf i t).turnPending = false) ∧
  (∀ (i tok a b : Nat) (c : Bool) (s : State), serving s = true → s.poison = [] → (sessOf i s).drawn = some (tok, 0xFF, a, b, c) →
    (descOf i s).st = stActive → (descOf i s).cancelPending = true →
    ∃ t, exec (.detokenize i) s = .next t ∧ (sessOf i t).drawn = none ∧ (sessOf i t).stream = (sessOf i s).stream ∧ t.desc = s.desc) ∧
  (∀ (i tok reason a b : Nat) (c : Bool) (s : State), serving s = true → s.poison = [] → (sessOf i s).drawn = some (tok, reason, a, b, c) →
    (descOf i s).st = stActive → (descOf i s).cancelPending = true → reason ≠ 0xFF →
    exec (.detokenize i) s =
      .next (endTurn i 4 false 0 0xFF (modSess i (fun x => { x with drawn := none }) (reserveOut (descOf i s) false s)))) ∧
  (∀ (slot addr : Nat) (g : List Byte) (s : State), serving s = true → g = memRead s addr (field (memRead s addr 0x40) 0x20 4) →
    gramOk g s = true → gramInUse slot s = false →
    gramStoreBytes { s with grams := sdel s.grams slot } + g.length ≤ rd TXT_GRAM_STATUS.STORE_MIB s * 0x10_0000 →
    exec (.gramLoad slot addr) s =
      .next (gramDone sOk { s with grams := sset s.grams slot g, badGrams := s.badGrams.filter (· != slot) })) ∧
  (∀ (slot addr : Nat) (g : List Byte) (s : State), serving s = true → g = memRead s addr (field (memRead s addr 0x40) 0x20 4) →
    gramOk g s = false → exec (.gramLoad slot addr) s = .next (gramDone sRejected s)) ∧
  (∀ (slot addr : Nat) (g : List Byte) (s : State), serving s = true → g = memRead s addr (field (memRead s addr 0x40) 0x20 4) →
    gramOk g s = true → gramInUse slot s = true → exec (.gramLoad slot addr) s = .next (gramDone sBusy s)) ∧
  (∀ (slot addr : Nat) (g : List Byte) (s : State), serving s = true → g = memRead s addr (field (memRead s addr 0x40) 0x20 4) →
    gramOk g s = true → gramInUse slot s = false →
    rd TXT_GRAM_STATUS.STORE_MIB s * 0x10_0000 < gramStoreBytes { s with grams := sdel s.grams slot } + g.length →
    exec (.gramLoad slot addr) s = .next (gramDone sCapacity s)) ∧
  (∀ (slot : Nat) (g : List Byte) (s : State), serving s = true → sget s.grams slot = some g → gramInUse slot s = false →
    exec (.gramUnload slot) s = .next (gramDone sOk { s with grams := sdel s.grams slot, badGrams := s.badGrams.filter (· != slot) })) ∧
  (∀ (slot : Nat) (g : List Byte) (s : State), serving s = true → sget s.grams slot = some g → gramInUse slot s = true →
    exec (.gramUnload slot) s = .next (gramDone sBusy s)) ∧
  (∀ (slot : Nat) (s : State), serving s = true → sget s.grams slot = none → exec (.gramUnload slot) s = .next (gramDone sOk s)) ∧
  (∀ (st : Nat) (s : State), st < 256 → rd TXT_GRAM_STATUS.STATUS (gramDone st s) = st ∧ rd TXT_GRAM_STATUS.BUSY (gramDone st s) = 0)

/-- Appends from the staging area, what attention holds and counts, span summaries and page fetches (R209, R212, R214, R217, R218, R222,
R223). KV_SCATTER_APPEND writes the staged rows of a session that the step runs position by position, where a row reads poisoned what it
writes is open; whatever it is given it changes no descriptor, session, partition or register below the tiles' blocks, and no register
where no codeword is in error or corrected. ATTENTION of a layer that is not selective leaves a session as it was where no visible page is
deep-held and no codeword is poisoned, and holds it where one is deep-held; it writes no memory, descriptor or session. In a selective
layer it counts the layer. SPAN_SUMMARY_DONE of a span whose operations have all completed makes its summaries valid. KV_FETCH starts the
tile's next fetch, class 0 first; one that lands brings its page in, one without room waits, and one whose tag or read fails ends the
session. -/
def Obligations.KeyValuePages : Prop :=
  (∀ (p k layer : Nat) (bad : List Nat) (fixed : List (Nat × Nat × Nat)) (r : SesRun) (st : Step) (m : Model) (n : Nat) (s u : State),
    serving s = true → runOf p k s = some r →
    (partOf p s).step = some st → m = modelOf r.params.model s → n = m.kvHeads * m.headDim → runsOp p 0x000B s = true → r.status = 0 →
    r.noPage = false → layer < m.layers.length → foundBad [(st.stage + r.stageOff, r.count * (2 * n))] bad (corrections fixed s) = u →
    exec (.kvScatterAppend p k layer bad fixed) s = .next ((List.range r.count).foldl (fun s q =>
      appendPos r.idx layer (r.start + q) ((stagedRow (st.stage + r.stageOff + q * (2 * n)) (2 * n) s).1.take n)
        ((stagedRow (st.stage + r.stageOff + q * (2 * n)) (2 * n) s).1.drop n) (stagedRow (st.stage + r.stageOff + q * (2 * n)) (2 * n) s).2) u)) ∧
  (∀ (a n : Nat) (s : State), poisonIn a n s = false → stagedRow a n s = (memRead s a n, s)) ∧
  (∀ (p k layer : Nat) (bad : List Nat) (fixed : List (Nat × Nat × Nat)) (s : State), serving s = true →
    ∃ t, exec (.kvScatterAppend p k layer bad fixed) s = .next t ∧ t.desc = s.desc ∧ t.sess = s.sess ∧ t.deepMem = s.deepMem ∧ t.parts = s.parts ∧
      (∀ f : Fld, f.off < 0x10_0000 → f.lo < 64 → f.hi < 64 → rd f t = rd f s)) ∧
  (∀ (p k layer : Nat) (s : State), serving s = true → s.poison = [] →
    ∃ t, exec (.kvScatterAppend p k layer [] []) s = .next t ∧ t.regs = s.regs ∧ t.poison = []) ∧
  (∀ (p k layer : Nat) (qs : List (Nat × Nat)) (outs : List Nat) (fixed : List (Nat × Nat × Nat)) (r : SesRun) (s : State), serving s = true → runOf p k s = some r →
    runsOp p 0x0002 s = true → r.status = 0 → s.poison = [] → (sessOf r.idx s).pages.all (fun q => !q.deepHeld) = true →
    selective (modelOf r.params.model s) (sessOf r.idx s) r layer s = false →
    ∃ t, exec (.attention p k layer qs outs [] fixed) s = .next t ∧ runOf p k t = some r ∧ t.fetchQ = s.fetchQ ∧ t.poison = s.poison) ∧
  (∀ (p k layer x : Nat) (qs : List (Nat × Nat)) (outs bad : List Nat) (fixed : List (Nat × Nat × Nat)) (q : Page) (r : SesRun) (s : State), serving s = true → runOf p k s = some r →
    runsOp p 0x0002 s = true → r.status = 0 → x ∈ visiblePages (modelOf r.params.model s) (sessOf r.idx s) r layer →
    pageAt (sessOf r.idx s) x = some q → q.deepHeld = true → groupsOf p (modelOf r.params.model s) (headPlaces qs outs) s ≠ [] →
    selective (modelOf r.params.model s) (sessOf r.idx s) r layer s = false →
    ∃ t, exec (.attention p k layer qs outs bad fixed) s = .next t ∧ ((runOf p k t).map (·.held)) = some true) ∧
  (∀ (p k layer : Nat) (qs : List (Nat × Nat)) (outs bad : List Nat) (fixed : List (Nat × Nat × Nat)) (s : State), serving s = true →
    ∃ t, exec (.attention p k layer qs outs bad fixed) s = .next t ∧ t.mem = s.mem ∧ t.desc = s.desc ∧ t.sess = s.sess ∧ t.deepMem = s.deepMem) ∧
  (∀ (p k layer h : Nat) (qs : List (Nat × Nat)) (outs bad : List Nat) (fixed : List (Nat × Nat × Nat)) (r : SesRun) (s : State), serving s = true → runOf p k s = some r →
    runsOp p 0x0002 s = true → r.status = 0 → selective (modelOf r.params.model s) (sessOf r.idx s) r layer s = true →
    h = homeTile (modelOf r.params.model s) layer → h < 4 →
    ∃ t, exec (.attention p k layer qs outs bad fixed) s = .next t ∧ rd (KVP_SELECTIVE.COUNT h) t = rd (KVP_SELECTIVE.COUNT h) (bump (KVP_SELECTIVE.COUNT h) 1 s)) ∧
  (∀ (i sp : Nat) (j : SpanJob) (s : State), serving s = true → s.spanJobs.find? (fun j => j.idx == i && j.span == sp) = some j → j.todo = [] →
    j.left = 0 →
    ∃ t, exec (.spanSummaryDone i sp) s = .next t ∧ t.spanJobs = s.spanJobs.filter (· != j) ∧
      (sessOf i t).spans = (sessOf i s).spans.modify sp (fun e => { e with sumValid := true }) ∧
      (sessOf i t).pages = (sessOf i s).pages ∧ t.desc = s.desc ∧ t.mem = s.mem) ∧
  (∀ (t : Nat) (f : Nat × Nat × Nat) (s : State), serving s = true → nextFetch t s = some f →
    ∃ u, exec (.kvFetch t) s = .next u ∧ u.fetchQ = s.fetchQ.erase f ∧ u.fetchFly = s.fetchFly ++ [f] ∧ u.mem = s.mem ∧ u.desc = s.desc) ∧
  (∀ (i k : Nat) (f : Nat × Nat × Nat) (s u : State), serving s = true → s.fetchFly.find? (fun f => f.2 == (i, k)) = some f →
    bringPage i k s = some u →
    ∃ t, exec (.kvFetchComplete i k true) s = .next t ∧ t.sess = u.sess ∧ t.fetchFly = u.fetchFly.erase f) ∧
  (∀ (i k : Nat) (f : Nat × Nat × Nat) (s : State), serving s = true → s.fetchFly.find? (fun f => f.2 == (i, k)) = some f →
    bringPage i k s = none → exec (.kvFetchComplete i k true) s = .next s) ∧
  (∀ (i k : Nat) (f : Nat × Nat × Nat) (s : State), serving s = true → s.fetchFly.find? (fun f => f.2 == (i, k)) = some f →
    ((sessOf i s).image.map fun im => decide (im.tier = 0)).getD false = false →
    exec (.kvFetchComplete i k false) s = .next (bump TRN_TAG_FAILS.COUNT 1 (loseSession i s))) ∧
  (∀ (i k c : Nat) (f : Nat × Nat × Nat) (im : Image) (s : State), serving s = true → s.fetchFly.find? (fun f => f.2 == (i, k)) = some f →
    (sessOf i s).image = some im → im.tier = 0 → im.chunks[chunkAt ((im.pageOffs[k]?).getD 0)]? = some c →
    exec (.kvFetchComplete i k false) s = .next (bump TRN_TAG_FAILS.COUNT 1 (loseSession i (deepUe (chunkChan c s) s))))

/-- EMB_LOOKUP and EMB_UPDATE finish from rows homed here or wait for other homes, which are given up at the limit (R299, R300, R301, R304,
R305, R307, R308). A lookup within R300's limits whose rows are all homed here is finished at once from those of them that read, entries
of weight infinity or NaN left out; one with a row elsewhere waits with its limit and asks its homes. A finished lookup completes with OK,
or with PARTIAL and the rows lost. A lookup or an update of an undefined table completes with NOT_FOUND. An accepted update waits with
apply tick T + 1, and no row changes yet; one with a count of 0 or above 65,536 or a descriptor that R304 forbids is REJECTED. At the
limit a waiting lookup finishes with what it has, and a waiting update completes, or where this home has still to apply its part goes on
waiting for that, with the descriptors of silent homes lost. MIGRATE of an embedding block opens a migration with its destination where
each condition of R152 holds, and is refused with the status of the first that does not. -/
def Obligations.EmbeddingCommands : Prop :=
  (∀ (h : Hdr) (table fmt bags entries : Nat) (ents offs : Buf) (out outBytes : Nat) (homes : List ((Nat × Nat) × Nat)) (bad : List (Nat × Nat))
      (t : EmbTable) (eb ob : List Byte) (s v : State), passes h 0x18 (decide (1 < fmt)) s = true → sget s.embTabs table = some t →
    bags ≠ 0 → bags ≤ 1024 → entries ≤ 65536 → bufRead h ents (16 * entries) s = some eb → bufRead h offs (4 * bags + 4) s = some ob →
    lookOk h t fmt bags entries out outBytes eb ob = true → v = rowSpoil t (((((List.range bags).map (bagEntries t eb ob)).map
      (fun b => b.filter fun e => weightOk e.1)).flatten.flatMap (·.2)).eraseDups.filterMap fun r => (rowAddr t r.1 r.2 s).map fun a => (r, a)) bad (entered h 0x18 s) →
    (∀ e ∈ ((List.range bags).map (bagEntries t eb ob)).flatten, ∀ r ∈ e.2, (rowAddr t r.1 r.2 s).isSome = true) →
    ∃ l u, exec (.embLookup h table fmt bags entries ents offs out outBytes homes bad) s = .next (finishLook l u) ∧
      l.h = h ∧ l.table = table ∧ l.fmt = fmt ∧ l.out = out ∧
      l.bags = (List.range bags).map (fun i => (bagEntries t eb ob i).filter fun e => weightOk e.1) ∧
      (∀ g ∈ l.got, ∃ a, rowAddr t g.1.1 g.1.2 s = some a ∧ g.2 = rowVals t a s ∧ bad.contains g.1 = false) ∧
      (∀ e ∈ l.bags.flatten, ∀ r ∈ e.2, ∀ a, rowAddr t r.1 r.2 s = some a → bad.contains r = false → rowLost t a v = false → (r, rowVals t a s) ∈ l.got) ∧
      u.mem = s.mem ∧ u.desc = s.desc ∧ u.embTabs = s.embTabs) ∧
  (∀ (h : Hdr) (table fmt bags entries : Nat) (ents offs : Buf) (out outBytes : Nat) (homes : List ((Nat × Nat) × Nat)) (bad : List (Nat × Nat))
      (t : EmbTable) (eb ob : List Byte) (i : Nat) (e : Nat × List (Nat × Nat)) (r : Nat × Nat) (s : State),
    passes h 0x18 (decide (1 < fmt)) s = true → sget s.embTabs table = some t →
    bags ≠ 0 → bags ≤ 1024 → entries ≤ 65536 → bufRead h ents (16 * entries) s = some eb → bufRead h offs (4 * bags + 4) s = some ob →
    lookOk h t fmt bags entries out outBytes eb ob = true → i < bags → e ∈ bagEntries t eb ob i → weightOk e.1 = true → r ∈ e.2 →
    rowAddr t r.1 r.2 s = none →
    ∃ l u, exec (.embLookup h table fmt bags entries ents offs out outBytes homes bad) s = .next u ∧ u.embLooks = s.embLooks ++ [l] ∧
      l.h = h ∧ l.table = table ∧ l.fmt = fmt ∧ l.out = out ∧ l.msg = s.embSeq ∧ l.limit = s.cad.edges + rd EMB_APPLY.TIMEOUT_TICKS s ∧
      (∃ n ∈ l.need, r ∈ n.2) ∧ u.embSeq = s.embSeq + 1 ∧ u.mem = s.mem ∧ u.desc = s.desc ∧ u.sess = s.sess) ∧
  (∀ (h : Hdr) (table fmt bags entries : Nat) (ents offs : Buf) (out outBytes : Nat) (homes : List ((Nat × Nat) × Nat)) (bad : List (Nat × Nat))
      (s : State), passes h 0x18 (decide (1 < fmt)) s = true → sget s.embTabs table = none →
    exec (.embLookup h table fmt bags entries ents offs out outBytes homes bad) s =
      .next (complete h 0x18 sNotFound (0xFFF * 2 ^ 52) 0 0 (entered h 0x18 s))) ∧
  (∀ (l : EmbLook) (s : State), ∃ u, finishLook l s = complete l.h 0x18
      (if ((l.bags.flatten.map fun e => (e.2.filter fun r => !(l.got.any (·.1 == r))).length)).sum = 0 then sOk else sPartial) 0
      ((l.bags.flatten.map fun e => (e.2.filter fun r => !(l.got.any (·.1 == r))).length)).sum 0 u ∧
    u.embLooks = s.embLooks.filter (· != l) ∧ u.desc = s.desc ∧ u.sess = s.sess) ∧
  (∀ (h : Hdr) (table count : Nat) (buf : Buf) (homes : List ((Nat × Nat) × Nat)) (t : EmbTable) (bs : List Byte) (s : State),
    passes h 0x19 false s = true → sget s.embTabs table = some t → count ≠ 0 → count ≤ 65536 →
    bufRead h buf (count * updBytes t) s = some bs → (pieces (updBytes t) count bs).all (updOk t) = true →
    ∃ u j, exec (.embUpdate h table count buf homes) s = .next u ∧ u.embJobs = s.embJobs ++ [j] ∧ j.h = h ∧ j.tick = now s + 1 ∧
      j.limit = s.cad.edges + rd EMB_APPLY.TIMEOUT_TICKS s ∧ u.mem = s.mem ∧ u.desc = s.desc ∧ u.sess = s.sess) ∧
  (∀ (h : Hdr) (table count : Nat) (buf : Buf) (homes : List ((Nat × Nat) × Nat)) (t : EmbTable) (s : State),
    passes h 0x19 false s = true → sget s.embTabs table = some t →
    (count = 0 ∨ 65536 < count ∨ ∃ bs, bufRead h buf (count * updBytes t) s = some bs ∧ (pieces (updBytes t) count bs).all (updOk t) = false) →
    exec (.embUpdate h table count buf homes) s = .next (refuse h 0x19 sRejected (entered h 0x19 s))) ∧
  (∀ (h : Hdr) (table count : Nat) (buf : Buf) (homes : List ((Nat × Nat) × Nat)) (s : State),
    passes h 0x19 false s = true → sget s.embTabs table = none →
    exec (.embUpdate h table count buf homes) s = .next (complete h 0x19 sNotFound (0xFFF * 2 ^ 52) 0 0 (entered h 0x19 s))) ∧
  (∀ (l : EmbLook) (s : State), serving s = true → s.embLooks = [l] → l.limit ≤ s.cad.edges →
    exec (.embRemoteTimeout l.h.fn l.h.qp l.h.cmdId) s =
      .next (finishLook { l with need := [] } { s with embLooks := [{ l with need := [] }] })) ∧
  (∀ (j : EmbJob) (s : State), serving s = true → s.embLooks = [] → s.embJobs = [j] → j.limit ≤ s.cad.edges → j.localWaits = false →
    exec (.embRemoteTimeout j.h.fn j.h.qp j.h.cmdId) s =
      .next (complete j.h 0x19 (if j.lost ++ j.remote.flatMap (·.2) = [] then sOk else sPartial) 0 j.tick
        (j.lost ++ j.remote.flatMap (·.2)).eraseDups.length { s with embJobs := [] })) ∧
  (∀ (j : EmbJob) (s : State), serving s = true → s.embLooks = [] → s.embJobs = [j] → j.limit ≤ s.cad.edges → j.localWaits = true →
    exec (.embRemoteTimeout j.h.fn j.h.qp j.h.cmdId) s =
      .next { s with embJobs := [{ j with lost := j.lost ++ j.remote.flatMap (·.2), remote := [] }] }) ∧
  (∀ (h : Hdr) (dest table part block : Nat) (t : EmbTable) (s : State), passes h 0x09 false s = true → h.fn = 0 → h.handle = 0 → dest ≤ 0xFFF →
    part ≤ 1 → sget s.embTabs table = some t → block * 2 ^ t.blockLog2 < t.rows part →
    (rowAddr t part (block * 2 ^ t.blockLog2) s).isSome = true → s.migs.all (fun m => m.block != some (table, part, block)) = true →
    rd DIR_SELF.STATE s ≠ 3 → s.migs.length < 256 → (slotFor (rd (HIF_QP_CTRL.CLASS h.fn h.qp) s) s = true ∨ queuedTransits s < 65536) →
    ∃ u m, exec (.migrateEmbBlock h dest table part block true true true true) s = .next (complete h 0x09 sOk 0 (newMigTag s) dest u) ∧
      u.migs = s.migs ++ [m] ∧ m.tag = newMigTag s ∧ m.dest = dest ∧ m.block = some (table, part, block) ∧ m.phase = 1) ∧
  (∀ (h : Hdr) (dest table part block : Nat) (answers reach free room : Bool) (t : EmbTable) (s : State), passes h 0x09 false s = true →
    h.fn = 0 → h.handle = 0 → dest ≤ 0xFFF → part ≤ 1 → sget s.embTabs table = some t → block * 2 ^ t.blockLog2 < t.rows part →
    (rowAddr t part (block * 2 ^ t.blockLog2) s).isSome = true →
    (answers = false ∨ reach = false ∨ free = false ∨ room = false ∨ rd DIR_SELF.STATE s = 3 ∨ 256 ≤ s.migs.length ∨
      s.migs.any (fun m => m.block == some (table, part, block)) = true) →
    exec (.migrateEmbBlock h dest table part block answers reach free room) s = .next
      (if s.migs.any (fun m => m.block == some (table, part, block)) then refuse h 0x09 sBusy (entered h 0x09 s)
       else if !answers || rd DIR_SELF.STATE s == 3 then refuse h 0x09 sTimeout (entered h 0x09 s)
       else if !reach then complete h 0x09 sNotFound (dest * 2 ^ 52) 0 0 (entered h 0x09 s)
       else if 256 ≤ s.migs.length ∨ free = false then refuse h 0x09 sBusy (entered h 0x09 s)
       else refuse h 0x09 sCapacity (entered h 0x09 s))) ∧
  (∀ (h : Hdr) (dest table part block : Nat) (answers reach free room : Bool) (s : State), cmdRuns h s = true → h.handle = 0 →
    (h.fn ≠ 0 ∨ 0xFFF < dest ∨ 1 < part) →
    exec (.migrateEmbBlock h dest table part block answers reach free room) s = .next (refuse h 0x09 sRejected (entered h 0x09 s)))

/-- EMB_POOL, hotness and replicas of rows, and what EMB_READ and EMB_UPDATE messages do at a home (R301, R302, R303, R305, R306, R308).
EMB_POOL of a defined table by a running EMB_POOL kernel, with its output in range, counts its bags on the tile and changes no session,
descriptor or table; with its output in SRAM it writes no memory. The halving of a tile halves every count of it and no other tile's. A
replica takes a copy of its row and becomes valid, or goes where the row is no longer homed here, or, by the model's choice (log 167),
cannot be read. EMB_READ of rows homed here that all read answers them in their order; of an unknown table, or of a row whose block is not
here and left no tombstone, it answers NOT_FOUND. A batch of another module whose rows are all homed here, or are to be forwarded, joins
the apply order with its tick, late where that has passed; another is answered NOT_FOUND with the block's new home. -/
def Obligations.EmbeddingTables : Prop :=
  (∀ (p rank table fmt dst : Nat) (sram : Bool) (bags : List (List (Nat × Nat))) (bad badRep : List (Nat × Nat)) (t : EmbTable) (s : State),
    serving s = true → sget s.embTabs table = some t → runsOp p 0x000C s = true → fmt ≤ 1 →
    rangeOk sram dst (bags.length * outStride t.dim fmt) = true → rankArr p rank s < 2048 →
    ∃ u, exec (.embPool p rank table fmt sram dst bags bad badRep) s = .next u ∧
      rd (EMB_LOOKUPS.COUNT (rankArr p rank s / 512)) u =
        satAdd 48 (rd (EMB_LOOKUPS.COUNT (rankArr p rank s / 512)) s) bags.length ∧
      u.desc = s.desc ∧ u.sess = s.sess ∧ u.embTabs = s.embTabs ∧ (sram = true → u.mem = s.mem ∧ u.deepMem = s.deepMem)) ∧
  (∀ (tile : Nat) (s : State), serving s = true → tile < 4 → sgetD s.hotLast tile 0 + max 1 (rd EMB_HOT_CFG.HOT_WINDOW s) ≤ s.cad.edges →
    ∃ u, exec (.embHotHalving tile) s = .next u ∧ (∀ r, hotCount tile r u = hotCount tile r s / 2) ∧
      (∀ q r, q ≠ tile → hotCount q r u = hotCount q r s) ∧ sget u.hotLast tile = some s.cad.edges ∧ u.mem = s.mem) ∧
  (∀ (tile table part row a : Nat) (t : EmbTable) (p : Replica) (s : State), serving s = true → memOk s = true → sget s.embTabs table = some t →
    s.replicas.find? (fun p => p.tile == tile && p.row == { table := table, part := part, row := row } && !p.valid) = some p →
    rowAddr t part row s = some a → p.addr + p.bytes ≤ bondedEnd →
    rowLost t a s = false →
    ∃ u, exec (.embReplicaValid tile table part row) s = .next u ∧ memRead u p.addr p.bytes = memRead s a p.bytes ∧
      u.replicas = s.replicas.map (fun x => if x = p then { x with valid := true } else x) ∧
      (∀ b, (b < p.addr ∨ p.addr + p.bytes ≤ b) → memByte u b = memByte s b)) ∧
  (∀ (tile table part row : Nat) (t : EmbTable) (p : Replica) (s : State), serving s = true → sget s.embTabs table = some t →
    s.replicas.find? (fun p => p.tile == tile && p.row == { table := table, part := part, row := row } && !p.valid) = some p →
    rowAddr t part row s = none → exec (.embReplicaValid tile table part row) s = .next (dropReplica p s)) ∧
  (∀ (src msg table : Nat) (rows : List (Nat × Nat)) (t : EmbTable) (s : State), serving s = true → sget s.embTabs table = some t → rows ≠ [] →
    rows.all (fun r => (rowAddr t r.1 r.2 s).any fun a => !rowLost t a s) = true →
    ∃ u, exec (.embRead src msg table rows []) s = .next u ∧ u.mem = s.mem ∧
      u.fabOut = { type := 0x13, dst := src, args := msg :: sOk :: rows.flatMap (fun r => [r.1, r.2]),
                   data := (rows.map fun r => memRead s ((rowAddr t r.1 r.2 s).getD 0) (t.dim * elemSize t.format)).flatten } :: s.fabOut) ∧
  (∀ (src msg table : Nat) (rows bad : List (Nat × Nat)) (s : State), serving s = true → sget s.embTabs table = none →
    exec (.embRead src msg table rows bad) s =
      .next { s with fabOut := { type := 0x13, dst := src, args := [msg, sNotFound, 0xFFF] } :: s.fabOut }) ∧
  (∀ (src msg table : Nat) (r : Nat × Nat) (bad : List (Nat × Nat)) (t : EmbTable) (s : State), serving s = true → sget s.embTabs table = some t →
    rowAddr t r.1 r.2 s = none → blockTomb table r.1 (r.2 / 2 ^ t.blockLog2) s = none →
    ∃ u, exec (.embRead src msg table [r] bad) s = .next u ∧ u.mem = s.mem ∧
      u.fabOut = { type := 0x13, dst := src, args := [msg, sNotFound, movedTo table r.1 (r.2 / 2 ^ t.blockLog2) s, r.1, r.2] } :: s.fabOut) ∧
  (∀ (src msg table tick : Nat) (items : List EmbItem) (i : EmbItem) (t : EmbTable) (s : State), serving s = true → sget s.embTabs table = some t →
    items.find? (fun i => !((rowAddr t i.part i.row s).isSome || (blockTomb table i.part (i.row / 2 ^ t.blockLog2) s).isSome)) = some i →
    exec (.embUpdateMsg src msg table tick items) s = .next
      { s with fabOut := { type := 0x13, dst := src, args := [msg, sNotFound, movedTo table i.part (i.row / 2 ^ t.blockLog2) s] } :: s.fabOut }) ∧
  (∀ (src msg table tick : Nat) (items : List EmbItem) (t : EmbTable) (s : State), serving s = true → sget s.embTabs table = some t →
    items.all (fun i => (rowAddr t i.part i.row s).isSome || (blockTomb table i.part (i.row / 2 ^ t.blockLog2) s).isSome) = true →
    exec (.embUpdateMsg src msg table tick items) s = .next
      { s with embSeq := s.embSeq + 1,
               embQ := s.embQ ++ [{ tick := tick, src := src, seq := s.embSeq, table := table, items := items, msg := msg, late := decide (tick ≤ now s) }] }) ∧
  (∀ (tile table part row a : Nat) (t : EmbTable) (p : Replica) (s : State), serving s = true → sget s.embTabs table = some t →
    s.replicas.find? (fun p => p.tile == tile && p.row == { table := table, part := part, row := row } && !p.valid) = some p →
    rowAddr t part row s = some a → rowLost t a s = true → exec (.embReplicaValid tile table part row) s = .next (dropReplica p (readBad a p.bytes s)))

/-- Channels pass to their bank units and back, BNK_PF_OP queues or refuses its descriptor, and the band follows the temperature (R111, R112,
R113, R118, R119, R120, R125). A channel with work, not held and on an online stack below the last band goes to PROCESSOR. A timeout asks
a channel there back. The return of one that was asked writes the partial header of its operation, suspends it and brings the channel to
MEMORY, counting both; where no resume waits for a channel, its descriptors stay and the operation stays at the head. A return that was
not asked changes nothing. A descriptor that passes R118's checks is queued and BUSY sets; one that fails, or lies outside the stack, sets
its status and counts; one while BUSY only counts. A sample moves the stack's band as R120's thresholds say. -/
def Obligations.ChannelModes : Prop :=
  (∀ (g : Nat) (s : State), serving s = true → g < 768 → g % 32 ≠ 0 → chProcessor g s = false → chanHeld g s = false → bandOf (g / 32) s ≠ 3 →
    stackOnline (g / 32) s = true → headWants g s = true →
    ∃ t, exec (.channelToProcessor g) s = .next t ∧ chProcessor g t = true ∧ t.desc = s.desc ∧ t.sess = s.sess ∧ t.deepMem = s.deepMem) ∧
  (∀ (g : Nat) (s : State), serving s = true → chProcessor g s = true →
    ∃ t, exec (.channelWaitTimeout g) s = .next t ∧ g ∈ t.returnReq ∧ t.regs = s.regs ∧ t.mem = s.mem) ∧
  (∀ (g us : Nat) (o x : BankOp) (r : List BankOp) (s u : State), serving s = true → g ∈ s.returnReq → chProcessor g s = true →
    bankOps g s = o :: r → x = { o with suspended := true, acq := false } → u = { s with returnReq := s.returnReq.filter (· != g) } →
    exec (.channelReturn g us) s = .next (trace { tick := 0, event := 0x0502, src := 0x06, arg := g + min us (2 ^ 32 - 1) * 65536 }
      (raise (MEM_MODE_COUNTS.MAX_RETURN_US (g / 192)) us (bump (MEM_MODE_COUNTS.RETURNS (g / 192)) 1
        (toMemory g (bump (BNK_COUNTS.SUSPENDS (g / 32)) 1 (modHead g (fun _ => x) (putHeader x sPartial u)))))))) ∧
  (∀ (g us : Nat) (s : State), serving s = true → g ∉ s.returnReq → exec (.channelReturn g us) s = .next s) ∧
  (∀ (g us : Nat) (o : BankOp) (r : List BankOp) (s : State), serving s = true → g < 768 → g ∈ s.returnReq → chProcessor g s = true →
    bankOps g s = o :: r → s.c0Wait = [] →
    ∃ t, exec (.channelReturn g us) s = .next t ∧ chProcessor g t = false ∧ g ∉ t.returnReq ∧
      bankOps g t = { o with suspended := true, acq := false } :: r ∧ t.desc = s.desc) ∧
  (∀ (st addr : Nat) (s : State), serving s = true → st < 24 → isSet (BNK_PF_STATUS.BUSY st) s = false → addr / 64 * 64 + 64 ≤ bondedEnd →
    stackOf (addr / 64 * 64) = st →
    bankCheck st (bankOpOf (memRead s (addr / 64 * 64) 64)) (bankRest (memRead s (addr / 64 * 64) 64)) s = sOk →
    exec (.bnkPfOp st addr) s = .next (bankQueue (bankOpOf (memRead s (addr / 64 * 64) 64))
      (wr (BNK_PF_STATUS.BUSY st) 1 (wr (BNK_PF_STATUS.TAG st) (bankOpOf (memRead s (addr / 64 * 64) 64)).tag s)))) ∧
  (∀ (st addr c : Nat) (s : State), serving s = true → st < 24 → isSet (BNK_PF_STATUS.BUSY st) s = false → addr / 64 * 64 + 64 ≤ bondedEnd →
    stackOf (addr / 64 * 64) = st →
    bankCheck st (bankOpOf (memRead s (addr / 64 * 64) 64)) (bankRest (memRead s (addr / 64 * 64) 64)) s = c → c ≠ sOk →
    exec (.bnkPfOp st addr) s = .next (wr (BNK_PF_STATUS.STATUS st) c (bump (BNK_COUNTS.REJECTED st) 1
      (wr (BNK_PF_STATUS.TAG st) (bankOpOf (memRead s (addr / 64 * 64) 64)).tag s)))) ∧
  (∀ (st addr : Nat) (s : State), serving s = true → st < 24 → isSet (BNK_PF_STATUS.BUSY st) s = false →
    (bondedEnd < addr / 64 * 64 + 64 ∨ stackOf (addr / 64 * 64) ≠ st) →
    exec (.bnkPfOp st addr) s = .next (wr (BNK_PF_STATUS.STATUS st) sRejected (bump (BNK_COUNTS.REJECTED st) 1
      (wr (BNK_PF_STATUS.TAG st) (bankOpOf (memRead s (addr / 64 * 64) 64)).tag s)))) ∧
  (∀ (st addr : Nat) (s : State), serving s = true → st < 24 → isSet (BNK_PF_STATUS.BUSY st) s = true →
    exec (.bnkPfOp st addr) s = .next (bump (BNK_COUNTS.REJECTED st) 1 s)) ∧
  (∀ (st sensor act : Nat) (s : State), live s = true → st < 24 → stackOnline st s = true → sensor < 256 →
    ∃ t, exec (.thermalSample st sensor act) s = .next t ∧
      bandOf st t = nextBand (bandOf st s) (1000 * sensor + rd (MEM_THERMAL.ACT_GAIN_C (st / 6)) s * min act 1000) ∧
      rd (MEM_TEMP.SENSOR_C (st / 6) (st % 6)) t = sensor ∧ t.desc = s.desc ∧ t.sess = s.sess) ∧
  (∀ cur t : Nat, cur ≤ 3 → (95000 < t → nextBand cur t = 3) ∧ (90000 < t → t < 93000 → nextBand cur t = 2) ∧
    (85000 < t → t < 88000 → nextBand cur t = 1) ∧ (t < 83000 → nextBand cur t = 0) ∧
    (83000 ≤ t → t ≤ 85000 → nextBand cur t = min cur 1))

/-- A slice of COPY, FILL, a scan, a summary or a PATTERN_TEST does its part, and a finished operation leaves its queue (R96, R113, R114,
R115, R116, R117, R122, R209, R481). The operation at the head of a channel in PROCESSOR mode does its next slice: COPY writes the
source's bytes to the destination, carrying over the codewords that are uncorrectable, FILL the pattern, a scan the entries of the slice's
records that pass, behind those before and up to its capacity, SUMMARY_RECOMPUTE the fold of the slice's summaries, PATTERN_TEST the
complement of its pattern with its failures counted. A write goes through the capture of a checkpoint; where none is under way, COPY and
FILL leave every byte outside the destination of the slice. BANK_OP_COMPLETE changes nothing before the operation has run to its end; then
it leaves the queue, counts, and is handed to what issued it; a PF's clears BUSY. -/
def Obligations.BankOperations : Prop :=
  (∀ (g a n : Nat) (o : BankOp) (s : State), serving s = true → bankRuns g 1 s = some o → a = 64 * o.pos → n = 64 * (sliceEnd o - o.pos) →
    (poisonIn (o.src + a) n s = false ∨ capHeld (o.dst + a) n s = true) →
    exec (.bankCopy g) s = .next (bankRan g id (unitWrite (o.dst + a) (memRead s (o.src + a) n) s))) ∧
  (∀ (g a n : Nat) (o : BankOp) (s : State), serving s = true → bankRuns g 1 s = some o → a = 64 * o.pos → n = 64 * (sliceEnd o - o.pos) →
    poisonIn (o.src + a) n s = true → capHeld (o.dst + a) n s = false →
    exec (.bankCopy g) s =
      .next (bankRan g id (copyBad (o.src + a) (o.dst + a) n (unitWrite (o.dst + a) (memRead s (o.src + a) n) s)))) ∧
  (∀ (g a n : Nat) (o : BankOp) (s : State), serving s = true → s.ckpt = none → memOk s = true → bankRuns g 1 s = some o →
    a = 64 * o.pos → n = 64 * (sliceEnd o - o.pos) → o.dst + a + n ≤ bondedEnd →
    ∃ t, exec (.bankCopy g) s = .next t ∧ memRead t (o.dst + a) n = memRead s (o.src + a) n ∧
      (∀ b, (b < o.dst + a ∨ o.dst + a + n ≤ b) → memByte t b = memByte s b) ∧ t.desc = s.desc ∧ t.regs = s.regs) ∧
  (∀ (g a n : Nat) (o : BankOp) (s : State), serving s = true → bankRuns g 2 s = some o → a = 64 * o.pos → n = 64 * (sliceEnd o - o.pos) →
    exec (.bankFill g) s = .next (bankRan g id (patFill (o.dst + a) n o.a s))) ∧
  (∀ (g a n : Nat) (o : BankOp) (s : State), serving s = true → s.ckpt = none → memOk s = true → bankRuns g 2 s = some o →
    a = 64 * o.pos → n = 64 * (sliceEnd o - o.pos) → o.dst + a + n ≤ bondedEnd →
    ∃ t, exec (.bankFill g) s = .next t ∧ (∀ k, k < n → memByte t (o.dst + a + k) = BitVec.ofNat 8 (o.a / 256 ^ (k % 8))) ∧
      (∀ b, (b < o.dst + a ∨ o.dst + a + n ≤ b) → memByte t b = memByte s b) ∧ t.desc = s.desc ∧ t.regs = s.regs) ∧
  (∀ (g : Nat) (o : BankOp) (hits out : List (Nat × Nat)) (s : State), serving s = true → bankRuns g 3 s = some o →
    hits = scanHits o (scanPar o s) s → out = hits.take (o.b - o.written) →
    exec (.maskedScan g) s = .next (bankRan g
      (fun x => { x with matched := o.matched + hits.length, written := o.written + out.length, scanned := o.scanned + (sliceRecs o).2,
                         hits := if o.issuer = 1 then o.hits ++ out else [] })
      (unitWrite (o.dst + 32 + scanEntry 3 * o.written) (entriesOf 3 out) s))) ∧
  (∀ (g : Nat) (o : BankOp) (hits out : List (Nat × Nat)) (s : State), serving s = true → bankRuns g 4 s = some o →
    hits = scanHits o (scanPar o s) s → out = hits.take (o.b - o.written) →
    exec (.codeDistance g) s = .next (bankRan g
      (fun x => { x with matched := o.matched + hits.length, written := o.written + out.length, scanned := o.scanned + (sliceRecs o).2,
                         hits := if o.issuer = 1 then o.hits ++ out else [] })
      (unitWrite (o.dst + 32 + scanEntry 4 * o.written) (entriesOf 4 out) s))) ∧
  (∀ (g : Nat) (o : BankOp) (s : State), serving s = true → bankRuns g 5 s = some o → s.ckpt = none →
    ∃ t bs, exec (.summaryRecompute g) s = .next t ∧ t.mem = cellsSet s.mem o.dst bs ∧
      (bankHead g t).map (fun x => (x.scanned, x.pos, x.ran)) = some (o.scanned + (sliceRecs o).2, sliceEnd o, sliceEnd o == o.len) ∧
      t.regs = s.regs ∧ t.desc = s.desc) ∧
  (∀ (g : Nat) (o : BankOp) (s : State), serving s = true → bankRuns g 6 s = some o →
    exec (.patternTest g []) s =
      .next (bankRan g (fun x => { x with matched := 0 }) (patFill (gchanBase g) chanBytes (ones64 - o.a) s))) ∧
  (∀ (g u : Nat) (fails : List Nat) (o : BankOp) (s : State), serving s = true → bankRuns g 6 s = some o → fails.getLast? = some u →
    exec (.patternTest g fails) s = .next (bankRan g (fun x => { x with matched := fails.length })
      (wr (BNK_TEST.LAST_FAIL (g / 32)) (gchanBase g + 64 * u) (bump (BNK_TEST.FAILS (g / 32)) fails.length
        (patFill (gchanBase g) chanBytes (ones64 - o.a) s))))) ∧
  (∀ (g : Nat) (p : Bool) (o : BankOp) (s : State), serving s = true → bankHead g s = some o → o.ran = true →
    exec (.bankOpComplete g p) s = .next (issueScans
      (if o.issuer = 1 then scanDone o p (finishBankOp g o s) else if o.issuer = 2 then testEnded g o.matched (finishBankOp g o s)
       else finishBankOp g o s))) ∧
  (∀ (g : Nat) (p : Bool) (o : BankOp) (s : State), serving s = true → bankHead g s = some o → o.ran = false →
    exec (.bankOpComplete g p) s = .next s) ∧
  (∀ (g : Nat) (o : BankOp) (s : State), g < 768 → o.issuer = 0 → s.c0Wait = [] →
    bankOps g (finishBankOp g o s) = (bankOps g s).tail ∧ rd (BNK_PF_STATUS.BUSY (g / 32)) (finishBankOp g o s) = 0)

/-- A deep-tier channel retrains through its phases, and retires or returns by command (R102, R103, R104, R474). DEEP_RETRAIN_START shows the
measured temperature and margin; where nothing retrains and the channel is the one due next, it begins phase 1 with DEEP_DEGRADED set.
When its chunks are copied off, phase 2 begins, or the retraining is put off where a free slot is wanting; a retired channel leaves when
its own have been. At the end of the drain phase 3 begins; a training that passes leads to phase 4 with its margins, a first failure is
tried again, a second retires the channel. At the end of phase 4 nothing retrains. RETIRE_DEEP of a channel in service that is not
retraining starts its leaving and of another is REJECTED; RETURN_DEEP of a retired one that trains puts it in service with OK. -/
def Obligations.DeepRetraining : Prop :=
  (∀ (k temp margin : Nat) (s u : State), serving s = true → k < 96 → rd DPT_RETRAIN_STATUS.PHASE s = 0 →
    u = packTemp k temp (wr (DPT_MARGIN.TIMING k) margin s) → nextRetrain u = some k →
    ∃ t, exec (.deepRetrainStart k temp margin) s = .next t ∧ rd DPT_RETRAIN_STATUS.PHASE t = 1 ∧ rd DPT_RETRAIN_STATUS.CHANNEL t = k ∧
      rd HUB_DOMAIN_STATUS.DEEP_DEGRADED t = 1 ∧ t.moving = s.moving ++ chunksOn k s ∧ t.deepMem = s.deepMem ∧ t.desc = s.desc) ∧
  (∀ (k temp margin : Nat) (s u : State), serving s = true → k < 96 → u = packTemp k temp (wr (DPT_MARGIN.TIMING k) margin s) →
    (rd DPT_RETRAIN_STATUS.PHASE u ≠ 0 ∨ nextRetrain u ≠ some k) → exec (.deepRetrainStart k temp margin) s = .next u) ∧
  (∀ (k : Nat) (lost : List Nat) (s u : State), serving s = true → s.deepLeaving.contains k = false → rd DPT_RETRAIN_STATUS.PHASE s = 1 →
    rd DPT_RETRAIN_STATUS.CHANNEL s = k → evacuate k (chunksOn k s) (k + 1) s = some u →
    exec (.deepEvacuationDone k lost) s = .next (c0Refresh (wr DPT_RETRAIN_STATUS.PHASE 2 u))) ∧
  (∀ (k : Nat) (lost : List Nat) (s : State), serving s = true → s.deepLeaving.contains k = false → rd DPT_RETRAIN_STATUS.PHASE s = 1 →
    rd DPT_RETRAIN_STATUS.CHANNEL s = k → evacuate k (chunksOn k s) (k + 1) s = none →
    exec (.deepEvacuationDone k lost) s = .next (deepFlag (retrainOver { bump DPT_RETRAIN_STATUS.DEFERRED 1 s with deepSkip := some k }))) ∧
  (∀ (k : Nat) (lost : List Nat) (s u w : State), serving s = true → s.deepLeaving.contains k = true →
    u = (lost.filter fun c => (chunksOn k s).contains c).foldl chunkLost s → evacuate k (chunksOn k u) (k + 1) u = some w →
    ∃ t, exec (.deepEvacuationDone k lost) s = .next t ∧ t.deepLeaving = w.deepLeaving.filter (· != k) ∧ t.chunkMap = w.chunkMap ∧
      t.deepMem = w.deepMem) ∧
  (∀ s : State, serving s = true → rd DPT_RETRAIN_STATUS.PHASE s = 2 →
    ∃ t, exec .deepDrainDone s = .next t ∧ rd DPT_RETRAIN_STATUS.PHASE t = 3 ∧ t.desc = s.desc ∧ t.mem = s.mem ∧ t.deepMem = s.deepMem) ∧
  (∀ (temp timing voltage : Nat) (s : State), serving s = true → rd DPT_RETRAIN_STATUS.PHASE s = 3 →
    exec (.deepTrainingDone true temp timing voltage) s =
      .next (c0Refresh (wr DPT_RETRAIN_STATUS.PHASE 4 (trained (rd DPT_RETRAIN_STATUS.CHANNEL s) temp timing voltage
        { s with moving := s.moving ++ s.evacuated })))) ∧
  (∀ (temp timing voltage : Nat) (s : State), serving s = true → rd DPT_RETRAIN_STATUS.PHASE s = 3 → s.deepFails = 0 →
    exec (.deepTrainingDone false temp timing voltage) s = .next { s with deepFails := 1 }) ∧
  (∀ (temp timing voltage : Nat) (s : State), serving s = true → rd DPT_RETRAIN_STATUS.PHASE s = 3 → s.deepFails ≠ 0 →
    rd DPT_RETRAIN_STATUS.CHANNEL s < 96 →
    ∃ t, exec (.deepTrainingDone false temp timing voltage) s = .next t ∧ rd DPT_RETRAIN_STATUS.PHASE t = 0 ∧
      deepRetired (rd DPT_RETRAIN_STATUS.CHANNEL s) t = true ∧ deepOnline (rd DPT_RETRAIN_STATUS.CHANNEL s) t = false) ∧
  (∀ s : State, serving s = true → rd DPT_RETRAIN_STATUS.PHASE s = 4 →
    ∃ t, exec .deepReturnDone s = .next t ∧ rd DPT_RETRAIN_STATUS.PHASE t = 0 ∧ rd DPT_RETRAIN_STATUS.CHANNEL t = 0x7F ∧ t.moving = s.moving.filter (!s.evacuated.contains ·) ∧
      t.evacuated = [] ∧ t.deepMem = s.deepMem) ∧
  (∀ (k : Nat) (s : State), serving s = true → isSet REL_CMD_STATUS.BUSY s = false → k < 96 → deepOnline k s = true →
    (rd DPT_RETRAIN_STATUS.CHANNEL s ≠ k ∨ rd DPT_RETRAIN_STATUS.PHASE s = 0) →
    exec (.retireDeep k) s = .next (retireDeep k (wr REL_CMD_STATUS.BUSY 1 s))) ∧
  (∀ (k : Nat) (s : State), serving s = true → isSet REL_CMD_STATUS.BUSY s = false →
    (96 ≤ k ∨ deepOnline k s = false ∨ (rd DPT_RETRAIN_STATUS.CHANNEL s = k ∧ rd DPT_RETRAIN_STATUS.PHASE s ≠ 0)) →
    exec (.retireDeep k) s = .next (relDone sRejected s)) ∧
  (∀ (k temp timing voltage : Nat) (s : State), serving s = true → isSet REL_CMD_STATUS.BUSY s = false → k < 96 → deepRetired k s = true →
    s.deepLeaving.contains k = false →
    ∃ t, exec (.returnDeep k true temp timing voltage) s = .next t ∧ deepOnline k t = true ∧ deepRetired k t = false ∧
      rd REL_CMD_STATUS.BUSY t = 0 ∧ rd REL_CMD_STATUS.STATUS t = sOk)

/-- Stack channels and tiles leave and rejoin service by command or fault, and the scrubbers act on what they read (R98, R466, R471, R472,
R473, R475, R476, R477). RETIRE_CHANNEL and RETURN_CHANNEL of a channel in the right state begin, or, for a return with no remap, end with
OK; of another, or one whose march fails, they complete with REJECTED, as RETURN_DEEP does. A rebuild that ends completes its command with
OK. TILE_OFFLINE of an online tile begins its drain where no other tile is out; with another out it is BUSY, of a tile that is not online
REJECTED. A fault of a present tile that is online, or in a planned drain, takes it; with another out, the module. The end of a drain with
nothing left takes the tile and its stacks offline, and completes a planned one with OK. TILE_ONLINE brings a tile that is offline back
with its stacks. While BUSY no such command does anything. PATROL_SCRUB counts the corrections, and with the scrubber on marks and counts
what it found uncorrectable; REPLICA_SCRUB counts what differed and compares the weight blocks of its tile. -/
def Obligations.ElementsRetire : Prop :=
  (∀ (g : Nat) (s : State), serving s = true → isSet REL_CMD_STATUS.BUSY s = false → g < 768 → stackOnline (g / 32) s = true →
    chRetired g s = false → s.rebuilds.all (·.1 != g) = true →
    exec (.retireChannel g) s = .next (retireChan g true (wr REL_CMD_STATUS.BUSY 1 s))) ∧
  (∀ (g : Nat) (s : State), serving s = true → isSet REL_CMD_STATUS.BUSY s = false →
    (768 ≤ g ∨ stackOnline (g / 32) s = false ∨ chRetired g s = true ∨ s.rebuilds.any (·.1 == g) = true) →
    exec (.retireChannel g) s = .next (relDone sRejected s)) ∧
  (∀ (g k t temp timing voltage : Nat) (pass : Bool) (bad : List Nat) (s : State), serving s = true → isSet REL_CMD_STATUS.BUSY s = true →
    exec (.retireChannel g) s = .next s ∧ exec (.returnChannel g pass) s = .next s ∧ exec (.retireDeep k) s = .next s ∧
    exec (.returnDeep k pass temp timing voltage) s = .next s ∧ exec (.tileOffline t) s = .next s ∧ exec (.tileOnline t bad) s = .next s) ∧
  (∀ (g p : Nat) (s : State), serving s = true → isSet REL_CMD_STATUS.BUSY s = false → g < 768 → stackOnline (g / 32) s = true →
    chRetired g s = true → s.rebuilds.all (·.1 != g) = true → sget s.remaps g = some p →
    ∃ t, exec (.returnChannel g true) s = .next t ∧ t.rebuilds = s.rebuilds ++ [(g, true, true)] ∧ rd REL_CMD_STATUS.BUSY t = 1 ∧ t.mem = s.mem) ∧
  (∀ (g : Nat) (s : State), serving s = true → isSet REL_CMD_STATUS.BUSY s = false → g < 768 → stackOnline (g / 32) s = true →
    chRetired g s = true → s.rebuilds.all (·.1 != g) = true → sget s.remaps g = none →
    exec (.returnChannel g true) s = .next (relDone sOk (elementEv 2 g 0
      (sizePool (pairRewrite g (fun _ => true) (memClear (gchanBase g) chanBytes (setRetired g false s))))))) ∧
  (∀ (g : Nat) (pass : Bool) (s : State), serving s = true → isSet REL_CMD_STATUS.BUSY s = false →
    (768 ≤ g ∨ stackOnline (g / 32) s = false ∨ chRetired g s = false ∨ s.rebuilds.any (·.1 == g) = true ∨ pass = false) →
    exec (.returnChannel g pass) s = .next (relDone sRejected s)) ∧
  (∀ (g : Nat) (back : Bool) (lost : List Nat) (s : State), serving s = true → s.rebuilds = [(g, back, true)] → g < 768 →
    ∃ t, exec (.channelRebuildDone g lost) s = .next t ∧ t.rebuilds = [] ∧ rd REL_CMD_STATUS.BUSY t = 0 ∧ rd REL_CMD_STATUS.STATUS t = sOk ∧
      (back = true → chRetired g t = false ∧ sget t.remaps g = none)) ∧
  (∀ (k temp timing voltage : Nat) (pass : Bool) (s : State), serving s = true → isSet REL_CMD_STATUS.BUSY s = false →
    (96 ≤ k ∨ deepRetired k s = false ∨ s.deepLeaving.contains k = true ∨ pass = false) →
    exec (.returnDeep k pass temp timing voltage) s = .next (relDone sRejected s)) ∧
  (∀ (t : Nat) (s : State), serving s = true → isSet REL_CMD_STATUS.BUSY s = false → otherTileOut t s = false → tileOnline t s = true →
    exec (.tileOffline t) s = .next (parkAll t (tileCkpt t (drainBegin t
      { wr REL_CMD_STATUS.BUSY 1 (wr REL_CMD_STATUS.ROW 3 s) with tileDrain := some (t, true, 0) })))) ∧
  (∀ (t : Nat) (s : State), serving s = true → isSet REL_CMD_STATUS.BUSY s = false → otherTileOut t s = true →
    exec (.tileOffline t) s = .next (relDone sBusy s)) ∧
  (∀ (t : Nat) (s : State), serving s = true → isSet REL_CMD_STATUS.BUSY s = false → otherTileOut t s = false → tileOnline t s = false →
    exec (.tileOffline t) s = .next (relDone sRejected s)) ∧
  (∀ (t : Nat) (s : State), serving s = true → (tilePresent t s = false ∨
      (otherTileOut t s = false ∧ tileOnline t s = false ∧ s.tileDrain.any (fun q => q.1 == t && q.2.1) = false)) →
    exec (.tileFault t) s = .next s) ∧
  (∀ (t : Nat) (s : State), serving s = true → tilePresent t s = true → otherTileOut t s = true → exec (.tileFault t) s = .next (hubFault s)) ∧
  (∀ (t : Nat) (s : State), serving s = true → tilePresent t s = true → otherTileOut t s = false →
    (tileOnline t s = true ∨ s.tileDrain.any (fun q => q.1 == t && q.2.1) = true) →
    exec (.tileFault t) s = .next (wr REL_CMD_STATUS.ROW 4 (tileEnds t (loseKeys (chanOnTile t)
      ((sessOnTile t (faultArrays t (tileCkpt t (drainBegin t { s with tileDrain := some (t, false, (s.tileDrain.map (·.2.2)).getD 0) })))).foldl
        (fun s i => faultSession i s)
        (faultArrays t (tileCkpt t (drainBegin t { s with tileDrain := some (t, false, (s.tileDrain.map (·.2.2)).getD 0) })))))))) ∧
  (∀ (t n : Nat) (s : State), serving s = true → t < 4 → s.tileDrain = some (t, false, n) → isSet REL_CMD_STATUS.BUSY s = false →
    (partsOnTile t s).all (fun p => (partOf p s).step.isNone && (partOf p s).running.isNone) = true → sessOnTile t s = [] →
    ∃ u, exec (.tileDrainDone t) s = .next u ∧ u.tileDrain = none ∧ (∀ j, j < 6 → stackOnline (6 * t + j) u = false) ∧
      rdBit HUB_DOMAIN_STATUS.TILE_DRAINING t u = false) ∧
  (∀ (t n : Nat) (s : State), serving s = true → t < 4 → s.tileDrain = some (t, true, n) →
    (partsOnTile t s).all (fun p => (partOf p s).step.isNone && (partOf p s).running.isNone) = true → sessOnTile t s = [] →
    ∃ u, exec (.tileDrainDone t) s = .next u ∧ u.tileDrain = none ∧ (∀ j, j < 6 → stackOnline (6 * t + j) u = false) ∧
      rd REL_CMD_STATUS.BUSY u = 0 ∧ rd REL_CMD_STATUS.STATUS u = sOk) ∧
  (∀ (t : Nat) (bad : List Nat) (s : State), serving s = true → isSet REL_CMD_STATUS.BUSY s = false → t < 4 → tilePresent t s = true →
    tileOnline t s = false → s.tileDrain.any (·.1 == t) = false →
    ∃ u, exec (.tileOnline t bad) s = .next u ∧ tileOnline t u = true ∧ rd REL_CMD_STATUS.STATUS u = sOk ∧
      (∀ j, j < 6 → stackOnline (6 * t + j) u = true)) ∧
  (∀ (t : Nat) (bad : List Nat) (s : State), serving s = true → isSet REL_CMD_STATUS.BUSY s = false →
    (tilePresent t s = false ∨ tileOnline t s = true ∨ s.tileDrain.any (·.1 == t) = true) →
    exec (.tileOnline t bad) s = .next (relDone sRejected s)) ∧
  (∀ (st ondie corrected : Nat) (bad b : List (Nat × Nat)) (toks grams : List Nat) (ents : List (Nat × Nat × Nat)) (s u v : State), serving s = true →
    st < 24 → stackOnline st s = true → isSet (MEM_SCRUB.ENABLE (st / 6)) s = true →
    u = bump (MEM_ECC_COUNTS.CORRECTED (st / 6) (st % 6)) corrected (bump (MEM_ECC_COUNTS.ONDIE (st / 6) (st % 6)) ondie s) →
    b = bad.filter (fun b => stackOf (64 * b.1) == st && !chRaw (gchan (64 * b.1)) s && chUp (gchan (64 * b.1)) s) →
    v = b.foldl (fun s b => noteUe (64 * b.1) b.2 s) u →
    exec (.patrolScrub st ondie corrected bad toks grams ents) s = .next (retireDue (ents.foldl dropPoisoned
      { v with poison := ((b.map (·.1)) ++ v.poison).eraseDups, badToks := (toks ++ v.badToks).eraseDups,
               badGrams := (grams ++ v.badGrams).eraseDups }))) ∧
  (∀ (st ondie corrected : Nat) (bad : List (Nat × Nat)) (toks grams : List Nat) (ents : List (Nat × Nat × Nat)) (s : State), serving s = true →
    st < 24 → stackOnline st s = true → isSet (MEM_SCRUB.ENABLE (st / 6)) s = false →
    exec (.patrolScrub st ondie corrected bad toks grams ents) s = .next
      (bump (MEM_ECC_COUNTS.CORRECTED (st / 6) (st % 6)) corrected (bump (MEM_ECC_COUNTS.ONDIE (st / 6) (st % 6)) ondie s))) ∧
  (∀ (t n : Nat) (descs chunks : List Nat) (s u v : State), serving s = true → t < 4 → tileOnline t s = true → isSet REL_SCRUB.ENABLE s = true →
    s.poison = [] → n = descs.length + chunks.length → u = bump REL_DIVERGENCE.COUNT n (bump REL_REWRITES.COUNT n s) →
    v = s.models.foldl (fun s m => (List.range m.2.blocks.length).foldl (fun s k =>
      if ((m.2.blocks[k]?).map (·.1)) = some t then scrubBlock m.1 k s else s) s) u → v.poison = [] →
    exec (.replicaScrub t descs chunks) s = .next (retireDue v)) ∧
  (∀ (t : Nat) (descs chunks : List Nat) (s : State), serving s = true → (4 ≤ t ∨ tileOnline t s = false ∨ isSet REL_SCRUB.ENABLE s = false) →
    exec (.replicaScrub t descs chunks) s = .next s)

/-- VEC_UPSERT and VEC_DELETE are accepted in order and take effect after a tick edge (R317, R318, R319). An accepted VEC_UPSERT writes its
items PENDING and joins the order of its index; one whose items are ill-formed or repeat an identifier is REJECTED, and one without room
is refused whole with CAPACITY. An accepted VEC_DELETE notes what its identifiers name and changes no byte. Either of an index that is not
ready completes with NOT_FOUND. The first in order, after a tick edge, commits: an upsert once every record of it is written, with a
completion that carries the tick and the count; a delete with one that carries the tick and how many identifiers named nothing live. -/
def Obligations.VectorUpdates : Prop :=
  (∀ (h : Hdr) (i count : Nat) (buf : Buf) (v : VecIndex) (bs : List Byte) (l : List (Nat × Option Nat)) (s u : State),
    passes h 0x11 (decide (64 ≤ i) || count == 0 || decide (4096 < count)) s = true → vecOf i s = some v →
    bufRead h buf (count * (64 + 4 * v.dim)) s = some bs → (pieces (64 + 4 * v.dim) count bs).all (itemOk v) = true →
    hasDup ((pieces (64 + 4 * v.dim) count bs).map fun b => field b 0 8) = false →
    (pieces (64 + 4 * v.dim) count bs).foldl (putItem i v) (some ([], idsRead v ((pieces (64 + 4 * v.dim) count bs).map fun b => field b 0 8) (entered h 0x11 s))) =
      some (l, u) →
    exec (.vecUpsert h i count buf) s =
      .next { u with vecJobs := u.vecJobs ++ [{ h := h, index := i, edge := u.cad.edges, del := false, slots := l }] }) ∧
  (∀ (h : Hdr) (i count : Nat) (buf : Buf) (v : VecIndex) (bs : List Byte) (s : State),
    passes h 0x11 (decide (64 ≤ i) || count == 0 || decide (4096 < count)) s = true → vecOf i s = some v →
    bufRead h buf (count * (64 + 4 * v.dim)) s = some bs → (pieces (64 + 4 * v.dim) count bs).all (itemOk v) = true →
    hasDup ((pieces (64 + 4 * v.dim) count bs).map fun b => field b 0 8) = false →
    (pieces (64 + 4 * v.dim) count bs).foldl (putItem i v) (some ([], idsRead v ((pieces (64 + 4 * v.dim) count bs).map fun b => field b 0 8) (entered h 0x11 s))) =
      none →
    exec (.vecUpsert h i count buf) s = .next (refuse h 0x11 sCapacity (entered h 0x11 s))) ∧
  (∀ (h : Hdr) (i count : Nat) (buf : Buf) (v : VecIndex) (bs : List Byte) (s : State),
    passes h 0x11 (decide (64 ≤ i) || count == 0 || decide (4096 < count)) s = true → vecOf i s = some v →
    bufRead h buf (count * (64 + 4 * v.dim)) s = some bs →
    ((pieces (64 + 4 * v.dim) count bs).all (itemOk v) = false ∨ hasDup ((pieces (64 + 4 * v.dim) count bs).map fun b => field b 0 8) = true) →
    exec (.vecUpsert h i count buf) s = .next (refuse h 0x11 sRejected (entered h 0x11 s))) ∧
  (∀ (h : Hdr) (i count : Nat) (buf : Buf) (s : State), passes h 0x11 (decide (64 ≤ i) || count == 0 || decide (4096 < count)) s = true → vecOf i s = none →
    exec (.vecUpsert h i count buf) s = .next (complete h 0x11 sNotFound (0xFFF * 2 ^ 52) 0 0 (entered h 0x11 s))) ∧
  (∀ (h : Hdr) (i count : Nat) (buf : Buf) (s : State), passes h 0x12 (decide (64 ≤ i) || count == 0 || decide (4096 < count)) s = true → vecOf i s = none →
    exec (.vecDelete h i count buf) s = .next (complete h 0x12 sNotFound (0xFFF * 2 ^ 52) 0 0 (entered h 0x12 s))) ∧
  (∀ (h : Hdr) (i count : Nat) (buf : Buf) (v : VecIndex) (bs : List Byte) (s : State),
    passes h 0x12 (decide (64 ≤ i) || count == 0 || decide (4096 < count)) s = true → vecOf i s = some v → bufRead h buf (count * 8) s = some bs →
    (((pieces 8 count bs).map leNat).contains ones64 = true ∨ hasDup ((pieces 8 count bs).map leNat) = true) →
    exec (.vecDelete h i count buf) s = .next (refuse h 0x12 sRejected (entered h 0x12 s))) ∧
  (∀ (h : Hdr) (i count : Nat) (buf : Buf) (v : VecIndex) (bs : List Byte) (s : State),
    passes h 0x12 (decide (64 ≤ i) || count == 0 || decide (4096 < count)) s = true → vecOf i s = some v → bufRead h buf (count * 8) s = some bs →
    ((pieces 8 count bs).map leNat).contains ones64 = false → hasDup ((pieces 8 count bs).map leNat) = false →
    ∃ t, exec (.vecDelete h i count buf) s = .next t ∧ t.mem = s.mem ∧ (s.poison = [] → t.regs = s.regs) ∧ t.desc = s.desc ∧
      t.vecJobs = s.vecJobs ++
        [{ h := h, index := i, edge := s.cad.edges, del := true,
           slots := (((pieces 8 count bs).map leNat).filterMap fun x => (idFind v x s).1.map (·.2)).map fun x => (x, none),
           missing := count - (((pieces 8 count bs).map leNat).filterMap fun x => (idFind v x s).1.map (·.2)).length }]) ∧
  (∀ (i : Nat) (j : VecJob) (v : VecIndex) (s : State), serving s = true → headJob i false s = some j → sget s.vecs i = some v →
    batchWritten v j s = true → ∃ u, exec (.vecUpsertCommit i) s = .next (completeStarted j.h 0x11 sOk 0 (now s) j.slots.length u) ∧
      u.vecJobs = s.vecJobs.erase j ∧ u.desc = s.desc ∧ u.sess = s.sess ∧ u.deepMem = s.deepMem) ∧
  (∀ (i : Nat) (s : State), serving s = true → (headJob i false s = none ∨ ∃ j v, headJob i false s = some j ∧ sget s.vecs i = some v ∧ batchWritten v j s = false) →
    exec (.vecUpsertCommit i) s = .next s) ∧
  (∀ (i : Nat) (j : VecJob) (v : VecIndex) (s : State), serving s = true → headJob i true s = some j → sget s.vecs i = some v →
    ∃ u, exec (.vecDeleteApply i) s = .next (completeStarted j.h 0x12 sOk 0 (now s)
        (j.missing + (j.slots.length - (j.slots.filter fun x => (vslotOf v x.1 s).state == 2).length)) u) ∧
      u.vecJobs = s.vecJobs.erase j ∧ u.desc = s.desc ∧ u.sess = s.sess ∧ u.deepMem = s.deepMem)

/-- VEC_QUERY is entered or refused, searched by kernels of bounded work and merged to at most K results; repairs and compaction (R110, R314,
R320, R321, R322, R323, R324, R325, R326, R327). A VEC_QUERY that R323 allows is entered with the present tick as Q0, where its
partition's queue has room for its traversals, and is else BUSY; a block that R323 forbids is REJECTED, and of an index that is not ready
NOT_FOUND. A kernel of a traversal that its channels serve expands at most EXPAND_PER_KERNEL records, with no codeword poisoned; one that
meets a poisoned entry, or whose segment's channel is out of service, makes the query partial and ends its traversal. When every list is
in, the merge completes the command with at most K results, with OK or PARTIAL. A repair in free time takes its edge off the queue. A
compaction begins with BUSY and its new segment, or ends at once with the status that says why not; it is published at an edge after its
last record with OK, and ends when no older query runs. -/
def Obligations.VectorSearch : Prop :=
  (∀ (h : Hdr) (query : Buf) (result bytes : Nat) (skip : List Nat) (v : VecIndex) (b c : List Byte) (s : State), passes h 0x10 false s = true →
    bufRead h query 64 s = some b → queryOk b = true → 32 + 16 * field b 2 2 ≤ bytes → bufFits h result (32 + 16 * field b 2 2) = true →
    vecOf (field b 0 1) s = some v → bufRead h query (64 + 4 * v.dim) s = some c → field c 0 1 = field b 0 1 →
    ((pieces 4 v.dim (c.drop 64)).map leNat).any f32NaN = false → (partOf v.part s).queue.length + (vsegs v s).length ≤ 4096 →
    ∃ t, exec (.vecQuery h query result bytes skip) s = .next t ∧ t.vecQs.map (·.id) = s.vecQs.map (·.id) ++ [s.vecSeq] ∧ t.vecSeq = s.vecSeq + 1 ∧
      (t.vecQs.getLast?.map fun q => (q.h, q.q0, q.k, q.result)) = some (h, now s, field c 2 2, result) ∧ t.mem = s.mem ∧ t.desc = s.desc) ∧
  (∀ (h : Hdr) (query : Buf) (result bytes : Nat) (v : VecIndex) (b c : List Byte) (s : State), passes h 0x10 false s = true → s.poison = [] →
    bufRead h query 64 s = some b → queryOk b = true → 32 + 16 * field b 2 2 ≤ bytes → bufFits h result (32 + 16 * field b 2 2) = true →
    vecOf (field b 0 1) s = some v → bufRead h query (64 + 4 * v.dim) s = some c →
    ((pieces 4 v.dim (c.drop 64)).map leNat).any f32NaN = false → 4096 < (partOf v.part s).queue.length →
    exec (.vecQuery h query result bytes []) s = .next (refuse h 0x10 sBusy (entered h 0x10 s))) ∧
  (∀ (h : Hdr) (query : Buf) (result bytes : Nat) (skip : List Nat) (b : List Byte) (s : State), passes h 0x10 false s = true →
    bufRead h query 64 s = some b →
    (queryOk b = false ∨ bytes < 32 + 16 * field b 2 2 ∨ bufFits h result (32 + 16 * field b 2 2) = false) →
    exec (.vecQuery h query result bytes skip) s = .next (refuse h 0x10 sRejected (entered h 0x10 s))) ∧
  (∀ (h : Hdr) (query : Buf) (result bytes : Nat) (skip : List Nat) (b : List Byte) (s : State), passes h 0x10 false s = true →
    bufRead h query 64 s = some b → queryOk b = true → 32 + 16 * field b 2 2 ≤ bytes → bufFits h result (32 + 16 * field b 2 2) = true →
    vecOf (field b 0 1) s = none →
    exec (.vecQuery h query result bytes skip) s = .next (complete h 0x10 sNotFound (0xFFF * 2 ^ 52) 0 0 (entered h 0x10 s))) ∧
  (∀ (p built : Nat) (r : Running) (q : VecQuery) (x : VecTrav) (v : VecIndex) (s : State), serving s = true → p < 255 →
    (partOf p s).running = some r → r.kern.op = 0x000A → r.ofStep = false → r.ran = false → travServed r.kern s = true → r.kern.ref < compactRef →
    s.vecQs.find? (·.id == r.kern.ref / 4096) = some q → q.travs.find? (·.seg == r.kern.ref % 4096) = some x → vecOf q.index s = some v →
    q.index < 64 → v.home < 4 → v.part < 255 → s.poison = [] → chUp (gchan (vsegOf v (r.kern.ref % 4096) s).addr) s = true →
    ∃ t k, exec (.vecTraverse p built false) s = .next t ∧ k ≤ max 1 (rd VEC_CFG.EXPAND_PER_KERNEL s) ∧
      rd (VEC_EXPANSIONS.COUNT v.home) t = satAdd 48 (rd (VEC_EXPANSIONS.COUNT v.home) s) k ∧
      (partOf p t).running = some { r with ran := true } ∧ t.mem = s.mem ∧ t.desc = s.desc) ∧
  (∀ (p built : Nat) (poison : Bool) (r : Running) (q : VecQuery) (x : VecTrav) (v : VecIndex) (s : State), serving s = true →
    (partOf p s).running = some r → r.kern.op = 0x000A → r.ofStep = false → r.ran = false → travServed r.kern s = true → r.kern.ref < compactRef →
    s.vecQs.find? (·.id == r.kern.ref / 4096) = some q → q.travs.find? (·.seg == r.kern.ref % 4096) = some x → vecOf q.index s = some v →
    (poison = true ∨ segBad v (r.kern.ref % 4096) s = true ∨ chUp (gchan (vsegOf v (r.kern.ref % 4096) s).addr) s = false) →
    ∃ t, exec (.vecTraverse p built poison) s = .next t ∧ (partOf p t).running = some { r with ran := true } ∧ t.mem = s.mem ∧
      t.vecQs = s.vecQs.map (fun y => if y = q then { setTrav { x with results := [], done := true } q with poisoned := true } else y)) ∧
  (∀ (p built : Nat) (poison : Bool) (r : Running) (s : State), serving s = true → (partOf p s).running = some r → r.kern.op = 0x000A →
    r.ofStep = false → r.ran = false → travServed r.kern s = true → compactRef ≤ r.kern.ref →
    exec (.vecTraverse p built poison) s = .next (compactKernel p (r.kern.ref - compactRef) built
      (modPart p (fun x => { x with running := some { r with ran := true } }) s))) ∧
  (∀ (p built : Nat) (poison : Bool) (r : Running) (s : State), serving s = true → (partOf p s).running = some r →
    (r.kern.op ≠ 0x000A ∨ r.ofStep = true ∨ r.ran = true ∨ travServed r.kern s = false) → exec (.vecTraverse p built poison) s = .next s) ∧
  (∀ (id : Nat) (q : VecQuery) (v : VecIndex) (s : State), serving s = true → s.vecQs.find? (·.id == id) = some q → q.travs.all (·.done) = true →
    q.scans.all (·.state == 2) = true → sget s.vecs q.index = some v → s.poison = [] →
    ∃ u n, exec (.vecQueryMerge id) s = .next (complete q.h 0x10 (if q.poisoned = true ∨ q.truncated = true then sPartial else sOk) 0 n q.q0 u) ∧
      n ≤ q.k ∧ u.vecQs = s.vecQs.filter (· != q) ∧ u.desc = s.desc ∧ u.sess = s.sess) ∧
  (∀ (id : Nat) (q : VecQuery) (v : VecIndex) (s : State), serving s = true → s.vecQs.find? (·.id == id) = some q → q.travs.all (·.done) = true →
    q.scans.all (·.state == 2) = true → sget s.vecs q.index = some v →
    ∃ u n st, exec (.vecQueryMerge id) s = .next (complete q.h 0x10 st 0 n q.q0 u) ∧ (st = sOk ∨ st = sPartial) ∧ n ≤ q.k ∧
      u.vecQs = s.vecQs.filter (· != q) ∧ u.desc = s.desc ∧ u.sess = s.sess) ∧
  (∀ (id : Nat) (q : VecQuery) (s : State), serving s = true → s.vecQs.find? (·.id == id) = some q →
    (q.travs.all (·.done) = false ∨ q.scans.all (·.state == 2) = false) → exec (.vecQueryMerge id) s = .next s) ∧
  (∀ (i slot pos : Nat) (rest : List (Nat × Nat)) (v : VecIndex) (s : State), serving s = true → sget s.vecs i = some v →
    (partOf v.part s).running = none → stepReady v.part s = none → bestQueued v.part s = none → v.repairs = (slot, pos) :: rest →
    segsServed v [(vslotOf v slot s).seg] s = true →
    ∃ t, exec (.vecEdgeRepair i) s = .next t ∧ (sget t.vecs i).map (·.repairs) = some rest ∧ t.desc = s.desc ∧ t.sess = s.sess ∧
      t.deepMem = s.deepMem) ∧
  (∀ (i first count n g a : Nat) (v : VecIndex) (s w u : State), serving s = true → i < 64 → isSet VEC_COMPACT_STATUS.BUSY s = false →
    vecOf i s = some v → isSet (VEC_INDEX.COMPACTING i) s = false → count ≠ 0 → count ≤ 64 → first + count ≤ 4096 → v.part < 255 →
    (∀ k, k < count → (vsegOf v (k + first) s).state = 1 ∨ (vsegOf v (k + first) s).state = 2) →
    w = (((List.range count).map (· + first)).filter fun n => (vsegOf v n s).state == 1).foldl (fun s n => sealSeg v n s) s → freeSeg v w = some n →
    allocIn (vecChanList v v.graphCh) (max 1 ((List.range v.next).filter fun k =>
        ((vslotOf v k w).state == 1 || (vslotOf v k w).state == 2) && ((List.range count).map (· + first)).contains (vslotOf v k w).seg).length *
      (v.stride + 8 * v.degree)) w = some (g, a, u) →
    ∃ t, exec (.vecCompact i first count) s = .next t ∧ rd VEC_COMPACT_STATUS.BUSY t = 1 ∧ rd VEC_COMPACT_STATUS.NEW_SEGMENT t = n ∧
      rd (VEC_INDEX.COMPACTING i) t = 1 ∧ t.vecCompacts.map (·.seg) = s.vecCompacts.map (·.seg) ++ [n]) ∧
  (∀ (i first count : Nat) (s : State), serving s = true → isSet VEC_COMPACT_STATUS.BUSY s = true → exec (.vecCompact i first count) s = .next s) ∧
  (∀ (i first count : Nat) (s : State), serving s = true → isSet VEC_COMPACT_STATUS.BUSY s = false → vecOf i s = none →
    exec (.vecCompact i first count) s = .next (compactEnd sNotFound s)) ∧
  (∀ (i first count : Nat) (v : VecIndex) (s : State), serving s = true → isSet VEC_COMPACT_STATUS.BUSY s = false → vecOf i s = some v →
    isSet (VEC_INDEX.COMPACTING i) s = true → exec (.vecCompact i first count) s = .next (compactEnd sBusy s)) ∧
  (∀ (i first count : Nat) (v : VecIndex) (s : State), serving s = true → isSet VEC_COMPACT_STATUS.BUSY s = false → vecOf i s = some v →
    isSet (VEC_INDEX.COMPACTING i) s = false → (count = 0 ∨ 64 < count ∨ 4096 < first + count ∨
      ∃ k, k < count ∧ (vsegOf v (k + first) s).state ≠ 1 ∧ (vsegOf v (k + first) s).state ≠ 2) →
    exec (.vecCompact i first count) s = .next (compactEnd sRejected s)) ∧
  (∀ (i : Nat) (c : VecCompact) (v : VecIndex) (s : State), serving s = true →
    s.vecCompacts.find? (fun c => c.index == i && c.publish.isNone) = some c → sget s.vecs i = some v → c.todo = [] → c.edge < s.cad.edges →
    ∃ t, exec (.vecCompactPublish i) s = .next t ∧ rd VEC_COMPACT_STATUS.BUSY t = 0 ∧ rd VEC_COMPACT_STATUS.STATUS t = sOk ∧
      t.vecCompacts = s.vecCompacts.map (fun x => if x = c then { c with publish := some (now s) } else x) ∧ t.desc = s.desc) ∧
  (∀ (i : Nat) (c : VecCompact) (v : VecIndex) (s : State), serving s = true →
    s.vecCompacts.find? (fun c => c.index == i && c.publish.isNone) = some c → sget s.vecs i = some v → (c.todo ≠ [] ∨ s.cad.edges ≤ c.edge) →
    exec (.vecCompactPublish i) s = .next s) ∧
  (∀ (i : Nat) (c : VecCompact) (v : VecIndex) (s : State), serving s = true →
    s.vecCompacts.find? (fun c => c.index == i && c.publish.isSome) = some c → sget s.vecs i = some v →
    s.vecQs.all (fun q => q.index != i || decide (c.publish.getD 0 ≤ q.q0)) = true →
    ∃ t, exec (.vecCompactRelease i) s = .next t ∧ rd (VEC_INDEX.COMPACTING i) t = 0 ∧ t.vecCompacts = s.vecCompacts.filter (· != c) ∧ t.desc = s.desc)

/-- What brings a fabric port from each of its states to the next (R361, R362, R369, R510). Enabling a DOWN port trains it, and sets ENABLE
alone in every other state. Disabling a port that is neither DOWN nor RETIRED takes it DOWN; its undelivered messages go to other ports; a
DOWN or RETIRED one stays and is no longer due to retry. RETRAIN drains an UP port unless another port retrains, which is counted; RETIRE
drains it for good; RETURN trains a RETIRED port; in other states they do nothing. A training that succeeds with link keys and 4 or 8
lanes makes the port UP with its lanes, neighbour, rate and first credits owed; with neither it notes the margins alone; one that fails
makes it DOWN and due to retry, and on the third failure within 10 s RETIRED; a port not in training is left. A drained port, or one whose
drain is late, trains or retires, and its undelivered messages go to other ports. A link that goes down (the eighth NAK, no ACK progress,
lost alignment) is counted, its port trains and its messages go elsewhere; without its cause, or on a port that is neither UP nor
DRAINING, LINK_DOWN does nothing. A port number of 16 or more does nothing. -/
def Obligations.FabricPorts : Prop :=
  (∀ (p : Nat) (s : State), serving s = true → p < 16 → portState p s = pDown →
    ∃ t, exec (.fabPortEnable p true) s = .next t ∧ portState p t = pTraining ∧ rd (FAB_PORT_CTRL.ENABLE p) t = 1 ∧
      rd (FAB_PORT_STATUS.TRAININGS p) t = satAdd 16 (rd (FAB_PORT_STATUS.TRAININGS p) s) 1) ∧
  (∀ (p : Nat) (s : State), serving s = true → p < 16 → portState p s = pUp → (linkOf p s).msgs = [] →
    ∃ t, exec (.fabPortEnable p false) s = .next t ∧ portState p t = pDown ∧ rd (FAB_PORT_CTRL.ENABLE p) t = 0 ∧
      rd (TM_PORT.UP (p + 2)) t = 0 ∧ (linkOf p t).keys = none ∧ (linkOf p t).unacked = []) ∧
  (∀ (p : Nat) (s : State), serving s = true → p < 16 → portState p s = pUp → otherRetrains p s = false →
    ∃ t, exec (.fabRetrain p) s = .next t ∧ portState p t = pDraining ∧ linkOf p t = { linkOf p s with drain := 1 }) ∧
  (∀ (p : Nat) (s : State), serving s = true → p < 16 → otherRetrains p s = true →
    exec (.fabRetrain p) s = .next (bump FAB_CMD_IGNORED.COUNT 1 s)) ∧
  (∀ (p : Nat) (s : State), serving s = true → p < 16 → portState p s = pUp →
    ∃ t, exec (.fabRetire p) s = .next t ∧ portState p t = pDraining ∧ linkOf p t = { linkOf p s with drain := 2 }) ∧
  (∀ (p : Nat) (s : State), serving s = true → p < 16 → portState p s = pRetired →
    ∃ t, exec (.fabReturn p) s = .next t ∧ portState p t = pTraining ∧ linkOf p t = freshLink) ∧
  (∀ (p lanes neighbour mv ui worst ms : Nat) (s : State), serving s = true → p < 16 → portState p s = pTraining → (lanes = 4 ∨ lanes = 8) →
    (linkOf p s).keys.isSome = true → neighbour < 4096 → mv < 256 → ui < 256 → worst < 8 →
    ∃ t, exec (.linkTrainingDone p true lanes neighbour mv ui worst ms) s = .next t ∧ portState p t = pUp ∧
      rd (FAB_PORT_STATUS.LANES p) t = lanes ∧ rd (FAB_PORT_STATUS.NEIGHBOUR p) t = neighbour ∧ rd (FAB_PORT_MARGIN.EYE_MV p) t = mv ∧
      rd (FAB_PORT_MARGIN.EYE_UI p) t = ui ∧ rd (FAB_PORT_MARGIN.WORST_LANE p) t = worst ∧ rd (TM_PORT.UP (p + 2)) t = 1 ∧
      rd (TM_PORT.RATE_MBPS (p + 2)) t = 24500 * lanes ∧ (linkOf p t).owed = vcSlots s ∧ (linkOf p t).keys = (linkOf p s).keys) ∧
  (∀ (p lanes neighbour mv ui worst ms : Nat) (s : State), serving s = true → p < 16 → portState p s = pTraining →
    ((linkOf p s).fails.filter fun x => decide (ms < x + 10000)).length < 2 →
    ∃ t, exec (.linkTrainingDone p false lanes neighbour mv ui worst ms) s = .next t ∧ portState p t = pDown ∧ (linkOf p t).retry = true) ∧
  (∀ (p lanes neighbour mv ui worst ms : Nat) (s : State), serving s = true → p < 16 → portState p s = pTraining →
    2 ≤ ((linkOf p s).fails.filter fun x => decide (ms < x + 10000)).length →
    ∃ t, exec (.linkTrainingDone p false lanes neighbour mv ui worst ms) s = .next t ∧ portState p t = pRetired ∧ (linkOf p t).retry = false) ∧
  (∀ (p : Nat) (s : State), serving s = true → p < 16 → portState p s = pDown → (linkOf p s).retry = true → isSet (FAB_PORT_CTRL.ENABLE p) s = true →
    ∃ t, exec (.trainingRetry p) s = .next t ∧ portState p t = pTraining ∧ (linkOf p t).retry = false) ∧
  (∀ (p : Nat) (s : State), serving s = true → p < 16 → portState p s = pDraining → (linkOf p s).unacked = [] → (linkOf p s).msgs = [] →
    ∃ t, exec (.portDrainDone p false) s = .next t ∧ portState p t = (if (linkOf p s).drain = 1 then pTraining else pRetired) ∧ (linkOf p t).keys = none) ∧
  (∀ (p : Nat) (s : State), serving s = true → p < 16 → portState p s = pUp → (linkOf p s).msgs = [] →
    ∃ t, exec (.linkDown p 2) s = .next t ∧ portState p t = pTraining ∧ (linkOf p t).keys = none ∧
      rd (FAB_PORT_ERR.LINK_DOWNS p) t = satAdd 16 (rd (FAB_PORT_ERR.LINK_DOWNS p) s) 1) ∧
  (∀ (p : Nat) (s : State), serving s = true → p < 16 → portState p s ≠ pDown → exec (.fabPortEnable p true) s = .next (wr (FAB_PORT_CTRL.ENABLE p) 1 s)) ∧
  (∀ (p : Nat) (s : State), serving s = true → p < 16 → portState p s ≠ pDown → portState p s ≠ pRetired →
    exec (.fabPortEnable p false) s = .next (((linkOf p s).msgs.map (·.unit)).foldl resend
      (setPort p pDown 0 (putLink p { freshLink with fails := (linkOf p s).fails } (wr (FAB_PORT_CTRL.ENABLE p) 0 s))))) ∧
  (∀ (p : Nat) (s : State), serving s = true → p < 16 → (portState p s = pDown ∨ portState p s = pRetired) →
    exec (.fabPortEnable p false) s = .next (putLink p { linkOf p s with retry := false } (wr (FAB_PORT_CTRL.ENABLE p) 0 s))) ∧
  (∀ (p : Nat) (s : State), serving s = true → p < 16 → otherRetrains p s = false → portState p s ≠ pUp → exec (.fabRetrain p) s = .next s) ∧
  (∀ (p : Nat) (s : State), serving s = true → portState p s ≠ pUp → exec (.fabRetire p) s = .next s) ∧
  (∀ (p : Nat) (s : State), serving s = true → portState p s ≠ pRetired → exec (.fabReturn p) s = .next s) ∧
  (∀ (p : Nat) (on late : Bool) (cause : Nat) (s : State), serving s = true → 16 ≤ p →
    exec (.fabPortEnable p on) s = .next s ∧ exec (.fabRetrain p) s = .next s ∧ exec (.fabRetire p) s = .next s ∧ exec (.fabReturn p) s = .next s ∧
      exec (.trainingRetry p) s = .next s ∧ exec (.portDrainDone p late) s = .next s ∧ exec (.linkDown p cause) s = .next s) ∧
  (∀ (p lanes neighbour mv ui worst ms : Nat) (ok : Bool) (s : State), serving s = true → (16 ≤ p ∨ portState p s ≠ pTraining) →
    exec (.linkTrainingDone p ok lanes neighbour mv ui worst ms) s = .next s) ∧
  (∀ (p lanes neighbour mv ui worst ms : Nat) (s : State), serving s = true → p < 16 → portState p s = pTraining →
    ((lanes ≠ 4 ∧ lanes ≠ 8) ∨ (linkOf p s).keys = none) →
    exec (.linkTrainingDone p true lanes neighbour mv ui worst ms) s =
      .next (wr (FAB_PORT_MARGIN.EYE_MV p) mv (wr (FAB_PORT_MARGIN.EYE_UI p) ui (wr (FAB_PORT_MARGIN.WORST_LANE p) worst s)))) ∧
  (∀ (p : Nat) (s : State), serving s = true → (portState p s ≠ pDown ∨ (linkOf p s).retry = false ∨ isSet (FAB_PORT_CTRL.ENABLE p) s = false) →
    exec (.trainingRetry p) s = .next s) ∧
  (∀ (p : Nat) (late : Bool) (s : State), serving s = true → p < 16 → portState p s = pDraining →
    (late = true ∨ ((linkOf p s).unacked = [] ∧ (linkOf p s).msgs = [])) →
    exec (.portDrainDone p late) s = .next (((linkOf p s).msgs.map (·.unit)).foldl resend
      (setPort p (if (linkOf p s).drain = 1 then pTraining else pRetired) 0
        (putLink p { freshLink with retrain := (linkOf p s).drain == 1, retry := (linkOf p s).retry, fails := (linkOf p s).fails } s)))) ∧
  (∀ (p : Nat) (late : Bool) (s : State), serving s = true →
    (portState p s ≠ pDraining ∨ (late = false ∧ ((linkOf p s).unacked ≠ [] ∨ (linkOf p s).msgs ≠ []))) → exec (.portDrainDone p late) s = .next s) ∧
  (∀ (p cause : Nat) (s : State), serving s = true → p < 16 → (portState p s = pUp ∨ portState p s = pDraining) →
    ((cause = 0 ∧ 8 ≤ (linkOf p s).naks) ∨ (cause = 1 ∧ (linkOf p s).unacked ≠ []) ∨ cause = 2) →
    exec (.linkDown p cause) s = .next (((linkOf p s).msgs.map (·.unit)).foldl resend
      (setPort p pTraining 0 (putLink p { freshLink with retry := (linkOf p s).retry, fails := (linkOf p s).fails }
        (bump (FAB_PORT_ERR.LINK_DOWNS p) 1 s))))) ∧
  (∀ (p cause : Nat) (s : State), serving s = true → ((portState p s ≠ pUp ∧ portState p s ≠ pDraining) ∨ (cause = 0 ∧ (linkOf p s).naks < 8) ∨
    (cause = 1 ∧ (linkOf p s).unacked = []) ∨ 2 < cause) → exec (.linkDown p cause) s = .next s)

/-- Sending, receiving and acknowledging frames, the link handshake, epochs and the traffic manager (R341, R350, R363, R364, R366, R367, R368,
R375, R510). On a port that is UP or DRAINING, FRAME_SEND first queues the hub's VC6 and VC7 messages, then sends a go-back's next frame,
else puts the next frame of the chosen channel on the wire with its sequence number and keeps it for retry (a message whose job key is
gone is dropped), else a link-only frame where one is owed; ACK_TIMER sends a link-only frame on an UP port that owes an acknowledgement
and can send no payload. FRAME_RECEIVE discards a frame of the wrong length or whose CRC fails and owes a NAK, applies a link-only frame's
acknowledgement and credits, NAKs one out of sequence once, and takes a payload frame in sequence into its message. A handshake that
verifies installs link keys; one that does not is counted, posts 0x001F and fails the training; a port not in training ignores both. An
epoch frame of the module's domain is forwarded once, within the hops, to the other UP ports; in time it joins the edge's frames, late it
is counted, and one of another domain is foreign. TM_UNIT_START queues what arrived, then starts the unit that the guaranteed pass picks
and charges its share credit, else the one of the excess pass, whose shapers pay, else none. TM_HWM_READ returns the marks and resets
those it returned; with IDE shut it is counted alone. -/
def Obligations.FabricFrames : Prop :=
  (∀ (p v : Nat) (m : LinkMsg) (f f' : LinkFrame) (rest : List LinkFrame) (s s' : State), serving s = true → p < 16 → (portState p s = pUp ∨ portState p s = pDraining) →
    (linkOf p s).resend = none → (linkOf p s).unacked.length < 512 → pickVc (linkOf p s) = some v → headMsg (linkOf p s) v = some m →
    m.left = f :: rest → stamp m.unit f s = some (f', s') →
    ∃ t, exec (.frameSend p []) s = .next t ∧ (linkOf p t).unacked = (linkOf p s).unacked ++ [f'] ∧
      (linkOf p t).txSeq = ((linkOf p s).txSeq + 1) % 1024 ∧
      (linkOf p t).credits = (linkOf p s).credits.set v ((linkOf p s).credits.getD v 0 - 1) ∧
      t.net.wire = (p, frameBytes (frameHdr f'.vc f'.colour f'.first f'.last f'.data.length ((((linkOf p s).txSeq + 1) % 1024 + 1023) % 1024)
        (ackOf (linkOf p s)) (linkOf p s).nakDue (creditReturn (linkOf p s)).1
        (creditReturn (linkOf p s)).2.1) f'.data) :: s.net.wire) ∧
  (∀ (p : Nat) (s : State), serving s = true → p < 16 → portState p s = pUp → pickVc (linkOf p s) = none → (linkOf p s).ackDue ≠ 0 →
    exec (.ackTimer p) s = .next (emit p 0 0 false false 0 [] (linkOf p s) s)) ∧
  (∀ (p auth : Nat) (bs : List Byte) (s : State), serving s = true → p < 16 → (portState p s = pUp ∨ portState p s = pDraining) → bs.length = 512 →
    crc32 (bs.take 508) ≠ field bs 508 4 →
    exec (.frameReceive p bs auth) s = .next (bump (FAB_PORT_ERR.CRC p) 1 (putLink p { linkOf p s with nakDue := true, gap := true } s))) ∧
  (∀ (p auth : Nat) (bs : List Byte) (s : State), serving s = true → p < 16 → (portState p s = pUp ∨ portState p s = pDraining) → bs.length = 512 →
    crc32 (bs.take 508) = field bs 508 4 → bitsOf (field bs 0 6) 40 32 = 0 →
    exec (.frameReceive p bs auth) s = .next (applyAck p (field bs 0 6) s)) ∧
  (∀ (p auth len vc : Nat) (bs : List Byte) (s u : State) (l : Link), serving s = true → p < 16 → (portState p s = pUp ∨ portState p s = pDraining) → bs.length = 512 →
    crc32 (bs.take 508) = field bs 508 4 → applyAck p (field bs 0 6) s = u → linkOf p u = l → bitsOf (field bs 0 6) 40 32 = len → 0 < len →
    len ≤ 502 → bitsOf (field bs 0 6) 31 22 = l.rxSeq → bitsOf (field bs 0 6) 47 45 = vc →
    exec (.frameReceive p bs auth) s =
      .next (reassemble p vc (bitsOf (field bs 0 6) 44 43) (bitOf (field bs 0 6) 42) (bitOf (field bs 0 6) 41) ((bs.drop 6).take len) auth
        (putLink p { l with rxSeq := (l.rxSeq + 1) % 1024, gap := false, ackDue := l.ackDue + 1, owed := l.owed.set vc (l.owed.getD vc 0 + 1) } u))) ∧
  (∀ (p ed ml blob ms : Nat) (s : State), serving s = true → p < 16 → portState p s = pTraining → isSet SEC_ID_STATUS.PUF_OK s = true →
    (isSet SEC_CFG.LINK_OPEN s = true ∨ trusted ed ml s = true) → ed ≠ Config.idEd →
    (ed ≤ Config.idEd → exec (.linkOffer p ed ml blob ms true) s =
      .next (putLink p { linkOf p s with keys := some (Config.kdf blob [0x4F, 0x43, 0x56, 0x4C, 0x4E, 0x4B]) } s)) ∧
    (Config.idEd ≤ ed → exec (.linkReply p ed ml blob ms true) s =
      .next (putLink p { linkOf p s with keys := some (Config.kdf blob [0x4F, 0x43, 0x56, 0x4C, 0x4E, 0x4B]) } s))) ∧
  (∀ (port src domain value rep hops time r : Nat) (s : State), serving s = true → domain = rd FAB_CFG.CADENCE_DOMAIN s →
    isSet SID_STATUS.PERIOD_VALID s = true → s.cad.lastReal = some r → 160 * (time - r) ≤ 512 * periodQ s →
    ∃ t, exec (.epochMsg port src domain value rep hops time) s = .next t ∧ t.cad.frames = s.cad.frames ++ [(src, value, time)]) ∧
  (∀ (port src domain value rep hops time : Nat) (s : State), serving s = true → domain = rd FAB_CFG.CADENCE_DOMAIN s → s.cad.lastReal = none →
    ∃ t, exec (.epochMsg port src domain value rep hops time) s = .next t ∧ t.cad = s.cad ∧
      rd SID_EPOCH_COUNTS.LATE t = satAdd 16 (rd SID_EPOCH_COUNTS.LATE s) 1) ∧
  (∀ (port src domain value rep hops time : Nat) (s : State), serving s = true → domain ≠ rd FAB_CFG.CADENCE_DOMAIN s →
    exec (.epochMsg port src domain value rep hops time) s = .next (bump FAB_EPOCH_FOREIGN.COUNT 1 s)) ∧
  (∀ (port chan time c : Nat) (u : TmUnit) (s v : State), serving s = true → port < 18 → isSet (TM_PORT.UP port) s = true →
    guaranteedClass port chan (leafHeads port chan s) s = some c → pickLeaf port c (leafHeads port chan s) s = some (u, v) →
    exec (.tmUnitStart port chan time []) s =
      .next (tmStart port time u
        { v with net.tmShare := sset v.net.tmShare (shareKey port chan c) (sgetD v.net.tmShare (shareKey port chan c) 0 - (u.bytes : Int)) })) ∧
  (∀ (port chan time : Nat) (arrivals : List TmUnit) (s : State), serving s = true → port < 18 → isSet (TM_PORT.UP port) s = false →
    (arrivals.all fun u => decide (u.cls ≤ 7) && decide (u.fn ≤ 255)) = true →
    exec (.tmUnitStart port chan time arrivals) s = .next (arrivals.foldl (tmEnqueue port) s)) ∧
  (∀ (port cls half : Nat) (s : State), live s = true → ideShut s = false → port ≤ 18 → cls ≤ 7 →
    ∃ t, exec (.tmHwmRead port cls half) s = .next t ∧
      t.net.readOut = (if half = 1 then rd (TM_HWM.DEPTH port cls) s else if half = 2 then rd (TM_HWM.DELAY_NS port cls) s
        else rd (TM_HWM.DEPTH port cls) s + rd (TM_HWM.DELAY_NS port cls) s * 2 ^ 32) ∧
      rd (TM_HWM.DEPTH port cls) t = (if half = 2 then rd (TM_HWM.DEPTH port cls) s else 0) ∧
      rd (TM_HWM.DELAY_NS port cls) t = (if half = 1 then rd (TM_HWM.DELAY_NS port cls) s else 0)) ∧
  (∀ (port cls half : Nat) (s : State), live s = true → ideShut s = false → (18 < port ∨ 7 < cls) → exec (.tmHwmRead port cls half) s = .next s) ∧
  (∀ (port cls half : Nat) (s : State), live s = true → ideShut s = true → exec (.tmHwmRead port cls half) s = .next (bump SEC_IDE_BLOCKED.COUNT 1 s)) ∧
  (∀ (p k : Nat) (f : LinkFrame) (s : State), serving s = true → p < 16 → (portState p s = pUp ∨ portState p s = pDraining) →
    (linkOf p s).resend = some k → (linkOf p s).unacked[k]? = some f →
    exec (.frameSend p []) s = .next (emit p f.vc f.colour f.first f.last (((linkOf p s).txSeq + 1024 - (linkOf p s).unacked.length + k) % 1024) f.data
      { linkOf p s with resend := if k + 1 < (linkOf p s).unacked.length then some (k + 1) else none } s)) ∧
  (∀ (p v : Nat) (m : LinkMsg) (f : LinkFrame) (rest : List LinkFrame) (s : State), serving s = true → p < 16 →
    (portState p s = pUp ∨ portState p s = pDraining) → (linkOf p s).resend = none → (linkOf p s).unacked.length < 512 →
    pickVc (linkOf p s) = some v → headMsg (linkOf p s) v = some m → m.left = f :: rest → stamp m.unit f s = none →
    exec (.frameSend p []) s = .next (putLink p { linkOf p s with msgs := (linkOf p s).msgs.filter (·.num != m.num) } s)) ∧
  (∀ (p : Nat) (s : State), serving s = true → p < 16 → (portState p s = pUp ∨ portState p s = pDraining) → (linkOf p s).resend = none →
    (512 ≤ (linkOf p s).unacked.length ∨ pickVc (linkOf p s) = none) →
    exec (.frameSend p []) s = .next (if (linkOf p s).ackDue ≠ 0 ∨ (linkOf p s).nakDue = true ∨ (linkOf p s).owed.any (· != 0) = true
      then emit p 0 0 false false 0 [] (linkOf p s) s else s)) ∧
  (∀ (p : Nat) (mgmt : List TmUnit) (s u : State), serving s = true → p < 16 → (portState p s = pUp ∨ portState p s = pDraining) →
    (mgmt.filter fun x => x.vc == 6 || x.vc == 7).foldl (fun s x => linkQueue p x s) s = u →
    exec (.frameSend p mgmt) s = .next (frameSend p [] u)) ∧
  (∀ (p auth : Nat) (mgmt : List TmUnit) (bs : List Byte) (s : State), serving s = true → (16 ≤ p ∨ (portState p s ≠ pUp ∧ portState p s ≠ pDraining)) →
    exec (.frameSend p mgmt) s = .next s ∧ exec (.frameReceive p bs auth) s = .next s ∧ exec (.ackTimer p) s = .next s) ∧
  (∀ (p : Nat) (s : State), serving s = true → p < 16 → portState p s = pUp → pickVc (linkOf p s) = none → (linkOf p s).nakDue = true →
    exec (.ackTimer p) s = .next (emit p 0 0 false false 0 [] (linkOf p s) s)) ∧
  (∀ (p : Nat) (s : State), serving s = true → (portState p s = pDraining ∨ (pickVc (linkOf p s)).isSome = true ∨
    ((linkOf p s).ackDue = 0 ∧ (linkOf p s).nakDue = false)) → exec (.ackTimer p) s = .next s) ∧
  (∀ (p auth : Nat) (bs : List Byte) (s : State), serving s = true → p < 16 → (portState p s = pUp ∨ portState p s = pDraining) → bs.length ≠ 512 →
    exec (.frameReceive p bs auth) s = .next (bump (FAB_PORT_ERR.CRC p) 1 (putLink p { linkOf p s with nakDue := true, gap := true } s))) ∧
  (∀ (p auth : Nat) (bs : List Byte) (s u : State) (l : Link), serving s = true → p < 16 → (portState p s = pUp ∨ portState p s = pDraining) → bs.length = 512 →
    crc32 (bs.take 508) = field bs 508 4 → applyAck p (field bs 0 6) s = u → linkOf p u = l → bitsOf (field bs 0 6) 40 32 ≠ 0 →
    (bitsOf (field bs 0 6) 31 22 ≠ l.rxSeq ∨ 502 < bitsOf (field bs 0 6) 40 32) →
    exec (.frameReceive p bs auth) s = .next (putLink p { l with nakDue := l.nakDue || !l.gap, gap := true } u)) ∧
  (∀ (p ed ml blob ms : Nat) (ok : Bool) (s : State), serving s = true → (16 ≤ p ∨ portState p s ≠ pTraining) →
    exec (.linkOffer p ed ml blob ms ok) s = .next s ∧ exec (.linkReply p ed ml blob ms ok) s = .next s) ∧
  (∀ (p ed ml blob ms : Nat) (ok : Bool) (s u : State), serving s = true → p < 16 → portState p s = pTraining →
    trainFail p ms (postPf 0x001F 0x16 sAuthFail p (ed % 2 ^ 64) (bump SEC_LINK_FAILS.COUNT 1 s)) = u →
    ((isSet SEC_ID_STATUS.PUF_OK s = false ∨ ok = false ∨ Config.idEd ≤ ed ∨ (isSet SEC_CFG.LINK_OPEN s = false ∧ trusted ed ml s = false)) →
      exec (.linkOffer p ed ml blob ms ok) s = .next u) ∧
    ((isSet SEC_ID_STATUS.PUF_OK s = false ∨ ok = false ∨ ed ≤ Config.idEd ∨ (isSet SEC_CFG.LINK_OPEN s = false ∧ trusted ed ml s = false)) →
      exec (.linkReply p ed ml blob ms ok) s = .next u)) ∧
  (∀ (port src domain value rep hops time : Nat) (s u : State), serving s = true → domain = rd FAB_CFG.CADENCE_DOMAIN s →
    (if s.net.epochSeen.contains (src, value) = true ∨ rd FAB_CFG.EPOCH_HOPS s ≤ hops ∨ rd DIR_SELF.STATE s < 2 then s
      else ((List.range 16).filter fun q => q != port && portState q s == pUp).foldl
        (fun s q => sendMsg 0x01 0xFFF [src, domain, value, rep, hops + 1, q] [] s) s) = u →
    ∃ t, exec (.epochMsg port src domain value rep hops time) s = .next t ∧ t.fabOut = u.fabOut ∧
      t.net.epochSeen = ((src, value) :: s.net.epochSeen.filter (· != (src, value))).take 4096) ∧
  (∀ (port src domain value rep hops time r : Nat) (s : State), serving s = true → domain = rd FAB_CFG.CADENCE_DOMAIN s → s.cad.lastReal = some r →
    (isSet SID_STATUS.PERIOD_VALID s = false ∨ 512 * periodQ s < 160 * (time - r)) →
    ∃ t, exec (.epochMsg port src domain value rep hops time) s = .next t ∧ t.cad = s.cad ∧
      rd SID_EPOCH_COUNTS.LATE t = satAdd 16 (rd SID_EPOCH_COUNTS.LATE s) 1) ∧
  (∀ (port chan time c : Nat) (arrivals : List TmUnit) (x : TmUnit) (s u v : State), serving s = true → port ≤ 18 → (port = 18 → chan < 96) →
    (arrivals.all fun x => decide (x.cls ≤ 7) && decide (x.fn ≤ 255)) = true → arrivals.foldl (tmEnqueue port) s = u →
    (if port = 18 then deepServing u != 0 && deepOnline chan u else isSet (TM_PORT.UP port) u) = true →
    guaranteedClass port chan (leafHeads port chan u) u = some c → pickLeaf port c (leafHeads port chan u) u = some (x, v) →
    exec (.tmUnitStart port chan time arrivals) s =
      .next (tmStart port time x
        { v with net.tmShare := sset v.net.tmShare (shareKey port chan c) (sgetD v.net.tmShare (shareKey port chan c) 0 - (x.bytes : Int)) })) ∧
  (∀ (port chan time c : Nat) (arrivals : List TmUnit) (x : TmUnit) (s u v w : State), serving s = true → port ≤ 18 → (port = 18 → chan < 96) →
    (arrivals.all fun x => decide (x.cls ≤ 7) && decide (x.fn ≤ 255)) = true → arrivals.foldl (tmEnqueue port) s = u →
    (if port = 18 then deepServing u != 0 && deepOnline chan u else isSet (TM_PORT.UP port) u) = true →
    guaranteedClass port chan (leafHeads port chan u) u = none → excessClass port (leafHeads port chan u) u = some (c, v) →
    pickLeaf port c (leafHeads port chan u) v = some (x, w) →
    exec (.tmUnitStart port chan time arrivals) s =
      .next (tmStart port time x (shaperTake (portShaper port) x.bytes (shaperTake (classShaper port c) x.bytes w)))) ∧
  (∀ (port chan time : Nat) (arrivals : List TmUnit) (s u : State), serving s = true → port ≤ 18 → (port = 18 → chan < 96) →
    (arrivals.all fun x => decide (x.cls ≤ 7) && decide (x.fn ≤ 255)) = true → arrivals.foldl (tmEnqueue port) s = u →
    ((if port = 18 then deepServing u != 0 && deepOnline chan u else isSet (TM_PORT.UP port) u) = false ∨
      (guaranteedClass port chan (leafHeads port chan u) u = none ∧ excessClass port (leafHeads port chan u) u = none) ∨
      (∃ c, guaranteedClass port chan (leafHeads port chan u) u = some c ∧ pickLeaf port c (leafHeads port chan u) u = none) ∨
      (∃ c v, guaranteedClass port chan (leafHeads port chan u) u = none ∧ excessClass port (leafHeads port chan u) u = some (c, v) ∧
        pickLeaf port c (leafHeads port chan u) v = none)) →
    exec (.tmUnitStart port chan time arrivals) s = .next u) ∧
  (∀ (port chan time : Nat) (arrivals : List TmUnit) (s : State), serving s = true →
    (18 < port ∨ (port = 18 ∧ 96 ≤ chan) ∨ (arrivals.any fun x => decide (7 < x.cls) || decide (255 < x.fn)) = true) →
    exec (.tmUnitStart port chan time arrivals) s = .next s)

/-- How a module joins, follows, proposes and leaves a view, and how a shard's leader comes and goes (R376, R377, R378, R379, R382). A
heartbeat or a view message of the view marks its sender heard, one of another view sets FOREIGN_VIEW; an ISOLATED module that hears a
majority of the stewards is a member again. A newer committed view that removes nobody makes its members, number and VIEW_ID the module's;
one without the module takes it out; a joining module takes any. A steward accepts a proposal it agrees with, and one with enough
acceptances is committed. Join and leave requests reach a steward, which proposes them if lowest; a member that asks to join is refused,
and a refused module is OUT again. The lowest live steward that misses a member proposes the view without it, and the next repeats a
proposal that lapsed. A member that hears no majority of the stewards becomes ISOLATED: it steps down from its shards and its waiting
lookups end. JOIN, STANDALONE and LEAVE change STATE as R378 has it, and do nothing in other states. A leader renews its lease when due
and loses the shard when it runs out; a replica with no live one ahead, or to which those have yielded, stands after the guard, and
becomes leader where it is its own majority; a candidate gives up after 8 edges. Each does nothing where its condition does not hold. -/
def Obligations.Membership : Prop :=
  (∀ (src : Nat) (s : State), serving s = true → rd DIR_SELF.STATE s = 2 →
    exec (.heartbeatMsg src s.net.viewId) s = .next { s with net.heard := sset s.net.heard src s.cad.edges }) ∧
  (∀ (src v : Nat) (s : State), serving s = true → 2 ≤ rd DIR_SELF.STATE s → v ≠ s.net.viewId →
    exec (.heartbeatMsg src v) s = .next (wr DIR_VIEW.FOREIGN_VIEW 1 s)) ∧
  (∀ (src number : Nat) (ms : List Nat) (s : State), serving s = true → rd DIR_SELF.STATE s = 2 → rd DIR_VIEW.VIEW s < number → number < 2 ^ 32 →
    ms.length < 4096 → ms.contains (rd DIR_SELF.MODULE_ID s) = true → (s.net.members.all fun m => ms.contains m) = true → s.net.dirPend = [] →
    ∃ t, exec (.viewMsg src s.net.viewId number .commit ms) s = .next t ∧ t.net.members = ms ∧ t.net.viewId = s.net.viewId ∧
      rd DIR_VIEW.VIEW t = number ∧ rd DIR_VIEW.MEMBERS t = ms.length ∧ rd DIR_SELF.STATE t = 2) ∧
  (∀ (src v number : Nat) (ms : List Nat) (s : State), serving s = true → rd DIR_SELF.STATE s = 2 → v ≠ s.net.viewId →
    exec (.viewMsg src v number .commit ms) s = .next (wr DIR_VIEW.FOREIGN_VIEW 1 s)) ∧
  (∀ (s : State), serving s = true → (s.net.members.any fun m => !liveMember m s) = true → mayPropose s = true →
    (liveStewards s).head? = some (selfId s) → 1 < majority (stewards s.net.members).length →
    ∃ t, exec .memberSuspect s = .next t ∧ t.net.proposal =
      some { members := wantedView s, number := rd DIR_VIEW.VIEW s + 1, proposer := selfId s, accepts := [selfId s], edge := s.cad.edges }) ∧
  (∀ (e who : Nat) (s : State), serving s = true → s.net.lastProp = some (e, who) → e + 4 ≤ s.cad.edges →
    mayPropose { s with net.proposal := none } = true → ((liveStewards s).find? fun m => decide (who < m)) = some (selfId s) →
    1 < majority (stewards s.net.members).length →
    ∃ t, exec .viewProposalRetry s = .next t ∧ t.net.proposal =
      some { members := wantedView s, number := rd DIR_VIEW.VIEW s + 1, proposer := selfId s, accepts := [selfId s], edge := s.cad.edges }) ∧
  (∀ (s : State), serving s = true → rd DIR_SELF.STATE s = 2 →
    stewardsHeard (s.cad.edges + 1 - rd DIR_TIMING.ISOLATE_TICKS s) s < majority (stewards s.net.members).length → s.net.shards = [] →
    s.net.dirWait = [] → ∃ t, exec .isolation s = .next t ∧ rd DIR_SELF.STATE t = 3 ∧ t.net.isoEdge = s.cad.edges + 1) ∧
  (∀ (s : State), serving s = true → rd DIR_SELF.STATE s = 0 → rd DIR_SELF.MODULE_ID s ≠ 0xFFF →
    ∃ t, exec .joinView s = .next t ∧ rd DIR_SELF.STATE t = 1) ∧
  (∀ (s : State), serving s = true → rd DIR_SELF.STATE s = 0 → rd DIR_SELF.MODULE_ID s ≠ 0xFFF → s.net.members = [] → s.net.wasRemoved = false →
    s.net.dirPend = [] →
    ∃ t, exec .standalone s = .next t ∧ t.net.members = [rd DIR_SELF.MODULE_ID s] ∧ rd DIR_SELF.STATE t = 2 ∧ rd DIR_VIEW.VIEW t = 1 ∧
      rd DIR_VIEW.MEMBERS t = 1 ∧ rd SES_CTRL.MODULE_ID t = rd DIR_SELF.MODULE_ID s % 2 ^ 12) ∧
  (∀ (s : State), serving s = true → rd DIR_SELF.STATE s = 2 → s.net.members = [selfId s] → exec .leaveView s = .next (leaveView s)) ∧
  (∀ (s : State), serving s = true → rd DIR_SELF.STATE s = 2 → s.net.members ≠ [selfId s] →
    ∃ t, exec .leaveView s = .next t ∧ rd DIR_SELF.STATE t = 4) ∧
  (∀ (k : Nat) (s : State), serving s = true → leads k s = true → (shardState k s).sent = none →
    ∃ t, exec (.leaseRenew k) s = .next t ∧ (shardState k t).sent = some (s.cad.edges, [selfId s])) ∧
  (∀ (k : Nat) (s : State), serving s = true → k < 4096 → rd (DIR_SHARD.ROLE k) s = 2 →
    (shardState k s).lease + rd DIR_TIMING.LEASE_TICKS s ≤ s.cad.edges → s.net.dirPend = [] →
    ∃ t, exec (.leaseExpire k) s = .next t ∧ rd (DIR_SHARD.ROLE k) t = 1) ∧
  (∀ (k : Nat) (s : State), serving s = true → k < 4096 → rd DIR_SELF.STATE s = 2 → rd (DIR_SHARD.ROLE k) s = 1 →
    (reps k s).contains (selfId s) = true → (shardState k s).cand = none →
    (shardState k s).renewed + rd DIR_TIMING.LEASE_TICKS s + rd DIR_TIMING.GUARD_TICKS s ≤ s.cad.edges →
    ((shardState k s).yielded = true ∨ (((reps k s).takeWhile (· != selfId s)).all fun m => !liveMember m s) = true) →
    ∃ t, exec (.leaderElection k) s = .next t ∧ (shardState k t).term = max (shardState k s).term (shardState k s).voted + 1 ∧
      (if majority (reps k s).length ≤ 1 then rd (DIR_SHARD.ROLE k) t = 2 else (shardState k t).cand = some (s.cad.edges, [selfId s]))) ∧
  (∀ (k e : Nat) (vs : List Nat) (s : State), serving s = true → (shardState k s).cand = some (e, vs) → e + 8 ≤ s.cad.edges →
    ∃ t, exec (.candidateYield k) s = .next t ∧ (shardState k t).cand = none ∧ (shardState k t).renewed = s.cad.edges) ∧
  (∀ (src v : Nat) (s : State), serving s = true → rd DIR_SELF.STATE s ≤ 1 → exec (.heartbeatMsg src v) s = .next s) ∧
  (∀ (src : Nat) (s u : State), serving s = true → 3 ≤ rd DIR_SELF.STATE s → { s with net.heard := sset s.net.heard src s.cad.edges } = u →
    exec (.heartbeatMsg src s.net.viewId) s =
      .next (if rd DIR_SELF.STATE s = 3 ∧ majority (stewards s.net.members).length ≤ stewardsHeard s.net.isoEdge u
        then event000E 2 sOk (wr DIR_SELF.STATE 2 u) else u)) ∧
  (∀ (src v number : Nat) (kind : ViewKind) (ms : List Nat) (s : State), serving s = true → 2 ≤ rd DIR_SELF.STATE s → kind ≠ .join → kind ≠ .refuse →
    v ≠ s.net.viewId → exec (.viewMsg src v number kind ms) s = .next (wr DIR_VIEW.FOREIGN_VIEW 1 s)) ∧
  (∀ (src number : Nat) (ms : List Nat) (s u : State), serving s = true → (rd DIR_SELF.STATE s = 2 ∨ rd DIR_SELF.STATE s = 4) →
    { s with net.heard := sset s.net.heard src s.cad.edges, net.lastProp := some (s.cad.edges, src) } = u →
    exec (.viewMsg src s.net.viewId number .propose ms) s =
      .next (if accepts ms u = true ∧ rd DIR_VIEW.VIEW s < number then sendMsg 0x03 src ([s.net.viewId, number, 1] ++ ms) [] u else u)) ∧
  (∀ (src number : Nat) (ms : List Nat) (p : Proposal) (s u : State), serving s = true → { s with net.heard := sset s.net.heard src s.cad.edges } = u →
    s.net.proposal = some p → exec (.viewMsg src s.net.viewId number .accept ms) s =
      .next (if p.number = number ∧ p.members = ms ∧ p.accepts.contains src = false
        then tryCommit { u with net.proposal := some { p with accepts := src :: p.accepts } } else u)) ∧
  (∀ (src number : Nat) (ms : List Nat) (s u : State), serving s = true → { s with net.heard := sset s.net.heard src s.cad.edges } = u →
    (s.net.proposal = none → exec (.viewMsg src s.net.viewId number .accept ms) s = .next u) ∧
    (number ≤ rd DIR_VIEW.VIEW s → rd DIR_SELF.STATE s ≠ 1 → exec (.viewMsg src s.net.viewId number .commit ms) s = .next u)) ∧
  (∀ (src number : Nat) (ms : List Nat) (s : State), serving s = true → (rd DIR_SELF.STATE s = 2 ∨ rd DIR_SELF.STATE s = 3) → rd DIR_VIEW.VIEW s < number →
    ms.contains (rd DIR_SELF.MODULE_ID s) = false →
    exec (.viewMsg src s.net.viewId number .commit ms) s =
      .next (leaveView { s with net.heard := sset s.net.heard src s.cad.edges, net.wasRemoved := true })) ∧
  (∀ (src v number : Nat) (ms : List Nat) (s : State), serving s = true → rd DIR_SELF.STATE s = 1 →
    exec (.viewMsg src v number .commit ms) s = .next (applyView v number ms { s with net.heard := sset s.net.heard src s.cad.edges }) ∧
    exec (.viewMsg src v number .refuse ms) s =
      .next (event000E 0 sRejected (wr DIR_SELF.STATE 0 { s with net.heard := sset s.net.heard src s.cad.edges }))) ∧
  (∀ (src v number : Nat) (ms : List Nat) (s u : State), serving s = true → rd DIR_SELF.STATE s = 2 →
    { s with net.heard := sset s.net.heard src s.cad.edges } = u →
    exec (.viewMsg src v number .join ms) s =
      .next (if isSteward s = false then (stewards s.net.members).foldl (fun s m => sendMsg 0x03 m ([s.net.viewId, number, 3, src]) [] s) u
        else if s.net.members.contains src = true then sendMsg 0x03 src [s.net.viewId, 0, 5] [] u
        else proposeIfLowest { u with net.joiners := (src :: s.net.joiners).eraseDups })) ∧
  (∀ (src number : Nat) (ms : List Nat) (s u : State), serving s = true → rd DIR_SELF.STATE s = 2 →
    { s with net.heard := sset s.net.heard src s.cad.edges } = u →
    exec (.viewMsg src s.net.viewId number .leave ms) s =
      .next (if s.net.members.contains src = false then u
        else if isSteward s = true then proposeIfLowest { u with net.leavers := (src :: s.net.leavers).eraseDups }
        else (stewards s.net.members).foldl (fun s m => sendMsg 0x03 m ([s.net.viewId, number, 4, src]) [] s) u)) ∧
  (∀ (src v number : Nat) (ms : List Nat) (s u : State), serving s = true → { s with net.heard := sset s.net.heard src s.cad.edges } = u →
    (rd DIR_SELF.STATE s ≠ 2 → exec (.viewMsg src v number .join ms) s = .next u ∧ exec (.viewMsg src s.net.viewId number .leave ms) s = .next u) ∧
    (rd DIR_SELF.STATE s ≠ 1 → exec (.viewMsg src v number .refuse ms) s = .next u)) ∧
  (∀ (s : State), serving s = true →
    ((s.net.members.any fun m => !liveMember m s) = false ∨ mayPropose s = false ∨ (liveStewards s).head? ≠ some (selfId s)) →
    exec .memberSuspect s = .next s) ∧
  (∀ (s : State), serving s = true → (s.net.members.any fun m => !liveMember m s) = true → mayPropose s = true →
    (liveStewards s).head? = some (selfId s) → exec .memberSuspect s = .next (propose s)) ∧
  (∀ (s : State), serving s = true → (s.net.lastProp = none ∨ mayPropose { s with net.proposal := none } = false) → exec .viewProposalRetry s = .next s) ∧
  (∀ (e who : Nat) (s : State), serving s = true → s.net.lastProp = some (e, who) →
    exec .viewProposalRetry s = .next (if e + 4 ≤ s.cad.edges ∧ mayPropose { s with net.proposal := none } = true ∧
      ((liveStewards s).find? fun m => decide (who < m)).getD ((liveStewards s).head?.getD 0xFFF) = selfId s
      then propose { s with net.proposal := none } else s)) ∧
  (∀ (s u v : State), serving s = true → rd DIR_SELF.STATE s = 2 →
    stewardsHeard (s.cad.edges + 1 - rd DIR_TIMING.ISOLATE_TICKS s) s < majority (stewards s.net.members).length →
    ((s.net.shards.map (·.1)).filter fun k => rd (DIR_SHARD.ROLE k) s == 2).foldl (fun s k => stepDown k s) s = u →
    event000E 3 sTimeout (wr DIR_SELF.STATE 3 { u with net.isoEdge := u.cad.edges + 1, net.proposal := none }) = v →
    exec .isolation s = .next ((v.net.dirWait.filter fun w => match w.use with
      | .hint _ _ => true
      | _ => false).foldl (fun s w => dirAnswer w.id sTimeout [] (bump DIR_LOOKUP_TIMEOUTS.COUNT 1 s)) v)) ∧
  (∀ (s : State), serving s = true →
    (rd DIR_SELF.STATE s ≠ 2 ∨ majority (stewards s.net.members).length ≤ stewardsHeard (s.cad.edges + 1 - rd DIR_TIMING.ISOLATE_TICKS s) s) →
    exec .isolation s = .next s) ∧
  (∀ (s : State), serving s = true → (rd DIR_SELF.STATE s ≠ 0 ∨ rd DIR_SELF.MODULE_ID s = 0xFFF) →
    exec .joinView s = .next s ∧ exec .standalone s = .next s) ∧
  (∀ (s : State), serving s = true → rd DIR_SELF.STATE s = 0 → rd DIR_SELF.MODULE_ID s ≠ 0xFFF →
    exec .standalone s = .next (applyView (Config.random s.fresh % 2 ^ 64) 1 [rd DIR_SELF.MODULE_ID s] (wr DIR_SELF.STATE 1 { s with fresh := s.fresh + 1 }))) ∧
  (∀ (s : State), serving s = true → rd DIR_SELF.STATE s ≠ 2 → exec .leaveView s = .next s) ∧
  (∀ (k : Nat) (s u : State), serving s = true → leads k s = true →
    (match (shardState k s).sent with
      | none => true
      | some (e, _) => decide (e + rd DIR_TIMING.RENEW_TICKS s ≤ s.cad.edges)) = true →
    ((reps k s).filter (· != selfId s)).foldl (fun s m => sendMsg 0x06 m [k, (shardState k s).term, 2, s.cad.edges] [] s) s = u →
    exec (.leaseRenew k) s = .next (noteRenewal k u.cad.edges [selfId u] u)) ∧
  (∀ (k : Nat) (s : State), serving s = true →
    (leads k s = false ∨ ∃ e w, (shardState k s).sent = some (e, w) ∧ s.cad.edges < e + rd DIR_TIMING.RENEW_TICKS s) → exec (.leaseRenew k) s = .next s) ∧
  (∀ (k : Nat) (s : State), serving s = true →
    exec (.leaseExpire k) s = .next (if rd (DIR_SHARD.ROLE k) s = 2 ∧ (shardState k s).lease + rd DIR_TIMING.LEASE_TICKS s ≤ s.cad.edges
      then stepDown k s else s)) ∧
  (∀ (k : Nat) (s : State), serving s = true → (rd DIR_SELF.STATE s ≠ 2 ∨ rd (DIR_SHARD.ROLE k) s ≠ 1 ∨ (reps k s).contains (selfId s) = false ∨
    (shardState k s).cand ≠ none ∨ s.cad.edges < (shardState k s).renewed + rd DIR_TIMING.LEASE_TICKS s + rd DIR_TIMING.GUARD_TICKS s ∨
    ((shardState k s).yielded = false ∧ (((reps k s).takeWhile (· != selfId s)).any fun m => liveMember m s) = true)) →
    exec (.leaderElection k) s = .next s) ∧
  (∀ (k : Nat) (s : State), serving s = true → ((shardState k s).cand = none ∨ ∃ e vs, (shardState k s).cand = some (e, vs) ∧ s.cad.edges < e + 8) →
    exec (.candidateYield k) s = .next s)

/-- What a directory request, its answer and its replication change (R380, R382, R383, R384, R386). The leader of a shard answers a lookup
from its store and counts it; a PUT that it may take and that is its own majority is committed with the next VERSION; a PUT_IF of another
VERSION and a SWITCH of an abandoned tag are refused and counted, and a full store answers CAPACITY; an ABANDON is refused once its tag is
committed; a follower sends the request on, and without a leader nothing is done. An answer ends what waits for it: a command completes
with NOT_FOUND and the holder as hint (none without an entry), an adoption is reported, a reconciliation makes its copy a tombstone, an
abandonment is settled; a tag in it answers a switch. Without an answer in LOOKUP_WAIT edges a command or a reconciliation goes on without
one. A replica that gets a log entry of a term not older carries it out under its leader, and ignores older terms; acknowledgements
advance commits; a renewal of a term not older is taken and acknowledged; a vote is given once a term; a vote of a majority makes the
candidate leader; a yielding is noted; a joining replica takes the shard's entries. A SESSION entry past its EXPIRE_TICK is removed, any
other kept. -/
def Obligations.DirectoryRequests : Prop :=
  (∀ (src id : Nat) (e : DirEntry) (rest : List DirEntry) (s u : State), serving s = true → leads (entryShard e) s = true →
    bump DIR_LOOKUPS.COUNT 1 s = u →
    exec (.dirReq src id .lookup (e :: rest)) s =
      .next (dirReply src id sOk none ((findEntry e.type e.keyA e.keyB u).map (chase u 3)).toList u)) ∧
  (∀ (src id : Nat) (e : DirEntry) (s : State), serving s = true → leads (entryShard e) s = true → src ≠ selfId s →
    (replicasOf (entryShard e) s.net.members).length ≤ 1 → s.net.dirPend = [] → s.net.dirEnts.length < rd DIR_STORE.CAPACITY s →
    ∃ t e', exec (.dirReq src id .put [e]) s = .next t ∧ findEntry e.type e.keyA e.keyB t = some e' ∧ e'.holder = e.holder ∧ e'.value = e.value ∧
      e'.version = (((s.net.dirEnts.find? (sameKey e)).map (·.version)).getD 0 + 1) % 2 ^ 32 ∧
      rd DIR_COMMITS.COUNT t = satAdd 48 (rd DIR_COMMITS.COUNT s) 1) ∧
  (∀ (src id v : Nat) (e : DirEntry) (s : State), serving s = true → leads (entryShard e) s = true →
    ((s.net.dirEnts.find? (sameKey e)).map (·.version)).getD 0 ≠ v →
    exec (.dirReq src id (.putIf v) [e]) s = .next (dirReply src id sRejected none [] (bump DIR_REFUSED.COUNT 1 s))) ∧
  (∀ (src id : Nat) (e : DirEntry) (s : State), serving s = true → leads (entryShard e) s = false → rd DIR_SELF.STATE s = 2 →
    rd (DIR_SHARD.ROLE (entryShard e)) s = 1 → (shardState (entryShard e) s).leader ≠ 0xFFF → (shardState (entryShard e) s).leader ≠ selfId s →
    exec (.dirReq src id .lookup [e]) s =
      .next (sendMsg 0x04 (shardState (entryShard e) s).leader [id, e.type, e.keyA, e.keyB, e.value, 0, src] [] s)) ∧
  (∀ (src id status : Nat) (h : Hdr) (op : Nat) (w : DirWait) (e : DirEntry) (s : State), serving s = true → src ≠ selfId s →
    s.net.dirWait.find? (·.id == id) = some w → w.use = .hint h op →
    exec (.dirResp src id status none [e]) s =
      .next (complete h op sNotFound (e.holder * 2 ^ 52) 0 0 (cacheHolder w.key e.holder { s with net.dirWait := s.net.dirWait.filter (·.id != id) }))) ∧
  (∀ (id op : Nat) (h : Hdr) (w : DirWait) (s : State), serving s = true →
    (s.net.dirWait.find? fun w => w.id == id && decide (w.limit ≤ s.cad.edges)) = some w → w.use = .hint h op →
    exec (.dirLookupTimeout id) s = .next (dirAnswer id sTimeout [] (bump DIR_LOOKUP_TIMEOUTS.COUNT 1 s))) ∧
  (∀ (src k term i : Nat) (es : List DirEntry) (s : State), serving s = true → k < 4096 → rd DIR_SELF.STATE s = 2 → rd (DIR_SHARD.ROLE k) s = 1 →
    (shardState k s).term ≤ term →
    ∃ t, exec (.dirRepl src k term (.append i .put es)) s = .next t ∧ t.net.dirEnts = (es.foldl storePut s).net.dirEnts ∧
      shardState k t = { shardState k s with term := term, len := max (shardState k s).len i, renewed := s.cad.edges, leader := src } ∧
      (t.fabOut.head?.map fun m => (m.type, m.dst, m.args)) = some (0x06, src, [k, term, 1, i])) ∧
  (∀ (src k e : Nat) (vs : List Nat) (s : State), serving s = true → k < 4096 → rd DIR_SELF.STATE s = 2 → rd (DIR_SHARD.ROLE k) s = 1 →
    (shardState k s).cand = some (e, vs) → vs.contains src = false → majority (reps k s).length ≤ vs.length + 1 →
    ∃ t, exec (.dirRepl src k (shardState k s).term .vote) s = .next t ∧ rd (DIR_SHARD.ROLE k) t = 2 ∧ (shardState k t).lease = e ∧
      (shardState k t).leader = selfId s ∧ (shardState k t).cand = none) ∧
  (∀ (keyA : Nat) (e : DirEntry) (s : State), serving s = true → findEntry 1 keyA 0 s = some e → e.expire < now s →
    exec (.dirEntryExpire keyA) s = .next (storeDel 1 keyA 0 { s with dirKnown := sdel s.dirKnown keyA })) ∧
  (∀ (src id v g : Nat) (e : DirEntry) (es : List DirEntry) (s : State), serving s = true → leads (entryShard e) s = true →
    exec (.dirReq src id .put (e :: es)) s = .next (leaderCommit (entryShard e) src id .put (e :: es) s) ∧
    exec (.dirReq src id (.putIf v) (e :: es)) s = .next (leaderCommit (entryShard e) src id (.putIf v) (e :: es) s) ∧
    exec (.dirReq src id .delete (e :: es)) s = .next (leaderCommit (entryShard e) src id .delete (e :: es) s) ∧
    exec (.dirReq src id (.switch g) (e :: es)) s = .next (leaderCommit (entryShard e) src id (.switch g) (e :: es) s)) ∧
  (∀ (src id g : Nat) (e : DirEntry) (es : List DirEntry) (s : State), serving s = true → leads (entryShard e) s = true → s.net.deadTags.contains g = true →
    exec (.dirReq src id (.switch g) (e :: es)) s = .next (dirReply src id sRejected (some g) [] (bump DIR_REFUSED.COUNT 1 s))) ∧
  (∀ (src id : Nat) (e : DirEntry) (s : State), serving s = true → leads (entryShard e) s = true → s.net.dirEnts.any (sameKey e) = false →
    rd DIR_STORE.CAPACITY s ≤ s.net.dirEnts.length → exec (.dirReq src id .put [e]) s = .next (dirReply src id sCapacity none [] s)) ∧
  (∀ (src id g : Nat) (e : DirEntry) (es : List DirEntry) (s : State), serving s = true → leads (entryShard e) s = true →
    exec (.dirReq src id (.abandon g) (e :: es)) s = .next (if s.net.doneTags.contains g = true then dirReply src id sRejected none [] s
      else dirReply src id sOk none [] { s with net.deadTags := if s.net.deadTags.contains g then s.net.deadTags else g :: s.net.deadTags })) ∧
  (∀ (src id : Nat) (op : DirOp) (e : DirEntry) (es : List DirEntry) (s : State), serving s = true → leads (entryShard e) s = false →
    exec (.dirReq src id op (e :: es)) s = .next (if rd DIR_SELF.STATE s = 2 ∧ rd (DIR_SHARD.ROLE (entryShard e)) s = 1 ∧
        (shardState (entryShard e) s).leader ≠ 0xFFF ∧ (shardState (entryShard e) s).leader ≠ selfId s
      then sendMsg 0x04 (shardState (entryShard e) s).leader ([id, e.type, e.keyA, e.keyB, e.value] ++ opArgs op ++ [src]) [] s else s)) ∧
  (∀ (src id : Nat) (op : DirOp) (s : State), serving s = true → exec (.dirReq src id op []) s = .next s) ∧
  (∀ (id status : Nat) (tag : Option Nat) (es : List DirEntry) (s : State), serving s = true → exec (.dirResp (selfId s) id status tag es) s = .next s) ∧
  (∀ (src id status g : Nat) (es : List DirEntry) (s : State), serving s = true → src ≠ selfId s →
    exec (.dirResp src id status (some g) es) s = .next (switchAnswer g status (dirAnswer id status es s)) ∧
    (s.net.dirWait.find? (·.id == id) = none → exec (.dirResp src id status none es) s = .next s)) ∧
  (∀ (src id status : Nat) (h : Hdr) (op : Nat) (w : DirWait) (s : State), serving s = true → src ≠ selfId s →
    s.net.dirWait.find? (·.id == id) = some w → w.use = .hint h op →
    exec (.dirResp src id status none []) s =
      .next (complete h op sNotFound (0xFFF * 2 ^ 52) 0 0 { s with net.dirWait := s.net.dirWait.filter (·.id != id) })) ∧
  (∀ (src id status i x g : Nat) (w : DirWait) (es : List DirEntry) (s u v : State), serving s = true → src ≠ selfId s →
    s.net.dirWait.find? (·.id == id) = some w → { s with net.dirWait := s.net.dirWait.filter (·.id != id) } = u →
    (w.use = .other → exec (.dirResp src id status none es) s = .next u) ∧
    (w.use = .abandon g → exec (.dirResp src id status none es) s = .next (settleAbandon g w.key status u)) ∧
    (w.use = .reconcile i → exec (.dirResp src id status none es) s = .next (match es.head? with
      | some e => if (descOf i u).handle = w.key then reconcile i e u else u
      | none => u)) ∧
    (w.use = .adopt i x → (if status = sOk then postPfSes i 0x0010 0x12 sOk x w.key (bump DIR_ADOPTIONS.COUNT 1 u) else u) = v →
      exec (.dirResp src id status none es) s = .next (if v.net.dirWait.any (fun w => match w.use with
        | .adopt _ _ => true
        | _ => false) then v else wr DIR_MIRROR.ADOPTING 0 v))) ∧
  (∀ (id i : Nat) (w : DirWait) (s : State), serving s = true → (s.net.dirWait.find? fun w => w.id == id && decide (w.limit ≤ s.cad.edges)) = some w →
    w.use = .reconcile i → exec (.dirLookupTimeout id) s = .next (dirAnswer id sTimeout [] (bump DIR_LOOKUP_TIMEOUTS.COUNT 1 s))) ∧
  (∀ (id i x g : Nat) (s : State), serving s = true → ((s.net.dirWait.find? fun w => w.id == id && decide (w.limit ≤ s.cad.edges)) = none ∨
    ∃ w, (s.net.dirWait.find? fun w => w.id == id && decide (w.limit ≤ s.cad.edges)) = some w ∧ (w.use = .other ∨ w.use = .adopt i x ∨ w.use = .abandon g)) →
    exec (.dirLookupTimeout id) s = .next s) ∧
  (∀ (src k term : Nat) (b : ReplBody) (s : State), serving s = true → (4096 ≤ k ∨ rd DIR_SELF.STATE s ≠ 2 ∨ rd (DIR_SHARD.ROLE k) s = 0) →
    exec (.dirRepl src k term b) s = .next s) ∧
  (∀ (src k term i g : Nat) (es : List DirEntry) (s u : State), serving s = true → k < 4096 → rd DIR_SELF.STATE s = 2 → rd (DIR_SHARD.ROLE k) s ≠ 0 →
    (shardState k s).term ≤ term →
    putShard k { shardState k s with term := term, len := max (shardState k s).len i, renewed := s.cad.edges, leader := src } s = u →
    exec (.dirRepl src k term (.append i .delete es)) s =
      .next (sendMsg 0x06 src [k, term, 1, i] [] (es.foldl (fun s e => storeDel e.type e.keyA e.keyB s) u)) ∧
    exec (.dirRepl src k term (.append i (.switch g) es)) s =
      .next (sendMsg 0x06 src [k, term, 1, i] [] { es.foldl storePut u with net.doneTags := g :: u.net.doneTags })) ∧
  (∀ (src k term i e : Nat) (op : DirOp) (es : List DirEntry) (s : State), serving s = true → k < 4096 → rd DIR_SELF.STATE s = 2 →
    rd (DIR_SHARD.ROLE k) s ≠ 0 → term < (shardState k s).term →
    exec (.dirRepl src k term (.append i op es)) s = .next s ∧ exec (.dirRepl src k term (.renew e)) s = .next s) ∧
  (∀ (src k term i : Nat) (s u : State), serving s = true → k < 4096 → rd DIR_SELF.STATE s = 2 → rd (DIR_SHARD.ROLE k) s ≠ 0 →
    ({ s with net.dirPend := s.net.dirPend.map fun p => if p.shard = k ∧ p.index ≤ i ∧ !p.acks.contains src then { p with acks := src :: p.acks } else p }) = u →
    exec (.dirRepl src k term (.ack i)) s =
      .next (if rd (DIR_SHARD.ROLE k) s = 2 ∧ term = (shardState k s).term then drainCommits k s.net.dirPend.length u else s)) ∧
  (∀ (src k term e : Nat) (s u : State), serving s = true → k < 4096 → rd DIR_SELF.STATE s = 2 → rd (DIR_SHARD.ROLE k) s ≠ 0 →
    (shardState k s).term ≤ term → (if rd (DIR_SHARD.ROLE k) s = 2 ∧ (shardState k s).term < term then stepDown k s else s) = u →
    exec (.dirRepl src k term (.renew e)) s = .next (sendMsg 0x06 src [k, term, 3, e] [] (wr (DIR_SHARD.TERM k) (term % 65536)
      (putShard k { shardState k s with term := term, renewed := u.cad.edges, cand := none, yielded := false, leader := src } u)))) ∧
  (∀ (src k term e : Nat) (s : State), serving s = true → k < 4096 → rd DIR_SELF.STATE s = 2 → rd (DIR_SHARD.ROLE k) s ≠ 0 →
    exec (.dirRepl src k term (.renewAck e)) s = .next (match (shardState k s).sent with
      | some (e', who) => if rd (DIR_SHARD.ROLE k) s = 2 ∧ e = e' ∧ !who.contains src then noteRenewal k e (src :: who) s else s
      | none => s)) ∧
  (∀ (src k term n : Nat) (s : State), serving s = true → k < 4096 → rd DIR_SELF.STATE s = 2 → rd (DIR_SHARD.ROLE k) s ≠ 0 →
    exec (.dirRepl src k term (.voteReq n)) s =
      .next (if (shardState k s).voted < term ∧ (shardState k s).term < term ∧ (shardState k s).len ≤ n ∧ rd (DIR_SHARD.ROLE k) s ≠ 3
        then sendMsg 0x06 src [k, term, 5] [] (putShard k { shardState k s with voted := term, cand := none } s) else s)) ∧
  (∀ (src k term e : Nat) (vs : List Nat) (s : State), serving s = true → k < 4096 → rd DIR_SELF.STATE s = 2 → rd (DIR_SHARD.ROLE k) s ≠ 0 →
    ((shardState k s).cand = none → exec (.dirRepl src k term .vote) s = .next s) ∧
    ((shardState k s).cand = some (e, vs) → (term ≠ (shardState k s).term ∨ vs.contains src = true) → exec (.dirRepl src k term .vote) s = .next s) ∧
    ((shardState k s).cand = some (e, vs) → term = (shardState k s).term → vs.contains src = false → vs.length + 1 < majority (reps k s).length →
      exec (.dirRepl src k term .vote) s = .next (putShard k { shardState k s with cand := some (e, src :: vs) } s)) ∧
    exec (.dirRepl src k term .yielded) s = .next (putShard k { shardState k s with yielded := true } s)) ∧
  (∀ (src k term n : Nat) (es : List DirEntry) (s u : State), serving s = true → k < 4096 → rd DIR_SELF.STATE s = 2 → rd (DIR_SHARD.ROLE k) s ≠ 0 →
    { s with net.dirEnts := s.net.dirEnts.filter (fun e => entryShard e != k) ++ es } = u →
    exec (.dirRepl src k term (.sync n es)) s = .next (if rd (DIR_SHARD.ROLE k) s = 3 then
      showStore k (wr (DIR_SHARD.ROLE k) 1 (putShard k { shardState k s with term := max (shardState k s).term term, len := n, renewed := s.cad.edges, leader := src } u))
      else s)) ∧
  (∀ (keyA : Nat) (s : State), serving s = true → (findEntry 1 keyA 0 s = none ∨ ∃ e, findEntry 1 keyA 0 s = some e ∧ now s ≤ e.expire) →
    exec (.dirEntryExpire keyA) s = .next s)

/-- What the messages of other modules do to migrations, mirrors, forwarded commands and kernels (R152, R154, R156, R188, R301, R307, R371,
R374, R387). A set-up of a session, resident or parked, with a job key that finds a slot, its key-table extent and space reserves them and
answers with the new handle; one of a block reserves memory of its table's home tile; without a key, a slot, space, a table or one of the
256 places it is answered with that status. Chunks, data, log entries and updates join their incoming migration, SWITCH lands it and
ABANDON lets go of it; where there is none they do nothing. A mirror's chunk is kept, or comes back to its session; a checkpoint's takes
its place. A forwarded command runs here, and one that cannot be forwarded is refused. An answer ends what it answers, and a refusal of a
migration's message abandons it. A drop notice is counted; a chunk is sent again up to 8 times, then its transfer fails; a lookup ends
without its rows, an update is sent again, a forwarded command times out, any other type is left. Mirrors are dropped, asked for,
confirmed, denied and sent back. Kernel data is held for a COLLECTIVE kernel, which takes, moves, reduces and sends what it names where
the partition runs one and has the arrays, and nothing otherwise. -/
def Obligations.PeerMessages : Prop :=
  (∀ (src tag bonded deep i : Nat) (d : Desc) (s u : State), serving s = true → hasKey src s = true → s.net.incoming.length < 256 →
    freeHead s = some i → takeKeyExt i s = some u → canSupply d.cls bonded u = true →
    ∃ t, exec (.xferCtrl src tag (.setUp d false bonded deep)) s = .next t ∧
      t.net.incoming = s.net.incoming ++ [{ src := src, tag := tag, idx := i, handle := mkHandle (selfId s) i (hGen (descOf i s).handle), bytes := bonded, d := d }] ∧
      t.poolBytes = u.poolBytes + bonded ∧
      (t.fabOut.head?.map fun m => (m.type, m.dst, m.args)) = some (0x13, src, [tag, sOk, mkHandle (selfId s) i (hGen (descOf i s).handle)])) ∧
  (∀ (src tag bonded deep : Nat) (parked : Bool) (d : Desc) (s : State), serving s = true → hasKey src s = false →
    exec (.xferCtrl src tag (.setUp d parked bonded deep)) s = .next (answerXfer src tag sAuthFail 0 s)) ∧
  (∀ (src tag : Nat) (n : Incoming) (s : State), serving s = true → (s.net.incoming.find? fun n => n.src == src && n.tag == tag) = some n →
    (∀ x, exec (.xferCtrl src tag (.data x)) s = .next (putIncoming { n with x := some x } s)) ∧
    (∀ ds, exec (.xferCtrl src tag (.log ds)) s = .next (putIncoming { n with log := n.log ++ ds } s)) ∧
    exec (.xferCtrl src tag .abandon) s = .next (dropIncoming n s) ∧
    (∀ i bs, exec (.xferChunk src (.mig tag i bs)) s = .next (putIncoming { n with data := sset n.data i bs } s))) ∧
  (∀ (src handle nonce total key : Nat) (d : Desc) (x : Sess) (s : State), serving s = true → hasKey src s = true →
    ((descOf (hIndex handle) s).handle ≠ handle ∨ (descOf (hIndex handle) s).mirrorModule ≠ src ∨ (sessOf (hIndex handle) s).back = none) →
    exec (.xferChunk src (.mirror handle nonce total key d x)) s = .next (mirrorChunk src handle nonce total key d x s)) ∧
  (∀ (src id fn op handle : Nat) (args : List Nat) (data : List Byte) (c : HeldCmd) (s : State), serving s = true →
    fwdCmd { fn := fn, qp := 64 + src, cmdId := id, barrier := false, fenceDone := false, bondedBuf := false, cplFault := false, fence := 0,
             handle := handle } op args data s.fresh = some c →
    exec (.fwdCmd src id fn op handle args data) s = .next (runHeldCmd c { s with fresh := s.fresh + 2 })) ∧
  (∀ (src id fn op handle : Nat) (args : List Nat) (data : List Byte) (s : State), serving s = true → (op < 2 ∨ 0x0D < op) →
    exec (.fwdCmd src id fn op handle args data) s = .next (sendMsg 0x13 src [id, sRejected] [] s)) ∧
  (∀ (src id status : Nat) (s : State), serving s = true → status ≠ sOk →
    exec (.responseMsg src id status .xfer) s = .next (migrationAbandon id true s)) ∧
  (∀ (src id status fn qp cmdId r0 r1 : Nat) (s : State), serving s = true →
    exec (.responseMsg src id status (.fwd fn qp cmdId r0 r1)) s = .next (fwdDone fn qp cmdId status r0 r1 s)) ∧
  (∀ (src id : Nat) (rs : List ((Nat × Nat) × List Byte)) (s : State), serving s = true →
    exec (.responseMsg src id sOk (.rows rs)) s = .next (lookAnswer src id rs s)) ∧
  (∀ (src id ref n e : Nat) (mirror : Bool) (s : State), serving s = true → sgetD s.net.dropTries id (0, 0) = (n, e) → n < 8 →
    ∃ t, exec (.dropNotice src id 0x10 ref mirror) s = .next t ∧ sget t.net.dropTries id = some (n + 1, s.cad.edges) ∧
      rd FAB_DROP_NOTICES.COUNT t = satAdd 48 (rd FAB_DROP_NOTICES.COUNT s) 1 ∧
      (t.fabOut.head?.map fun m => (m.type, m.dst, m.args)) = some (0x10, src, [id, ref])) ∧
  (∀ (src handle nonce : Nat) (s : State), serving s = true →
    exec (.mirrorCtrl src handle nonce 0) s =
      .next ((s.net.mirrors.filter fun m => m.src == src && m.handle == handle).foldl (fun s m => dropMirrorOf m (bump DIR_MIRROR_DROPS.COUNT 1 s)) s)) ∧
  (∀ (src handle nonce : Nat) (s : State), serving s = true →
    exec (.mirrorCtrl src handle nonce 1) s =
      .next (sendMsg 0x17 src [if (descOf (hIndex handle) s).handle == handle && (descOf (hIndex handle) s).mirrorModule == src &&
        (sessOf (hIndex handle) s).parkNonce == nonce then 2 else 3, handle, nonce] [] s)) ∧
  (∀ (src handle : Nat) (m : Mirror) (s : State), serving s = true →
    (s.net.mirrors.find? fun m => m.src == src && m.handle == handle && m.got == m.total &&
      decide (m.news + rd DIR_MIRROR.MIRROR_AUDIT_TICKS s ≤ s.cad.edges)) = some m →
    exec (.mirrorAudit src handle) s =
      .next (sendMsg 0x17 src [1, handle, m.nonce] []
        { s with net.mirrors := s.net.mirrors.map fun y => if y = m then { m with news := s.cad.edges } else y })) ∧
  (∀ (src : Nat) (data : List Byte) (s : State), serving s = true →
    exec (.collectiveMsg src data) s = .next { s with net.collIn := s.net.collIn ++ [(src, data)] }) ∧
  (∀ (p : Nat) (recvs : List (Nat × Nat × Nat)) (moves : List CollMove) (sends : List (Nat × List Byte)) (s : State), serving s = true →
    runsOp p 0x000D s = true → (recvs.all fun r => (curRanks p s).contains r.2.1) = true → (moves.all fun m => (curRanks p s).contains m.array) = true →
    exec (.collective p recvs moves sends) s =
      .next (sends.foldl (fun s m => sendMsg 0x16 m.1 [p] m.2 s) (moves.foldl (collMove p) (recvs.foldl (collTake p) s)))) ∧
  (∀ (src tag bonded deep i : Nat) (ks : List Nat) (d : Desc) (s u v : State), serving s = true → hasKey src s = true → s.net.incoming.length < 256 →
    freeHead s = some i → takeKeyExt i s = some u → allocDeep deep (parkBase u) deepChunks u = some (ks, v) →
    ∃ t, exec (.xferCtrl src tag (.setUp d true bonded deep)) s = .next t ∧
      t.net.incoming = v.net.incoming ++
        [{ src := src, tag := tag, idx := i, handle := mkHandle (selfId v) i (hGen (descOf i v).handle), parked := true, chunks := ks, d := d }] ∧
      (t.fabOut.head?.map fun m => (m.type, m.dst, m.args)) = some (0x13, src, [tag, sOk, mkHandle (selfId v) i (hGen (descOf i v).handle)])) ∧
  (∀ (src tag bonded deep : Nat) (parked : Bool) (d : Desc) (s : State), serving s = true → hasKey src s = true → 256 ≤ s.net.incoming.length →
    exec (.xferCtrl src tag (.setUp d parked bonded deep)) s = .next (answerXfer src tag sBusy 0 s)) ∧
  (∀ (src tag bonded deep : Nat) (parked : Bool) (d : Desc) (s : State), serving s = true → hasKey src s = true → s.net.incoming.length < 256 →
    freeHead s = none → exec (.xferCtrl src tag (.setUp d parked bonded deep)) s = .next (answerXfer src tag sCapacity 0 s)) ∧
  (∀ (src tag bonded deep i : Nat) (d : Desc) (s u : State), serving s = true → hasKey src s = true → s.net.incoming.length < 256 → freeHead s = some i →
    (takeKeyExt i s = none → ∀ parked, exec (.xferCtrl src tag (.setUp d parked bonded deep)) s = .next (answerXfer src tag sCapacity 0 s)) ∧
    (takeKeyExt i s = some u → canSupply d.cls bonded u = false →
      exec (.xferCtrl src tag (.setUp d false bonded deep)) s = .next (answerXfer src tag sCapacity 0 u)) ∧
    (takeKeyExt i s = some u → allocDeep deep (parkBase u) deepChunks u = none →
      exec (.xferCtrl src tag (.setUp d true bonded deep)) s = .next (answerXfer src tag sCapacity 0 u))) ∧
  (∀ (src tag table part block bytes a g : Nat) (m : EmbTable) (s : State), serving s = true → s.net.incoming.length < 256 → sget s.embTabs table = some m →
    (leastFilled ((tileChans m.home).filter fun g => chProtectedOk g s) (fun g => (placeIn g bytes 64 s).isSome) s) = some g → placeIn g bytes 64 s = some a →
    ∃ t, exec (.xferCtrl src tag (.block table part block bytes)) s = .next t ∧ t.net.incoming = s.net.incoming ++
        [{ src := src, tag := tag, idx := slots + 1 + tag, handle := 0, bytes := bytes, d := { handle := 0 }, block := some (table, part, block), blockAddr := a }] ∧
      (t.fabOut.head?.map fun m => (m.type, m.dst, m.args)) = some (0x13, src, [tag, sOk, 0])) ∧
  (∀ (src tag table part block bytes : Nat) (s : State), serving s = true →
    (256 ≤ s.net.incoming.length → exec (.xferCtrl src tag (.block table part block bytes)) s = .next (answerXfer src tag sBusy 0 s)) ∧
    (s.net.incoming.length < 256 → sget s.embTabs table = none →
      exec (.xferCtrl src tag (.block table part block bytes)) s = .next (answerXfer src tag sNotFound 0 s)) ∧
    (∀ m, s.net.incoming.length < 256 → sget s.embTabs table = some m →
      (leastFilled ((tileChans m.home).filter fun g => chProtectedOk g s) (fun g => (placeIn g bytes 64 s).isSome) s) = none →
      exec (.xferCtrl src tag (.block table part block bytes)) s = .next (answerXfer src tag sCapacity 0 s))) ∧
  (∀ (src tag : Nat) (n : Incoming) (s : State), serving s = true → (s.net.incoming.find? fun n => n.src == src && n.tag == tag) = some n →
    (∀ us, exec (.xferCtrl src tag (.updates us)) s = .next (putIncoming { n with ulog := n.ulog ++ us } s)) ∧
    (∀ k, exec (.xferCtrl src tag (.switch k)) s = .next (landIncoming n k s))) ∧
  (∀ (src tag : Nat) (s : State), serving s = true → (s.net.incoming.find? fun n => n.src == src && n.tag == tag) = none →
    (∀ x, exec (.xferCtrl src tag (.data x)) s = .next s) ∧ (∀ ds, exec (.xferCtrl src tag (.log ds)) s = .next s) ∧
    (∀ us, exec (.xferCtrl src tag (.updates us)) s = .next s) ∧ (∀ k, exec (.xferCtrl src tag (.switch k)) s = .next s) ∧
    exec (.xferCtrl src tag .abandon) s = .next s ∧ (∀ i bs, exec (.xferChunk src (.mig tag i bs)) s = .next s)) ∧
  (∀ (src handle nonce total key : Nat) (d : Desc) (x : Sess) (s : State), serving s = true →
    (hasKey src s = false → exec (.xferChunk src (.mirror handle nonce total key d x)) s = .next s) ∧
    (hasKey src s = true → (descOf (hIndex handle) s).handle = handle → (descOf (hIndex handle) s).mirrorModule = src →
      (sessOf (hIndex handle) s).back.isSome = true →
      exec (.xferChunk src (.mirror handle nonce total key d x)) s = .next (mirrorBack (hIndex handle) total d x s))) ∧
  (∀ (src id tick jobKey nonce total : Nat) (ranges : List (Nat × Nat)) (data : List (List Byte)) (s : State), serving s = true →
    exec (.xferChunk src (.ckpt id tick jobKey nonce total ranges data)) s = .next (ckptTake src id tick jobKey nonce total ranges data s)) ∧
  (∀ (src id status : Nat) (rs : List ((Nat × Nat) × List Byte)) (s : State), serving s = true →
    exec (.responseMsg src id sOk .xfer) s = .next s ∧
    (status ≠ sOk → exec (.responseMsg src id status (.rows rs)) s = .next (lookAnswer src id [] s)) ∧
    exec (.responseMsg src id status .upd) s = .next (updateAnswer src id (status == sOk) s)) ∧
  (∀ (src id ref n e : Nat) (s u : State), serving s = true → sgetD s.net.dropTries id (0, 0) = (n, e) → 8 ≤ n →
    { bump FAB_DROP_NOTICES.COUNT 1 s with net.dropTries := sdel s.net.dropTries id } = u →
    exec (.dropNotice src id 0x10 ref true) s = .next (mirrorRun ref false u) ∧
    exec (.dropNotice src id 0x10 ref false) s = .next (if e ≤ u.cad.edges then migrationAbandon ref true u else u)) ∧
  (∀ (src id type ref : Nat) (mirror : Bool) (s u : State), serving s = true → bump FAB_DROP_NOTICES.COUNT 1 s = u →
    exec (.dropNotice src id 0x14 ref mirror) s = .next (lookAnswer src id [] u) ∧
    (∀ j, (u.embJobs.find? fun j => j.msg == id && j.remote.any (·.1 == src)) = some j →
      exec (.dropNotice src id 0x15 ref mirror) s = .next (sendMsg 0x15 src [id, j.tick] [] u)) ∧
    ((u.embJobs.find? fun j => j.msg == id && j.remote.any (·.1 == src)) = none → exec (.dropNotice src id 0x15 ref mirror) s = .next u) ∧
    (∀ w, (u.fwdWait.find? fun w => w.1.cmdId == id) = some w →
      exec (.dropNotice src id 0x12 ref mirror) s = .next (fwdDone w.1.fn w.1.qp w.1.cmdId sTimeout 0 0 u)) ∧
    ((u.fwdWait.find? fun w => w.1.cmdId == id) = none → exec (.dropNotice src id 0x12 ref mirror) s = .next u) ∧
    (type ≠ 0x10 → type ≠ 0x12 → type ≠ 0x14 → type ≠ 0x15 → exec (.dropNotice src id type ref mirror) s = .next u)) ∧
  (∀ (src handle nonce : Nat) (s : State), serving s = true →
    exec (.mirrorCtrl src handle nonce 2) s = .next { s with net.mirrors := s.net.mirrors.map fun m =>
      if m.src = src ∧ m.handle = handle ∧ m.nonce = nonce then { m with news := s.cad.edges } else m }) ∧
  (∀ (src handle nonce : Nat) (s : State), serving s = true → (descOf (hIndex handle) s).handle = handle →
    (descOf (hIndex handle) s).mirrorModule = src → (sessOf (hIndex handle) s).back.isSome = true →
    exec (.mirrorCtrl src handle nonce 3) s = .next (backFails (hIndex handle) s)) ∧
  (∀ (src handle nonce kind : Nat) (s : State), serving s = true → (kind = 3 ∧ ((descOf (hIndex handle) s).handle ≠ handle ∨
      (descOf (hIndex handle) s).mirrorModule ≠ src ∨ (sessOf (hIndex handle) s).back = none) ∨ 4 < kind) →
    exec (.mirrorCtrl src handle nonce kind) s = .next (((s.net.mirrors.filter fun m => m.src == src && m.handle == handle).filter (·.nonce == nonce)).foldl
      (fun s m => dropMirrorOf m (bump DIR_MIRROR_DROPS.COUNT 1 s)) s)) ∧
  (∀ (src handle nonce : Nat) (s : State), serving s = true →
    (∀ m, ((s.net.mirrors.filter fun m => m.src == src && m.handle == handle).find? fun m => m.nonce == nonce && m.got == m.total) = some m →
      exec (.mirrorCtrl src handle nonce 4) s = .next ((List.range m.total).foldl (fun s k => sendMsg 0x10 src [k, handle, nonce] [] s) s)) ∧
    (((s.net.mirrors.filter fun m => m.src == src && m.handle == handle).find? fun m => m.nonce == nonce && m.got == m.total) = none →
      exec (.mirrorCtrl src handle nonce 4) s = .next (sendMsg 0x17 src [3, handle, nonce] [] s))) ∧
  (∀ (src handle : Nat) (s : State), serving s = true →
    (s.net.mirrors.find? fun m => m.src == src && m.handle == handle && m.got == m.total &&
      decide (m.news + rd DIR_MIRROR.MIRROR_AUDIT_TICKS s ≤ s.cad.edges)) = none → exec (.mirrorAudit src handle) s = .next s) ∧
  (∀ (p : Nat) (recvs : List (Nat × Nat × Nat)) (moves : List CollMove) (sends : List (Nat × List Byte)) (s : State), serving s = true →
    (runsOp p 0x000D s = false ∨ (recvs.all fun r => (curRanks p s).contains r.2.1) = false ∨ (moves.all fun m => (curRanks p s).contains m.array) = false) →
    exec (.collective p recvs moves sends) s = .next s)

/-- Starting, capturing, packing, mirroring and restoring a checkpoint (R425, R478, R479, R480, R483). A checkpoint whose descriptor passes
its checks is taken up, with the command or the barrier entry as its requester, and captures at once where no partition is named; another
one running, a descriptor that fails or a command that the intake refuses ends it with that status. The end of capture keeps the bytes
that its ranges held, stages them, makes the writes held back, adds 1 to its fence, posts phase 1 and goes on to pack. The end of packing
leaves the durable image in the checkpoint area, counts it, adds 1 to its fence, posts phase 2, tells its requester, and either sends it
to its mirror or ends; without room it fails with CAPACITY. The end of the mirror copy posts phase 3. A RESTORE of an intact image writes
every block to its place and is counted; one with bad blocks writes the others, counts those lost and ends with PARTIAL; without an image
of its ranges it is refused. Each does nothing in another phase. -/
def Obligations.Checkpoints : Prop :=
  (∀ (h : Hdr) (a : Nat) (c : Ckpt) (s u : State), passes h 0x41 false s = true → entered h 0x41 s = u → s.ckpt = none → readCkpt a u = .ok c →
    exec (.checkpoint h a) s = .next (startCkpt { c with requester := some h, tick := now u } u)) ∧
  (∀ (h : Hdr) (a : Nat) (c : Ckpt) (s u : State), passes h 0x41 false s = true → entered h 0x41 s = u → s.ckpt = none → readCkpt a u = .ok c →
    c.parts = [] → c.op = 0 → ∃ t k, exec (.checkpoint h a) s = .next t ∧ t.ckpt = some k ∧ k.phase = 2 ∧ k.id = c.id ∧ k.ranges = c.ranges ∧
      rd REL_CKPT_STATUS.PHASE t = 2) ∧
  (∀ (table idx : Nat) (e : EphEntry) (c : Ckpt) (s : State), serving s = true → s.ckpt = none → readCkpt e.opA s = .ok c →
    exec (.checkpointBarrier table idx e) s = .next (startCkpt { c with eph := some (table, idx, e), barrier := true, tick := e.tick } s)) ∧
  (∀ (table idx : Nat) (e : EphEntry) (s : State), serving s = true → s.ckpt.isSome = true →
    exec (.checkpointBarrier table idx e) s = .next (actionFail table idx e sRejected s)) ∧
  (∀ (us : Nat) (c : Ckpt) (s : State), serving s = true → s.ckpt = some c → c.phase = 2 →
    ∃ t, exec (.captureDone us) s = .next t ∧
      t.ckpt = some { c with data := c.ranges.map (fun r => memRead s r.1 r.2), heldW := [], phase := 3 } ∧
      rd REL_CKPT_TIMES.CAPTURE_US t = min us (2 ^ 32 - 1)) ∧
  (∀ (ms : Nat) (ks : List Nat) (c : Ckpt) (s u : State), serving s = true → s.ckpt = some c → c.phase = 3 → c.mirrorOn = false →
    c.requester = none → c.eph = none →
    ckptTakeChunks (ckptChunks c.ranges.length (packedBytes c.data)) s = some (ks, u) →
    ∃ t, exec (.packDone ms) s = .next t ∧ t.ckpt = none ∧ t.ckptImages.getLast? =
      some { module := selfId u, id := c.id, tick := c.tick, jobKey := c.jobKey, ranges := c.ranges, data := c.data, chunks := ks, durable := true,
             lost := packLost c.ranges u, nonce := Config.random u.fresh % 2 ^ 64,
             key := ((sget u.net.pairs (c.jobKey % 128 * 4096 + c.mirror)).map (·.tx)).getD (Config.random (u.fresh + 1)) }) ∧
  (∀ (c : Ckpt) (s : State), serving s = true → s.ckpt = some c → c.phase = 4 → exec .ckptMirrorDone s = .next (ckptEvent 3 sOk c (ckptIdle s))) ∧
  (∀ (c : Ckpt) (m : CkptImage) (far : Option (List (Nat × Nat) × List (List Byte))) (s : State), serving s = true → s.ckpt = some c → c.phase = 5 →
    c.remote = false → ckptImageOf c s = some m → m.ranges = c.ranges → m.lost = [] → c.requester = none → c.eph = none →
    ∃ t, exec (.restoreDone [] far) s = .next t ∧ t.ckpt = none ∧
      t.mem = ((blockPlaces m.ranges m.data).foldl (fun s b => memWrite b.1 b.2 s) s).mem ∧
      rd REL_CKPT_DONE.COUNT t = satAdd 48 (rd REL_CKPT_DONE.COUNT s) 1) ∧
  (∀ (c : Ckpt) (bad : List Nat) (far : Option (List (Nat × Nat) × List (List Byte))) (s : State), serving s = true → s.ckpt = some c →
    c.phase = 5 → c.remote = false → ckptImageOf c s = none →
    exec (.restoreDone bad far) s = .next (ckptTell sRejected 0 c (ckptEvent 4 sRejected c (ckptIdle s)))) ∧
  (∀ (h : Hdr) (a : Nat) (s : State), cmdRuns h s = true → intakeFails h 0x41 false s = true →
    exec (.checkpoint h a) s = .next (refuse h 0x41 sRejected (entered h 0x41 s))) ∧
  (∀ (h : Hdr) (a : Nat) (s : State), passes h 0x41 false s = true → s.ckpt.isSome = true →
    exec (.checkpoint h a) s = .next (refuse h 0x41 sBusy (entered h 0x41 s))) ∧
  (∀ (h : Hdr) (a st : Nat) (s u : State), passes h 0x41 false s = true → entered h 0x41 s = u → s.ckpt = none → readCkpt a u = .error st →
    exec (.checkpoint h a) s = .next (refuse h 0x41 st u)) ∧
  (∀ (table idx st : Nat) (e : EphEntry) (s : State), serving s = true → s.ckpt = none → readCkpt e.opA s = .error st →
    exec (.checkpointBarrier table idx e) s = .next (actionFail table idx e sRejected s)) ∧
  (∀ (us : Nat) (c : Ckpt) (s u : State), serving s = true → s.ckpt = some c → c.phase = 2 →
    ckptPhase 3 { c with data := c.ranges.map (fun r => memRead s r.1 r.2), heldW := [] }
      (makeHeld c ((stagedAt c.ranges).foldl (fun s r => copyMem r.1.1 r.2 r.1.2 s) s)) = u →
    exec (.captureDone us) s = .next (ckptEvent 1 sOk c (wr REL_CKPT_TIMES.CAPTURE_US (min us (2 ^ 32 - 1))
      (if c.capFence = 0xFFFF then u else signalFence c.capFence 1 1 u)))) ∧
  (∀ (n : Nat) (bad : List Nat) (far : Option (List (Nat × Nat) × List (List Byte))) (s : State), serving s = true →
    ((s.ckpt.any fun c => c.phase == 2) = false → exec (.captureDone n) s = .next s) ∧
    ((s.ckpt.any fun c => c.phase == 3) = false → exec (.packDone n) s = .next s) ∧
    ((s.ckpt.any fun c => c.phase == 4) = false → exec .ckptMirrorDone s = .next s) ∧
    ((s.ckpt.any fun c => c.phase == 5) = false → exec (.restoreDone bad far) s = .next s)) ∧
  (∀ (ms : Nat) (c : Ckpt) (s : State), serving s = true → s.ckpt = some c → c.phase = 3 →
    ckptTakeChunks (ckptChunks c.ranges.length (packedBytes c.data)) s = none →
    exec (.packDone ms) s = .next (ckptFail sCapacity (ckptMakeRoom (ckptChunks c.ranges.length (packedBytes c.data)) s))) ∧
  (∀ (ms : Nat) (ks : List Nat) (c : Ckpt) (m : CkptImage) (s u v w x : State), serving s = true → s.ckpt = some c → c.phase = 3 →
    ckptTakeChunks (ckptChunks c.ranges.length (packedBytes c.data)) s = some (ks, u) →
    { module := selfId u, id := c.id, tick := c.tick, jobKey := c.jobKey, ranges := c.ranges, data := c.data, chunks := ks, durable := true,
      lost := packLost c.ranges u, nonce := Config.random u.fresh % 2 ^ 64,
      key := ((sget u.net.pairs (c.jobKey % 128 * 4096 + c.mirror)).map (·.tx)).getD (Config.random (u.fresh + 1)) : CkptImage } = m →
    freeStaging c (packReads c.ranges (ckptKeep m { u with fresh := u.fresh + 2 })) = v → (if c.durFence = 0xFFFF then v else signalFence c.durFence 1 1 v) = w →
    ckptTell sOk (packedBytes c.data) c
      (ckptEvent 2 sOk c (bump REL_CKPT_DONE.COUNT 1 (wr REL_CKPT_TIMES.DURABLE_MS (min ms (2 ^ 32 - 1)) w))) = x →
    exec (.packDone ms) s = .next (if c.mirrorOn = true then
      ckptPhase 4 { c with staging := [], requester := none, eph := none } { x with fabOut := ((List.range ks.length).map fun k =>
        ({ type := 0x10, dst := c.mirror, args := [k, c.id, c.tick], data := ckptChunk k m } : Msg)).reverse ++ x.fabOut }
      else ckptIdle x)) ∧
  (∀ (c : Ckpt) (bad : List Nat) (far : Option (List (Nat × Nat) × List (List Byte))) (s : State), serving s = true → s.ckpt = some c → c.phase = 5 →
    ((if c.remote then far.map (·.1) else (ckptImageOf c s).map (·.ranges)) ≠ some c.ranges) →
    exec (.restoreDone bad far) s = .next (ckptTell sRejected 0 c (ckptEvent 4 sRejected c (ckptIdle s)))) ∧
  (∀ (c : Ckpt) (bad lost : List Nat) (data : List (List Byte)) (far : Option (List (Nat × Nat) × List (List Byte)))
      (ks good : List (Nat × Nat × List Byte)) (st : Nat) (s u : State), serving s = true → s.ckpt = some c → c.phase = 5 →
    (if c.remote then far.map fun f => (f.1, f.2, ([] : List Nat)) else (ckptImageOf c s).map fun m => (m.ranges, m.data, m.lost)) = some (c.ranges, data, lost) →
    (List.range (blockPlaces c.ranges data).length).zip (blockPlaces c.ranges data) = ks →
    (ks.filter fun k => !(bad.contains k.1 || lost.contains k.1)) = good → (if ks.length - good.length = 0 then sOk else sPartial) = st →
    good.foldl (fun s k => memWrite k.2.1 k.2.2 s) (if c.remote then s else badBlocks bad c s) = u →
    exec (.restoreDone bad far) s = .next (ckptTell st ((good.map fun k => k.2.2.length).sum) c (ckptEvent 4 st c
      (ckptIdle (bump REL_CKPT_DONE.COUNT 1 (bump REL_CKPT_BLOCKS_LOST.COUNT (ks.length - good.length) u))))))

/-- Staging, sealing, discarding, applying and completing an Almanac generation (R447, R448, R449, R451, R452, R453, R455, R459). An RWS write
to SES_CTRL is staged where the set is EMPTY or OPEN, and logged and not staged otherwise; one to another offset writes the RWS fields
there; one not aligned, out of BAR0 or after start-up has stopped does nothing, and with IDE shut it is counted alone. A LOAD whose image
passes leaves the set STAGED with the image's generation; one that fails says status, section and check (AUTH_FAIL is counted), and one of
a set that is not EMPTY is BUSY. SEAL stages edits that pass, or says which check refuses them. DISCARD empties the set unless it is
VERIFYING or APPLYING. WRITE_BOOT puts a staged, clean image into the slot of lower generation. An entry that names no staged generation
or no independent changed region fails with REJECTED; an apply that a region refuses logs it and changes no region; one that none refuses
commits its regions and its generation, and empties a set with nothing left. The end of a region's completion posts 0x0017; a partition's,
which waits for its arrays and its step, loads its resident regions, a tokenizer set's makes it VALID and an index's makes it READY;
nothing happens to a region that is not completing. -/
def Obligations.AlmanacGenerations : Prop :=
  (∀ (value : Nat) (s : State), live s = true → ideShut s = false → reachable s = true → stageState s ≠ stEmpty → stageState s ≠ stOpen →
    exec (.rwsWrite 0x3_0000 value) s = .next (wr ALM_WRITE_LOG.OFFSET 0x3_0000 (wr ALM_WRITE_LOG.VALID 1 (bump ALM_WRITE_LOG.COUNT 1 s)))) ∧
  (∀ (value : Nat) (s : State), live s = true → ideShut s = false → reachable s = true → (stageState s = stEmpty ∨ stageState s = stOpen) →
    ∃ t, exec (.rwsWrite 0x3_0000 value) s = .next t ∧ stageState t = stOpen ∧ shadowOf SES_CTRL.EVICT_EN t = value % 2 ∧
      shadowOf SES_CTRL.EXPIRE_EN t = value / 2 % 2 ∧ rd SES_CTRL.EVICT_EN t = rd SES_CTRL.EVICT_EN s ∧
      rd SES_CTRL.EXPIRE_EN t = rd SES_CTRL.EXPIRE_EN s) ∧
  (∀ (sigOk : Bool) (im : List Byte) (s : State), serving s = true → stageState s = stEmpty → isSet HUB_DOMAIN_STATUS.MGT_RUNNING s = true →
    memRead s (rd ALM_STAGE_ADDR.ADDR s * 64) (min (field (memRead s (rd ALM_STAGE_ADDR.ADDR s * 64) 0x40) 0x14 4) (1280 * 0x10_0000)) = im →
    imageFails im sigOk s = none →
    ∃ t, exec (.almLoad sigOk) s = .next t ∧ stageState t = stStaged ∧ rd ALM_STAGE_STATUS.GEN t = field im 8 4 % 2 ^ 32 ∧
      rd ALM_STAGE_STATUS.STATUS t = sOk ∧ t.mem = s.mem) ∧
  (∀ (sigOk : Bool) (im : List Byte) (st check sect : Nat) (s : State), serving s = true → stageState s = stEmpty →
    isSet HUB_DOMAIN_STATUS.MGT_RUNNING s = true →
    memRead s (rd ALM_STAGE_ADDR.ADDR s * 64) (min (field (memRead s (rd ALM_STAGE_ADDR.ADDR s * 64) 0x40) 0x14 4) (1280 * 0x10_0000)) = im →
    imageFails im sigOk s = some (st, check, sect) → st ≠ sAuthFail →
    exec (.almLoad sigOk) s = .next (stageDone st sect check s)) ∧
  (∀ (s : State), serving s = true → stageState s = stOpen → rd ALM_COMMITTED.GEN s < rd ALM_STAGE_GEN.GEN s →
    ((changedRegions s).any fun r => !editsOk r s) = false → crossBad (changed · s) s = [] →
    ∃ t, exec .almSeal s = .next t ∧ stageState t = stStaged ∧ rd ALM_STAGE_STATUS.GEN t = rd ALM_STAGE_GEN.GEN s % 2 ^ 32 ∧
      rd ALM_STAGE_STATUS.STATUS t = sOk) ∧
  (∀ (s : State), serving s = true → stageState s ≠ 2 → stageState s ≠ 4 →
    ∃ t, exec .almDiscard s = .next t ∧ stageState t = stEmpty ∧ t.adm.stage = [] ∧ rd ALM_STAGE_STATUS.STATUS t = sOk) ∧
  (∀ (s : State), serving s = true → stageState s = stStaged → isSet ALM_STAGE_STATUS.DIRTY s = false →
    exec .writeBoot s = .next (stageDone sOk 0xFFF 0
      (showBoot (if bootGen s.adm.bootA ≤ bootGen s.adm.bootB then { s with adm.bootA := s.adm.image } else { s with adm.bootB := s.adm.image })))) ∧
  (∀ (table idx r st : Nat) (e : EphEntry) (s : State), serving s = true → stageState s = stStaged → e.opA = rd ALM_STAGE_STATUS.GEN s →
    e.target = 0xFFFF → applyFails (changedRegions s) s = some (r, st) →
    exec (.applyGeneration table idx e) s = .next (postPf 0x0016 0x14 st r (rd ALM_STAGE_STATUS.GEN s)
      (wr ALM_APPLY_LOG.REGION r (wr ALM_APPLY_LOG.STATUS st (wr ALM_APPLY_LOG.GEN (rd ALM_STAGE_STATUS.GEN s) (wr ALM_APPLY_LOG.VALID 1 s)))))) ∧
  (∀ (table idx : Nat) (e : EphEntry) (s : State), serving s = true → stageState s = stStaged → e.opA = rd ALM_STAGE_STATUS.GEN s →
    e.target = 0xFFFF → applyFails (changedRegions s) s = none →
    ∃ t, exec (.applyGeneration table idx e) s = .next t ∧ rd ALM_COMMITTED.GEN t = rd ALM_STAGE_STATUS.GEN s % 2 ^ 32) ∧
  (∀ (i : Nat) (s : State), serving s = true → i < 64 → isSet (ALM_REGION.COMPLETING (0x120 + i)) s = true →
    ∃ t, exec (.regionCompleted (0x120 + i)) s = .next t ∧ rd (VEC_INDEX.READY i) t = 1 ∧ rd (ALM_REGION.COMPLETING (0x120 + i)) t = 0) ∧
  (∀ (off value : Nat) (s : State), live s = true → ideShut s = false → reachable s = true → off % 8 = 0 → off < 0x1000_0000 →
    exec (.rwsWrite off value) s = .next (writeReg (· == .rws) off value true s)) ∧
  (∀ (off value : Nat) (s : State), live s = true → ideShut s = false → (reachable s = false ∨ off % 8 ≠ 0 ∨ 0x1000_0000 ≤ off) →
    exec (.rwsWrite off value) s = .next s) ∧
  (∀ (off value : Nat) (s : State), live s = true → ideShut s = true → exec (.rwsWrite off value) s = .next (bump SEC_IDE_BLOCKED.COUNT 1 s)) ∧
  (∀ (sigOk : Bool) (s : State), serving s = true → (stageState s ≠ stEmpty ∨ isSet HUB_DOMAIN_STATUS.MGT_RUNNING s = false) →
    exec (.almLoad sigOk) s = .next (stageDone sBusy 0xFFF 1 s)) ∧
  (∀ (sigOk : Bool) (im : List Byte) (check sect : Nat) (s : State), serving s = true → stageState s = stEmpty →
    isSet HUB_DOMAIN_STATUS.MGT_RUNNING s = true →
    memRead s (rd ALM_STAGE_ADDR.ADDR s * 64) (min (field (memRead s (rd ALM_STAGE_ADDR.ADDR s * 64) 0x40) 0x14 4) (1280 * 0x10_0000)) = im →
    imageFails im sigOk s = some (sAuthFail, check, sect) →
    exec (.almLoad sigOk) s = .next (stageDone sAuthFail sect check (bump SEC_AUTH_FAILS.COUNT 1 s))) ∧
  (∀ (s : State), serving s = true →
    (stageState s = stEmpty → exec .almSeal s = .next (stageDone sRejected 0xFFF 0 s)) ∧
    (stageState s ≠ stEmpty → stageState s ≠ stOpen → exec .almSeal s = .next (stageDone sBusy 0xFFF 0 s)) ∧
    (stageState s = stOpen → rd ALM_STAGE_GEN.GEN s ≤ rd ALM_COMMITTED.GEN s → exec .almSeal s = .next (stageDone sRejected 0xFFF 0 s)) ∧
    (stageState s = stOpen → rd ALM_COMMITTED.GEN s < rd ALM_STAGE_GEN.GEN s → ((changedRegions s).any fun r => !editsOk r s) = true →
      exec .almSeal s = .next (stageDone sRejected 0xFFF 6 s)) ∧
    (stageState s = stOpen → rd ALM_COMMITTED.GEN s < rd ALM_STAGE_GEN.GEN s → ((changedRegions s).any fun r => !editsOk r s) = false →
      crossBad (changed · s) s ≠ [] → exec .almSeal s = .next (stageDone sRejected 0xFFF 7 s))) ∧
  (∀ (s : State), serving s = true → (stageState s = 2 ∨ stageState s = 4) → exec .almDiscard s = .next (stageDone sBusy 0xFFF 0 s)) ∧
  (∀ (s : State), serving s = true → (stageState s ≠ stStaged ∨ isSet ALM_STAGE_STATUS.DIRTY s = true) →
    exec .writeBoot s = .next (stageDone sRejected 0xFFF 0 s)) ∧
  (∀ (table idx : Nat) (e : EphEntry) (s : State), serving s = true → (stageState s ≠ stStaged ∨ e.opA ≠ rd ALM_STAGE_STATUS.GEN s ∨
      (e.target ≠ 0xFFFF ∧ (regions.contains e.target = false ∨ changed e.target s = false ∨ isSet (ALM_REGION.INDEPENDENT e.target) s = false))) →
    exec (.applyGeneration table idx e) s = .next (actionFail table idx e sRejected s)) ∧
  (∀ (table idx : Nat) (e : EphEntry) (rs : List Nat) (s : State), serving s = true → stageState s = stStaged → e.opA = rd ALM_STAGE_STATUS.GEN s →
    (e.target ≠ 0xFFFF → regions.contains e.target = true ∧ changed e.target s = true ∧ isSet (ALM_REGION.INDEPENDENT e.target) s = true) →
    (if e.target = 0xFFFF then changedRegions s else [e.target]) = rs →
    (∀ r st, applyFails rs s = some (r, st) → exec (.applyGeneration table idx e) s = .next (postPf 0x0016 0x14 st r (rd ALM_STAGE_STATUS.GEN s)
      (wr ALM_APPLY_LOG.REGION r (wr ALM_APPLY_LOG.STATUS st (wr ALM_APPLY_LOG.GEN (rd ALM_STAGE_STATUS.GEN s) (wr ALM_APPLY_LOG.VALID 1 s)))))) ∧
    (∀ u v, applyFails rs s = none → commitAll rs (rd ALM_STAGE_STATUS.GEN s) s = u →
      bump ALM_COMMITTED.APPLIES 1 (wr ALM_COMMITTED.GEN (rd ALM_STAGE_STATUS.GEN s)
        { u with adm.buildId := if u.adm.image = [] then u.adm.buildId else field s.adm.image 0x18 8 }) = v →
      exec (.applyGeneration table idx e) s = .next (actionDone table idx e (showFlags (if changedRegions v = [] then clearStage v else v))))) ∧
  (∀ (r : Nat) (s : State), serving s = true → isSet (ALM_REGION.COMPLETING r) s = false → exec (.regionCompleted r) s = .next s) ∧
  (∀ (p : Nat) (s u : State), serving s = true → p < 0xFF → isSet (ALM_REGION.COMPLETING (0x10 + p)) s = true → wr (ALM_REGION.COMPLETING (0x10 + p)) 0 s = u →
    (((partOf p s).incoming ≠ [] ∨ (partOf p s).step.isSome = true) → exec (.regionCompleted (0x10 + p)) s = .next s) ∧
    (∀ v, (partOf p s).incoming = [] → (partOf p s).step = none →
      modPart p (fun x => { x with reload := false }) (if (partOf p s).reload = true then reloadAll p u else u) = v →
      exec (.regionCompleted (0x10 + p)) s = .next (postPf 0x0017 0x14 sOk (0x10 + p) (rd (ALM_REGION.COMMITTED_GEN (0x10 + p)) v) v))) ∧
  (∀ (k : Nat) (s : State), serving s = true → k < 16 → isSet (ALM_REGION.COMPLETING (0x110 + k)) s = true →
    ∃ t, exec (.regionCompleted (0x110 + k)) s = .next t ∧ rd (TXT_SET.VALID k) t = 1 ∧ sget t.tokSets k = some (heldOf (0x110 + k) s) ∧
      rd (ALM_REGION.COMPLETING (0x110 + k)) t = 0) ∧
  (∀ (r : Nat) (s u : State), serving s = true → (r < 0x10 ∨ r = 0x10F ∨ 0x160 ≤ r) → isSet (ALM_REGION.COMPLETING r) s = true →
    wr (ALM_REGION.COMPLETING r) 0 s = u →
    exec (.regionCompleted r) s = .next (postPf 0x0017 0x14 sOk r (rd (ALM_REGION.COMMITTED_GEN r) u) u))

/-- Firmware slots, binding models, loading weights and model keys (R423, R424, R460, R461, R515). A WRITE whose image verifies and is not of
a lower SVN makes the slot that is not ACTIVE PENDING; ACTIVATE of a PENDING slot that verifies stops the complex, one that fails marks
the slot FAILED; INVALIDATE empties it. A write while BUSY is set is ignored, one that the plane cannot take now ends with BUSY, one of a
lower SVN or of no PENDING slot with REJECTED. A bind that passes its checks shows the model bound with its vocabulary and enters the
directory of a view; a bound slot is BUSY, a manifest that does not verify AUTH_FAIL, a record that fails REJECTED, no space CAPACITY.
UNBIND takes the model away, unless sessions name it (BUSY) or none is bound (NOT_FOUND). WEIGHTS_LOAD writes the blocks that decrypt to
their digest, up to the first that does not, and completes with how many; without a key, a buffer it can read or blocks of a bound model
it writes none. Model keys are set, for an unbound slot or the bound model's own, and cleared in a finished session; a request outside
one, of another slot or model, or without identity is answered with an error, and one not heard with nothing. -/
def Obligations.FirmwareAndModels : Prop :=
  (∀ (svn digest : Nat) (s : State), serving s = true → isSet ALM_FW_STATUS.BUSY s = false → fwBusy s = false → s.adm.pldmPhase = 0 →
    (fwActive s).svn ≤ svn % 2 ^ 16 →
    exec (.fwWrite true svn digest) s = .next (fwDone sOk (setOther { st := 3, svn := svn % 2 ^ 16, digest := digest } s))) ∧
  (∀ (svn digest : Nat) (s : State), serving s = true → isSet ALM_FW_STATUS.BUSY s = false → fwBusy s = false → s.adm.pldmPhase = 0 →
    exec (.fwWrite false svn digest) s = .next (fwDone sAuthFail (bump SEC_AUTH_FAILS.COUNT 1 s))) ∧
  (∀ (s : State), serving s = true → isSet ALM_FW_STATUS.BUSY s = false → fwBusy s = false → (fwOther s).st = 3 →
    ∃ t, exec (.fwActivate true) s = .next t ∧ t.adm.fwActivating = true ∧ rd ALM_FW_STATUS.BUSY t = 1 ∧ rd HUB_DOMAIN_STATUS.MGT_RUNNING t = 0 ∧
      rd MGT_STATUS.FW_STATE t = 3 ∧ t.adm.spdm = []) ∧
  (∀ (s : State), serving s = true → isSet ALM_FW_STATUS.BUSY s = false → fwBusy s = false → (fwOther s).st = 3 →
    ∃ t, exec (.fwActivate false) s = .next t ∧ (fwOther t).st = 4 ∧ rd ALM_FW_STATUS.STATUS t = sAborted ∧ rd HUB_DOMAIN_STATUS.MGT_RUNNING t = 1) ∧
  (∀ (s : State), serving s = true → isSet ALM_FW_STATUS.BUSY s = false → fwBusy s = false → s.adm.pldmPhase = 0 →
    exec .fwInvalidate s = .next (fwDone sOk (setOther {} s))) ∧
  (∀ (h : Hdr) (slot tokSet vocab recordAddr modelId e0 e1 e2 shard : Nat) (x : Manifest) (as : List Alloc) (ks : List Nat) (s u v w : State),
    passes h 0x30 false s = true → entered h 0x30 s = u → slot ≤ 15 → 256 ≤ vocab → vocab ≤ 262144 → isSet (HIF_MODEL.BOUND slot) s = false →
    x.sigOk = true → isSet SEC_ID_STATUS.OWNER_OK s = true → recordAddr + (attnRecord recordAddr s).length ≤ bondedEnd →
    attnRecordOk slot (attnRecord recordAddr s) s = true → bindTokOk tokSet vocab s = true → modelParts slot s ≠ [] →
    reserveWeights x u = some (as, v) → reserveCopy (copyReserve x.blocks.length) v = some (ks, w) → rd DIR_SELF.STATE w ≠ 2 →
    ∃ t m, exec (.modelBind h slot tokSet vocab recordAddr modelId e0 e1 e2 shard x) s = .next t ∧ sget t.models slot = some m ∧ m.tokSet = tokSet ∧
      m.blocks = x.blocks ∧ m.weightAllocs = as ∧ m.modelId = modelId ∧ rd (HIF_MODEL.BOUND slot) t = 1 ∧ rd (DEC_MODEL.VOCAB slot) t = vocab ∧
      rd (HIF_MODEL.LOADED slot) t = b2n x.blocks.isEmpty) ∧
  (∀ (h : Hdr) (slot : Nat) (s : State), passes h 0x30 false s = true → slot ≤ 15 → isSet (HIF_MODEL.BOUND slot) s = true →
    (s.desc.any fun d => d.2.st != 0 && d.2.model == slot) = false → rd DIR_SELF.STATE s ≠ 2 → (modelOf slot s).tokSet < 16 →
    (modelOf slot s).weightAllocs = [] →
    ∃ t, exec (.modelUnbind h slot) s = .next t ∧ sget t.models slot = none ∧ rd (HIF_MODEL.BOUND slot) t = 0 ∧ rd (HIF_MODEL.LOADED slot) t = 0) ∧
  (∀ (h : Hdr) (slot count first key : Nat) (buf : Buf) (bs : List Byte) (cs : List (List Byte)) (s u : State), passes h 0x31 false s = true →
    entered h 0x31 s = u → slot ≤ 15 → isSet (HIF_MODEL.BOUND slot) s = true → count ≠ 0 → count ≤ 16384 →
    first + count ≤ (modelOf slot s).blocks.length → bufRead h buf (sealedBytes * count) u = some bs → modelKeyOf slot s = some key →
    (List.range count).map (fun k => (bs.drop (sealedBytes * k)).take sealedBytes) = cs →
    (goodBlocks (modelOf slot s) key first cs).length = count →
    exec (.weightsLoad h slot count first buf count) s =
      .next (complete h 0x31 sOk 0 count ones64 ((goodBlocks (modelOf slot s) key first cs).foldl (loadBlock slot) u))) ∧
  (∀ (bind session slot modelId digest key : Nat) (s : State), serving s = true → mgtHears bind s = true → isSet SEC_ID_STATUS.PUF_OK s = true →
    isSet SEC_ID_STATUS.CERT_OK s = true → inSpdm bind session s = true → slot < 16 → sget s.models slot = none →
    ∃ t, exec (.modelKeySet bind session slot modelId digest key) s = .next t ∧
      sget t.adm.modelKeys slot = some { modelId := modelId, digest := digest, key := key } ∧ rdBit SEC_KEYS.MODEL_KEYS slot t = true) ∧
  (∀ (bind session slot : Nat) (s : State), serving s = true → mgtHears bind s = true → isSet SEC_ID_STATUS.PUF_OK s = true →
    isSet SEC_ID_STATUS.CERT_OK s = true → inSpdm bind session s = true → slot < 16 → sorted s.adm.modelKeys = true →
    ∃ t, exec (.modelKeyClear bind session slot) s = .next t ∧ sget t.adm.modelKeys slot = none) ∧
  (∀ (svn digest : Nat) (sigOk : Bool) (s : State), serving s = true → isSet ALM_FW_STATUS.BUSY s = true →
    exec (.fwWrite sigOk svn digest) s = .next s ∧ exec (.fwActivate sigOk) s = .next s ∧ exec .fwInvalidate s = .next s) ∧
  (∀ (svn digest : Nat) (sigOk : Bool) (s : State), serving s = true → isSet ALM_FW_STATUS.BUSY s = false →
    ((fwBusy s = true ∨ s.adm.pldmPhase ≠ 0) → exec (.fwWrite sigOk svn digest) s = .next (fwDone sBusy s) ∧ exec .fwInvalidate s = .next (fwDone sBusy s)) ∧
    (fwBusy s = true → exec (.fwActivate sigOk) s = .next (fwDone sBusy s)) ∧
    (fwBusy s = false → (fwOther s).st ≠ 3 → exec (.fwActivate sigOk) s = .next (fwDone sRejected s)) ∧
    (fwBusy s = false → s.adm.pldmPhase = 0 → svn % 2 ^ 16 < (fwActive s).svn → exec (.fwWrite true svn digest) s = .next (fwDone sRejected s))) ∧
  (∀ (h : Hdr) (slot tokSet vocab recordAddr modelId e0 e1 e2 shard : Nat) (mf : Manifest) (as : List Alloc) (ks : List Nat) (m : Model) (s u v w x : State),
    passes h 0x30 false s = true → entered h 0x30 s = u → slot ≤ 15 → 256 ≤ vocab → vocab ≤ 262144 → isSet (HIF_MODEL.BOUND slot) u = false →
    mf.sigOk = true → isSet SEC_ID_STATUS.OWNER_OK u = true → recordAddr + (attnRecord recordAddr u).length ≤ bondedEnd →
    attnRecordOk slot (attnRecord recordAddr u) u = true → bindTokOk tokSet vocab u = true → modelParts slot u ≠ [] →
    reserveWeights mf u = some (as, v) → reserveCopy (copyReserve mf.blocks.length) v = some (ks, w) →
    { modelFrom (attnRecord recordAddr u) tokSet vocab recordAddr modelId shard mf (modelParts slot u) with
      weightAllocs := as, copyChunks := ks.length, copyList := ks } = m →
    showModel slot m vocab tokSet e0 e1 e2 (decide (m.direct.length = (modelParts slot u).length)) { w with models := sset w.models slot m } = x →
    exec (.modelBind h slot tokSet vocab recordAddr modelId e0 e1 e2 shard mf) s =
      .next (complete h 0x30 sOk 0 0 0 (if rd DIR_SELF.STATE x = 2 then dirRequest .other .put (shardEntry slot m x) x else x))) ∧
  (∀ (h : Hdr) (slot tokSet vocab recordAddr modelId e0 e1 e2 shard : Nat) (mf : Manifest) (s u : State), cmdRuns h s = true → entered h 0x30 s = u →
    (intakeFails h 0x30 (decide (15 < slot) || decide (vocab < 256) || decide (262144 < vocab)) s = true →
      exec (.modelBind h slot tokSet vocab recordAddr modelId e0 e1 e2 shard mf) s = .next (refuse h 0x30 sRejected u)) ∧
    (intakeFails h 0x30 (decide (15 < slot) || decide (vocab < 256) || decide (262144 < vocab)) s = false → isSet (HIF_MODEL.BOUND slot) u = true →
      exec (.modelBind h slot tokSet vocab recordAddr modelId e0 e1 e2 shard mf) s = .next (refuse h 0x30 sBusy u)) ∧
    (intakeFails h 0x30 (decide (15 < slot) || decide (vocab < 256) || decide (262144 < vocab)) s = false → isSet (HIF_MODEL.BOUND slot) u = false →
      (mf.sigOk = false ∨ isSet SEC_ID_STATUS.OWNER_OK u = false) →
      exec (.modelBind h slot tokSet vocab recordAddr modelId e0 e1 e2 shard mf) s = .next (refuse h 0x30 sAuthFail (bump SEC_AUTH_FAILS.COUNT 1 u))) ∧
    (intakeFails h 0x30 (decide (15 < slot) || decide (vocab < 256) || decide (262144 < vocab)) s = false → isSet (HIF_MODEL.BOUND slot) u = false →
      mf.sigOk = true → isSet SEC_ID_STATUS.OWNER_OK u = true →
      (bondedEnd < recordAddr + (attnRecord recordAddr u).length ∨ attnRecordOk slot (attnRecord recordAddr u) u = false ∨
        bindTokOk tokSet vocab u = false ∨ modelParts slot u = []) →
      exec (.modelBind h slot tokSet vocab recordAddr modelId e0 e1 e2 shard mf) s = .next (refuse h 0x30 sRejected u)) ∧
    (intakeFails h 0x30 (decide (15 < slot) || decide (vocab < 256) || decide (262144 < vocab)) s = false → isSet (HIF_MODEL.BOUND slot) u = false →
      mf.sigOk = true → isSet SEC_ID_STATUS.OWNER_OK u = true → recordAddr + (attnRecord recordAddr u).length ≤ bondedEnd →
      attnRecordOk slot (attnRecord recordAddr u) u = true → bindTokOk tokSet vocab u = true → modelParts slot u ≠ [] →
      (reserveWeights mf u = none ∨ ∃ as v, reserveWeights mf u = some (as, v) ∧ reserveCopy (copyReserve mf.blocks.length) v = none) →
      exec (.modelBind h slot tokSet vocab recordAddr modelId e0 e1 e2 shard mf) s = .next (refuse h 0x30 sCapacity u))) ∧
  (∀ (h : Hdr) (slot : Nat) (s u : State), cmdRuns h s = true → entered h 0x30 s = u →
    (intakeFails h 0x30 (decide (15 < slot)) s = true → exec (.modelUnbind h slot) s = .next (refuse h 0x30 sRejected u)) ∧
    (intakeFails h 0x30 (decide (15 < slot)) s = false → isSet (HIF_MODEL.BOUND slot) u = false →
      exec (.modelUnbind h slot) s = .next (complete h 0x30 sNotFound (0xFFF * 2 ^ 52) 0 0 u)) ∧
    (intakeFails h 0x30 (decide (15 < slot)) s = false → isSet (HIF_MODEL.BOUND slot) u = true →
      (u.desc.any fun d => d.2.st != 0 && d.2.model == slot) = true → exec (.modelUnbind h slot) s = .next (refuse h 0x30 sBusy u)) ∧
    (intakeFails h 0x30 (decide (15 < slot)) s = false → isSet (HIF_MODEL.BOUND slot) u = true →
      (u.desc.any fun d => d.2.st != 0 && d.2.model == slot) = false →
      exec (.modelUnbind h slot) s = .next (complete h 0x30 sOk 0 0 0 (releaseModel slot u)))) ∧
  (∀ (h : Hdr) (slot count first good : Nat) (buf : Buf) (s u : State), cmdRuns h s = true → entered h 0x31 s = u →
    (intakeFails h 0x31 false s = true ∨ 15 < slot ∨ isSet (HIF_MODEL.BOUND slot) u = false ∨ count = 0 ∨ 16384 < count ∨
      (modelOf slot u).blocks.length < first + count) →
    exec (.weightsLoad h slot count first buf good) s = .next (complete h 0x31 sRejected 0 0 ones64 u)) ∧
  (∀ (h : Hdr) (slot count first good : Nat) (buf : Buf) (s u : State), passes h 0x31 false s = true → entered h 0x31 s = u → slot ≤ 15 →
    isSet (HIF_MODEL.BOUND slot) u = true → count ≠ 0 → count ≤ 16384 → first + count ≤ (modelOf slot u).blocks.length →
    (bufRead h buf (sealedBytes * count) u = none →
      exec (.weightsLoad h slot count first buf good) s =
        .next (complete h 0x31 sRejected 0 0 ones64 (bufLost h buf (sealedBytes * count) u))) ∧
    (∀ bs, bufRead h buf (sealedBytes * count) u = some bs → modelKeyOf slot u = none →
      exec (.weightsLoad h slot count first buf good) s = .next (complete h 0x31 sAuthFail 0 0 first u)) ∧
    (∀ bs key done, bufRead h buf (sealedBytes * count) u = some bs → modelKeyOf slot u = some key →
      goodBlocks (modelOf slot u) key first (((List.range count).map fun k => (bs.drop (sealedBytes * k)).take sealedBytes).take good) = done →
      done.length ≠ count →
      exec (.weightsLoad h slot count first buf good) s =
        .next (complete h 0x31 sAuthFail 0 done.length (first + done.length) (done.foldl (loadBlock slot) u)))) ∧
  (∀ (bind session slot modelId digest key : Nat) (s : State), serving s = true →
    (mgtHears bind s = false → exec (.modelKeySet bind session slot modelId digest key) s = .next s ∧ exec (.modelKeyClear bind session slot) s = .next s) ∧
    (mgtHears bind s = true → (isSet SEC_ID_STATUS.PUF_OK s = false ∨ isSet SEC_ID_STATUS.CERT_OK s = false ∨ inSpdm bind session s = false ∨ 16 ≤ slot) →
      exec (.modelKeySet bind session slot modelId digest key) s = .next (mgtSend bind 5 [0x7F] (bump SEC_SPDM_ERRORS.COUNT 1 s)) ∧
      exec (.modelKeyClear bind session slot) s = .next (mgtSend bind 5 [0x7F] (bump SEC_SPDM_ERRORS.COUNT 1 s))) ∧
    (mgtHears bind s = true → (sget s.models slot).isSome = true → ((modelOf slot s).modelId ≠ modelId ∨ (modelOf slot s).manifest ≠ digest) →
      exec (.modelKeySet bind session slot modelId digest key) s = .next (mgtSend bind 5 [0x7F] (bump SEC_SPDM_ERRORS.COUNT 1 s))) ∧
    (mgtHears bind s = true → isSet SEC_ID_STATUS.PUF_OK s = true → isSet SEC_ID_STATUS.CERT_OK s = true → inSpdm bind session s = true → slot < 16 →
      ((sget s.models slot).isNone = true ∨ ((modelOf slot s).modelId = modelId ∧ (modelOf slot s).manifest = digest)) →
      exec (.modelKeySet bind session slot modelId digest key) s = .next (mgtSend bind 6 [0x7E, 1, slot] (postPf 0x0020 0x16 sOk slot modelId
        (wrBit SEC_KEYS.MODEL_KEYS slot true
          { s with adm.modelKeys := sset s.adm.modelKeys slot { modelId := modelId, digest := digest, key := key } })))) ∧
    (mgtHears bind s = true → isSet SEC_ID_STATUS.PUF_OK s = true → isSet SEC_ID_STATUS.CERT_OK s = true → inSpdm bind session s = true → slot < 16 →
      exec (.modelKeyClear bind session slot) s = .next (mgtSend bind 6 [0x7E, 2, slot] (eraseModelKey slot s))))

/-- EPHEMERIS_SUBMIT without a cadence is carried out in full and completes with CADENCE_LOST (R70). In NOPULSE, UNALIGNED and FREEWHEEL a run
that passes its checks is appended and completes with CADENCE_LOST, exactly as it is appended and completes with OK in LOCKED and
HOLDOVER. -/
def Obligations.SubmitWithoutCadence : Prop :=
  ∀ (h : Hdr) (table count : Nat) (buf : Buf) (bs : List Byte) (s : State), passes h 0x40 false s = true → count ≠ 0 → count ≤ 65536 → table < 64 →
    bufRead h buf (32 * count) s = some bs → isSet (EPH_TABLE_CTRL.ENABLE table) s = true →
    (ephOf table s).entries.length + count ≤ ringSize table s →
    badEntry ((ephOf table s).entries.getLast?.map (·.tick)) 0 ((pieces 32 count bs).map entryOf) = none →
    ((rd SID_STATUS.STATE s = cNoPulse ∨ rd SID_STATUS.STATE s = cUnaligned ∨ rd SID_STATUS.STATE s = cFreewheel) →
      exec (.ephemerisSubmit h table count buf) s =
        .next (ephDispatch (complete h 0x40 sCadenceLost 0 (ringTail table s) ones64
          (ephAppend table ((pieces 32 count bs).map entryOf) bs (entered h 0x40 s))))) ∧
    ((rd SID_STATUS.STATE s = cLocked ∨ rd SID_STATUS.STATE s = cHoldover) →
      exec (.ephemerisSubmit h table count buf) s =
        .next (ephDispatch (complete h 0x40 sOk 0 (ringTail table s) ones64
          (ephAppend table ((pieces 32 count bs).map entryOf) bs (entered h 0x40 s)))))

/-- What power, the reset pins, thermal limits, aborts and start-up leave (R51, R77, R106, R403, R543, R550, R552, R553, R554, R555, R556). A
reset with power held empties both memories, the session table and the count, leaves every register at its reset value but the dump status
and the boot status, and records its cause; it follows PERST_N, MOD_RST_N, a hot reset, a reset of the PF and a hub fault; a pin at its
level does nothing. Losing the rails by PWR_EN, the supply, a brownout or a trip keeps nothing; power that comes back is a cold start.
Start-up that passes its tests sets HUB_OK and retires the channels found bad; one that fails records its stop code. A reading above a
critical limit enters the critical state, one 5 C below leaves it, and any other does nothing; so do readings of sensors that do not
exist. The firmware's self-test sets MGT_RUNNING at start-up and after a restart, or ends an activation; the boot image of higher
generation loads first. Adding VFs enables them, removing resets them. An abort that the intake takes stops its function's work, and
arrays of an aborted function's kernel are reset, its step ending with them. -/
def Obligations.PowerAndResets : Prop :=
  (∀ (cause : Nat) (s : State), cause < 8 → (heldReset cause s).mem = [] ∧ (heldReset cause s).deepMem = [] ∧ (heldReset cause s).desc = [] ∧
    now (heldReset cause s) = 0 ∧ rd HUB_BOOT_STATUS.STAGE (heldReset cause s) = 2 ∧ rd HUB_BOOT_STATUS.LAST_RESET (heldReset cause s) = cause ∧
    (heldReset cause s).adm.bootA = s.adm.bootA ∧ (heldReset cause s).adm.bootB = s.adm.bootB ∧
    (∀ f : Fld, fkey f ∉ [fkey DBG_DUMP_STATUS.HELD, fkey DBG_DUMP_STATUS.LATEST, fkey HUB_BOOT_STATUS.STAGE, fkey HUB_BOOT_STATUS.LAST_RESET] →
      rd f (heldReset cause s) = f.rst)) ∧
  (∀ (s : State), s.pow.perst = false → pwrGood s = true →
    exec (.perstN false) s = .next (heldReset 1 { s with pow := { s.pow with perst := true } })) ∧
  (∀ (s : State), s.pow.perst = true → exec (.perstN true) s = .next { s with pow := { s.pow with perst := false } }) ∧
  (∀ (s : State), s.pow.modRst = false → pwrGood s = true →
    exec (.modRstN false) s = .next (heldReset 3 { s with pow := { s.pow with modRst := true } })) ∧
  (∀ (s : State), s.pow.modRst = true → exec (.modRstN true) s = .next { s with pow := { s.pow with modRst := false } }) ∧
  (∀ (s : State), live s = true → exec .pcieHotReset s = .next (heldReset 1 s)) ∧
  (∀ (s : State), live s = true → exec (.functionLevelReset 0) s = .next (heldReset 2 s)) ∧
  (∀ (s : State), live s = true → ∃ t, exec .hubFault s = .next t ∧ rd HUB_BOOT_STATUS.LAST_RESET t = 4 ∧ t.pow.hubFaultPending = true ∧ t.mem = []) ∧
  (∀ (fn : Nat) (s : State), serving s = true → 0 < fn → fn < 256 → exec (.functionLevelReset fn) s = .next (abortFn fn none true s)) ∧
  (∀ (n : Nat) (s : State), serving s = true → s.numVfs ≤ n → n ≤ 255 →
    ∃ t, exec (.numvfsChange n) s = .next t ∧ t.numVfs = n ∧ (∀ f, s.numVfs < f → f ≤ n → rd (HIF_FN_STATUS.STATE f) t = 1) ∧ t.desc = s.desc) ∧
  (∀ (s : State), s.pow.pwrEn = false → s.pow.p54v = true →
    ∃ t, exec (.pwrEn true) s = .next t ∧ t.pow.rails = true ∧ t.mem = [] ∧ now t = 0 ∧ rd HUB_BOOT_STATUS.STAGE t = 1 ∧
      rd HUB_BOOT_STATUS.LAST_RESET t = if s.pow.tripLatch then 5 else if s.pow.brownoutLatch then 6 else 0) ∧
  (∀ (s : State), s.pow.pwrEn = true → ∃ t, exec (.pwrEn false) s = .next t ∧ t.pow.rails = false ∧ t.mem = [] ∧ t.deepMem = [] ∧ t.dumps = []) ∧
  (∀ (s : State), pwrGood s = true → ∃ t, exec .brownout s = .next t ∧ t.pow.rails = false ∧ t.pow.brownoutLatch = true ∧ t.mem = []) ∧
  (∀ (slot : Nat) (s : State), s.pow.p54v = false → s.pow.pwrEn = false →
    exec (.p54vChange true slot) s = .next { s with pow := { s.pow with p54v := true, slotId := slot % 8 } }) ∧
  (∀ (slot : Nat) (s : State), s.pow.p54v = true →
    ∃ t, exec (.p54vChange false slot) s = .next t ∧ t.pow.p54v = false ∧ t.pow.rails = false ∧ t.pow.tripLatch = false ∧ t.mem = []) ∧
  (∀ (kind index temp o c tr n : Nat) (s : State), limits kind = some (o, c, tr, n) → index < n →
    (live s = true → c < temp → s.pow.critical.contains (kind * 0x10000 + index) = false →
      exec (.criticalLimit kind index temp) s =
        .next (criticalEv kind index 1 temp { s with pow := { s.pow with critical := s.pow.critical ++ [kind * 0x10000 + index] } })) ∧
    (pwrGood s = true → tr ≤ temp →
      exec (.thermalTrip kind index temp) s = .next (railsOff { s with pow := { s.pow with tripLatch := true } })) ∧
    (live s = true → o < temp → rd HUB_BOOT_STATUS.STOP_CODE s = 0 → rd HUB_BOOT_STATUS.STAGE s ≠ 8 →
      ∃ t, exec (.operatingLimitStop kind index temp) s = .next t ∧ rd HUB_BOOT_STATUS.STOP_CODE t = 6 ∧ rd HUB_BOOT_STATUS.STAGE t = 0xF)) ∧
  (∀ (r : BootResult) (s u : State), live s = true → starting s = true → r.record ≠ none → r.hubOk = true → r.badChans = [] →
    bootArrays r (wr HUB_BOOT_STATUS.SLOT_ID s.pow.slotId (showBoot (showFw (bootIdentity r s)))) = u →
    3 ≤ ((List.range 4).filter (bootTile r u)).length → r.badDeep.eraseDups.length ≤ 48 →
    ∃ t, exec (.startUpEngineDone r) s = .next t ∧ rd HUB_DOMAIN_STATUS.HUB_OK t = 1 ∧ rd SES_CTRL.INIT_DONE t = 1 ∧
      rd (SES_STATE_COUNT.COUNT 0) t = 0x40_0000 ∧ rd (HIF_FN_STATUS.STATE 0) t = 1) ∧
  (∀ (r : BootResult) (s : State), live s = true → starting s = true → r.record = none →
    ∃ t, exec (.startUpEngineDone r) s = .next t ∧ rd HUB_BOOT_STATUS.STOP_CODE t = 1 ∧ rd HUB_BOOT_STATUS.STAGE t = 0xF) ∧
  (∀ (aOk bOk : Bool) (s : State), live s = true → rd HUB_BOOT_STATUS.STOP_CODE s = 0 → isSet HUB_DOMAIN_STATUS.MGT_RUNNING s = false →
    s.adm.fwActivating = false → rd MGT_STATUS.FW_STATE s ≠ 2 → (if s.adm.fwRun = 0 then aOk else bOk) = true →
    ∃ t, exec (.firmwareSelfTestDone aOk bOk) s = .next t ∧ rd HUB_DOMAIN_STATUS.MGT_RUNNING t = 1 ∧ rd MGT_STATUS.FW_STATE t = 1) ∧
  (∀ (aOk bOk : Bool) (s : State), serving s = true → rd HUB_BOOT_STATUS.STAGE s = 7 →
    ∃ t, exec (.bootAlmanacLoad aOk bOk) s = .next t ∧ rd HUB_BOOT_STATUS.STAGE t = 8 ∧
      (bootGen s.adm.bootA = 0 → bootGen s.adm.bootB = 0 → t = wr HUB_BOOT_STATUS.STAGE 8 s)) ∧
  (∀ (s : State), serving s = true → s.adm.fwActivating = true →
    ∃ t, exec .activationTimeout s = .next t ∧ t.adm.fwActivating = false ∧ (fwOther t).st = 4 ∧ rd HUB_DOMAIN_STATUS.MGT_RUNNING t = 1) ∧
  (∀ (h : Hdr) (fn : Nat) (s : State), passes h 0x7F false s = true → fn < 256 → (h.fn = 0 ∨ h.fn = fn) →
    exec (.abortFunction h fn) s = .next (abortFn fn (some h) false (entered h 0x7F s))) ∧
  (∀ (p : Nat) (s u : State), serving s = true → (s.aborts.any fun a => fnRuns a.fn p s) = true →
    modPart p (fun x => { x with reload := true })
      ((runRanks p s).foldl (fun s a => if a < 2048 then arrayReset a s else s) (haltRanks p s)) = u →
    ((partOf p s).step = none → exec (.abortArrayReset p) s = .next (settleAborts u)) ∧
    (∀ st, (partOf p s).step = some st → exec (.abortArrayReset p) s =
      .next (settleAborts (if ((partOf p s).running.map (·.ofStep)).getD false = true
        then endStep p { st with runs := st.runs.map fun r => { r with status := 3 } } u else u)))) ∧
  (∀ (p : Nat) (s : State), serving s = true → (s.aborts.any fun a => fnRuns a.fn p s) = false → exec (.abortArrayReset p) s = .next s) ∧
  (∀ (h : Hdr) (fn : Nat) (s : State), cmdRuns h s = true → (intakeFails h 0x7F (decide (256 ≤ fn)) s = true ∨ (h.fn ≠ 0 ∧ h.fn ≠ fn)) →
    exec (.abortFunction h fn) s = .next (refuse h 0x7F sRejected (entered h 0x7F s))) ∧
  (∀ (high : Bool) (slot : Nat) (s : State),
    (s.pow.perst = !high → exec (.perstN high) s = .next s) ∧ (s.pow.modRst = !high → exec (.modRstN high) s = .next s) ∧
    (s.pow.perst = false → pwrGood s = false → exec (.perstN false) s = .next { s with pow := { s.pow with perst := true } }) ∧
    (s.pow.modRst = false → pwrGood s = false → exec (.modRstN false) s = .next { s with pow := { s.pow with modRst := true } }) ∧
    (s.pow.pwrEn = high → exec (.pwrEn high) s = .next s) ∧ (s.pow.p54v = high → exec (.p54vChange high slot) s = .next s) ∧
    (s.pow.pwrEn = false → s.pow.p54v = false → exec (.pwrEn true) s = .next { s with pow := { s.pow with pwrEn := true } }) ∧
    (pwrGood s = false → exec .brownout s = .next s)) ∧
  (∀ (slot : Nat) (s : State), s.pow.p54v = false → s.pow.pwrEn = true →
    exec (.p54vChange true slot) s = .next (coldStart { s with pow := { s.pow with p54v := true, slotId := slot % 8 } })) ∧
  (∀ (fn : Nat) (s : State), live s = true → 0 < fn → (serving s = false ∨ 256 ≤ fn) → exec (.functionLevelReset fn) s = .next s) ∧
  (∀ (n : Nat) (s u : State), live s = true →
    ((List.range 256).filter fun f => decide (s.numVfs < f) && decide (f ≤ n)).foldl (fun s f => wr (HIF_FN_STATUS.STATE f) 1 s)
      { s with numVfs := min n 255 } = u →
    exec (.numvfsChange n) s = .next (if serving u = true then
      ((List.range 256).filter fun f => decide (n < f) && decide (f ≤ s.numVfs)).foldl (fun s f => abortFn f none true s) u else u)) ∧
  (∀ (kind index temp o c tr n : Nat) (s : State), limits kind = some (o, c, tr, n) → live s = true →
    (index < n → temp + 5 ≤ c → s.pow.critical.contains (kind * 0x10000 + index) = true →
      exec (.criticalLimit kind index temp) s =
        .next (criticalEv kind index 0 temp { s with pow := { s.pow with critical := s.pow.critical.filter (· != kind * 0x10000 + index) } })) ∧
    ((n ≤ index ∨ (temp ≤ c ∧ c < temp + 5) ∨ (c < temp ∧ s.pow.critical.contains (kind * 0x10000 + index) = true) ∨
      (temp ≤ c ∧ s.pow.critical.contains (kind * 0x10000 + index) = false)) → exec (.criticalLimit kind index temp) s = .next s) ∧
    ((n ≤ index ∨ temp < tr ∨ pwrGood s = false) → exec (.thermalTrip kind index temp) s = .next s) ∧
    ((n ≤ index ∨ temp ≤ o ∨ rd HUB_BOOT_STATUS.STOP_CODE s ≠ 0 ∨ rd HUB_BOOT_STATUS.STAGE s = 8) →
      exec (.operatingLimitStop kind index temp) s = .next s)) ∧
  (∀ (kind index temp : Nat) (s : State), (kind = 0 ∨ 4 < kind) → exec (.criticalLimit kind index temp) s = .next s ∧
    exec (.thermalTrip kind index temp) s = .next s ∧ exec (.operatingLimitStop kind index temp) s = .next s) ∧
  (∀ (r : BootResult) (s : State), live s = true → starting s = false → exec (.startUpEngineDone r) s = .next s) ∧
  (∀ (r : BootResult) (tiles : List Nat) (s u v : State), live s = true → starting s = true → r.record ≠ none →
    wr HUB_BOOT_STATUS.SLOT_ID s.pow.slotId (showBoot (showFw (bootIdentity r s))) = u → bootArrays r u = v →
    (List.range 4).filter (bootTile r v) = tiles →
    (r.hubOk = false → exec (.startUpEngineDone r) s = .next (stopStart 4 u)) ∧
    (r.hubOk = true → tiles.length < 3 →
      exec (.startUpEngineDone r) s = .next (stopStart 3 (wr HUB_DOMAIN_STATUS.TILE_PRESENT ((tiles.map (2 ^ ·)).sum) v))) ∧
    (r.hubOk = true → 3 ≤ tiles.length → 48 < r.badDeep.eraseDups.length → exec (.startUpEngineDone r) s = .next (stopStart 5 v)) ∧
    (∀ x, r.hubOk = true → 3 ≤ tiles.length → r.badDeep.eraseDups.length ≤ 48 →
      wr SES_CTRL.INIT_DONE 1 (wr (SES_STATE_COUNT.COUNT 0) 0x40_0000 (bootDomains tiles (bootDeep r v))) = x →
      ∃ y, y = wr HUB_BOOT_STATUS.HUB_OK_MS (min r.ms 0xFFFF) { x with pow := { x.pow with hubFaultPending := false } } ∧
        exec (.startUpEngineDone r) s = .next ((r.badChans.filter fun g => tiles.contains (g / 192)).foldl
          (fun s g => if chRetired g s then s else retireChan g false s)
          (bootPorts (c0Refresh (wr (HIF_FN_STATUS.STATE 0) 1
            (wr HUB_BOOT_STATUS.STAGE (if isSet HUB_DOMAIN_STATUS.MGT_RUNNING y then 7 else 6) y))))))) ∧
  (∀ (aOk bOk : Bool) (s : State), live s = true →
    ((rd HUB_BOOT_STATUS.STOP_CODE s ≠ 0 ∨ isSet HUB_DOMAIN_STATUS.MGT_RUNNING s = true) → exec (.firmwareSelfTestDone aOk bOk) s = .next s) ∧
    (rd HUB_BOOT_STATUS.STOP_CODE s = 0 → isSet HUB_DOMAIN_STATUS.MGT_RUNNING s = false → s.adm.fwActivating = true →
      exec (.firmwareSelfTestDone aOk bOk) s = .next (if (if s.adm.fwRun = 0 then bOk else aOk) = true
        then event18 sOk (fwDone sOk (mgtUp (fwSwitch { s with adm.fwActivating := false }))) else activationTimeout s)) ∧
    (rd HUB_BOOT_STATUS.STOP_CODE s = 0 → isSet HUB_DOMAIN_STATUS.MGT_RUNNING s = false → s.adm.fwActivating = false → rd MGT_STATUS.FW_STATE s = 2 →
      exec (.firmwareSelfTestDone aOk bOk) s = .next (if (if s.adm.fwRun = 0 then aOk else bOk) = true
        then postPf 0x0023 0x17 sOk (rd MGT_STATUS.RESTARTS s) s.adm.fwRun (mgtUp s) else s)) ∧
    (rd HUB_BOOT_STATUS.STOP_CODE s = 0 → isSet HUB_DOMAIN_STATUS.MGT_RUNNING s = false → s.adm.fwActivating = false → rd MGT_STATUS.FW_STATE s ≠ 2 →
      exec (.firmwareSelfTestDone aOk bOk) s = .next (firstFirmware (if s.adm.fwRun = 0 then aOk else bOk) (if s.adm.fwRun = 0 then bOk else aOk) s))) ∧
  (∀ (aOk bOk : Bool) (s : State), serving s = true → rd HUB_BOOT_STATUS.STAGE s ≠ 7 → exec (.bootAlmanacLoad aOk bOk) s = .next s) ∧
  (∀ (aOk bOk : Bool) (a b : List Byte × Bool) (s : State), serving s = true → rd HUB_BOOT_STATUS.STAGE s = 7 →
    (if bootGen s.adm.bootB ≤ bootGen s.adm.bootA then ((s.adm.bootA, aOk), (s.adm.bootB, bOk)) else ((s.adm.bootB, bOk), (s.adm.bootA, aOk))) = (a, b) →
    exec (.bootAlmanacLoad aOk bOk) s = .next (wr HUB_BOOT_STATUS.STAGE 8 ([a, b].foldl
      (fun s x => if bootGen x.1 = 0 ∨ stageState s ≠ stEmpty then s else loadImage x.1 x.2 true s) s))) ∧
  (∀ (s : State), serving s = true → s.adm.fwActivating = false → exec .activationTimeout s = .next s)

/-- Agreeing, using and closing job keys, the owner record, and secured sessions (R498, R505, R506, R507, R508, R509, R512, R513, R514). An
OFFER that passes its checks is pending until its answer or 100,000 tick edges. ACCEPT of an offer that verifies, and COMPLETE of a reply
that verifies, install the pair's keys; an operand out of range or a reply to no offer is REJECTED, one that does not verify or comes
without a PUF fails and is counted, and one without room ends with CAPACITY. CLOSE leaves no key of the job. An old receiving key serves
for 256 tick edges. An owner record that verifies, and is not of an SVN in use, is taken and shown. While BUSY is set each is ignored.
SPDM requests that the complex hears are answered, or with an error where identity is missing, the request is none of R513's or its
session is not open on that transport; at most four sessions, key exchange opens one, FINISH finishes it and END_SESSION ends it. IDE keys
are set and taken away in a finished session on DOE, at most eight streams. SPDM and IDE_KM answer codes are the model's (PRESUMED). -/
def Obligations.JobKeys : Prop :=
  (∀ (job peer : Nat) (s : State), serving s = true → isSet SEC_KX_STATUS.BUSY s = false → jobOk job = true → peer < 0xFFF →
    inBonded (kxAddr s) 6720 = true → field (memRead s (kxAddr s) 64) 4 1 = 1 → field (memRead s (kxAddr s) 64) 5 1 = job →
    field (memRead s (kxAddr s) 64) 10 2 = peer → isSet SEC_ID_STATUS.PUF_OK s = true → s.adm.offers.length < 64 →
    ∃ t o, exec (.kxOffer job peer) s = .next t ∧ t.adm.offers = s.adm.offers ++ [o] ∧ o.job = job ∧ o.peer = peer ∧ o.edge = s.cad.edges ∧
      o.jobId = field (memRead s (kxAddr s) 64) 0x10 32 ∧ rd SEC_KX_STATUS.STATUS t = sOk) ∧
  (∀ (job peer : Nat) (sigOk : Bool) (s : State), serving s = true → isSet SEC_KX_STATUS.BUSY s = false → jobOk job = true → peer < 0xFFF →
    inBonded (kxAddr s) (8192 + 6624) = true → isSet SEC_ID_STATUS.PUF_OK s = false →
    exec (.kxAccept job peer sigOk) s = .next (kxFail job peer s)) ∧
  (∀ (job peer : Nat) (sigOk : Bool) (s : State), serving s = true → isSet SEC_KX_STATUS.BUSY s = false → jobOk job = true → peer < 0xFFF →
    inBonded (kxAddr s) (8192 + 6624) = true → isSet SEC_ID_STATUS.PUF_OK s = true →
    kxNames 1 job peer (rd SES_CTRL.MODULE_ID s) (memRead s (kxAddr s) 6720) = true → kxVerifies 1 (memRead s (kxAddr s) 6720) sigOk s = true →
    pairRoom job peer s = true →
    ∃ t p, exec (.kxAccept job peer sigOk) s = .next t ∧ sget t.net.pairs (job * 4096 + peer) = some p ∧ p.job = job ∧ p.peer = peer ∧
      p.txPar = false ∧ p.rxPar = false ∧ p.msgId = 1 ∧ rd SEC_KX_STATUS.STATUS t = sOk) ∧
  (∀ (job peer : Nat) (sigOk : Bool) (o : Offer) (s : State), serving s = true → isSet SEC_KX_STATUS.BUSY s = false → jobOk job = true →
    peer < 0xFFF → inBonded (kxAddr s) 6624 = true →
    (s.adm.offers.find? fun o => o.job == job && o.peer == peer && o.jobId == field (memRead s (kxAddr s) 6624) 0x10 32) = some o →
    kxNames 2 job (rd SES_CTRL.MODULE_ID s) peer (memRead s (kxAddr s) 6624) = true → kxVerifies 2 (memRead s (kxAddr s) 6624) sigOk s = true →
    pairRoom job peer s = true →
    exec (.kxComplete job peer sigOk) s = .next (kxEnd job peer sOk
      (installKeys job peer (agreedKeys o.secret (Config.digest ((memRead s (kxAddr s) 6624).take 0x4A0)) o.jobId) true
        { s with adm.offers := s.adm.offers.erase o }))) ∧
  (∀ (job : Nat) (s : State), serving s = true → isSet SEC_KX_STATUS.BUSY s = false → jobOk job = true →
    ∃ t, exec (.kxClose job) s = .next t ∧ (t.net.pairs.all fun p => p.2.job != job) = true ∧ rd (SEC_JOB.OPEN job) t = 0 ∧
      rd SEC_KX_STATUS.STATUS t = sOk) ∧
  (∀ (job peer : Nat) (o : Offer) (s : State), serving s = true →
    (s.adm.offers.find? fun o => o.job == job && o.peer == peer && decide (o.edge + 100000 ≤ s.cad.edges)) = some o →
    exec (.offerTimeout job peer) s =
      .next (postPf 0x001E 0x16 sTimeout (job * 2 ^ 16 + peer) 0 (showJob job { s with adm.offers := s.adm.offers.erase o }))) ∧
  (∀ (job peer k lim top : Nat) (seen : List Nat) (p : Pair) (s : State), serving s = true → sget s.net.pairs (job * 4096 + peer) = some p →
    p.old = some (k, lim, top, seen) → lim ≤ s.cad.edges →
    exec (.oldKeyExpiry job peer) s = .next { s with net.pairs := sset s.net.pairs (job * 4096 + peer) { p with old := none } }) ∧
  (∀ (b : List Byte) (s : State), serving s = true → isSet SEC_KX_STATUS.BUSY s = false → memRead s (kxAddr s) 5632 = b →
    inBonded (kxAddr s) 5632 = true → field b 0 4 = 0x4F574E31 → field b 8 1 ≠ 0 → field b 8 1 ≤ 4 →
    field (b.drop (64 + 32 * field b 8 1)) 6 1 = 1 → isSet SEC_ID_STATUS.OWNER_OK s = false → s.adm.ownA = none → s.adm.ownB = none →
    ∃ t, exec (.ownerUpdate true) s = .next t ∧ rd SEC_ID_STATUS.OWNER_OK t = 1 ∧ rd SEC_ID_STATUS.OWNER_KEYS t = field b 8 1 ∧
      rd SEC_ID_STATUS.OWNER_SVN t = field b 4 4 % 2 ^ 32 ∧ t.adm.ownA = some (field b 8 1, field b 4 4)) ∧
  (∀ (bind code : Nat) (s : State), serving s = true → mgtHears bind s = true → isSet SEC_ID_STATUS.PUF_OK s = true →
    isSet SEC_ID_STATUS.CERT_OK s = true → code ∈ [0x81, 0x82, 0x83, 0x84, 0xE1, 0xE3] →
    exec (.spdmRequest bind (.plain code)) s = .next (mgtSend bind 5 [code - 0x80] s)) ∧
  (∀ (bind : Nat) (r : SpdmReq) (s : State), serving s = true → mgtHears bind s = true → isSet SEC_ID_STATUS.PUF_OK s = false →
    exec (.spdmRequest bind r) s = .next (mgtSend bind 5 [0x7F] (bump SEC_SPDM_ERRORS.COUNT 1 s))) ∧
  (∀ (session stream k : Nat) (s : State), serving s = true → mgtHears 2 s = true → isSet SEC_ID_STATUS.PUF_OK s = true →
    isSet SEC_ID_STATUS.CERT_OK s = true → inSpdm 2 session s = true → s.adm.ide.length < 8 →
    ∃ t, exec (.ideKm session stream (some k)) s = .next t ∧ sget t.adm.ide stream = some k) ∧
  (∀ (job peer : Nat) (sigOk : Bool) (s : State), serving s = true → isSet SEC_KX_STATUS.BUSY s = true →
    exec (.kxOffer job peer) s = .next s ∧ exec (.kxAccept job peer sigOk) s = .next s ∧ exec (.kxComplete job peer sigOk) s = .next s ∧
      exec (.kxClose job) s = .next s ∧ exec (.ownerUpdate sigOk) s = .next s) ∧
  (∀ (job peer : Nat) (sigOk : Bool) (s : State), serving s = true → isSet SEC_KX_STATUS.BUSY s = false →
    ((jobOk job = false ∨ 0xFFF ≤ peer ∨ inBonded (kxAddr s) 6720 = false ∨ field (memRead s (kxAddr s) 64) 4 1 ≠ 1 ∨
        field (memRead s (kxAddr s) 64) 5 1 ≠ job ∨ field (memRead s (kxAddr s) 64) 10 2 ≠ peer) →
      exec (.kxOffer job peer) s = .next (kxDone sRejected s)) ∧
    ((jobOk job = false ∨ 0xFFF ≤ peer ∨ inBonded (kxAddr s) (8192 + 6624) = false) → exec (.kxAccept job peer sigOk) s = .next (kxDone sRejected s)) ∧
    ((jobOk job = false ∨ 0xFFF ≤ peer ∨ inBonded (kxAddr s) 6624 = false ∨
        (s.adm.offers.find? fun o => o.job == job && o.peer == peer && o.jobId == field (memRead s (kxAddr s) 6624) 0x10 32) = none) →
      exec (.kxComplete job peer sigOk) s = .next (kxDone sRejected s)) ∧
    (jobOk job = false → exec (.kxClose job) s = .next (kxDone sRejected s))) ∧
  (∀ (job peer : Nat) (s : State), serving s = true → isSet SEC_KX_STATUS.BUSY s = false → jobOk job = true → peer < 0xFFF →
    inBonded (kxAddr s) 6720 = true → field (memRead s (kxAddr s) 64) 4 1 = 1 → field (memRead s (kxAddr s) 64) 5 1 = job →
    field (memRead s (kxAddr s) 64) 10 2 = peer →
    (isSet SEC_ID_STATUS.PUF_OK s = false → exec (.kxOffer job peer) s = .next (kxFail job peer s)) ∧
    (isSet SEC_ID_STATUS.PUF_OK s = true → 64 ≤ s.adm.offers.length → exec (.kxOffer job peer) s = .next (kxEnd job peer sCapacity s))) ∧
  (∀ (job peer : Nat) (sigOk : Bool) (s : State), serving s = true → isSet SEC_KX_STATUS.BUSY s = false → jobOk job = true → peer < 0xFFF →
    inBonded (kxAddr s) (8192 + 6624) = true → isSet SEC_ID_STATUS.PUF_OK s = true →
    ((kxNames 1 job peer (rd SES_CTRL.MODULE_ID s) (memRead s (kxAddr s) 6720) = false ∨ kxVerifies 1 (memRead s (kxAddr s) 6720) sigOk s = false) →
      exec (.kxAccept job peer sigOk) s = .next (kxFail job peer (bump SEC_AUTH_FAILS.COUNT 1 s))) ∧
    (kxNames 1 job peer (rd SES_CTRL.MODULE_ID s) (memRead s (kxAddr s) 6720) = true → kxVerifies 1 (memRead s (kxAddr s) 6720) sigOk s = true →
      pairRoom job peer s = false → exec (.kxAccept job peer sigOk) s = .next (kxEnd job peer sCapacity s))) ∧
  (∀ (job peer : Nat) (sigOk : Bool) (o : Offer) (s : State), serving s = true → isSet SEC_KX_STATUS.BUSY s = false → jobOk job = true →
    peer < 0xFFF → inBonded (kxAddr s) 6624 = true →
    (s.adm.offers.find? fun o => o.job == job && o.peer == peer && o.jobId == field (memRead s (kxAddr s) 6624) 0x10 32) = some o →
    ((kxNames 2 job (rd SES_CTRL.MODULE_ID s) peer (memRead s (kxAddr s) 6624) = false ∨ kxVerifies 2 (memRead s (kxAddr s) 6624) sigOk s = false) →
      exec (.kxComplete job peer sigOk) s = .next (kxFail job peer (bump SEC_AUTH_FAILS.COUNT 1 s))) ∧
    (kxNames 2 job (rd SES_CTRL.MODULE_ID s) peer (memRead s (kxAddr s) 6624) = true → kxVerifies 2 (memRead s (kxAddr s) 6624) sigOk s = true →
      pairRoom job peer s = false → exec (.kxComplete job peer sigOk) s = .next (kxEnd job peer sCapacity s))) ∧
  (∀ (job peer : Nat) (s : State), serving s = true →
    ((s.adm.offers.find? fun o => o.job == job && o.peer == peer && decide (o.edge + 100000 ≤ s.cad.edges)) = none →
      exec (.offerTimeout job peer) s = .next s) ∧
    ((sget s.net.pairs (job * 4096 + peer)).all (fun p => p.old.all fun x => decide (s.cad.edges < x.2.1)) = true →
      exec (.oldKeyExpiry job peer) s = .next s)) ∧
  (∀ (sigOk : Bool) (b g : List Byte) (s : State), serving s = true → isSet SEC_KX_STATUS.BUSY s = false → memRead s (kxAddr s) 5632 = b →
    b.drop (64 + 32 * field b 8 1) = g →
    ((inBonded (kxAddr s) 5632 = false ∨ field b 0 4 ≠ 0x4F574E31 ∨ field b 8 1 = 0 ∨ 4 < field b 8 1) →
      exec (.ownerUpdate sigOk) s = .next (kxDone sRejected s)) ∧
    (inBonded (kxAddr s) 5632 = true → field b 0 4 = 0x4F574E31 → field b 8 1 ≠ 0 → field b 8 1 ≤ 4 →
      (sigOk = false ∨ (field g 6 1 ≠ 1 ∧ (field g 6 1 ≠ 2 ∨ isSet SEC_ID_STATUS.OWNER_OK s = false))) →
      exec (.ownerUpdate sigOk) s = .next (kxDone sAuthFail (bump SEC_AUTH_FAILS.COUNT 1 s))) ∧
    (inBonded (kxAddr s) 5632 = true → field b 0 4 = 0x4F574E31 → field b 8 1 ≠ 0 → field b 8 1 ≤ 4 →
      (field g 6 1 = 1 ∨ field g 6 1 = 2) → isSet SEC_ID_STATUS.OWNER_OK s = true → field b 4 4 ≤ rd SEC_ID_STATUS.OWNER_SVN s →
      exec (.ownerUpdate true) s = .next (kxDone sRejected s)) ∧
    (inBonded (kxAddr s) 5632 = true → field b 0 4 = 0x4F574E31 → field b 8 1 ≠ 0 → field b 8 1 ≤ 4 →
      (field g 6 1 = 1 ∨ field g 6 1 = 2) → isSet SEC_ID_STATUS.OWNER_OK s = true → rd SEC_ID_STATUS.OWNER_SVN s < field b 4 4 →
      exec (.ownerUpdate true) s = .next (kxDone sOk (showOwner
        (if ownerNow s = s.adm.ownA ∧ s.adm.ownA ≠ none then { s with adm.ownB := some (field b 8 1, field b 4 4) }
          else { s with adm.ownA := some (field b 8 1, field b 4 4) })))) ) ∧
  (∀ (bind : Nat) (r : SpdmReq) (session stream : Nat) (key : Option Nat) (s : State), serving s = true →
    (mgtHears bind s = false → exec (.spdmRequest bind r) s = .next s) ∧ (mgtHears 2 s = false → exec (.ideKm session stream key) s = .next s) ∧
    (mgtHears bind s = true → isSet SEC_ID_STATUS.CERT_OK s = false →
      exec (.spdmRequest bind r) s = .next (mgtSend bind 5 [0x7F] (bump SEC_SPDM_ERRORS.COUNT 1 s))) ∧
    (mgtHears 2 s = true → (isSet SEC_ID_STATUS.PUF_OK s = false ∨ isSet SEC_ID_STATUS.CERT_OK s = false ∨ inSpdm 2 session s = false ∨
        (key.isSome = true ∧ (sget s.adm.ide stream).isNone = true ∧ 8 ≤ s.adm.ide.length)) →
      exec (.ideKm session stream key) s = .next (mgtSend 2 5 [0x7F] (bump SEC_SPDM_ERRORS.COUNT 1 s)))) ∧
  (∀ (bind : Nat) (s : State), serving s = true → mgtHears bind s = true → isSet SEC_ID_STATUS.PUF_OK s = true → isSet SEC_ID_STATUS.CERT_OK s = true →
    (∀ code, code ∉ [0x81, 0x82, 0x83, 0x84, 0xE1, 0xE3] →
      exec (.spdmRequest bind (.plain code)) s = .next (mgtSend bind 5 [0x7F] (bump SEC_SPDM_ERRORS.COUNT 1 s))) ∧
    exec (.spdmRequest bind (.measurements 0)) s = .next (mgtSend bind 5 [0x60, 8] s) ∧
    (∀ k, 1 ≤ k → k ≤ 8 → exec (.spdmRequest bind (.measurements k)) s = .next (mgtSend bind 5 (0x60 :: measure k s) s)) ∧
    exec (.spdmRequest bind (.measurements 0xFF)) s =
      .next (mgtSend bind 5 (0x60 :: [1, 2, 3, 4, 5, 6, 7, 8].flatMap fun k => measure k s) s) ∧
    (∀ k, 8 < k → k ≠ 0xFF → exec (.spdmRequest bind (.measurements k)) s = .next (mgtSend bind 5 [0x7F] (bump SEC_SPDM_ERRORS.COUNT 1 s))) ∧
    (∀ id, s.adm.spdm.length < 4 → s.adm.spdm.any (·.1 == id) = false →
      exec (.spdmRequest bind (.keyExchange id)) s = .next (mgtSend bind 5 [0x64, id] { s with adm.spdm := (id, bind, false) :: s.adm.spdm })) ∧
    (∀ id, (4 ≤ s.adm.spdm.length ∨ s.adm.spdm.any (·.1 == id) = true) →
      exec (.spdmRequest bind (.keyExchange id)) s = .next (mgtSend bind 5 [0x7F] (bump SEC_SPDM_ERRORS.COUNT 1 s))) ∧
    (∀ id, (s.adm.spdm.any fun x => x.1 == id && x.2.1 == bind) = true →
      exec (.spdmRequest bind (.inSession 0xE5 id)) s = .next (mgtSend bind 5 [0x65, id]
        { s with adm.spdm := s.adm.spdm.map fun x => if x.1 = id then (x.1, x.2.1, true) else x })) ∧
    (∀ id, inSpdm bind id s = true → exec (.spdmRequest bind (.inSession 0xEC id)) s =
      .next (mgtSend bind 5 [0x6C, id] { s with adm.spdm := s.adm.spdm.filter (·.1 != id) })) ∧
    (∀ id code, (code = 0xE8 ∨ code = 0xE9) → inSpdm bind id s = true → exec (.spdmRequest bind (.inSession code id)) s =
      .next (mgtSend bind 5 [code - 0x80, id] { s with adm.spdm := s.adm.spdm.map fun x => if x.1 = id then (x.1, x.2.1, true) else x })) ∧
    (∀ id code, (code ∉ [0xE5, 0xE8, 0xE9, 0xEC] ∨ (s.adm.spdm.any fun x => x.1 == id && x.2.1 == bind) = false ∨
        (code ≠ 0xE5 ∧ inSpdm bind id s = false)) →
      exec (.spdmRequest bind (.inSession code id)) s = .next (mgtSend bind 5 [0x7F] (bump SEC_SPDM_ERRORS.COUNT 1 s)))) ∧
  (∀ (session stream k : Nat) (s : State), serving s = true → mgtHears 2 s = true → isSet SEC_ID_STATUS.PUF_OK s = true →
    isSet SEC_ID_STATUS.CERT_OK s = true → inSpdm 2 session s = true →
    ((sget s.adm.ide stream).isSome = true →
      exec (.ideKm session stream (some k)) s = .next (mgtSend 2 6 [0x7E, stream] { s with adm.ide := sset s.adm.ide stream k })) ∧
    exec (.ideKm session stream none) s = .next (mgtSend 2 6 [0x7E, stream] { s with adm.ide := sdel s.adm.ide stream }))

/-- The management complex, its transports and its PLDM responder (R519, R520, R521, R522, R523, R524, R525). A missed kick stops the complex
and counts a restart. Endpoint identifiers and the dynamic address are taken, reserved ones refused; MCTP messages to a VF are counted as
dropped, control messages answered, others left to commands of their own. Sensors take their values at a refresh, which tells of
thresholds crossed, and readings give them, or none before the first; thresholds, the terminus ID, the event receiver and the cap are set
and read back, the cap within 300 W to 750 W from the next tick edge; a sensor, effecter, record, type or ID that there is not is refused.
An update goes from its request through its phases, for our component and an image that verifies and is not of a lower SVN, to activation,
or is cancelled; out of its phase a command is refused. A request on a binding that the complex does not hear does nothing. MCTP and PLDM
command, completion and record codes are the model's (log 110, PRESUMED). -/
def Obligations.ManagementCommands : Prop :=
  (∀ (s : State), serving s = true → isSet HUB_DOMAIN_STATUS.MGT_RUNNING s = true →
    ∃ t, exec .mgtWatchdogRestart s = .next t ∧ rd HUB_DOMAIN_STATUS.MGT_RUNNING t = 0 ∧ rd MGT_STATUS.FW_STATE t = 2 ∧
      rd MGT_STATUS.RESTARTS t = satAdd 16 (rd MGT_STATUS.RESTARTS s) 1 ∧ t.adm.spdm = [] ∧ t.adm.sens = []) ∧
  (∀ (temps : List Nat) (s : State), serving s = true → isSet HUB_DOMAIN_STATUS.MGT_RUNNING s = true → s.adm.thresh = [] →
    ∃ t, exec (.sensorRefresh temps) s = .next t ∧ rd MGT_TEMP.HUB_C t = temps.getD 4 0 % 256 ∧ rd MGT_TEMP.DEEP_C t = temps.getD 5 0 % 256 ∧
      (∀ id, id ∈ numericIds ++ stateIds → sget t.adm.sens id = some (sensorValue id t))) ∧
  (∀ (eid : Nat) (s : State), serving s = true → isSet HUB_DOMAIN_STATUS.MGT_RUNNING s = true → 0 < eid → eid < 255 →
    exec (.setEndpointId 0 eid) s = .next (mgtSend 0 0 [1, 0, eid] (wr MGT_STATUS.PCIE_EID eid s)) ∧
    exec (.setEndpointId 1 eid) s = .next (mgtSend 1 0 [1, 0, eid] (wr MGT_STATUS.I3C_EID eid s))) ∧
  (∀ (fn type code : Nat) (s : State), serving s = true → isSet HUB_DOMAIN_STATUS.MGT_RUNNING s = true → fn ≠ 0 →
    exec (.mctpMessage 0 fn type code) s = .next (bump MGT_MCTP_DROPS.COUNT 1 s)) ∧
  (∀ (fn : Nat) (s : State), serving s = true → isSet HUB_DOMAIN_STATUS.MGT_RUNNING s = true →
    exec (.mctpMessage 1 fn 0 2) s = .next (mgtSend 1 0 [2, 0, rd MGT_STATUS.I3C_EID s] s)) ∧
  (∀ (addr : Nat) (s : State), live s = true →
    exec (.entdaa addr) s = .next (mgtSend 1 0x100 [provisionedId, addr % 128] (wr MGT_STATUS.I3C_ADDR addr s))) ∧
  (∀ (s : State), live s = true → exec .getstatus s = .next (mgtSend 1 0x101 [rd HUB_BOOT_STATUS.STOP_CODE s] s)) ∧
  (∀ (b : Nat) (s : State), serving s = true → b < 2 → mgtHears b s = true →
    exec (.getTid b) s = .next (mgtSend b 1 [0x02, 0, s.adm.tid] s) ∧
    (∀ tid, 0 < tid → tid < 255 → exec (.setTid b tid) s = .next (mgtSend b 1 [0x01, 0] { s with adm.tid := tid })) ∧
    exec (.getPldmTypes b) s = .next (mgtSend b 1 [0x04, 0, 0x25] s) ∧
    (∀ type, type = 0 ∨ type = 2 ∨ type = 5 → exec (.getPldmCommands b type) s = .next (mgtSend b 1 (0x05 :: 0 :: pldmCommands type) s)) ∧
    (∀ type, exec (.getPldmVersion b type) s = .next (mgtSend b 1 (pldmVersion type) s)) ∧
    exec (.getPdrRepositoryInfo b) s = .next (mgtSend b 1 [0x50, 0, 50] s) ∧
    (∀ k, 1 ≤ k → k ≤ 50 → ∃ id kind, pdrs[k - 1]? = some (id, kind) ∧
      exec (.getPdr b k) s = .next (mgtSend b 1 [0x51, 0, if k < 50 then k + 1 else 0, id, kind] s)) ∧
    (∀ id v, id ∈ numericIds → sget s.adm.sens id = some v → exec (.getSensorReading b id) s = .next (mgtSend b 1 [0x11, 0, 0, v] s)) ∧
    (∀ id v, id ∈ stateIds → sget s.adm.sens id = some v → exec (.getStateSensorReadings b id) s = .next (mgtSend b 1 [0x21, 0, 0, v] s)) ∧
    (∀ id l, id ∈ numericIds → ∃ t, exec (.setSensorThresholds b id l) s = .next t ∧ sget t.adm.thresh id = some (l.take 6)) ∧
    (∀ id, id ∈ numericIds → sget s.adm.thresh id = none → exec (.getSensorThresholds b id) s = .next (mgtSend b 1 [0x12, 0] s)) ∧
    (∀ v, exec (.setNumericEffecterValue b 0x0100 v) s =
      .next (mgtSend b 1 [0x31, 0] { s with ltPend := sset s.ltPend (fkey MGT_CAP.MGMT_CAP_W) (max 300 (min 750 v)) })) ∧
    exec (.getNumericEffecterValue b 0x0100) s = .next (mgtSend b 1 [0x32, 0, sgetD s.ltPend (fkey MGT_CAP.MGMT_CAP_W) (rd MGT_CAP.MGMT_CAP_W s),
      rd MGT_CAP.MGMT_CAP_W s] s) ∧
    (∀ eid on, exec (.setEventReceiver b eid on) s = .next (mgtSend b 1 [0x04, 0] { s with adm.evRecv := if on then some (b, eid) else none })) ∧
    (isSet ALM_FW_STATUS.BUSY s = false → s.adm.pldmPhase = 0 → exec (.requestUpdate b) s = .next (mgtSend b 1 [0x10, 0] { s with adm.pldmPhase := 1 })) ∧
    (s.adm.pldmPhase = 1 → exec (.pldmUpdateAgentCommand b (.passTable 0x000A 0x0001)) s =
      .next (mgtSend b 1 [0x13, 0, 0] { s with adm.pldmPhase := 2 })) ∧
    (s.adm.pldmPhase = 3 → (∀ svn digest, (fwActive s).svn ≤ svn % 2 ^ 16 →
      ∃ t, exec (.pldmUpdateAgentCommand b (.image true svn digest)) s = .next t ∧ t.adm.pldmPhase = 4 ∧ (fwOther t).st = 3)) ∧
    (s.adm.pldmPhase = 4 → ∀ sigOk, exec (.activateFirmware b false sigOk) s = .next (mgtSend b 1 [0x1A, 0] { s with adm.pldmPhase := 0 }))) ∧
  (∀ (bind fn type code eid : Nat) (s : State), serving s = true →
    (isSet HUB_DOMAIN_STATUS.MGT_RUNNING s = false → exec .mgtWatchdogRestart s = .next s) ∧
    ((isSet HUB_DOMAIN_STATUS.MGT_RUNNING s = false ∨ 2 ≤ bind) →
      exec (.setEndpointId bind eid) s = .next s ∧ exec (.mctpMessage bind fn type code) s = .next s) ∧
    (isSet HUB_DOMAIN_STATUS.MGT_RUNNING s = true → bind < 2 → (eid = 0 ∨ 255 ≤ eid) → exec (.setEndpointId bind eid) s = .next (mgtSend bind 0 [1, 2] s)) ∧
    (isSet HUB_DOMAIN_STATUS.MGT_RUNNING s = true → bind < 2 → (bind = 1 ∨ fn = 0) → type ≠ 0 → exec (.mctpMessage bind fn type code) s = .next s) ∧
    (isSet HUB_DOMAIN_STATUS.MGT_RUNNING s = true → exec (.mctpMessage 0 0 0 2) s = .next (mgtSend 0 0 [2, 0, rd MGT_STATUS.PCIE_EID s] s)) ∧
    (isSet HUB_DOMAIN_STATUS.MGT_RUNNING s = true → bind < 2 → (bind = 1 ∨ fn = 0) →
      exec (.mctpMessage bind fn 0 5) s = .next (mgtSend bind 0 [5, 0, 4, 0, 1, 5, 6] s)) ∧
    (isSet HUB_DOMAIN_STATUS.MGT_RUNNING s = true → bind < 2 → (bind = 1 ∨ fn = 0) → code ≠ 2 → code ≠ 5 →
      exec (.mctpMessage bind fn 0 code) s = .next (mgtSend bind 0 [code, 5] s))) ∧
  (∀ (temps : List Nat) (s u : State), serving s = true →
    wr MGT_TEMP.TILE_C (temps.getD 0 0 % 256 + temps.getD 1 0 % 256 * 2 ^ 8 + temps.getD 2 0 % 256 * 2 ^ 16 + temps.getD 3 0 % 256 * 2 ^ 24)
      (wr MGT_TEMP.HUB_C (temps.getD 4 0 % 256) (wr MGT_TEMP.DEEP_C (temps.getD 5 0 % 256) s)) = u →
    (isSet HUB_DOMAIN_STATUS.MGT_RUNNING s = false → exec (.sensorRefresh temps) s = .next u) ∧
    (∀ v, isSet HUB_DOMAIN_STATUS.MGT_RUNNING s = true →
      { u with adm.sens := (numericIds ++ stateIds).foldl (fun m id => sset m id (sensorValue id u)) [] } = v →
      exec (.sensorRefresh temps) s = .next ((v.adm.thresh.map (·.1)).foldl (fun s id => crossEvents id s) v))) ∧
  (∀ (b tid type k id v : Nat) (l : List (Option Int)) (on sc sigOk : Bool) (c : UpdateCmd) (s : State), serving s = true → (2 ≤ b ∨ mgtHears b s = false) →
    exec (.getTid b) s = .next s ∧ exec (.setTid b tid) s = .next s ∧ exec (.getPldmTypes b) s = .next s ∧ exec (.getPldmCommands b type) s = .next s ∧
      exec (.getPldmVersion b type) s = .next s ∧ exec (.getPdrRepositoryInfo b) s = .next s ∧ exec (.getPdr b k) s = .next s ∧
      exec (.getSensorReading b id) s = .next s ∧ exec (.getStateSensorReadings b id) s = .next s ∧ exec (.setSensorThresholds b id l) s = .next s ∧
      exec (.getSensorThresholds b id) s = .next s ∧ exec (.setNumericEffecterValue b id v) s = .next s ∧
      exec (.getNumericEffecterValue b id) s = .next s ∧ exec (.setEventReceiver b id on) s = .next s ∧ exec (.requestUpdate b) s = .next s ∧
      exec (.pldmUpdateAgentCommand b c) s = .next s ∧ exec (.activateFirmware b sc sigOk) s = .next s) ∧
  (∀ (b : Nat) (s : State), serving s = true → b < 2 → mgtHears b s = true →
    (∀ tid, (tid = 0 ∨ 255 ≤ tid) → exec (.setTid b tid) s = .next (mgtSend b 1 [0x01, 2] s)) ∧
    (∀ type, type ≠ 0 → type ≠ 2 → type ≠ 5 → exec (.getPldmCommands b type) s = .next (mgtSend b 1 [0x05, 0x83] s)) ∧
    exec (.getPdr b 0) s = exec (.getPdr b 1) s ∧ (∀ k, 50 < k → exec (.getPdr b k) s = .next (mgtSend b 1 [0x51, 0x82] s)) ∧
    (∀ id, id ∈ numericIds → sget s.adm.sens id = none → exec (.getSensorReading b id) s = .next (mgtSend b 1 [0x11, 0, 2] s)) ∧
    (∀ id, id ∈ stateIds → sget s.adm.sens id = none → exec (.getStateSensorReadings b id) s = .next (mgtSend b 1 [0x21, 0, 2] s)) ∧
    (∀ id, id ∉ stateIds → exec (.getStateSensorReadings b id) s = .next (mgtSend b 1 [0x21, 0x80] s)) ∧
    (∀ id l, id ∉ numericIds → exec (.getSensorReading b id) s = .next (mgtSend b 1 [0x11, 0x80] s) ∧
      exec (.setSensorThresholds b id l) s = .next (mgtSend b 1 [0x13, 0x80] s) ∧ exec (.getSensorThresholds b id) s = .next (mgtSend b 1 [0x12, 0x80] s)) ∧
    (∀ id l, id ∈ numericIds → exec (.setSensorThresholds b id l) s =
      .next (mgtSend b 1 [0x13, 0] { s with adm.thresh := sset s.adm.thresh id (l.take 6), adm.crossed := sdel s.adm.crossed id })) ∧
    (∀ id l, id ∈ numericIds → sget s.adm.thresh id = some l → exec (.getSensorThresholds b id) s = .next (mgtSend b 1 (0x12 :: 0 :: l.flatMap fun t => match t with
      | none => [0, 0, 0]
      | some v => [1, b2n (decide (v < 0)), v.natAbs]) s)) ∧
    (∀ id v, id ≠ 0x0100 → exec (.setNumericEffecterValue b id v) s = .next (mgtSend b 1 [0x31, 0x80] s) ∧
      exec (.getNumericEffecterValue b id) s = .next (mgtSend b 1 [0x32, 0x80] s)) ∧
    ((isSet ALM_FW_STATUS.BUSY s = true ∨ s.adm.pldmPhase ≠ 0) → exec (.requestUpdate b) s = .next (mgtSend b 1 [0x10, 0x81] s))) ∧
  (∀ (b cl id svn digest : Nat) (sigOk sc : Bool) (s : State), serving s = true → b < 2 → mgtHears b s = true →
    (s.adm.pldmPhase = 1 → exec (.pldmUpdateAgentCommand b (.passTable cl id)) s =
      .next (mgtSend b 1 [0x13, 0, b2n (!ourComponent cl id)] { s with adm.pldmPhase := if ourComponent cl id then 2 else 1 })) ∧
    (s.adm.pldmPhase = 2 → exec (.pldmUpdateAgentCommand b (.updateComponent cl id)) s =
      .next (mgtSend b 1 [0x14, 0, b2n (!ourComponent cl id)] { s with adm.pldmPhase := if ourComponent cl id then 3 else 2 })) ∧
    (s.adm.pldmPhase = 3 → exec (.pldmUpdateAgentCommand b .cancelComponent) s = .next (mgtSend b 1 [0x1C, 0, 0] { s with adm.pldmPhase := 2 })) ∧
    (s.adm.pldmPhase = 0 → exec (.pldmUpdateAgentCommand b (.passTable cl id)) s = .next (mgtSend b 1 [0x13, 0x80] s) ∧
      exec (.pldmUpdateAgentCommand b (.updateComponent cl id)) s = .next (mgtSend b 1 [0x14, 0x80] s) ∧
      exec (.pldmUpdateAgentCommand b .cancelComponent) s = .next (mgtSend b 1 [0x1C, 0x80] s) ∧
      exec (.pldmUpdateAgentCommand b .cancelUpdate) s = .next (mgtSend b 1 [0x1D, 0x80] s) ∧
      exec (.activateFirmware b sc sigOk) s = .next (mgtSend b 1 [0x1A, 0x80] s)) ∧
    (s.adm.pldmPhase ≠ 0 → exec (.pldmUpdateAgentCommand b .cancelUpdate) s = .next (mgtSend b 1 [0x1D, 0] { s with adm.pldmPhase := 0 })) ∧
    (s.adm.pldmPhase ≠ 0 → s.adm.pldmPhase ≠ 1 → exec (.pldmUpdateAgentCommand b (.passTable cl id)) s = .next (mgtSend b 1 [0x13, 0x84] s)) ∧
    (s.adm.pldmPhase ≠ 0 → s.adm.pldmPhase ≠ 2 → exec (.pldmUpdateAgentCommand b (.updateComponent cl id)) s = .next (mgtSend b 1 [0x14, 0x84] s)) ∧
    (s.adm.pldmPhase ≠ 0 → s.adm.pldmPhase ≠ 3 → exec (.pldmUpdateAgentCommand b .cancelComponent) s = .next (mgtSend b 1 [0x1C, 0x84] s)) ∧
    (s.adm.pldmPhase ≠ 0 → s.adm.pldmPhase ≠ 4 → exec (.activateFirmware b sc sigOk) s = .next (mgtSend b 1 [0x1A, 0x84] s)) ∧
    (s.adm.pldmPhase = 4 → exec (.activateFirmware b true sigOk) s = .next (fwActivate sigOk (mgtSend b 1 [0x1A, 0] { s with adm.pldmPhase := 0 }))) ∧
    exec (.pldmUpdateAgentCommand b .getStatus) s = .next (mgtSend b 1 [0x1B, 0, s.adm.pldmPhase] s) ∧
    (s.adm.pldmPhase ≠ 3 → exec (.pldmUpdateAgentCommand b (.image sigOk svn digest)) s = .next s) ∧
    (s.adm.pldmPhase = 3 → exec (.pldmUpdateAgentCommand b (.image false svn digest)) s =
      .next (mgtSend b 1 [0x17, sAuthFail] { bump SEC_AUTH_FAILS.COUNT 1 s with adm.pldmPhase := 2 })) ∧
    (s.adm.pldmPhase = 3 → svn % 2 ^ 16 < (fwActive s).svn → exec (.pldmUpdateAgentCommand b (.image true svn digest)) s =
      .next (mgtSend b 1 [0x17, sRejected] { s with adm.pldmPhase := 2 })))

/-- Power peaks, trace, hang dumps, engine stalls and the dark-frame test (R362, R485, R486, R488, R527, R530, R532, R535, R536, R539). A read
of a peak returns it with the mean and resets it; one of no domain does nothing, and with IDE shut it is counted alone. Enabling the
collector empties its ring, disabling it sets the register alone. EXPORT writes a complete dump at its address and marks it, RELEASE frees
its slot; an empty slot is NOT_FOUND, a dump being written BUSY, one whose tag fails is dropped and counted with AUTH_FAIL, an address out
of the bonded tier is REJECTED, and while BUSY is set both are ignored. A stall of a monitored engine past its limit is counted and posted
with its dump's slot. A test slice of an idle, present array in the window is counted, traced, and its failure counts against the array;
on any other array it does nothing. Unused test channels get the next pattern at their interval and in the window. An UP port's eye is
noted, and one under either limit in the window retrains the port unless another retrains. -/
def Obligations.DiagnosticCommands : Prop :=
  (∀ (d : Nat) (s : State), live s = true → ideShut s = false → d < 12 →
    exec (.peakDwRead d) s = .next (wr (MGT_DOMAIN_POWER.PEAK_DW d) 0
      { s with net.readOut := rd (MGT_DOMAIN_POWER.MEAN_DW d) s + rd (MGT_DOMAIN_POWER.PEAK_DW d) s * 2 ^ 16 })) ∧
  (∀ (s : State), live s = true → ideShut s = false →
    exec (.peakDwRead 12) s = .next (wr MGT_POWER.PEAK_DW 0 { s with net.readOut := rd MGT_POWER.MEAN_DW s + rd MGT_POWER.PEAK_DW s * 2 ^ 16 })) ∧
  (∀ (stop : Bool) (addr : Nat) (s : State), live s = true → addr < 2 ^ 36 →
    ∃ t, exec (.dbgTraceEnable true stop addr) s = .next t ∧ rd DBG_TRACE_BASE.ENABLE t = 1 ∧ rd DBG_TRACE_BASE.ADDR t = addr ∧
      rd DBG_TRACE_STATUS.WRITTEN t = 0 ∧ rd DBG_TRACE_STATUS.WRAPPED t = 0 ∧ rd DBG_TRACE_STATUS.STOPPED t = 0 ∧ t.mem = s.mem) ∧
  (∀ (slot : Nat) (d : Dump) (s : State), serving s = true → isSet DBG_DUMP_STATUS.BUSY s = false → sget s.dumps slot = some d → d.complete = true →
    inBonded (rd DBG_DUMP_ADDR.ADDR s * 4096) 0x400000 = true → s.ckpt = none →
    ∃ t, exec (.exportDump slot true) s = .next t ∧ rd DBG_DUMP_STATUS.STATUS t = sOk ∧ sget t.dumps slot = some { d with exported := true } ∧
      (∀ a, a < rd DBG_DUMP_ADDR.ADDR s * 4096 → memByte t a = memByte s a)) ∧
  (∀ (slot : Nat) (tagOk : Bool) (s : State), serving s = true → isSet DBG_DUMP_STATUS.BUSY s = false → sget s.dumps slot = none →
    exec (.exportDump slot tagOk) s = .next (dumpEnd sNotFound s) ∧ exec (.releaseDump slot) s = .next (dumpEnd sNotFound s)) ∧
  (∀ (slot : Nat) (d : Dump) (s : State), serving s = true → isSet DBG_DUMP_STATUS.BUSY s = false → sget s.dumps slot = some d → d.complete = true →
    exec (.releaseDump slot) s = .next (dumpEnd sOk (freeDump slot s))) ∧
  (∀ (block ms : Nat) (s : State), serving s = true → block ∈ monitored → rd DBG_DUMP_CFG.ENGINE_STALL_MS s ≤ ms →
    ∃ t, exec (.engineStall block ms) s = .next t ∧ rd DBG_ENGINE_STALLS.COUNT t = satAdd 48 (rd DBG_ENGINE_STALLS.COUNT s) 1 ∧ t.desc = s.desc) ∧
  (∀ (t0 n oldest : Nat) (s : State), serving s = true → t0 < 4 → n < 352 → testing s = true → tileOnline t0 s = true →
    (arrState (t0 * 512 + n) s = aEnabled ∨ arrState (t0 * 512 + n) s = aSpare) → isSet (ARY_STATUS.BUSY t0 n) s = false →
    arrPart (t0 * 512 + n) s = 0xFF →
    ∃ t, exec (.darkFrameSlice t0 n true oldest) s = .next t ∧ rd REL_DF_SLICES.COUNT t = satAdd 48 (rd REL_DF_SLICES.COUNT s) 1 ∧
      rd REL_DF_STATUS.OLDEST_MS t = min oldest (2 ^ 32 - 1) ∧ sget t.dfPass (t0 * 512 + n) = some ((sgetD s.dfPass (t0 * 512 + n) 0 + 1) % 512)) ∧
  (∀ (s : State), serving s = true → testing s = true → s.testLast + rd REL_DF_CFG.BANK_TEST_TICKS s ≤ s.cad.edges →
    ∃ t, exec .dfBankTest s = .next t ∧ t.testPat = (s.testPat + 1) % 4 ∧ t.testLast = s.cad.edges) ∧
  (∀ (p mv ui lane : Nat) (s : State), serving s = true → p < 16 → portState p s = pUp → testing s = false → mv < 256 → ui < 256 → lane < 8 →
    exec (.dfPortRetrain p mv ui lane) s = .next (wr (FAB_PORT_MARGIN.EYE_MV p) mv (wr (FAB_PORT_MARGIN.EYE_UI p) ui
      (wr (FAB_PORT_MARGIN.WORST_LANE p) lane s)))) ∧
  (∀ (p mv ui lane : Nat) (s : State), serving s = true → p < 16 → portState p s = pUp → testing s = true → mv < 256 → ui < 256 → lane < 8 →
    mv < rd REL_DF_CFG.FAB_EYE_MV s → otherRetrains p s = false →
    ∃ t, exec (.dfPortRetrain p mv ui lane) s = .next t ∧ portState p t = pDraining ∧ (linkOf p t).drain = 1 ∧ rd (FAB_PORT_MARGIN.EYE_MV p) t = mv) ∧
  (∀ (d : Nat) (s : State), live s = true →
    (ideShut s = false → 13 ≤ d → exec (.peakDwRead d) s = .next s) ∧
    (ideShut s = true → exec (.peakDwRead d) s = .next (bump SEC_IDE_BLOCKED.COUNT 1 s))) ∧
  (∀ (stop : Bool) (addr : Nat) (s : State), live s = true →
    exec (.dbgTraceEnable false stop addr) s =
      .next (wr DBG_TRACE_BASE.ENABLE 0 (wr DBG_TRACE_BASE.STOP_MODE (b2n stop) (wr DBG_TRACE_BASE.ADDR addr s)))) ∧
  (∀ (slot : Nat) (d : Dump) (tagOk : Bool) (s : State), serving s = true →
    (isSet DBG_DUMP_STATUS.BUSY s = true → exec (.exportDump slot tagOk) s = .next s ∧ exec (.releaseDump slot) s = .next s) ∧
    (isSet DBG_DUMP_STATUS.BUSY s = false → sget s.dumps slot = some d → d.complete = false →
      exec (.exportDump slot tagOk) s = .next (dumpEnd sBusy s) ∧ exec (.releaseDump slot) s = .next (dumpEnd sBusy s)) ∧
    (isSet DBG_DUMP_STATUS.BUSY s = false → sget s.dumps slot = some d → d.complete = true →
      exec (.exportDump slot false) s = .next (dumpEnd sAuthFail (freeDump slot (bump DBG_DUMPS_DROPPED.COUNT 1 s)))) ∧
    (isSet DBG_DUMP_STATUS.BUSY s = false → sget s.dumps slot = some d → d.complete = true →
      inBonded (rd DBG_DUMP_ADDR.ADDR s * 4096) 0x400000 = false → exec (.exportDump slot true) s = .next (dumpEnd sRejected s)) ∧
    (∀ u, isSet DBG_DUMP_STATUS.BUSY s = false → sget s.dumps slot = some d → d.complete = true →
      inBonded (rd DBG_DUMP_ADDR.ADDR s * 4096) 0x400000 = true →
      engWrite (rd DBG_DUMP_ADDR.ADDR s * 4096) (dumpImage d s.fresh) { s with fresh := s.fresh + 1 } = u →
      exec (.exportDump slot true) s = .next (dumpEnd sOk { u with dumps := sset u.dumps slot { d with exported := true } }))) ∧
  (∀ (block ms : Nat) (s : State), serving s = true → (block ∉ monitored ∨ ms < rd DBG_DUMP_CFG.ENGINE_STALL_MS s) →
    exec (.engineStall block ms) s = .next s) ∧
  (∀ (block ms : Nat) (k : Option Nat) (s u v : State), serving s = true → block ∈ monitored → rd DBG_DUMP_CFG.ENGINE_STALL_MS s ≤ ms →
    startDump { kind := 2, src := block, tick := 0, elapsed := ms * 1000, seq := 0 } s = (k, u) → k.elim u (fun k => dumpDone k u) = v →
    exec (.engineStall block ms) s = .next (postPf 0x0022 0x18 sTimeout block (k.getD ones64) (bump DBG_ENGINE_STALLS.COUNT 1 v))) ∧
  (∀ (t0 n oldest : Nat) (ok : Bool) (s : State), serving s = true → (4 ≤ t0 ∨ 352 ≤ n ∨ testing s = false ∨ tileOnline t0 s = false ∨
      (arrState (t0 * 512 + n) s ≠ aEnabled ∧ arrState (t0 * 512 + n) s ≠ aSpare) ∨ isSet (ARY_STATUS.BUSY t0 n) s = true ∨
      (arrPart (t0 * 512 + n) s ≠ 0xFF ∧
        ((stepReady (arrPart (t0 * 512 + n) s) s).isSome = true ∨ (bestQueued (arrPart (t0 * 512 + n) s) s).isSome = true))) →
    exec (.darkFrameSlice t0 n ok oldest) s = .next s) ∧
  (∀ (t0 n oldest a k : Nat) (ok : Bool) (s u v : State), serving s = true → t0 < 4 → n < 352 → testing s = true → tileOnline t0 s = true →
    t0 * 512 + n = a → (arrState a s = aEnabled ∨ arrState a s = aSpare) → isSet (ARY_STATUS.BUSY t0 n) s = false →
    (arrPart a s = 0xFF ∨ (stepReady (arrPart a s) s = none ∧ bestQueued (arrPart a s) s = none)) → sgetD s.dfPass a 0 + 1 = k →
    bump REL_DF_SLICES.COUNT 1 { s with dfPass := sset s.dfPass a (k % 512) } = u →
    trace { tick := 0, event := 0x0801, src := 0x09, array := a, part := arrPart a s, arg := b2n (!ok) }
      (wr REL_DF_STATUS.OLDEST_MS (min oldest (2 ^ 32 - 1)) (if k = 512 then bump REL_DF_STATUS.PASSES 1 u else u)) = v →
    exec (.darkFrameSlice t0 n ok oldest) s = .next (if ok then v else countFail a (bump REL_DF_FAILS.COUNT 1 v))) ∧
  (∀ (s : State), serving s = true → (testing s = false ∨ s.cad.edges < s.testLast + rd REL_DF_CFG.BANK_TEST_TICKS s) → exec .dfBankTest s = .next s) ∧
  (∀ (s : State), serving s = true → testing s = true → s.testLast + rd REL_DF_CFG.BANK_TEST_TICKS s ≤ s.cad.edges →
    exec .dfBankTest s = .next (((List.range 768).filter fun g => testFree g s).foldl
      (fun s' g => bankQueue { op := 6, tag := 0, src := gchanBase g, dst := 0, len := 0, stride := 0, a := testPattern s.testPat, b := 0, issuer := 2 } s')
      { s with testPat := (s.testPat + 1) % 4, testLast := s.cad.edges })) ∧
  (∀ (p mv ui lane : Nat) (s : State), serving s = true → (16 ≤ p ∨ portState p s ≠ pUp) → exec (.dfPortRetrain p mv ui lane) s = .next s) ∧
  (∀ (p mv ui lane : Nat) (s u : State), serving s = true → p < 16 → portState p s = pUp →
    wr (FAB_PORT_MARGIN.EYE_MV p) mv (wr (FAB_PORT_MARGIN.EYE_UI p) ui (wr (FAB_PORT_MARGIN.WORST_LANE p) lane s)) = u →
    exec (.dfPortRetrain p mv ui lane) s = .next (if testing u = true ∧ (rd (FAB_PORT_MARGIN.EYE_MV p) u < rd REL_DF_CFG.FAB_EYE_MV u ∨
      rd (FAB_PORT_MARGIN.EYE_UI p) u < rd REL_DF_CFG.FAB_EYE_UI u) ∧ otherRetrains p u = false then portRetrain p u else u))

/-- A register write acts on each field by its access type, and what a read returns (R5, R6, R7, R31, R561, R566). HUB_EDGE_CFG (RW) takes the
value, HUB_DOMAIN_CHANGE (W1C) loses the bits written as 1 and ignores a 32-bit write, SES_POOL_WM (LT) keeps its value until the next
tick edge. A write at any other offset of BAR0, of a function's queue pairs or of its MSI-X table writes that register or entry; an
unaligned write, one at an offset that no register occupies, of another BAR, of BAR0 by another function than the PF, and one after start-
up has stopped change nothing, and with IDE shut a write is counted alone. A read where no register lies returns 0, one unaligned or of
BAR0 by another function nothing, and one of SES_POOL_WM returns the last value written, with its reserved bits 0 and its upper half 0. -/
def Obligations.RegisterWrites : Prop :=
  (∀ (v : Nat) (s : State), live s = true → ideShut s = false → reachable s = true →
    ∃ t, exec (.registerWrite 0 0 0x28 v true) s = .next t ∧ rd HUB_EDGE_CFG.OD_EDGE t = v % 4 ∧ rd HUB_EDGE_CFG.I3C_EDGE t = v / 4 % 4 ∧
      (∀ f : Fld, fkey f ∉ [fkey HUB_EDGE_CFG.OD_EDGE, fkey HUB_EDGE_CFG.I3C_EDGE] → rd f t = rd f s)) ∧
  (∀ (v : Nat) (s : State), live s = true → ideShut s = false → reachable s = true → rd HUB_DOMAIN_CHANGE.TILE_CHANGED s < 16 →
    ∃ t, exec (.registerWrite 0 0 0x10 v true) s = .next t ∧
      rd HUB_DOMAIN_CHANGE.TILE_CHANGED t = rd HUB_DOMAIN_CHANGE.TILE_CHANGED s - Nat.land (rd HUB_DOMAIN_CHANGE.TILE_CHANGED s) (v % 16)) ∧
  (∀ (v : Nat) (s : State), live s = true → ideShut s = false → reachable s = true → exec (.registerWrite 0 0 0x10 v false) s = .next s) ∧
  (∀ (v : Nat) (s : State), live s = true → ideShut s = false → reachable s = true → rd SES_POOL_WM.HIGH s < 1024 → rd SES_POOL_WM.LOW s < 1024 →
    ∃ t, exec (.registerWrite 0 0 0x3_0018 v true) s = .next t ∧ t.regs = s.regs ∧ sget t.ltPend (fkey SES_POOL_WM.HIGH) = some (v % 1024) ∧
      sget t.ltPend (fkey SES_POOL_WM.LOW) = some (v / 2 ^ 16 % 1024)) ∧
  (∀ (fn off v : Nat) (wide : Bool) (s : State), live s = true → ideShut s = false → aligned off wide = false → exec (.registerWrite fn 0 off v wide) s = .next s) ∧
  (∀ (off v : Nat) (wide : Bool) (s : State), live s = true → ideShut s = false → off < 0x1000_0000 → regAt (off / 8 * 8) = none →
    exec (.registerWrite 0 0 off v wide) s = .next s) ∧
  (∀ (fn off v : Nat) (wide : Bool) (s : State), live s = true → ideShut s = false → fn ≠ 0 → exec (.registerWrite fn 0 off v wide) s = .next s) ∧
  (∀ (off v : Nat) (wide : Bool) (s : State), live s = true → ideShut s = false → reachable s = true → aligned off wide = true → off < 0x1000_0000 →
    exec (.registerWrite 0 0 off v wide) s = .next (writeReg (fun _ => true) off v wide s)) ∧
  (∀ (fn off v : Nat) (wide : Bool) (s : State), live s = true → ideShut s = false → reachable s = true → aligned off wide = true → fn < 256 →
    (0x4_0000 ≤ off → off < 0x4_1000 →
      exec (.registerWrite fn 2 off v wide) s = .next (writeReg (fun _ => true) (0x1000_0000 + 0x20_0000 * fn + off) v wide s)) ∧
    (0x1F_0000 ≤ off → off < 0x1F_8000 → exec (.registerWrite fn 2 off v wide) s = .next (writeMsix fn off v wide s)) ∧
    ((off < 0x4_0000 ∨ (0x4_1000 ≤ off ∧ off < 0x1F_0000) ∨ 0x1F_8000 ≤ off) → exec (.registerWrite fn 2 off v wide) s = .next s)) ∧
  (∀ (fn bar off v : Nat) (wide : Bool) (s : State), live s = true → ideShut s = false →
    (reachable s = false ∨ aligned off wide = false ∨ 256 ≤ fn ∨ (bar ≠ 0 ∧ bar ≠ 2) ∨ (bar = 0 ∧ 0x1000_0000 ≤ off)) →
    exec (.registerWrite fn bar off v wide) s = .next s) ∧
  (∀ (fn bar off v : Nat) (wide : Bool) (s : State), live s = true → ideShut s = true →
    exec (.registerWrite fn bar off v wide) s = .next (bump SEC_IDE_BLOCKED.COUNT 1 s)) ∧
  (∀ (off : Nat) (wide : Bool) (s : State), live s = true → reachable s = true → aligned off wide = true → off < 0x1000_0000 →
    regAt (off / 8 * 8) = none → registerRead 0 0 off wide s = some 0) ∧
  (∀ (fn bar off : Nat) (wide : Bool) (s : State), (aligned off wide = false ∨ (bar = 0 ∧ fn ≠ 0)) → registerRead fn bar off wide s = none) ∧
  (∀ (v : Nat) (s : State), live s = true → ideShut s = false → reachable s = true → s.heldWr = [] → rd SES_POOL_WM.HIGH s < 1024 → rd SES_POOL_WM.LOW s < 1024 →
    ∃ t, exec (.registerWrite 0 0 0x3_0018 v true) s = .next t ∧
      registerRead 0 0 0x3_0018 true t = some (v % 1024 + v / 2 ^ 16 % 1024 * 2 ^ 16) ∧ registerRead 0 0 0x3_001C false t = some 0)

/-- What a completion writes, and what commands leave unchanged (R407, R413, R435, R437, R249, R262, R288, R520). A completion on a queue pair
that is RUNNING or STOPPED, over an open link, is one entry with its command, status and results at CQ_TAIL; on one in ERROR it is dropped
and counted, on a disabled one dropped, and where the link is shut or the ring cannot be written it is dropped and counted and the queue
pair enters ERROR; a forwarded command is answered by a message. Doorbells, reads that clear, key expiry, kernel data of other modules and
the complex's answers change no byte of the bonded tier. SET_SAMPLING and SET_STOPS change no byte of the deep tier, no partition, model,
index or table, and no register outside the session block, the host interface, the fences and the count of SEC_IDE_BLOCKED; SET_SAMPLING
no byte of the bonded tier. A BAR4 write changes only bonded bytes that it stores. The commands of the management complex, key agreement,
the staging set and firmware slots, of a shard's lease and election, heartbeats and frames, and the others the last frame names change
neither memory, no descriptor or session, partition, model, transit, queue pair, completion, started command, ephemeris table, waiting
fence or array SRAM. -/
def Obligations.CompletionsAndFrames : Prop :=
  (∀ (h : Hdr) (op st hd a b : Nat) (s : State), h.fn < 256 → h.qp < 64 → (qpState h.fn h.qp s = 1 ∨ qpState h.fn h.qp s = 2) → ideShut s = false →
    h.cplFault = false → s.fenWaits = [] →
    ∃ c, (complete h op st hd a b s).cpl = c :: s.cpl ∧ c.fn = h.fn ∧ c.qp = h.qp ∧ c.cmdId = h.cmdId ∧ c.opcode = op ∧ c.status = st ∧
      c.handle = hd ∧ c.result0 = a ∧ c.result1 = b ∧ c.slot = rd (HIF_QP_STATUS.CQ_TAIL h.fn h.qp) s) ∧
  (∀ (h : Hdr) (op st hd a b : Nat) (s : State), h.fn < 256 → h.qp < 64 → qpState h.fn h.qp s = 3 → s.fenWaits = [] →
    (complete h op st hd a b s).cpl = s.cpl ∧
      rd HIF_COMPLETION_DROPS.COUNT (complete h op st hd a b s) = satAdd 48 (rd HIF_COMPLETION_DROPS.COUNT s) 1) ∧
  (∀ (c : Instr) (s t : State) (a : Nat), exec c s = .next t →
    ((∃ f q n, c = .sqTail f q n) ∨ (∃ f q n, c = .cqHead f q n) ∨ (∃ f q n, c = .outCi f q n) ∨ (∃ n, c = .evqCi n) ∨ (∃ n, c = .fenReset n) ∨
      (∃ p k h, c = .tmHwmRead p k h) ∨ (∃ d, c = .peakDwRead d) ∨ (∃ j p, c = .oldKeyExpiry j p) ∨ (∃ m d, c = .collectiveMsg m d) ∨
      (∃ b i, c = .setTid b i) ∨ (∃ n, c = .entdaa n) ∨ c = .getstatus ∨ (∃ j p, c = .offerTimeout j p) ∨ c = .ckptMirrorDone) →
    memByte t a = memByte s a) ∧
  (∀ (h : Hdr) (p : Sampling) (withSeed withMax : Bool) (i : Nat) (s t : State), actsOn h 0x0B false i s = true →
    h.fn < 256 → h.qp < 64 → s.fenWaits = [] → (descOf i s).st ≤ 8 → (descOf i s).fn < 256 → (descOf i s).cls < 8 →
    exec (.setSampling h p withSeed withMax) s = .next t →
    t.mem = s.mem ∧ t.deepMem = s.deepMem ∧ t.parts = s.parts ∧ t.models = s.models ∧ t.vecs = s.vecs ∧ t.embTabs = s.embTabs ∧ t.eph = s.eph ∧
      t.cad = s.cad ∧ t.transits = s.transits ∧ (∀ f : Fld, beyondHost f = true → rd f t = rd f s)) ∧
  (∀ (h : Hdr) (buf : Buf) (stopLen incl i : Nat) (s t : State), actsOn h 0x0D (decide (2 < incl)) i s = true →
    h.fn < 256 → h.qp < 64 → s.fenWaits = [] → (descOf i s).st ≤ 8 → (descOf i s).fn < 256 → (descOf i s).cls < 8 →
    exec (.setStops h buf stopLen incl) s = .next t →
    t.deepMem = s.deepMem ∧ t.parts = s.parts ∧ t.models = s.models ∧ t.vecs = s.vecs ∧ t.embTabs = s.embTabs ∧ t.eph = s.eph ∧
      t.cad = s.cad ∧ t.transits = s.transits ∧ (∀ f : Fld, beyondHost f = true → rd f t = rd f s)) ∧
  (∀ (off a : Nat) (data : List Byte) (s t : State), live s = true → exec (.bar4Write off data) s = .next t →
    (a < rd HIF_BAR4_WINDOW.ADDR s * 2 ^ 30 + off ∨ rd HIF_BAR4_WINDOW.ADDR s * 2 ^ 30 + off + data.length ≤ a) → memByte t a = memByte s a) ∧
  (∀ (c : Instr) (s t : State), exec c s = .next t →
    ((∃ x0, c = .getTid x0) ∨ (∃ x0 x1, c = .setTid x0 x1) ∨ (∃ x0, c = .getPldmTypes x0) ∨ (∃ x0 x1, c = .getPldmCommands x0 x1) ∨
      (∃ x0 x1, c = .getPldmVersion x0 x1) ∨ (∃ x0 x1, c = .getPdr x0 x1) ∨ (∃ x0, c = .getPdrRepositoryInfo x0) ∨
      (∃ x0 x1, c = .getSensorReading x0 x1) ∨ (∃ x0 x1, c = .getStateSensorReadings x0 x1) ∨ (∃ x0 x1 x2, c = .setSensorThresholds x0 x1 x2) ∨
      (∃ x0 x1, c = .getSensorThresholds x0 x1) ∨ (∃ x0 x1 x2, c = .setNumericEffecterValue x0 x1 x2) ∨
      (∃ x0 x1, c = .getNumericEffecterValue x0 x1) ∨ (∃ x0 x1 x2, c = .setEventReceiver x0 x1 x2) ∨ (∃ x0, c = .requestUpdate x0) ∨
      (∃ x0 x1, c = .pldmUpdateAgentCommand x0 x1) ∨ (∃ x0 x1 x2, c = .activateFirmware x0 x1 x2) ∨
      (∃ x0 x1 x2 x3, c = .mctpMessage x0 x1 x2 x3) ∨ (∃ x0 x1, c = .setEndpointId x0 x1) ∨ (∃ x0 x1, c = .spdmRequest x0 x1) ∨
      (∃ x0 x1 x2 x3 x4 x5, c = .modelKeySet x0 x1 x2 x3 x4 x5) ∨ (∃ x0 x1 x2, c = .modelKeyClear x0 x1 x2) ∨
      (∃ x0 x1 x2, c = .ideKm x0 x1 x2) ∨ c = .mgtWatchdogRestart ∨ (∃ x0, c = .sensorRefresh x0) ∨ (∃ x0, c = .entdaa x0) ∨ c = .getstatus ∨
      (∃ x0, c = .kxClose x0) ∨ (∃ x0 x1 x2, c = .kxComplete x0 x1 x2) ∨ (∃ x0, c = .ownerUpdate x0) ∨ (∃ x0 x1, c = .offerTimeout x0 x1) ∨
      (∃ x0 x1, c = .oldKeyExpiry x0 x1) ∨ (∃ x0, c = .almLoad x0) ∨ c = .almSeal ∨ c = .almDiscard ∨ c = .writeBoot ∨
      (∃ x0 x1 x2, c = .fwWrite x0 x1 x2) ∨ (∃ x0, c = .fwActivate x0) ∨ c = .fwInvalidate ∨ c = .activationTimeout ∨
      (∃ x0, c = .leaseRenew x0) ∨ (∃ x0, c = .leaderElection x0) ∨ (∃ x0, c = .candidateYield x0) ∨ (∃ x0, c = .dirEntryExpire x0) ∨
      (∃ x0 x1, c = .mirrorAudit x0 x1) ∨ c = .joinView ∨ c = .leaveView ∨ (∃ x0 x1, c = .heartbeatMsg x0 x1) ∨
      (∃ x0 x1, c = .frameSend x0 x1) ∨ (∃ x0, c = .ackTimer x0) ∨ (∃ x0 x1 x2 x3, c = .tmUnitStart x0 x1 x2 x3) ∨
      (∃ x0 x1 x2, c = .tmHwmRead x0 x1 x2) ∨ (∃ x0, c = .peakDwRead x0) ∨ (∃ x0 x1, c = .collectiveMsg x0 x1) ∨ (∃ x0, c = .evqCi x0) ∨
      (∃ x0, c = .fenReset x0)) →
    t.mem = s.mem ∧ t.deepMem = s.deepMem ∧ t.desc = s.desc ∧ t.sess = s.sess ∧ t.parts = s.parts ∧ t.models = s.models ∧ t.transits = s.transits ∧
      t.queues = s.queues ∧ t.cpl = s.cpl ∧ t.started = s.started ∧ t.eph = s.eph ∧ t.fenWaits = s.fenWaits ∧ t.sram = s.sram) ∧
  (∀ (h : Hdr) (op st hd a b : Nat) (s : State), s.fenWaits = [] →
    (64 ≤ h.qp → h.fenceDone = false →
      complete h op st hd a b s = { s with fabOut := { type := 0x13, dst := h.qp - 64, args := [h.cmdId, st, hd, a, b] } :: s.fabOut }) ∧
    (h.fn < 256 → h.qp < 64 → qpState h.fn h.qp s = 0 → (complete h op st hd a b s).cpl = s.cpl) ∧
    (h.fn < 256 → h.qp < 64 → (qpState h.fn h.qp s = 1 ∨ qpState h.fn h.qp s = 2) → (ideShut s = true ∨ h.cplFault = true) →
      (complete h op st hd a b s).cpl = s.cpl ∧ qpState h.fn h.qp (complete h op st hd a b s) = 3 ∧
        rd HIF_COMPLETION_DROPS.COUNT (complete h op st hd a b s) = satAdd 48 (rd HIF_COMPLETION_DROPS.COUNT s) 1))
end

