-- ==== Sys2Proof/Laws/Store.lean ====
section
/-!
SUPPORT. Sys2Proof/Laws/Store.lean: reading a store after a write, and that writing keeps its keys in order.
-/
namespace Sys2Proof.Machine

theorem sget_sset_self {α : Type} (m : Store α) (i : Nat) (v : α) : sget (sset m i v) i = some v := by
  induction m with
  | nil => simp [sset, sget]
  | cons p r ih =>
    obtain ⟨k, w⟩ := p
    by_cases h : i < k
    · simp [sset, sget, h]
    · by_cases e : i = k
      · simp [sset, sget, e]
      · simp [sset, sget, h, e, ih]

theorem sget_sset_other {α : Type} (m : Store α) (i j : Nat) (v : α) (h : j ≠ i) : sget (sset m i v) j = sget m j := by
  induction m with
  | nil => simp [sset, sget, h]
  | cons p r ih =>
    obtain ⟨k, w⟩ := p
    by_cases l : i < k
    · simp [sset, sget, l, h]
    · by_cases e : i = k
      · subst e; simp [sset, sget, h]
      · simp only [sset, l, e, if_false, sget, ih]

@[simp] theorem sgetD_sset_self {α : Type} (m : Store α) (i : Nat) (v d : α) : sgetD (sset m i v) i d = v := by
  simp [sgetD, sget_sset_self]

theorem sgetD_sset_other {α : Type} (m : Store α) (i j : Nat) (v d : α) (h : j ≠ i) :
    sgetD (sset m i v) j d = sgetD m j d := by
  simp [sgetD, sget_sset_other _ _ _ _ h]

theorem sget_sdel_self {α : Type} (m : Store α) (i : Nat) : sget (sdel m i) i = none := by
  induction m with
  | nil => rfl
  | cons p r ih =>
    obtain ⟨k, w⟩ := p
    by_cases e : k = i
    · simpa [sdel, e] using ih
    · have e' : ¬ i = k := fun h => e h.symm
      simpa [sdel, e, sget, e'] using ih

theorem sget_sdel_other {α : Type} (m : Store α) (i j : Nat) (h : j ≠ i) : sget (sdel m i) j = sget m j := by
  induction m with
  | nil => rfl
  | cons p r ih =>
    obtain ⟨k, w⟩ := p
    by_cases e : k = i
    · subst e; simpa [sdel, sget, h] using ih
    · by_cases f : j = k
      · simp [sdel, e, sget, f]
      · simpa [sdel, e, sget, f] using ih

/-- Keys rise, in the form that induction uses: every later key is above the first. -/
theorem sorted_cons {α : Type} (k : Nat) (v : α) (r : Store α) :
    sorted ((k, v) :: r) = true ↔ (∀ p ∈ r.head?, k < p.1) ∧ sorted r = true := by
  cases r with
  | nil => simp [sorted]
  | cons q t => obtain ⟨b, y⟩ := q; simp [sorted]

theorem sorted_sset {α : Type} (m : Store α) (i : Nat) (v : α) (h : sorted m = true) : sorted (sset m i v) = true := by
  induction m with
  | nil => simp [sset, sorted]
  | cons p r ih =>
    obtain ⟨k, w⟩ := p
    have hr := (sorted_cons k w r).mp h
    by_cases l : i < k
    · simp only [sset, l, if_true]
      exact (sorted_cons _ _ _).mpr ⟨by simp [l], h⟩
    · by_cases e : i = k
      · subst e
        simp only [sset, Nat.lt_irrefl, if_false, if_true]
        exact (sorted_cons _ _ _).mpr hr
      · simp only [sset, l, e, if_false]
        refine (sorted_cons _ _ _).mpr ⟨?_, ih hr.2⟩
        cases r with
        | nil => intro p hp; simp [sset] at hp; subst hp; show k < i; omega
        | cons q t =>
          obtain ⟨b, y⟩ := q
          have hb : k < b := hr.1 (b, y) (by simp)
          intro p hp
          simp only [sset] at hp
          split at hp
          · simp at hp; subst hp; show k < i; omega
          · split at hp
            · simp at hp; subst hp; show k < i; omega
            · simp at hp; subst hp; exact hb

end Sys2Proof.Machine
end

