-- ==== Sys2Proof/Laws/Regs.lean ====
section
/-!
SUPPORT. Sys2Proof/Laws/Regs.lean: reading a register field after an operation on registers.
-/
namespace Sys2Proof.Machine

/-- Two fields that do not share a place of the register store. -/
def apart (f g : Fld) : Prop := fkey f ≠ fkey g

theorem apart_of_off (f g : Fld) (hf : f.lo < 64 ∧ f.hi < 64) (hg : g.lo < 64 ∧ g.hi < 64) (h : f.off ≠ g.off) : apart f g := by
  unfold apart fkey; omega

@[simp] theorem rd_wr_self (f : Fld) (v : Nat) (s : State) : rd f (wr f v s) = v % 2 ^ fwidth f := by
  simp [rd, wr]

theorem rd_wr_apart (f g : Fld) (v : Nat) (s : State) (h : apart f g) : rd f (wr g v s) = rd f s := by
  simp only [rd, wr]; exact sgetD_sset_other _ _ _ _ _ h

theorem rd_of_regs (f : Fld) (s t : State) (h : t.regs = s.regs) : rd f t = rd f s := by simp [rd, h]

theorem rd_bump_apart (f g : Fld) (n : Nat) (s : State) (h : apart f g) : rd f (bump g n s) = rd f s := rd_wr_apart _ _ _ _ h
theorem rd_drop_apart (f g : Fld) (n : Nat) (s : State) (h : apart f g) : rd f (drop g n s) = rd f s := rd_wr_apart _ _ _ _ h
theorem rd_raise_apart (f g : Fld) (n : Nat) (s : State) (h : apart f g) : rd f (raise g n s) = rd f s := rd_wr_apart _ _ _ _ h
theorem rd_wrBit_apart (f g : Fld) (i : Nat) (b : Bool) (s : State) (h : apart f g) : rd f (wrBit g i b s) = rd f s :=
  rd_wr_apart _ _ _ _ h

/-- What a counter holds after it counts: the sum, capped at all ones (R4). -/
theorem rd_bump_self (f : Fld) (n : Nat) (s : State) :
    rd f (bump f n s) = satAdd (fwidth f) (rd f s) n := by
  unfold bump; rw [rd_wr_self]
  apply Nat.mod_eq_of_lt
  have := Nat.two_pow_pos (fwidth f)
  unfold satAdd; split <;> omega

theorem rd_bump_one (f : Fld) (s : State) (h : rd f s + 1 < 2 ^ fwidth f) : rd f (bump f 1 s) = rd f s + 1 := by
  rw [rd_bump_self]; simp [satAdd, h]

end Sys2Proof.Machine
end

