-- ==== Sys2Proof/Laws/Ops.lean ====
section
/-!
SUPPORT. Sys2Proof/Laws/Ops.lean: what the shared operations can touch: registers, bytes, records, events, traces and completions.
`State.core` is the state less everything that reporting an outcome may change; an operation that only reports leaves it as it is.
-/
namespace Sys2Proof.Machine

/-- The state less registers, bonded-tier bytes, records, events, traces, interrupts, completions and fabric messages sent. -/
def State.core (s : State) : State :=
  { s with fresh := 0, regs := [], mem := [], poison := [], traces := [], started := [], cpl := [], queues := [], coal := [], msix := [],
           fabOut := [], fenWaits := [], evHeld := [], evOut := [], evqPi := 0, recOut := [], adm := { s.adm with mgtOut := [] } }

@[simp] theorem core_wr (f : Fld) (v : Nat) (s : State) : (wr f v s).core = s.core := rfl
@[simp] theorem core_bump (f : Fld) (n : Nat) (s : State) : (bump f n s).core = s.core := rfl
@[simp] theorem core_drop (f : Fld) (n : Nat) (s : State) : (drop f n s).core = s.core := rfl
@[simp] theorem core_raise (f : Fld) (n : Nat) (s : State) : (raise f n s).core = s.core := rfl
@[simp] theorem core_wrBit (f : Fld) (i : Nat) (b : Bool) (s : State) : (wrBit f i b s).core = s.core := rfl
@[simp] theorem core_memWrite (a : Nat) (bs : List Byte) (s : State) : (memWrite a bs s).core = s.core := rfl
@[simp] theorem core_putQp (fn qp : Nat) (q : Qp) (s : State) : (putQp fn qp q s).core = s.core := rfl
@[simp] theorem core_queueRec (fn qp : Nat) (r : Rec) (s : State) : (queueRec fn qp r s).core = s.core := rfl

@[simp] theorem core_trace (r : Trc) (s : State) : (trace r s).core = s.core := by
  unfold trace; dsimp only; repeat' split
  all_goals rfl
@[simp] theorem core_coalesce (fn vec n : Nat) (s : State) : (coalesce fn vec n s).core = s.core := by
  unfold coalesce; dsimp only; repeat' split
  all_goals rfl
@[simp] theorem core_evqWrite (e : Ev) (s : State) : (evqWrite e s).core = s.core := by
  unfold evqWrite; rw [core_coalesce]; rfl
@[simp] theorem core_postEv (e : Ev) (s : State) : (postEv e s).core = s.core := by
  unfold postEv; repeat' split
  · simp
  all_goals rfl
@[simp] theorem core_platformEv (e : Ev) (s : State) : (platformEv e s).core = s.core := by
  unfold platformEv; repeat' split
  all_goals rfl
@[simp] theorem core_postPf (a b c d e : Nat) (s : State) : (postPf a b c d e s).core = s.core := by
  unfold postPf; simp
@[simp] theorem core_postPfSes (i a b c d e : Nat) (s : State) : (postPfSes i a b c d e s).core = s.core := by
  unfold postPfSes; simp
@[simp] theorem core_postRing (fn qp : Nat) (r : Rec) (s : State) : (postRing fn qp r s).core = s.core := by
  unfold postRing; dsimp only; repeat' split
  all_goals rfl
@[simp] theorem core_postSes (i a b c d e : Nat) (s : State) : (postSes i a b c d e s).core = s.core := by
  unfold postSes; simp
@[simp] theorem core_qpError (fn qp c : Nat) (s : State) : (qpError fn qp c s).core = s.core := by
  unfold qpError; simp
@[simp] theorem core_ideFault (fn qp : Nat) (s : State) : (ideFault fn qp s).core = s.core := by
  unfold ideFault; dsimp only; split <;> simp
@[simp] theorem core_fenceApply (n m v : Nat) (s : State) : (fenceApply n m v s).core = s.core := by
  unfold fenceApply; dsimp only; repeat' split
  all_goals rfl
@[simp] theorem core_fenceDone (h : Hdr) (s : State) : (fenceDone h s).core = s.core := by
  unfold fenceDone; split <;> simp
@[simp] theorem core_countCpl (h : Hdr) (st : Nat) (s : State) : (countCpl h st s).core = s.core := by
  unfold countCpl; dsimp only; split
  all_goals rfl
@[simp] theorem core_ringCpl (h : Hdr) (op st hd a b : Nat) (fwd : Bool) (s : State) : (ringCpl h op st hd a b fwd s).core = s.core := by
  unfold ringCpl; rw [core_coalesce, core_wr, core_putQp]; rfl
@[simp] theorem core_writeCpl (h : Hdr) (op st hd a b : Nat) (fwd : Bool) (s : State) : (writeCpl h op st hd a b fwd s).core = s.core := by
  unfold writeCpl; repeat' split
  · rfl
  all_goals simp
@[simp] theorem core_settleWaits (n : Nat) (s : State) : (settleWaits n s).core = s.core := by
  induction n generalizing s with
  | zero => rfl
  | succ n ih =>
    unfold settleWaits; split
    · rfl
    · rw [ih, core_fenceDone, core_writeCpl]; rfl
@[simp] theorem core_signalFence (n m v : Nat) (s : State) : (signalFence n m v s).core = s.core := by
  unfold signalFence; simp
/-- A completion changes only what reporting an outcome may change. -/
@[simp] theorem core_complete (h : Hdr) (op st hd a b : Nat) (s : State) : (complete h op st hd a b s).core = s.core := by
  unfold complete completeFull; simp
@[simp] theorem core_refuse (h : Hdr) (op st : Nat) (s : State) : (refuse h op st s).core = s.core := by
  unfold refuse; simp

/-! ## Bonded-tier bytes: only a trace record written to its ring may change them -/

@[simp] theorem mem_coalesce (fn vec n : Nat) (s : State) : (coalesce fn vec n s).mem = s.mem := by
  unfold coalesce; dsimp only; repeat' split
  all_goals rfl
@[simp] theorem mem_evqWrite (e : Ev) (s : State) : (evqWrite e s).mem = s.mem := by
  unfold evqWrite; rw [mem_coalesce]
@[simp] theorem mem_postEv (e : Ev) (s : State) : (postEv e s).mem = s.mem := by
  unfold postEv; repeat' split
  · simp
  all_goals rfl
@[simp] theorem mem_platformEv (e : Ev) (s : State) : (platformEv e s).mem = s.mem := by
  unfold platformEv; repeat' split
  all_goals rfl
@[simp] theorem mem_postPf (a b c d e : Nat) (s : State) : (postPf a b c d e s).mem = s.mem := by
  unfold postPf; simp
@[simp] theorem mem_postRing (fn qp : Nat) (r : Rec) (s : State) : (postRing fn qp r s).mem = s.mem := by
  unfold postRing; dsimp only; repeat' split
  all_goals rfl
@[simp] theorem mem_qpError (fn qp c : Nat) (s : State) : (qpError fn qp c s).mem = s.mem := by
  unfold qpError; rw [mem_postPf]; rfl
@[simp] theorem mem_ideFault (fn qp : Nat) (s : State) : (ideFault fn qp s).mem = s.mem := by
  unfold ideFault; dsimp only; split
  · rfl
  · rw [mem_qpError]; rfl
@[simp] theorem mem_fenceApply (n m v : Nat) (s : State) : (fenceApply n m v s).mem = s.mem := by
  unfold fenceApply; dsimp only; repeat' split
  all_goals rfl
@[simp] theorem mem_fenceDone (h : Hdr) (s : State) : (fenceDone h s).mem = s.mem := by
  unfold fenceDone; split <;> simp
@[simp] theorem mem_countCpl (h : Hdr) (st : Nat) (s : State) : (countCpl h st s).mem = s.mem := by
  unfold countCpl; dsimp only; split
  all_goals rfl
@[simp] theorem mem_ringCpl (h : Hdr) (op st hd a b : Nat) (fwd : Bool) (s : State) : (ringCpl h op st hd a b fwd s).mem = s.mem := by
  unfold ringCpl; rw [mem_coalesce]; rfl
@[simp] theorem mem_writeCpl (h : Hdr) (op st hd a b : Nat) (fwd : Bool) (s : State) : (writeCpl h op st hd a b fwd s).mem = s.mem := by
  unfold writeCpl; repeat' split
  · rfl
  · show (countCpl h st s).mem = _; simp
  · simp
  · show (ideFault _ _ _).mem = _; simp
  · show (qpError _ _ _ _).mem = _; simp
  · simp
@[simp] theorem mem_settleWaits (n : Nat) (s : State) : (settleWaits n s).mem = s.mem := by
  induction n generalizing s with
  | zero => rfl
  | succ n ih =>
    unfold settleWaits; split
    · rfl
    · rw [ih, mem_fenceDone, mem_writeCpl]; rfl
@[simp] theorem mem_complete (h : Hdr) (op st hd a b : Nat) (s : State) : (complete h op st hd a b s).mem = s.mem := by
  unfold complete completeFull; simp
@[simp] theorem mem_refuse (h : Hdr) (op st : Nat) (s : State) : (refuse h op st s).mem = s.mem := by
  unfold refuse; simp

/-! ## Registers: reporting an outcome touches only counters and pointers of the host interface and the fences -/

/-- A field that no completion and no event touches: outside the host interface's counters, the queue pairs, the fence unit and
the count of requests that IDE discards. -/
def Fld.quiet (f : Fld) : Prop :=
  f.lo < 64 ∧ f.hi < 64 ∧
    (f.off < 0xa1100 ∨ (0xa1138 ≤ f.off ∧ f.off < 0xd0528) ∨ (0xd0530 ≤ f.off ∧ f.off < 0x2c0000) ∨ (0x300000 ≤ f.off ∧ f.off < 0x10000000))

theorem rd_wr_quiet (f g : Fld) (v : Nat) (s : State) (h : f.quiet) (hg : g.lo < 64 ∧ g.hi < 64)
    (ho : (0xa1100 ≤ g.off ∧ g.off < 0xa1138) ∨ g.off = 0xd0528 ∨ (0x2c0000 ≤ g.off ∧ g.off < 0x300000) ∨ 0x10000000 ≤ g.off) :
    rd f (wr g v s) = rd f s := by
  refine rd_wr_apart _ _ _ _ (apart_of_off _ _ ⟨h.1, h.2.1⟩ hg ?_)
  rcases h.2.2 with a | a | a | a <;> omega

theorem rd_same (f : Fld) {s t : State} (h : t.regs = s.regs) : rd f t = rd f s := by unfold rd; rw [h]

theorem regs_coalesce (fn vec n : Nat) (s : State) : (coalesce fn vec n s).regs = s.regs := by
  unfold coalesce; dsimp only; repeat' split
  all_goals rfl
theorem rd_postEv (f : Fld) (e : Ev) (s : State) (h : f.quiet) : rd f (postEv e s) = rd f s := by
  unfold postEv; repeat' split
  · exact rd_same f (by unfold evqWrite; rw [regs_coalesce])
  · exact rd_same f rfl
  · exact rd_wr_quiet f _ _ _ h (by decide) (by decide)
theorem rd_postPf (f : Fld) (a b c d e : Nat) (s : State) (h : f.quiet) : rd f (postPf a b c d e s) = rd f s := by
  unfold postPf
  dsimp only
  rw [← rd_postEv f { code := a, src := b, status := c, arg32 := d, arg64 := e, tick := now s } s h]
  refine rd_same f ?_
  unfold platformEv; repeat' split
  all_goals rfl
theorem rd_qpError (f : Fld) (fn qp c : Nat) (s : State) (h : f.quiet) : rd f (qpError fn qp c s) = rd f s := by
  unfold qpError
  rw [rd_postPf f _ _ _ _ _ _ h]
  refine Eq.trans (rd_wr_quiet f _ _ _ h (by decide) (by decide)) ?_
  refine Eq.trans (rd_wr_quiet f _ _ _ h ⟨(by decide : (48:Nat) < 64), (by decide : (55:Nat) < 64)⟩ (Or.inr (Or.inr (Or.inr ?_)))) ?_
  · show 0x10000000 ≤ 0x10040028 + 0x200000 * fn + 0x40 * qp; omega
  · refine rd_wr_quiet f _ _ _ h ⟨(by decide : (0:Nat) < 64), (by decide : (1:Nat) < 64)⟩ (Or.inr (Or.inr (Or.inr ?_)))
    show 0x10000000 ≤ 0x10040028 + 0x200000 * fn + 0x40 * qp; omega
theorem rd_ideFault (f : Fld) (fn qp : Nat) (s : State) (h : f.quiet) : rd f (ideFault fn qp s) = rd f s := by
  have b : ∀ s, rd f (bump SEC_IDE_BLOCKED.COUNT 1 s) = rd f s := fun s => rd_wr_quiet f _ _ _ h (by decide) (by decide)
  unfold ideFault; dsimp only; split
  · exact b s
  · rw [rd_qpError f _ _ _ _ h, b]
theorem rd_fenceApply (f : Fld) (n m v : Nat) (s : State) (h : f.quiet) (hn : n < fences) : rd f (fenceApply n m v s) = rd f s := by
  have hv : ∀ (x : Nat) (s : State), rd f (wr (FEN_VALUE.VALUE n) x s) = rd f s := by
    intro x s
    refine rd_wr_quiet f _ _ _ h ⟨(by decide : (0:Nat) < 64), (by decide : (63:Nat) < 64)⟩ (Or.inr (Or.inr (Or.inl ?_)))
    show 0x2c0000 ≤ 0x2c0000 + 0x8 * n ∧ 0x2c0000 + 0x8 * n < 0x300000
    unfold fences at hn; omega
  unfold fenceApply; dsimp only; repeat' split
  · rw [hv]; exact rd_wr_quiet f _ _ _ h (by decide) (by decide)
  · refine Eq.trans (rd_wr_quiet f _ _ _ h (by decide) (by decide)) (rd_wr_quiet f _ _ _ h (by decide) (by decide))
  · rw [hv]; exact rd_wr_quiet f _ _ _ h (by decide) (by decide)
theorem rd_fenceDone (f : Fld) (h : Hdr) (s : State) (hf : f.quiet) : rd f (fenceDone h s) = rd f s := by
  unfold fenceDone; split
  · next e =>
    have : h.fence < fences := by
      simp only [mayFence, Bool.and_eq_true, decide_eq_true_eq] at e; exact e.2.1
    exact rd_fenceApply f _ _ _ _ hf this
  · rfl
theorem rd_countCpl (f : Fld) (h : Hdr) (st : Nat) (s : State) (hf : f.quiet) : rd f (countCpl h st s) = rd f s := by
  have a : ∀ s, rd f (bump HIF_COMMANDS.COUNT 1 s) = rd f s := fun s => rd_wr_quiet f _ _ _ hf (by decide) (by decide)
  have b : ∀ s, rd f (bump HIF_REJECTS.COUNT 1 s) = rd f s := fun s => rd_wr_quiet f _ _ _ hf (by decide) (by decide)
  unfold countCpl; dsimp only; split
  · rw [b, a]; rfl
  · rw [a]; rfl
theorem rd_ringCpl (f : Fld) (h : Hdr) (op st hd a b : Nat) (fwd : Bool) (s : State) (hf : f.quiet) :
    rd f (ringCpl h op st hd a b fwd s) = rd f s := by
  unfold ringCpl; dsimp only
  rw [rd_same f (regs_coalesce _ _ _ _)]
  refine Eq.trans (rd_wr_quiet f _ _ _ hf ⟨(by decide : (32:Nat) < 64), (by decide : (47:Nat) < 64)⟩ (Or.inr (Or.inr (Or.inr ?_)))) rfl
  show 0x10000000 ≤ 0x10040028 + 0x200000 * h.fn + 0x40 * h.qp; omega
theorem rd_writeCpl (f : Fld) (h : Hdr) (op st hd a b : Nat) (fwd : Bool) (s : State) (hf : f.quiet) :
    rd f (writeCpl h op st hd a b fwd s) = rd f s := by
  have d : ∀ s, rd f (bump HIF_COMPLETION_DROPS.COUNT 1 s) = rd f s := fun s => rd_wr_quiet f _ _ _ hf (by decide) (by decide)
  unfold writeCpl; repeat' split
  · rfl
  · rw [d, rd_countCpl f _ _ _ hf]
  · rw [rd_countCpl f _ _ _ hf]
  · rw [d, rd_ideFault f _ _ _ hf, rd_countCpl f _ _ _ hf]
  · rw [d, rd_qpError f _ _ _ _ hf, rd_countCpl f _ _ _ hf]
  · rw [rd_ringCpl f _ _ _ _ _ _ _ _ hf, rd_countCpl f _ _ _ hf]
theorem rd_settleWaits (f : Fld) (n : Nat) (s : State) (hf : f.quiet) : rd f (settleWaits n s) = rd f s := by
  induction n generalizing s with
  | zero => rfl
  | succ n ih =>
    unfold settleWaits; split
    · rfl
    · rw [ih, rd_fenceDone f _ _ hf, rd_writeCpl f _ _ _ _ _ _ _ _ hf]
      exact rd_wr_quiet f _ _ _ hf (by decide) (by decide)
/-- A completion touches no register field but counters and pointers of the host interface and the fences. -/
theorem rd_complete (f : Fld) (h : Hdr) (op st hd a b : Nat) (s : State) (hf : f.quiet) : rd f (complete h op st hd a b s) = rd f s := by
  unfold complete completeFull; dsimp only
  rw [rd_settleWaits f _ _ hf, rd_fenceDone f _ _ hf, rd_writeCpl f _ _ _ _ _ _ _ _ hf]
theorem rd_refuse (f : Fld) (h : Hdr) (op st : Nat) (s : State) (hf : f.quiet) : rd f (refuse h op st s) = rd f s := by
  unfold refuse; exact rd_complete f _ _ _ _ _ _ _ hf

/-! ## Fields that a completion leaves, and an event -/

/-- A field that `State.core` keeps is equal wherever the cores are. -/
theorem of_core {α : Type} (g : State → α) (hg : ∀ s, g s.core = g s) {s t : State} (e : t.core = s.core) : g t = g s := by
  rw [← hg t, ← hg s, e]

section
variable (h : Hdr) (op st hd a b c d e i : Nat) (s : State)
@[simp] theorem complete_pending : (complete h op st hd a b s).pending = s.pending := of_core State.pending (fun _ => rfl) (core_complete h op st hd a b s)
@[simp] theorem refuse_pending : (refuse h op st s).pending = s.pending := of_core State.pending (fun _ => rfl) (core_refuse h op st s)
@[simp] theorem postPf_pending : (postPf a b c d e s).pending = s.pending := of_core State.pending (fun _ => rfl) (core_postPf a b c d e s)
@[simp] theorem postSes_pending : (postSes i a b c d e s).pending = s.pending := of_core State.pending (fun _ => rfl) (core_postSes i a b c d e s)
@[simp] theorem trace_pending (r : Trc) : (trace r s).pending = s.pending := of_core State.pending (fun _ => rfl) (core_trace r s)
@[simp] theorem complete_boots : (complete h op st hd a b s).boots = s.boots := of_core State.boots (fun _ => rfl) (core_complete h op st hd a b s)
@[simp] theorem refuse_boots : (refuse h op st s).boots = s.boots := of_core State.boots (fun _ => rfl) (core_refuse h op st s)
@[simp] theorem postPf_boots : (postPf a b c d e s).boots = s.boots := of_core State.boots (fun _ => rfl) (core_postPf a b c d e s)
@[simp] theorem postSes_boots : (postSes i a b c d e s).boots = s.boots := of_core State.boots (fun _ => rfl) (core_postSes i a b c d e s)
@[simp] theorem trace_boots (r : Trc) : (trace r s).boots = s.boots := of_core State.boots (fun _ => rfl) (core_trace r s)
@[simp] theorem complete_pow : (complete h op st hd a b s).pow = s.pow := of_core State.pow (fun _ => rfl) (core_complete h op st hd a b s)
@[simp] theorem refuse_pow : (refuse h op st s).pow = s.pow := of_core State.pow (fun _ => rfl) (core_refuse h op st s)
@[simp] theorem postPf_pow : (postPf a b c d e s).pow = s.pow := of_core State.pow (fun _ => rfl) (core_postPf a b c d e s)
@[simp] theorem postSes_pow : (postSes i a b c d e s).pow = s.pow := of_core State.pow (fun _ => rfl) (core_postSes i a b c d e s)
@[simp] theorem trace_pow (r : Trc) : (trace r s).pow = s.pow := of_core State.pow (fun _ => rfl) (core_trace r s)
@[simp] theorem complete_ltPend : (complete h op st hd a b s).ltPend = s.ltPend := of_core State.ltPend (fun _ => rfl) (core_complete h op st hd a b s)
@[simp] theorem refuse_ltPend : (refuse h op st s).ltPend = s.ltPend := of_core State.ltPend (fun _ => rfl) (core_refuse h op st s)
@[simp] theorem postPf_ltPend : (postPf a b c d e s).ltPend = s.ltPend := of_core State.ltPend (fun _ => rfl) (core_postPf a b c d e s)
@[simp] theorem postSes_ltPend : (postSes i a b c d e s).ltPend = s.ltPend := of_core State.ltPend (fun _ => rfl) (core_postSes i a b c d e s)
@[simp] theorem trace_ltPend (r : Trc) : (trace r s).ltPend = s.ltPend := of_core State.ltPend (fun _ => rfl) (core_trace r s)
@[simp] theorem complete_shadow : (complete h op st hd a b s).shadow = s.shadow := of_core State.shadow (fun _ => rfl) (core_complete h op st hd a b s)
@[simp] theorem refuse_shadow : (refuse h op st s).shadow = s.shadow := of_core State.shadow (fun _ => rfl) (core_refuse h op st s)
@[simp] theorem postPf_shadow : (postPf a b c d e s).shadow = s.shadow := of_core State.shadow (fun _ => rfl) (core_postPf a b c d e s)
@[simp] theorem postSes_shadow : (postSes i a b c d e s).shadow = s.shadow := of_core State.shadow (fun _ => rfl) (core_postSes i a b c d e s)
@[simp] theorem trace_shadow (r : Trc) : (trace r s).shadow = s.shadow := of_core State.shadow (fun _ => rfl) (core_trace r s)
@[simp] theorem complete_heldWr : (complete h op st hd a b s).heldWr = s.heldWr := of_core State.heldWr (fun _ => rfl) (core_complete h op st hd a b s)
@[simp] theorem refuse_heldWr : (refuse h op st s).heldWr = s.heldWr := of_core State.heldWr (fun _ => rfl) (core_refuse h op st s)
@[simp] theorem postPf_heldWr : (postPf a b c d e s).heldWr = s.heldWr := of_core State.heldWr (fun _ => rfl) (core_postPf a b c d e s)
@[simp] theorem postSes_heldWr : (postSes i a b c d e s).heldWr = s.heldWr := of_core State.heldWr (fun _ => rfl) (core_postSes i a b c d e s)
@[simp] theorem trace_heldWr (r : Trc) : (trace r s).heldWr = s.heldWr := of_core State.heldWr (fun _ => rfl) (core_trace r s)
@[simp] theorem complete_oldView : (complete h op st hd a b s).oldView = s.oldView := of_core State.oldView (fun _ => rfl) (core_complete h op st hd a b s)
@[simp] theorem refuse_oldView : (refuse h op st s).oldView = s.oldView := of_core State.oldView (fun _ => rfl) (core_refuse h op st s)
@[simp] theorem postPf_oldView : (postPf a b c d e s).oldView = s.oldView := of_core State.oldView (fun _ => rfl) (core_postPf a b c d e s)
@[simp] theorem postSes_oldView : (postSes i a b c d e s).oldView = s.oldView := of_core State.oldView (fun _ => rfl) (core_postSes i a b c d e s)
@[simp] theorem trace_oldView (r : Trc) : (trace r s).oldView = s.oldView := of_core State.oldView (fun _ => rfl) (core_trace r s)
@[simp] theorem complete_cad : (complete h op st hd a b s).cad = s.cad := of_core State.cad (fun _ => rfl) (core_complete h op st hd a b s)
@[simp] theorem refuse_cad : (refuse h op st s).cad = s.cad := of_core State.cad (fun _ => rfl) (core_refuse h op st s)
@[simp] theorem postPf_cad : (postPf a b c d e s).cad = s.cad := of_core State.cad (fun _ => rfl) (core_postPf a b c d e s)
@[simp] theorem postSes_cad : (postSes i a b c d e s).cad = s.cad := of_core State.cad (fun _ => rfl) (core_postSes i a b c d e s)
@[simp] theorem trace_cad (r : Trc) : (trace r s).cad = s.cad := of_core State.cad (fun _ => rfl) (core_trace r s)
@[simp] theorem complete_eph : (complete h op st hd a b s).eph = s.eph := of_core State.eph (fun _ => rfl) (core_complete h op st hd a b s)
@[simp] theorem refuse_eph : (refuse h op st s).eph = s.eph := of_core State.eph (fun _ => rfl) (core_refuse h op st s)
@[simp] theorem postPf_eph : (postPf a b c d e s).eph = s.eph := of_core State.eph (fun _ => rfl) (core_postPf a b c d e s)
@[simp] theorem postSes_eph : (postSes i a b c d e s).eph = s.eph := of_core State.eph (fun _ => rfl) (core_postSes i a b c d e s)
@[simp] theorem trace_eph (r : Trc) : (trace r s).eph = s.eph := of_core State.eph (fun _ => rfl) (core_trace r s)
@[simp] theorem complete_desc : (complete h op st hd a b s).desc = s.desc := of_core State.desc (fun _ => rfl) (core_complete h op st hd a b s)
@[simp] theorem refuse_desc : (refuse h op st s).desc = s.desc := of_core State.desc (fun _ => rfl) (core_refuse h op st s)
@[simp] theorem postPf_desc : (postPf a b c d e s).desc = s.desc := of_core State.desc (fun _ => rfl) (core_postPf a b c d e s)
@[simp] theorem postSes_desc : (postSes i a b c d e s).desc = s.desc := of_core State.desc (fun _ => rfl) (core_postSes i a b c d e s)
@[simp] theorem trace_desc (r : Trc) : (trace r s).desc = s.desc := of_core State.desc (fun _ => rfl) (core_trace r s)
@[simp] theorem complete_sess : (complete h op st hd a b s).sess = s.sess := of_core State.sess (fun _ => rfl) (core_complete h op st hd a b s)
@[simp] theorem refuse_sess : (refuse h op st s).sess = s.sess := of_core State.sess (fun _ => rfl) (core_refuse h op st s)
@[simp] theorem postPf_sess : (postPf a b c d e s).sess = s.sess := of_core State.sess (fun _ => rfl) (core_postPf a b c d e s)
@[simp] theorem postSes_sess : (postSes i a b c d e s).sess = s.sess := of_core State.sess (fun _ => rfl) (core_postSes i a b c d e s)
@[simp] theorem trace_sess (r : Trc) : (trace r s).sess = s.sess := of_core State.sess (fun _ => rfl) (core_trace r s)
@[simp] theorem complete_freeNext : (complete h op st hd a b s).freeNext = s.freeNext := of_core State.freeNext (fun _ => rfl) (core_complete h op st hd a b s)
@[simp] theorem refuse_freeNext : (refuse h op st s).freeNext = s.freeNext := of_core State.freeNext (fun _ => rfl) (core_refuse h op st s)
@[simp] theorem postPf_freeNext : (postPf a b c d e s).freeNext = s.freeNext := of_core State.freeNext (fun _ => rfl) (core_postPf a b c d e s)
@[simp] theorem postSes_freeNext : (postSes i a b c d e s).freeNext = s.freeNext := of_core State.freeNext (fun _ => rfl) (core_postSes i a b c d e s)
@[simp] theorem trace_freeNext (r : Trc) : (trace r s).freeNext = s.freeNext := of_core State.freeNext (fun _ => rfl) (core_trace r s)
@[simp] theorem complete_freed : (complete h op st hd a b s).freed = s.freed := of_core State.freed (fun _ => rfl) (core_complete h op st hd a b s)
@[simp] theorem refuse_freed : (refuse h op st s).freed = s.freed := of_core State.freed (fun _ => rfl) (core_refuse h op st s)
@[simp] theorem postPf_freed : (postPf a b c d e s).freed = s.freed := of_core State.freed (fun _ => rfl) (core_postPf a b c d e s)
@[simp] theorem postSes_freed : (postSes i a b c d e s).freed = s.freed := of_core State.freed (fun _ => rfl) (core_postSes i a b c d e s)
@[simp] theorem trace_freed (r : Trc) : (trace r s).freed = s.freed := of_core State.freed (fun _ => rfl) (core_trace r s)
@[simp] theorem complete_poolBytes : (complete h op st hd a b s).poolBytes = s.poolBytes := of_core State.poolBytes (fun _ => rfl) (core_complete h op st hd a b s)
@[simp] theorem refuse_poolBytes : (refuse h op st s).poolBytes = s.poolBytes := of_core State.poolBytes (fun _ => rfl) (core_refuse h op st s)
@[simp] theorem postPf_poolBytes : (postPf a b c d e s).poolBytes = s.poolBytes := of_core State.poolBytes (fun _ => rfl) (core_postPf a b c d e s)
@[simp] theorem postSes_poolBytes : (postSes i a b c d e s).poolBytes = s.poolBytes := of_core State.poolBytes (fun _ => rfl) (core_postSes i a b c d e s)
@[simp] theorem trace_poolBytes (r : Trc) : (trace r s).poolBytes = s.poolBytes := of_core State.poolBytes (fun _ => rfl) (core_trace r s)
@[simp] theorem complete_clsBytes : (complete h op st hd a b s).clsBytes = s.clsBytes := of_core State.clsBytes (fun _ => rfl) (core_complete h op st hd a b s)
@[simp] theorem refuse_clsBytes : (refuse h op st s).clsBytes = s.clsBytes := of_core State.clsBytes (fun _ => rfl) (core_refuse h op st s)
@[simp] theorem postPf_clsBytes : (postPf a b c d e s).clsBytes = s.clsBytes := of_core State.clsBytes (fun _ => rfl) (core_postPf a b c d e s)
@[simp] theorem postSes_clsBytes : (postSes i a b c d e s).clsBytes = s.clsBytes := of_core State.clsBytes (fun _ => rfl) (core_postSes i a b c d e s)
@[simp] theorem trace_clsBytes (r : Trc) : (trace r s).clsBytes = s.clsBytes := of_core State.clsBytes (fun _ => rfl) (core_trace r s)
@[simp] theorem complete_chUsed : (complete h op st hd a b s).chUsed = s.chUsed := of_core State.chUsed (fun _ => rfl) (core_complete h op st hd a b s)
@[simp] theorem refuse_chUsed : (refuse h op st s).chUsed = s.chUsed := of_core State.chUsed (fun _ => rfl) (core_refuse h op st s)
@[simp] theorem postPf_chUsed : (postPf a b c d e s).chUsed = s.chUsed := of_core State.chUsed (fun _ => rfl) (core_postPf a b c d e s)
@[simp] theorem postSes_chUsed : (postSes i a b c d e s).chUsed = s.chUsed := of_core State.chUsed (fun _ => rfl) (core_postSes i a b c d e s)
@[simp] theorem trace_chUsed (r : Trc) : (trace r s).chUsed = s.chUsed := of_core State.chUsed (fun _ => rfl) (core_trace r s)
@[simp] theorem complete_c0Window : (complete h op st hd a b s).c0Window = s.c0Window := of_core State.c0Window (fun _ => rfl) (core_complete h op st hd a b s)
@[simp] theorem refuse_c0Window : (refuse h op st s).c0Window = s.c0Window := of_core State.c0Window (fun _ => rfl) (core_refuse h op st s)
@[simp] theorem postPf_c0Window : (postPf a b c d e s).c0Window = s.c0Window := of_core State.c0Window (fun _ => rfl) (core_postPf a b c d e s)
@[simp] theorem postSes_c0Window : (postSes i a b c d e s).c0Window = s.c0Window := of_core State.c0Window (fun _ => rfl) (core_postSes i a b c d e s)
@[simp] theorem trace_c0Window (r : Trc) : (trace r s).c0Window = s.c0Window := of_core State.c0Window (fun _ => rfl) (core_trace r s)
@[simp] theorem complete_heldCmds : (complete h op st hd a b s).heldCmds = s.heldCmds := of_core State.heldCmds (fun _ => rfl) (core_complete h op st hd a b s)
@[simp] theorem refuse_heldCmds : (refuse h op st s).heldCmds = s.heldCmds := of_core State.heldCmds (fun _ => rfl) (core_refuse h op st s)
@[simp] theorem postPf_heldCmds : (postPf a b c d e s).heldCmds = s.heldCmds := of_core State.heldCmds (fun _ => rfl) (core_postPf a b c d e s)
@[simp] theorem postSes_heldCmds : (postSes i a b c d e s).heldCmds = s.heldCmds := of_core State.heldCmds (fun _ => rfl) (core_postSes i a b c d e s)
@[simp] theorem trace_heldCmds (r : Trc) : (trace r s).heldCmds = s.heldCmds := of_core State.heldCmds (fun _ => rfl) (core_trace r s)
@[simp] theorem complete_dueLate : (complete h op st hd a b s).dueLate = s.dueLate := of_core State.dueLate (fun _ => rfl) (core_complete h op st hd a b s)
@[simp] theorem refuse_dueLate : (refuse h op st s).dueLate = s.dueLate := of_core State.dueLate (fun _ => rfl) (core_refuse h op st s)
@[simp] theorem postPf_dueLate : (postPf a b c d e s).dueLate = s.dueLate := of_core State.dueLate (fun _ => rfl) (core_postPf a b c d e s)
@[simp] theorem postSes_dueLate : (postSes i a b c d e s).dueLate = s.dueLate := of_core State.dueLate (fun _ => rfl) (core_postSes i a b c d e s)
@[simp] theorem trace_dueLate (r : Trc) : (trace r s).dueLate = s.dueLate := of_core State.dueLate (fun _ => rfl) (core_trace r s)
@[simp] theorem complete_evqCi : (complete h op st hd a b s).evqCi = s.evqCi := of_core State.evqCi (fun _ => rfl) (core_complete h op st hd a b s)
@[simp] theorem refuse_evqCi : (refuse h op st s).evqCi = s.evqCi := of_core State.evqCi (fun _ => rfl) (core_refuse h op st s)
@[simp] theorem postPf_evqCi : (postPf a b c d e s).evqCi = s.evqCi := of_core State.evqCi (fun _ => rfl) (core_postPf a b c d e s)
@[simp] theorem postSes_evqCi : (postSes i a b c d e s).evqCi = s.evqCi := of_core State.evqCi (fun _ => rfl) (core_postSes i a b c d e s)
@[simp] theorem trace_evqCi (r : Trc) : (trace r s).evqCi = s.evqCi := of_core State.evqCi (fun _ => rfl) (core_trace r s)
@[simp] theorem complete_bar4Gib : (complete h op st hd a b s).bar4Gib = s.bar4Gib := of_core State.bar4Gib (fun _ => rfl) (core_complete h op st hd a b s)
@[simp] theorem refuse_bar4Gib : (refuse h op st s).bar4Gib = s.bar4Gib := of_core State.bar4Gib (fun _ => rfl) (core_refuse h op st s)
@[simp] theorem postPf_bar4Gib : (postPf a b c d e s).bar4Gib = s.bar4Gib := of_core State.bar4Gib (fun _ => rfl) (core_postPf a b c d e s)
@[simp] theorem postSes_bar4Gib : (postSes i a b c d e s).bar4Gib = s.bar4Gib := of_core State.bar4Gib (fun _ => rfl) (core_postSes i a b c d e s)
@[simp] theorem trace_bar4Gib (r : Trc) : (trace r s).bar4Gib = s.bar4Gib := of_core State.bar4Gib (fun _ => rfl) (core_trace r s)
@[simp] theorem complete_numVfs : (complete h op st hd a b s).numVfs = s.numVfs := of_core State.numVfs (fun _ => rfl) (core_complete h op st hd a b s)
@[simp] theorem refuse_numVfs : (refuse h op st s).numVfs = s.numVfs := of_core State.numVfs (fun _ => rfl) (core_refuse h op st s)
@[simp] theorem postPf_numVfs : (postPf a b c d e s).numVfs = s.numVfs := of_core State.numVfs (fun _ => rfl) (core_postPf a b c d e s)
@[simp] theorem postSes_numVfs : (postSes i a b c d e s).numVfs = s.numVfs := of_core State.numVfs (fun _ => rfl) (core_postSes i a b c d e s)
@[simp] theorem trace_numVfs (r : Trc) : (trace r s).numVfs = s.numVfs := of_core State.numVfs (fun _ => rfl) (core_trace r s)
@[simp] theorem complete_msixTab : (complete h op st hd a b s).msixTab = s.msixTab := of_core State.msixTab (fun _ => rfl) (core_complete h op st hd a b s)
@[simp] theorem refuse_msixTab : (refuse h op st s).msixTab = s.msixTab := of_core State.msixTab (fun _ => rfl) (core_refuse h op st s)
@[simp] theorem postPf_msixTab : (postPf a b c d e s).msixTab = s.msixTab := of_core State.msixTab (fun _ => rfl) (core_postPf a b c d e s)
@[simp] theorem postSes_msixTab : (postSes i a b c d e s).msixTab = s.msixTab := of_core State.msixTab (fun _ => rfl) (core_postSes i a b c d e s)
@[simp] theorem trace_msixTab (r : Trc) : (trace r s).msixTab = s.msixTab := of_core State.msixTab (fun _ => rfl) (core_trace r s)
@[simp] theorem complete_deepMem : (complete h op st hd a b s).deepMem = s.deepMem := of_core State.deepMem (fun _ => rfl) (core_complete h op st hd a b s)
@[simp] theorem refuse_deepMem : (refuse h op st s).deepMem = s.deepMem := of_core State.deepMem (fun _ => rfl) (core_refuse h op st s)
@[simp] theorem postPf_deepMem : (postPf a b c d e s).deepMem = s.deepMem := of_core State.deepMem (fun _ => rfl) (core_postPf a b c d e s)
@[simp] theorem postSes_deepMem : (postSes i a b c d e s).deepMem = s.deepMem := of_core State.deepMem (fun _ => rfl) (core_postSes i a b c d e s)
@[simp] theorem trace_deepMem (r : Trc) : (trace r s).deepMem = s.deepMem := of_core State.deepMem (fun _ => rfl) (core_trace r s)
@[simp] theorem complete_transits : (complete h op st hd a b s).transits = s.transits := of_core State.transits (fun _ => rfl) (core_complete h op st hd a b s)
@[simp] theorem refuse_transits : (refuse h op st s).transits = s.transits := of_core State.transits (fun _ => rfl) (core_refuse h op st s)
@[simp] theorem postPf_transits : (postPf a b c d e s).transits = s.transits := of_core State.transits (fun _ => rfl) (core_postPf a b c d e s)
@[simp] theorem postSes_transits : (postSes i a b c d e s).transits = s.transits := of_core State.transits (fun _ => rfl) (core_postSes i a b c d e s)
@[simp] theorem trace_transits (r : Trc) : (trace r s).transits = s.transits := of_core State.transits (fun _ => rfl) (core_trace r s)
@[simp] theorem complete_migs : (complete h op st hd a b s).migs = s.migs := of_core State.migs (fun _ => rfl) (core_complete h op st hd a b s)
@[simp] theorem refuse_migs : (refuse h op st s).migs = s.migs := of_core State.migs (fun _ => rfl) (core_refuse h op st s)
@[simp] theorem postPf_migs : (postPf a b c d e s).migs = s.migs := of_core State.migs (fun _ => rfl) (core_postPf a b c d e s)
@[simp] theorem postSes_migs : (postSes i a b c d e s).migs = s.migs := of_core State.migs (fun _ => rfl) (core_postSes i a b c d e s)
@[simp] theorem trace_migs (r : Trc) : (trace r s).migs = s.migs := of_core State.migs (fun _ => rfl) (core_trace r s)
@[simp] theorem complete_migSeq : (complete h op st hd a b s).migSeq = s.migSeq := of_core State.migSeq (fun _ => rfl) (core_complete h op st hd a b s)
@[simp] theorem refuse_migSeq : (refuse h op st s).migSeq = s.migSeq := of_core State.migSeq (fun _ => rfl) (core_refuse h op st s)
@[simp] theorem postPf_migSeq : (postPf a b c d e s).migSeq = s.migSeq := of_core State.migSeq (fun _ => rfl) (core_postPf a b c d e s)
@[simp] theorem postSes_migSeq : (postSes i a b c d e s).migSeq = s.migSeq := of_core State.migSeq (fun _ => rfl) (core_postSes i a b c d e s)
@[simp] theorem trace_migSeq (r : Trc) : (trace r s).migSeq = s.migSeq := of_core State.migSeq (fun _ => rfl) (core_trace r s)
@[simp] theorem complete_tombs : (complete h op st hd a b s).tombs = s.tombs := of_core State.tombs (fun _ => rfl) (core_complete h op st hd a b s)
@[simp] theorem refuse_tombs : (refuse h op st s).tombs = s.tombs := of_core State.tombs (fun _ => rfl) (core_refuse h op st s)
@[simp] theorem postPf_tombs : (postPf a b c d e s).tombs = s.tombs := of_core State.tombs (fun _ => rfl) (core_postPf a b c d e s)
@[simp] theorem postSes_tombs : (postSes i a b c d e s).tombs = s.tombs := of_core State.tombs (fun _ => rfl) (core_postSes i a b c d e s)
@[simp] theorem trace_tombs (r : Trc) : (trace r s).tombs = s.tombs := of_core State.tombs (fun _ => rfl) (core_trace r s)
@[simp] theorem complete_hints : (complete h op st hd a b s).hints = s.hints := of_core State.hints (fun _ => rfl) (core_complete h op st hd a b s)
@[simp] theorem refuse_hints : (refuse h op st s).hints = s.hints := of_core State.hints (fun _ => rfl) (core_refuse h op st s)
@[simp] theorem postPf_hints : (postPf a b c d e s).hints = s.hints := of_core State.hints (fun _ => rfl) (core_postPf a b c d e s)
@[simp] theorem postSes_hints : (postSes i a b c d e s).hints = s.hints := of_core State.hints (fun _ => rfl) (core_postSes i a b c d e s)
@[simp] theorem trace_hints (r : Trc) : (trace r s).hints = s.hints := of_core State.hints (fun _ => rfl) (core_trace r s)
@[simp] theorem complete_modelCopyGib : (complete h op st hd a b s).modelCopyGib = s.modelCopyGib := of_core State.modelCopyGib (fun _ => rfl) (core_complete h op st hd a b s)
@[simp] theorem refuse_modelCopyGib : (refuse h op st s).modelCopyGib = s.modelCopyGib := of_core State.modelCopyGib (fun _ => rfl) (core_refuse h op st s)
@[simp] theorem postPf_modelCopyGib : (postPf a b c d e s).modelCopyGib = s.modelCopyGib := of_core State.modelCopyGib (fun _ => rfl) (core_postPf a b c d e s)
@[simp] theorem postSes_modelCopyGib : (postSes i a b c d e s).modelCopyGib = s.modelCopyGib := of_core State.modelCopyGib (fun _ => rfl) (core_postSes i a b c d e s)
@[simp] theorem trace_modelCopyGib (r : Trc) : (trace r s).modelCopyGib = s.modelCopyGib := of_core State.modelCopyGib (fun _ => rfl) (core_trace r s)
@[simp] theorem complete_ckptGib : (complete h op st hd a b s).ckptGib = s.ckptGib := of_core State.ckptGib (fun _ => rfl) (core_complete h op st hd a b s)
@[simp] theorem refuse_ckptGib : (refuse h op st s).ckptGib = s.ckptGib := of_core State.ckptGib (fun _ => rfl) (core_refuse h op st s)
@[simp] theorem postPf_ckptGib : (postPf a b c d e s).ckptGib = s.ckptGib := of_core State.ckptGib (fun _ => rfl) (core_postPf a b c d e s)
@[simp] theorem postSes_ckptGib : (postSes i a b c d e s).ckptGib = s.ckptGib := of_core State.ckptGib (fun _ => rfl) (core_postSes i a b c d e s)
@[simp] theorem trace_ckptGib (r : Trc) : (trace r s).ckptGib = s.ckptGib := of_core State.ckptGib (fun _ => rfl) (core_trace r s)
@[simp] theorem complete_chunkMap : (complete h op st hd a b s).chunkMap = s.chunkMap := of_core State.chunkMap (fun _ => rfl) (core_complete h op st hd a b s)
@[simp] theorem refuse_chunkMap : (refuse h op st s).chunkMap = s.chunkMap := of_core State.chunkMap (fun _ => rfl) (core_refuse h op st s)
@[simp] theorem postPf_chunkMap : (postPf a b c d e s).chunkMap = s.chunkMap := of_core State.chunkMap (fun _ => rfl) (core_postPf a b c d e s)
@[simp] theorem postSes_chunkMap : (postSes i a b c d e s).chunkMap = s.chunkMap := of_core State.chunkMap (fun _ => rfl) (core_postSes i a b c d e s)
@[simp] theorem trace_chunkMap (r : Trc) : (trace r s).chunkMap = s.chunkMap := of_core State.chunkMap (fun _ => rfl) (core_trace r s)
@[simp] theorem complete_moving : (complete h op st hd a b s).moving = s.moving := of_core State.moving (fun _ => rfl) (core_complete h op st hd a b s)
@[simp] theorem refuse_moving : (refuse h op st s).moving = s.moving := of_core State.moving (fun _ => rfl) (core_refuse h op st s)
@[simp] theorem postPf_moving : (postPf a b c d e s).moving = s.moving := of_core State.moving (fun _ => rfl) (core_postPf a b c d e s)
@[simp] theorem postSes_moving : (postSes i a b c d e s).moving = s.moving := of_core State.moving (fun _ => rfl) (core_postSes i a b c d e s)
@[simp] theorem trace_moving (r : Trc) : (trace r s).moving = s.moving := of_core State.moving (fun _ => rfl) (core_trace r s)
@[simp] theorem complete_hostUnits : (complete h op st hd a b s).hostUnits = s.hostUnits := of_core State.hostUnits (fun _ => rfl) (core_complete h op st hd a b s)
@[simp] theorem refuse_hostUnits : (refuse h op st s).hostUnits = s.hostUnits := of_core State.hostUnits (fun _ => rfl) (core_refuse h op st s)
@[simp] theorem postPf_hostUnits : (postPf a b c d e s).hostUnits = s.hostUnits := of_core State.hostUnits (fun _ => rfl) (core_postPf a b c d e s)
@[simp] theorem postSes_hostUnits : (postSes i a b c d e s).hostUnits = s.hostUnits := of_core State.hostUnits (fun _ => rfl) (core_postSes i a b c d e s)
@[simp] theorem trace_hostUnits (r : Trc) : (trace r s).hostUnits = s.hostUnits := of_core State.hostUnits (fun _ => rfl) (core_trace r s)
@[simp] theorem complete_models : (complete h op st hd a b s).models = s.models := of_core State.models (fun _ => rfl) (core_complete h op st hd a b s)
@[simp] theorem refuse_models : (refuse h op st s).models = s.models := of_core State.models (fun _ => rfl) (core_refuse h op st s)
@[simp] theorem postPf_models : (postPf a b c d e s).models = s.models := of_core State.models (fun _ => rfl) (core_postPf a b c d e s)
@[simp] theorem postSes_models : (postSes i a b c d e s).models = s.models := of_core State.models (fun _ => rfl) (core_postSes i a b c d e s)
@[simp] theorem trace_models (r : Trc) : (trace r s).models = s.models := of_core State.models (fun _ => rfl) (core_trace r s)
@[simp] theorem complete_keyExts : (complete h op st hd a b s).keyExts = s.keyExts := of_core State.keyExts (fun _ => rfl) (core_complete h op st hd a b s)
@[simp] theorem refuse_keyExts : (refuse h op st s).keyExts = s.keyExts := of_core State.keyExts (fun _ => rfl) (core_refuse h op st s)
@[simp] theorem postPf_keyExts : (postPf a b c d e s).keyExts = s.keyExts := of_core State.keyExts (fun _ => rfl) (core_postPf a b c d e s)
@[simp] theorem postSes_keyExts : (postSes i a b c d e s).keyExts = s.keyExts := of_core State.keyExts (fun _ => rfl) (core_postSes i a b c d e s)
@[simp] theorem trace_keyExts (r : Trc) : (trace r s).keyExts = s.keyExts := of_core State.keyExts (fun _ => rfl) (core_trace r s)
@[simp] theorem complete_fetchQ : (complete h op st hd a b s).fetchQ = s.fetchQ := of_core State.fetchQ (fun _ => rfl) (core_complete h op st hd a b s)
@[simp] theorem refuse_fetchQ : (refuse h op st s).fetchQ = s.fetchQ := of_core State.fetchQ (fun _ => rfl) (core_refuse h op st s)
@[simp] theorem postPf_fetchQ : (postPf a b c d e s).fetchQ = s.fetchQ := of_core State.fetchQ (fun _ => rfl) (core_postPf a b c d e s)
@[simp] theorem postSes_fetchQ : (postSes i a b c d e s).fetchQ = s.fetchQ := of_core State.fetchQ (fun _ => rfl) (core_postSes i a b c d e s)
@[simp] theorem trace_fetchQ (r : Trc) : (trace r s).fetchQ = s.fetchQ := of_core State.fetchQ (fun _ => rfl) (core_trace r s)
@[simp] theorem complete_fetchFly : (complete h op st hd a b s).fetchFly = s.fetchFly := of_core State.fetchFly (fun _ => rfl) (core_complete h op st hd a b s)
@[simp] theorem refuse_fetchFly : (refuse h op st s).fetchFly = s.fetchFly := of_core State.fetchFly (fun _ => rfl) (core_refuse h op st s)
@[simp] theorem postPf_fetchFly : (postPf a b c d e s).fetchFly = s.fetchFly := of_core State.fetchFly (fun _ => rfl) (core_postPf a b c d e s)
@[simp] theorem postSes_fetchFly : (postSes i a b c d e s).fetchFly = s.fetchFly := of_core State.fetchFly (fun _ => rfl) (core_postSes i a b c d e s)
@[simp] theorem trace_fetchFly (r : Trc) : (trace r s).fetchFly = s.fetchFly := of_core State.fetchFly (fun _ => rfl) (core_trace r s)
@[simp] theorem complete_returnReq : (complete h op st hd a b s).returnReq = s.returnReq := of_core State.returnReq (fun _ => rfl) (core_complete h op st hd a b s)
@[simp] theorem refuse_returnReq : (refuse h op st s).returnReq = s.returnReq := of_core State.returnReq (fun _ => rfl) (core_refuse h op st s)
@[simp] theorem postPf_returnReq : (postPf a b c d e s).returnReq = s.returnReq := of_core State.returnReq (fun _ => rfl) (core_postPf a b c d e s)
@[simp] theorem postSes_returnReq : (postSes i a b c d e s).returnReq = s.returnReq := of_core State.returnReq (fun _ => rfl) (core_postSes i a b c d e s)
@[simp] theorem trace_returnReq (r : Trc) : (trace r s).returnReq = s.returnReq := of_core State.returnReq (fun _ => rfl) (core_trace r s)
@[simp] theorem complete_vecChans : (complete h op st hd a b s).vecChans = s.vecChans := of_core State.vecChans (fun _ => rfl) (core_complete h op st hd a b s)
@[simp] theorem refuse_vecChans : (refuse h op st s).vecChans = s.vecChans := of_core State.vecChans (fun _ => rfl) (core_refuse h op st s)
@[simp] theorem postPf_vecChans : (postPf a b c d e s).vecChans = s.vecChans := of_core State.vecChans (fun _ => rfl) (core_postPf a b c d e s)
@[simp] theorem postSes_vecChans : (postSes i a b c d e s).vecChans = s.vecChans := of_core State.vecChans (fun _ => rfl) (core_postSes i a b c d e s)
@[simp] theorem trace_vecChans (r : Trc) : (trace r s).vecChans = s.vecChans := of_core State.vecChans (fun _ => rfl) (core_trace r s)
@[simp] theorem complete_parts : (complete h op st hd a b s).parts = s.parts := of_core State.parts (fun _ => rfl) (core_complete h op st hd a b s)
@[simp] theorem refuse_parts : (refuse h op st s).parts = s.parts := of_core State.parts (fun _ => rfl) (core_refuse h op st s)
@[simp] theorem postPf_parts : (postPf a b c d e s).parts = s.parts := of_core State.parts (fun _ => rfl) (core_postPf a b c d e s)
@[simp] theorem postSes_parts : (postSes i a b c d e s).parts = s.parts := of_core State.parts (fun _ => rfl) (core_postSes i a b c d e s)
@[simp] theorem trace_parts (r : Trc) : (trace r s).parts = s.parts := of_core State.parts (fun _ => rfl) (core_trace r s)
@[simp] theorem complete_evicting : (complete h op st hd a b s).evicting = s.evicting := of_core State.evicting (fun _ => rfl) (core_complete h op st hd a b s)
@[simp] theorem refuse_evicting : (refuse h op st s).evicting = s.evicting := of_core State.evicting (fun _ => rfl) (core_refuse h op st s)
@[simp] theorem postPf_evicting : (postPf a b c d e s).evicting = s.evicting := of_core State.evicting (fun _ => rfl) (core_postPf a b c d e s)
@[simp] theorem postSes_evicting : (postSes i a b c d e s).evicting = s.evicting := of_core State.evicting (fun _ => rfl) (core_postSes i a b c d e s)
@[simp] theorem trace_evicting (r : Trc) : (trace r s).evicting = s.evicting := of_core State.evicting (fun _ => rfl) (core_trace r s)
@[simp] theorem complete_tokSets : (complete h op st hd a b s).tokSets = s.tokSets := of_core State.tokSets (fun _ => rfl) (core_complete h op st hd a b s)
@[simp] theorem refuse_tokSets : (refuse h op st s).tokSets = s.tokSets := of_core State.tokSets (fun _ => rfl) (core_refuse h op st s)
@[simp] theorem postPf_tokSets : (postPf a b c d e s).tokSets = s.tokSets := of_core State.tokSets (fun _ => rfl) (core_postPf a b c d e s)
@[simp] theorem postSes_tokSets : (postSes i a b c d e s).tokSets = s.tokSets := of_core State.tokSets (fun _ => rfl) (core_postSes i a b c d e s)
@[simp] theorem trace_tokSets (r : Trc) : (trace r s).tokSets = s.tokSets := of_core State.tokSets (fun _ => rfl) (core_trace r s)
@[simp] theorem complete_grams : (complete h op st hd a b s).grams = s.grams := of_core State.grams (fun _ => rfl) (core_complete h op st hd a b s)
@[simp] theorem refuse_grams : (refuse h op st s).grams = s.grams := of_core State.grams (fun _ => rfl) (core_refuse h op st s)
@[simp] theorem postPf_grams : (postPf a b c d e s).grams = s.grams := of_core State.grams (fun _ => rfl) (core_postPf a b c d e s)
@[simp] theorem postSes_grams : (postSes i a b c d e s).grams = s.grams := of_core State.grams (fun _ => rfl) (core_postSes i a b c d e s)
@[simp] theorem trace_grams (r : Trc) : (trace r s).grams = s.grams := of_core State.grams (fun _ => rfl) (core_trace r s)
@[simp] theorem complete_maskQ : (complete h op st hd a b s).maskQ = s.maskQ := of_core State.maskQ (fun _ => rfl) (core_complete h op st hd a b s)
@[simp] theorem refuse_maskQ : (refuse h op st s).maskQ = s.maskQ := of_core State.maskQ (fun _ => rfl) (core_refuse h op st s)
@[simp] theorem postPf_maskQ : (postPf a b c d e s).maskQ = s.maskQ := of_core State.maskQ (fun _ => rfl) (core_postPf a b c d e s)
@[simp] theorem postSes_maskQ : (postSes i a b c d e s).maskQ = s.maskQ := of_core State.maskQ (fun _ => rfl) (core_postSes i a b c d e s)
@[simp] theorem trace_maskQ (r : Trc) : (trace r s).maskQ = s.maskQ := of_core State.maskQ (fun _ => rfl) (core_trace r s)
@[simp] theorem complete_bankQ : (complete h op st hd a b s).bankQ = s.bankQ := of_core State.bankQ (fun _ => rfl) (core_complete h op st hd a b s)
@[simp] theorem refuse_bankQ : (refuse h op st s).bankQ = s.bankQ := of_core State.bankQ (fun _ => rfl) (core_refuse h op st s)
@[simp] theorem postPf_bankQ : (postPf a b c d e s).bankQ = s.bankQ := of_core State.bankQ (fun _ => rfl) (core_postPf a b c d e s)
@[simp] theorem postSes_bankQ : (postSes i a b c d e s).bankQ = s.bankQ := of_core State.bankQ (fun _ => rfl) (core_postSes i a b c d e s)
@[simp] theorem trace_bankQ (r : Trc) : (trace r s).bankQ = s.bankQ := of_core State.bankQ (fun _ => rfl) (core_trace r s)
@[simp] theorem complete_deepTrained : (complete h op st hd a b s).deepTrained = s.deepTrained := of_core State.deepTrained (fun _ => rfl) (core_complete h op st hd a b s)
@[simp] theorem refuse_deepTrained : (refuse h op st s).deepTrained = s.deepTrained := of_core State.deepTrained (fun _ => rfl) (core_refuse h op st s)
@[simp] theorem postPf_deepTrained : (postPf a b c d e s).deepTrained = s.deepTrained := of_core State.deepTrained (fun _ => rfl) (core_postPf a b c d e s)
@[simp] theorem postSes_deepTrained : (postSes i a b c d e s).deepTrained = s.deepTrained := of_core State.deepTrained (fun _ => rfl) (core_postSes i a b c d e s)
@[simp] theorem trace_deepTrained (r : Trc) : (trace r s).deepTrained = s.deepTrained := of_core State.deepTrained (fun _ => rfl) (core_trace r s)
@[simp] theorem complete_deepFails : (complete h op st hd a b s).deepFails = s.deepFails := of_core State.deepFails (fun _ => rfl) (core_complete h op st hd a b s)
@[simp] theorem refuse_deepFails : (refuse h op st s).deepFails = s.deepFails := of_core State.deepFails (fun _ => rfl) (core_refuse h op st s)
@[simp] theorem postPf_deepFails : (postPf a b c d e s).deepFails = s.deepFails := of_core State.deepFails (fun _ => rfl) (core_postPf a b c d e s)
@[simp] theorem postSes_deepFails : (postSes i a b c d e s).deepFails = s.deepFails := of_core State.deepFails (fun _ => rfl) (core_postSes i a b c d e s)
@[simp] theorem trace_deepFails (r : Trc) : (trace r s).deepFails = s.deepFails := of_core State.deepFails (fun _ => rfl) (core_trace r s)
@[simp] theorem complete_deepSkip : (complete h op st hd a b s).deepSkip = s.deepSkip := of_core State.deepSkip (fun _ => rfl) (core_complete h op st hd a b s)
@[simp] theorem refuse_deepSkip : (refuse h op st s).deepSkip = s.deepSkip := of_core State.deepSkip (fun _ => rfl) (core_refuse h op st s)
@[simp] theorem postPf_deepSkip : (postPf a b c d e s).deepSkip = s.deepSkip := of_core State.deepSkip (fun _ => rfl) (core_postPf a b c d e s)
@[simp] theorem postSes_deepSkip : (postSes i a b c d e s).deepSkip = s.deepSkip := of_core State.deepSkip (fun _ => rfl) (core_postSes i a b c d e s)
@[simp] theorem trace_deepSkip (r : Trc) : (trace r s).deepSkip = s.deepSkip := of_core State.deepSkip (fun _ => rfl) (core_trace r s)
@[simp] theorem complete_evacuated : (complete h op st hd a b s).evacuated = s.evacuated := of_core State.evacuated (fun _ => rfl) (core_complete h op st hd a b s)
@[simp] theorem refuse_evacuated : (refuse h op st s).evacuated = s.evacuated := of_core State.evacuated (fun _ => rfl) (core_refuse h op st s)
@[simp] theorem postPf_evacuated : (postPf a b c d e s).evacuated = s.evacuated := of_core State.evacuated (fun _ => rfl) (core_postPf a b c d e s)
@[simp] theorem postSes_evacuated : (postSes i a b c d e s).evacuated = s.evacuated := of_core State.evacuated (fun _ => rfl) (core_postSes i a b c d e s)
@[simp] theorem trace_evacuated (r : Trc) : (trace r s).evacuated = s.evacuated := of_core State.evacuated (fun _ => rfl) (core_trace r s)
@[simp] theorem complete_deepLeaving : (complete h op st hd a b s).deepLeaving = s.deepLeaving := of_core State.deepLeaving (fun _ => rfl) (core_complete h op st hd a b s)
@[simp] theorem refuse_deepLeaving : (refuse h op st s).deepLeaving = s.deepLeaving := of_core State.deepLeaving (fun _ => rfl) (core_refuse h op st s)
@[simp] theorem postPf_deepLeaving : (postPf a b c d e s).deepLeaving = s.deepLeaving := of_core State.deepLeaving (fun _ => rfl) (core_postPf a b c d e s)
@[simp] theorem postSes_deepLeaving : (postSes i a b c d e s).deepLeaving = s.deepLeaving := of_core State.deepLeaving (fun _ => rfl) (core_postSes i a b c d e s)
@[simp] theorem trace_deepLeaving (r : Trc) : (trace r s).deepLeaving = s.deepLeaving := of_core State.deepLeaving (fun _ => rfl) (core_trace r s)
@[simp] theorem complete_ueLog : (complete h op st hd a b s).ueLog = s.ueLog := of_core State.ueLog (fun _ => rfl) (core_complete h op st hd a b s)
@[simp] theorem refuse_ueLog : (refuse h op st s).ueLog = s.ueLog := of_core State.ueLog (fun _ => rfl) (core_refuse h op st s)
@[simp] theorem postPf_ueLog : (postPf a b c d e s).ueLog = s.ueLog := of_core State.ueLog (fun _ => rfl) (core_postPf a b c d e s)
@[simp] theorem postSes_ueLog : (postSes i a b c d e s).ueLog = s.ueLog := of_core State.ueLog (fun _ => rfl) (core_postSes i a b c d e s)
@[simp] theorem trace_ueLog (r : Trc) : (trace r s).ueLog = s.ueLog := of_core State.ueLog (fun _ => rfl) (core_trace r s)
@[simp] theorem complete_deepUeLog : (complete h op st hd a b s).deepUeLog = s.deepUeLog := of_core State.deepUeLog (fun _ => rfl) (core_complete h op st hd a b s)
@[simp] theorem refuse_deepUeLog : (refuse h op st s).deepUeLog = s.deepUeLog := of_core State.deepUeLog (fun _ => rfl) (core_refuse h op st s)
@[simp] theorem postPf_deepUeLog : (postPf a b c d e s).deepUeLog = s.deepUeLog := of_core State.deepUeLog (fun _ => rfl) (core_postPf a b c d e s)
@[simp] theorem postSes_deepUeLog : (postSes i a b c d e s).deepUeLog = s.deepUeLog := of_core State.deepUeLog (fun _ => rfl) (core_postSes i a b c d e s)
@[simp] theorem trace_deepUeLog (r : Trc) : (trace r s).deepUeLog = s.deepUeLog := of_core State.deepUeLog (fun _ => rfl) (core_trace r s)
@[simp] theorem complete_badToks : (complete h op st hd a b s).badToks = s.badToks := of_core State.badToks (fun _ => rfl) (core_complete h op st hd a b s)
@[simp] theorem refuse_badToks : (refuse h op st s).badToks = s.badToks := of_core State.badToks (fun _ => rfl) (core_refuse h op st s)
@[simp] theorem postPf_badToks : (postPf a b c d e s).badToks = s.badToks := of_core State.badToks (fun _ => rfl) (core_postPf a b c d e s)
@[simp] theorem postSes_badToks : (postSes i a b c d e s).badToks = s.badToks := of_core State.badToks (fun _ => rfl) (core_postSes i a b c d e s)
@[simp] theorem trace_badToks (r : Trc) : (trace r s).badToks = s.badToks := of_core State.badToks (fun _ => rfl) (core_trace r s)
@[simp] theorem complete_badGrams : (complete h op st hd a b s).badGrams = s.badGrams := of_core State.badGrams (fun _ => rfl) (core_complete h op st hd a b s)
@[simp] theorem refuse_badGrams : (refuse h op st s).badGrams = s.badGrams := of_core State.badGrams (fun _ => rfl) (core_refuse h op st s)
@[simp] theorem postPf_badGrams : (postPf a b c d e s).badGrams = s.badGrams := of_core State.badGrams (fun _ => rfl) (core_postPf a b c d e s)
@[simp] theorem postSes_badGrams : (postSes i a b c d e s).badGrams = s.badGrams := of_core State.badGrams (fun _ => rfl) (core_postSes i a b c d e s)
@[simp] theorem trace_badGrams (r : Trc) : (trace r s).badGrams = s.badGrams := of_core State.badGrams (fun _ => rfl) (core_trace r s)
@[simp] theorem complete_remaps : (complete h op st hd a b s).remaps = s.remaps := of_core State.remaps (fun _ => rfl) (core_complete h op st hd a b s)
@[simp] theorem refuse_remaps : (refuse h op st s).remaps = s.remaps := of_core State.remaps (fun _ => rfl) (core_refuse h op st s)
@[simp] theorem postPf_remaps : (postPf a b c d e s).remaps = s.remaps := of_core State.remaps (fun _ => rfl) (core_postPf a b c d e s)
@[simp] theorem postSes_remaps : (postSes i a b c d e s).remaps = s.remaps := of_core State.remaps (fun _ => rfl) (core_postSes i a b c d e s)
@[simp] theorem trace_remaps (r : Trc) : (trace r s).remaps = s.remaps := of_core State.remaps (fun _ => rfl) (core_trace r s)
@[simp] theorem complete_rebuilds : (complete h op st hd a b s).rebuilds = s.rebuilds := of_core State.rebuilds (fun _ => rfl) (core_complete h op st hd a b s)
@[simp] theorem refuse_rebuilds : (refuse h op st s).rebuilds = s.rebuilds := of_core State.rebuilds (fun _ => rfl) (core_refuse h op st s)
@[simp] theorem postPf_rebuilds : (postPf a b c d e s).rebuilds = s.rebuilds := of_core State.rebuilds (fun _ => rfl) (core_postPf a b c d e s)
@[simp] theorem postSes_rebuilds : (postSes i a b c d e s).rebuilds = s.rebuilds := of_core State.rebuilds (fun _ => rfl) (core_postSes i a b c d e s)
@[simp] theorem trace_rebuilds (r : Trc) : (trace r s).rebuilds = s.rebuilds := of_core State.rebuilds (fun _ => rfl) (core_trace r s)
@[simp] theorem complete_testFails : (complete h op st hd a b s).testFails = s.testFails := of_core State.testFails (fun _ => rfl) (core_complete h op st hd a b s)
@[simp] theorem refuse_testFails : (refuse h op st s).testFails = s.testFails := of_core State.testFails (fun _ => rfl) (core_refuse h op st s)
@[simp] theorem postPf_testFails : (postPf a b c d e s).testFails = s.testFails := of_core State.testFails (fun _ => rfl) (core_postPf a b c d e s)
@[simp] theorem postSes_testFails : (postSes i a b c d e s).testFails = s.testFails := of_core State.testFails (fun _ => rfl) (core_postSes i a b c d e s)
@[simp] theorem trace_testFails (r : Trc) : (trace r s).testFails = s.testFails := of_core State.testFails (fun _ => rfl) (core_trace r s)
@[simp] theorem complete_testPat : (complete h op st hd a b s).testPat = s.testPat := of_core State.testPat (fun _ => rfl) (core_complete h op st hd a b s)
@[simp] theorem refuse_testPat : (refuse h op st s).testPat = s.testPat := of_core State.testPat (fun _ => rfl) (core_refuse h op st s)
@[simp] theorem postPf_testPat : (postPf a b c d e s).testPat = s.testPat := of_core State.testPat (fun _ => rfl) (core_postPf a b c d e s)
@[simp] theorem postSes_testPat : (postSes i a b c d e s).testPat = s.testPat := of_core State.testPat (fun _ => rfl) (core_postSes i a b c d e s)
@[simp] theorem trace_testPat (r : Trc) : (trace r s).testPat = s.testPat := of_core State.testPat (fun _ => rfl) (core_trace r s)
@[simp] theorem complete_testLast : (complete h op st hd a b s).testLast = s.testLast := of_core State.testLast (fun _ => rfl) (core_complete h op st hd a b s)
@[simp] theorem refuse_testLast : (refuse h op st s).testLast = s.testLast := of_core State.testLast (fun _ => rfl) (core_refuse h op st s)
@[simp] theorem postPf_testLast : (postPf a b c d e s).testLast = s.testLast := of_core State.testLast (fun _ => rfl) (core_postPf a b c d e s)
@[simp] theorem postSes_testLast : (postSes i a b c d e s).testLast = s.testLast := of_core State.testLast (fun _ => rfl) (core_postSes i a b c d e s)
@[simp] theorem trace_testLast (r : Trc) : (trace r s).testLast = s.testLast := of_core State.testLast (fun _ => rfl) (core_trace r s)
@[simp] theorem complete_tileDrain : (complete h op st hd a b s).tileDrain = s.tileDrain := of_core State.tileDrain (fun _ => rfl) (core_complete h op st hd a b s)
@[simp] theorem refuse_tileDrain : (refuse h op st s).tileDrain = s.tileDrain := of_core State.tileDrain (fun _ => rfl) (core_refuse h op st s)
@[simp] theorem postPf_tileDrain : (postPf a b c d e s).tileDrain = s.tileDrain := of_core State.tileDrain (fun _ => rfl) (core_postPf a b c d e s)
@[simp] theorem postSes_tileDrain : (postSes i a b c d e s).tileDrain = s.tileDrain := of_core State.tileDrain (fun _ => rfl) (core_postSes i a b c d e s)
@[simp] theorem trace_tileDrain (r : Trc) : (trace r s).tileDrain = s.tileDrain := of_core State.tileDrain (fun _ => rfl) (core_trace r s)
@[simp] theorem complete_dfPass : (complete h op st hd a b s).dfPass = s.dfPass := of_core State.dfPass (fun _ => rfl) (core_complete h op st hd a b s)
@[simp] theorem refuse_dfPass : (refuse h op st s).dfPass = s.dfPass := of_core State.dfPass (fun _ => rfl) (core_refuse h op st s)
@[simp] theorem postPf_dfPass : (postPf a b c d e s).dfPass = s.dfPass := of_core State.dfPass (fun _ => rfl) (core_postPf a b c d e s)
@[simp] theorem postSes_dfPass : (postSes i a b c d e s).dfPass = s.dfPass := of_core State.dfPass (fun _ => rfl) (core_postSes i a b c d e s)
@[simp] theorem trace_dfPass (r : Trc) : (trace r s).dfPass = s.dfPass := of_core State.dfPass (fun _ => rfl) (core_trace r s)
@[simp] theorem complete_ckpt : (complete h op st hd a b s).ckpt = s.ckpt := of_core State.ckpt (fun _ => rfl) (core_complete h op st hd a b s)
@[simp] theorem refuse_ckpt : (refuse h op st s).ckpt = s.ckpt := of_core State.ckpt (fun _ => rfl) (core_refuse h op st s)
@[simp] theorem postPf_ckpt : (postPf a b c d e s).ckpt = s.ckpt := of_core State.ckpt (fun _ => rfl) (core_postPf a b c d e s)
@[simp] theorem postSes_ckpt : (postSes i a b c d e s).ckpt = s.ckpt := of_core State.ckpt (fun _ => rfl) (core_postSes i a b c d e s)
@[simp] theorem trace_ckpt (r : Trc) : (trace r s).ckpt = s.ckpt := of_core State.ckpt (fun _ => rfl) (core_trace r s)
@[simp] theorem complete_ckptImages : (complete h op st hd a b s).ckptImages = s.ckptImages := of_core State.ckptImages (fun _ => rfl) (core_complete h op st hd a b s)
@[simp] theorem refuse_ckptImages : (refuse h op st s).ckptImages = s.ckptImages := of_core State.ckptImages (fun _ => rfl) (core_refuse h op st s)
@[simp] theorem postPf_ckptImages : (postPf a b c d e s).ckptImages = s.ckptImages := of_core State.ckptImages (fun _ => rfl) (core_postPf a b c d e s)
@[simp] theorem postSes_ckptImages : (postSes i a b c d e s).ckptImages = s.ckptImages := of_core State.ckptImages (fun _ => rfl) (core_postSes i a b c d e s)
@[simp] theorem trace_ckptImages (r : Trc) : (trace r s).ckptImages = s.ckptImages := of_core State.ckptImages (fun _ => rfl) (core_trace r s)
@[simp] theorem complete_embTabs : (complete h op st hd a b s).embTabs = s.embTabs := of_core State.embTabs (fun _ => rfl) (core_complete h op st hd a b s)
@[simp] theorem refuse_embTabs : (refuse h op st s).embTabs = s.embTabs := of_core State.embTabs (fun _ => rfl) (core_refuse h op st s)
@[simp] theorem postPf_embTabs : (postPf a b c d e s).embTabs = s.embTabs := of_core State.embTabs (fun _ => rfl) (core_postPf a b c d e s)
@[simp] theorem postSes_embTabs : (postSes i a b c d e s).embTabs = s.embTabs := of_core State.embTabs (fun _ => rfl) (core_postSes i a b c d e s)
@[simp] theorem trace_embTabs (r : Trc) : (trace r s).embTabs = s.embTabs := of_core State.embTabs (fun _ => rfl) (core_trace r s)
@[simp] theorem complete_hot : (complete h op st hd a b s).hot = s.hot := of_core State.hot (fun _ => rfl) (core_complete h op st hd a b s)
@[simp] theorem refuse_hot : (refuse h op st s).hot = s.hot := of_core State.hot (fun _ => rfl) (core_refuse h op st s)
@[simp] theorem postPf_hot : (postPf a b c d e s).hot = s.hot := of_core State.hot (fun _ => rfl) (core_postPf a b c d e s)
@[simp] theorem postSes_hot : (postSes i a b c d e s).hot = s.hot := of_core State.hot (fun _ => rfl) (core_postSes i a b c d e s)
@[simp] theorem trace_hot (r : Trc) : (trace r s).hot = s.hot := of_core State.hot (fun _ => rfl) (core_trace r s)
@[simp] theorem complete_hotLast : (complete h op st hd a b s).hotLast = s.hotLast := of_core State.hotLast (fun _ => rfl) (core_complete h op st hd a b s)
@[simp] theorem refuse_hotLast : (refuse h op st s).hotLast = s.hotLast := of_core State.hotLast (fun _ => rfl) (core_refuse h op st s)
@[simp] theorem postPf_hotLast : (postPf a b c d e s).hotLast = s.hotLast := of_core State.hotLast (fun _ => rfl) (core_postPf a b c d e s)
@[simp] theorem postSes_hotLast : (postSes i a b c d e s).hotLast = s.hotLast := of_core State.hotLast (fun _ => rfl) (core_postSes i a b c d e s)
@[simp] theorem trace_hotLast (r : Trc) : (trace r s).hotLast = s.hotLast := of_core State.hotLast (fun _ => rfl) (core_trace r s)
@[simp] theorem complete_replicas : (complete h op st hd a b s).replicas = s.replicas := of_core State.replicas (fun _ => rfl) (core_complete h op st hd a b s)
@[simp] theorem refuse_replicas : (refuse h op st s).replicas = s.replicas := of_core State.replicas (fun _ => rfl) (core_refuse h op st s)
@[simp] theorem postPf_replicas : (postPf a b c d e s).replicas = s.replicas := of_core State.replicas (fun _ => rfl) (core_postPf a b c d e s)
@[simp] theorem postSes_replicas : (postSes i a b c d e s).replicas = s.replicas := of_core State.replicas (fun _ => rfl) (core_postSes i a b c d e s)
@[simp] theorem trace_replicas (r : Trc) : (trace r s).replicas = s.replicas := of_core State.replicas (fun _ => rfl) (core_trace r s)
@[simp] theorem complete_embQ : (complete h op st hd a b s).embQ = s.embQ := of_core State.embQ (fun _ => rfl) (core_complete h op st hd a b s)
@[simp] theorem refuse_embQ : (refuse h op st s).embQ = s.embQ := of_core State.embQ (fun _ => rfl) (core_refuse h op st s)
@[simp] theorem postPf_embQ : (postPf a b c d e s).embQ = s.embQ := of_core State.embQ (fun _ => rfl) (core_postPf a b c d e s)
@[simp] theorem postSes_embQ : (postSes i a b c d e s).embQ = s.embQ := of_core State.embQ (fun _ => rfl) (core_postSes i a b c d e s)
@[simp] theorem trace_embQ (r : Trc) : (trace r s).embQ = s.embQ := of_core State.embQ (fun _ => rfl) (core_trace r s)
@[simp] theorem complete_embSeq : (complete h op st hd a b s).embSeq = s.embSeq := of_core State.embSeq (fun _ => rfl) (core_complete h op st hd a b s)
@[simp] theorem refuse_embSeq : (refuse h op st s).embSeq = s.embSeq := of_core State.embSeq (fun _ => rfl) (core_refuse h op st s)
@[simp] theorem postPf_embSeq : (postPf a b c d e s).embSeq = s.embSeq := of_core State.embSeq (fun _ => rfl) (core_postPf a b c d e s)
@[simp] theorem postSes_embSeq : (postSes i a b c d e s).embSeq = s.embSeq := of_core State.embSeq (fun _ => rfl) (core_postSes i a b c d e s)
@[simp] theorem trace_embSeq (r : Trc) : (trace r s).embSeq = s.embSeq := of_core State.embSeq (fun _ => rfl) (core_trace r s)
@[simp] theorem complete_embJobs : (complete h op st hd a b s).embJobs = s.embJobs := of_core State.embJobs (fun _ => rfl) (core_complete h op st hd a b s)
@[simp] theorem refuse_embJobs : (refuse h op st s).embJobs = s.embJobs := of_core State.embJobs (fun _ => rfl) (core_refuse h op st s)
@[simp] theorem postPf_embJobs : (postPf a b c d e s).embJobs = s.embJobs := of_core State.embJobs (fun _ => rfl) (core_postPf a b c d e s)
@[simp] theorem postSes_embJobs : (postSes i a b c d e s).embJobs = s.embJobs := of_core State.embJobs (fun _ => rfl) (core_postSes i a b c d e s)
@[simp] theorem trace_embJobs (r : Trc) : (trace r s).embJobs = s.embJobs := of_core State.embJobs (fun _ => rfl) (core_trace r s)
@[simp] theorem complete_embLooks : (complete h op st hd a b s).embLooks = s.embLooks := of_core State.embLooks (fun _ => rfl) (core_complete h op st hd a b s)
@[simp] theorem refuse_embLooks : (refuse h op st s).embLooks = s.embLooks := of_core State.embLooks (fun _ => rfl) (core_refuse h op st s)
@[simp] theorem postPf_embLooks : (postPf a b c d e s).embLooks = s.embLooks := of_core State.embLooks (fun _ => rfl) (core_postPf a b c d e s)
@[simp] theorem postSes_embLooks : (postSes i a b c d e s).embLooks = s.embLooks := of_core State.embLooks (fun _ => rfl) (core_postSes i a b c d e s)
@[simp] theorem trace_embLooks (r : Trc) : (trace r s).embLooks = s.embLooks := of_core State.embLooks (fun _ => rfl) (core_trace r s)
@[simp] theorem complete_embMoved : (complete h op st hd a b s).embMoved = s.embMoved := of_core State.embMoved (fun _ => rfl) (core_complete h op st hd a b s)
@[simp] theorem refuse_embMoved : (refuse h op st s).embMoved = s.embMoved := of_core State.embMoved (fun _ => rfl) (core_refuse h op st s)
@[simp] theorem postPf_embMoved : (postPf a b c d e s).embMoved = s.embMoved := of_core State.embMoved (fun _ => rfl) (core_postPf a b c d e s)
@[simp] theorem postSes_embMoved : (postSes i a b c d e s).embMoved = s.embMoved := of_core State.embMoved (fun _ => rfl) (core_postSes i a b c d e s)
@[simp] theorem trace_embMoved (r : Trc) : (trace r s).embMoved = s.embMoved := of_core State.embMoved (fun _ => rfl) (core_trace r s)
@[simp] theorem complete_vecs : (complete h op st hd a b s).vecs = s.vecs := of_core State.vecs (fun _ => rfl) (core_complete h op st hd a b s)
@[simp] theorem refuse_vecs : (refuse h op st s).vecs = s.vecs := of_core State.vecs (fun _ => rfl) (core_refuse h op st s)
@[simp] theorem postPf_vecs : (postPf a b c d e s).vecs = s.vecs := of_core State.vecs (fun _ => rfl) (core_postPf a b c d e s)
@[simp] theorem postSes_vecs : (postSes i a b c d e s).vecs = s.vecs := of_core State.vecs (fun _ => rfl) (core_postSes i a b c d e s)
@[simp] theorem trace_vecs (r : Trc) : (trace r s).vecs = s.vecs := of_core State.vecs (fun _ => rfl) (core_trace r s)
@[simp] theorem complete_vecQs : (complete h op st hd a b s).vecQs = s.vecQs := of_core State.vecQs (fun _ => rfl) (core_complete h op st hd a b s)
@[simp] theorem refuse_vecQs : (refuse h op st s).vecQs = s.vecQs := of_core State.vecQs (fun _ => rfl) (core_refuse h op st s)
@[simp] theorem postPf_vecQs : (postPf a b c d e s).vecQs = s.vecQs := of_core State.vecQs (fun _ => rfl) (core_postPf a b c d e s)
@[simp] theorem postSes_vecQs : (postSes i a b c d e s).vecQs = s.vecQs := of_core State.vecQs (fun _ => rfl) (core_postSes i a b c d e s)
@[simp] theorem trace_vecQs (r : Trc) : (trace r s).vecQs = s.vecQs := of_core State.vecQs (fun _ => rfl) (core_trace r s)
@[simp] theorem complete_vecSeq : (complete h op st hd a b s).vecSeq = s.vecSeq := of_core State.vecSeq (fun _ => rfl) (core_complete h op st hd a b s)
@[simp] theorem refuse_vecSeq : (refuse h op st s).vecSeq = s.vecSeq := of_core State.vecSeq (fun _ => rfl) (core_refuse h op st s)
@[simp] theorem postPf_vecSeq : (postPf a b c d e s).vecSeq = s.vecSeq := of_core State.vecSeq (fun _ => rfl) (core_postPf a b c d e s)
@[simp] theorem postSes_vecSeq : (postSes i a b c d e s).vecSeq = s.vecSeq := of_core State.vecSeq (fun _ => rfl) (core_postSes i a b c d e s)
@[simp] theorem trace_vecSeq (r : Trc) : (trace r s).vecSeq = s.vecSeq := of_core State.vecSeq (fun _ => rfl) (core_trace r s)
@[simp] theorem complete_vecJobs : (complete h op st hd a b s).vecJobs = s.vecJobs := of_core State.vecJobs (fun _ => rfl) (core_complete h op st hd a b s)
@[simp] theorem refuse_vecJobs : (refuse h op st s).vecJobs = s.vecJobs := of_core State.vecJobs (fun _ => rfl) (core_refuse h op st s)
@[simp] theorem postPf_vecJobs : (postPf a b c d e s).vecJobs = s.vecJobs := of_core State.vecJobs (fun _ => rfl) (core_postPf a b c d e s)
@[simp] theorem postSes_vecJobs : (postSes i a b c d e s).vecJobs = s.vecJobs := of_core State.vecJobs (fun _ => rfl) (core_postSes i a b c d e s)
@[simp] theorem trace_vecJobs (r : Trc) : (trace r s).vecJobs = s.vecJobs := of_core State.vecJobs (fun _ => rfl) (core_trace r s)
@[simp] theorem complete_vecCompacts : (complete h op st hd a b s).vecCompacts = s.vecCompacts := of_core State.vecCompacts (fun _ => rfl) (core_complete h op st hd a b s)
@[simp] theorem refuse_vecCompacts : (refuse h op st s).vecCompacts = s.vecCompacts := of_core State.vecCompacts (fun _ => rfl) (core_refuse h op st s)
@[simp] theorem postPf_vecCompacts : (postPf a b c d e s).vecCompacts = s.vecCompacts := of_core State.vecCompacts (fun _ => rfl) (core_postPf a b c d e s)
@[simp] theorem postSes_vecCompacts : (postSes i a b c d e s).vecCompacts = s.vecCompacts := of_core State.vecCompacts (fun _ => rfl) (core_postSes i a b c d e s)
@[simp] theorem trace_vecCompacts (r : Trc) : (trace r s).vecCompacts = s.vecCompacts := of_core State.vecCompacts (fun _ => rfl) (core_trace r s)
@[simp] theorem complete_aborts : (complete h op st hd a b s).aborts = s.aborts := of_core State.aborts (fun _ => rfl) (core_complete h op st hd a b s)
@[simp] theorem refuse_aborts : (refuse h op st s).aborts = s.aborts := of_core State.aborts (fun _ => rfl) (core_refuse h op st s)
@[simp] theorem postPf_aborts : (postPf a b c d e s).aborts = s.aborts := of_core State.aborts (fun _ => rfl) (core_postPf a b c d e s)
@[simp] theorem postSes_aborts : (postSes i a b c d e s).aborts = s.aborts := of_core State.aborts (fun _ => rfl) (core_postSes i a b c d e s)
@[simp] theorem trace_aborts (r : Trc) : (trace r s).aborts = s.aborts := of_core State.aborts (fun _ => rfl) (core_trace r s)
@[simp] theorem complete_hostOut : (complete h op st hd a b s).hostOut = s.hostOut := of_core State.hostOut (fun _ => rfl) (core_complete h op st hd a b s)
@[simp] theorem refuse_hostOut : (refuse h op st s).hostOut = s.hostOut := of_core State.hostOut (fun _ => rfl) (core_refuse h op st s)
@[simp] theorem postPf_hostOut : (postPf a b c d e s).hostOut = s.hostOut := of_core State.hostOut (fun _ => rfl) (core_postPf a b c d e s)
@[simp] theorem postSes_hostOut : (postSes i a b c d e s).hostOut = s.hostOut := of_core State.hostOut (fun _ => rfl) (core_postSes i a b c d e s)
@[simp] theorem trace_hostOut (r : Trc) : (trace r s).hostOut = s.hostOut := of_core State.hostOut (fun _ => rfl) (core_trace r s)
@[simp] theorem complete_dumps : (complete h op st hd a b s).dumps = s.dumps := of_core State.dumps (fun _ => rfl) (core_complete h op st hd a b s)
@[simp] theorem refuse_dumps : (refuse h op st s).dumps = s.dumps := of_core State.dumps (fun _ => rfl) (core_refuse h op st s)
@[simp] theorem postPf_dumps : (postPf a b c d e s).dumps = s.dumps := of_core State.dumps (fun _ => rfl) (core_postPf a b c d e s)
@[simp] theorem postSes_dumps : (postSes i a b c d e s).dumps = s.dumps := of_core State.dumps (fun _ => rfl) (core_postSes i a b c d e s)
@[simp] theorem trace_dumps (r : Trc) : (trace r s).dumps = s.dumps := of_core State.dumps (fun _ => rfl) (core_trace r s)
@[simp] theorem complete_dumpSeq : (complete h op st hd a b s).dumpSeq = s.dumpSeq := of_core State.dumpSeq (fun _ => rfl) (core_complete h op st hd a b s)
@[simp] theorem refuse_dumpSeq : (refuse h op st s).dumpSeq = s.dumpSeq := of_core State.dumpSeq (fun _ => rfl) (core_refuse h op st s)
@[simp] theorem postPf_dumpSeq : (postPf a b c d e s).dumpSeq = s.dumpSeq := of_core State.dumpSeq (fun _ => rfl) (core_postPf a b c d e s)
@[simp] theorem postSes_dumpSeq : (postSes i a b c d e s).dumpSeq = s.dumpSeq := of_core State.dumpSeq (fun _ => rfl) (core_postSes i a b c d e s)
@[simp] theorem trace_dumpSeq (r : Trc) : (trace r s).dumpSeq = s.dumpSeq := of_core State.dumpSeq (fun _ => rfl) (core_trace r s)
@[simp] theorem complete_arrTests : (complete h op st hd a b s).arrTests = s.arrTests := of_core State.arrTests (fun _ => rfl) (core_complete h op st hd a b s)
@[simp] theorem refuse_arrTests : (refuse h op st s).arrTests = s.arrTests := of_core State.arrTests (fun _ => rfl) (core_refuse h op st s)
@[simp] theorem postPf_arrTests : (postPf a b c d e s).arrTests = s.arrTests := of_core State.arrTests (fun _ => rfl) (core_postPf a b c d e s)
@[simp] theorem postSes_arrTests : (postSes i a b c d e s).arrTests = s.arrTests := of_core State.arrTests (fun _ => rfl) (core_postSes i a b c d e s)
@[simp] theorem trace_arrTests (r : Trc) : (trace r s).arrTests = s.arrTests := of_core State.arrTests (fun _ => rfl) (core_trace r s)
@[simp] theorem complete_retireWait : (complete h op st hd a b s).retireWait = s.retireWait := of_core State.retireWait (fun _ => rfl) (core_complete h op st hd a b s)
@[simp] theorem refuse_retireWait : (refuse h op st s).retireWait = s.retireWait := of_core State.retireWait (fun _ => rfl) (core_refuse h op st s)
@[simp] theorem postPf_retireWait : (postPf a b c d e s).retireWait = s.retireWait := of_core State.retireWait (fun _ => rfl) (core_postPf a b c d e s)
@[simp] theorem postSes_retireWait : (postSes i a b c d e s).retireWait = s.retireWait := of_core State.retireWait (fun _ => rfl) (core_postSes i a b c d e s)
@[simp] theorem trace_retireWait (r : Trc) : (trace r s).retireWait = s.retireWait := of_core State.retireWait (fun _ => rfl) (core_trace r s)
@[simp] theorem complete_sram : (complete h op st hd a b s).sram = s.sram := of_core State.sram (fun _ => rfl) (core_complete h op st hd a b s)
@[simp] theorem refuse_sram : (refuse h op st s).sram = s.sram := of_core State.sram (fun _ => rfl) (core_refuse h op st s)
@[simp] theorem postPf_sram : (postPf a b c d e s).sram = s.sram := of_core State.sram (fun _ => rfl) (core_postPf a b c d e s)
@[simp] theorem postSes_sram : (postSes i a b c d e s).sram = s.sram := of_core State.sram (fun _ => rfl) (core_postSes i a b c d e s)
@[simp] theorem trace_sram (r : Trc) : (trace r s).sram = s.sram := of_core State.sram (fun _ => rfl) (core_trace r s)
@[simp] theorem complete_sramDraw : (complete h op st hd a b s).sramDraw = s.sramDraw := of_core State.sramDraw (fun _ => rfl) (core_complete h op st hd a b s)
@[simp] theorem refuse_sramDraw : (refuse h op st s).sramDraw = s.sramDraw := of_core State.sramDraw (fun _ => rfl) (core_refuse h op st s)
@[simp] theorem postPf_sramDraw : (postPf a b c d e s).sramDraw = s.sramDraw := of_core State.sramDraw (fun _ => rfl) (core_postPf a b c d e s)
@[simp] theorem postSes_sramDraw : (postSes i a b c d e s).sramDraw = s.sramDraw := of_core State.sramDraw (fun _ => rfl) (core_postSes i a b c d e s)
@[simp] theorem trace_sramDraw (r : Trc) : (trace r s).sramDraw = s.sramDraw := of_core State.sramDraw (fun _ => rfl) (core_trace r s)
@[simp] theorem complete_fwdWait : (complete h op st hd a b s).fwdWait = s.fwdWait := of_core State.fwdWait (fun _ => rfl) (core_complete h op st hd a b s)
@[simp] theorem refuse_fwdWait : (refuse h op st s).fwdWait = s.fwdWait := of_core State.fwdWait (fun _ => rfl) (core_refuse h op st s)
@[simp] theorem postPf_fwdWait : (postPf a b c d e s).fwdWait = s.fwdWait := of_core State.fwdWait (fun _ => rfl) (core_postPf a b c d e s)
@[simp] theorem postSes_fwdWait : (postSes i a b c d e s).fwdWait = s.fwdWait := of_core State.fwdWait (fun _ => rfl) (core_postSes i a b c d e s)
@[simp] theorem trace_fwdWait (r : Trc) : (trace r s).fwdWait = s.fwdWait := of_core State.fwdWait (fun _ => rfl) (core_trace r s)
@[simp] theorem complete_dirKnown : (complete h op st hd a b s).dirKnown = s.dirKnown := of_core State.dirKnown (fun _ => rfl) (core_complete h op st hd a b s)
@[simp] theorem refuse_dirKnown : (refuse h op st s).dirKnown = s.dirKnown := of_core State.dirKnown (fun _ => rfl) (core_refuse h op st s)
@[simp] theorem postPf_dirKnown : (postPf a b c d e s).dirKnown = s.dirKnown := of_core State.dirKnown (fun _ => rfl) (core_postPf a b c d e s)
@[simp] theorem postSes_dirKnown : (postSes i a b c d e s).dirKnown = s.dirKnown := of_core State.dirKnown (fun _ => rfl) (core_postSes i a b c d e s)
@[simp] theorem trace_dirKnown (r : Trc) : (trace r s).dirKnown = s.dirKnown := of_core State.dirKnown (fun _ => rfl) (core_trace r s)
@[simp] theorem complete_net : (complete h op st hd a b s).net = s.net := of_core State.net (fun _ => rfl) (core_complete h op st hd a b s)
@[simp] theorem complete_runs : (complete h op st hd a b s).runs = s.runs := of_core State.runs (fun _ => rfl) (core_complete h op st hd a b s)
@[simp] theorem complete_exts : (complete h op st hd a b s).exts = s.exts := of_core State.exts (fun _ => rfl) (core_complete h op st hd a b s)
@[simp] theorem complete_chanWait : (complete h op st hd a b s).chanWait = s.chanWait := of_core State.chanWait (fun _ => rfl) (core_complete h op st hd a b s)
@[simp] theorem complete_c0Wait : (complete h op st hd a b s).c0Wait = s.c0Wait := of_core State.c0Wait (fun _ => rfl) (core_complete h op st hd a b s)
@[simp] theorem complete_fetchLast : (complete h op st hd a b s).fetchLast = s.fetchLast := of_core State.fetchLast (fun _ => rfl) (core_complete h op st hd a b s)
@[simp] theorem complete_rootCache : (complete h op st hd a b s).rootCache = s.rootCache := of_core State.rootCache (fun _ => rfl) (core_complete h op st hd a b s)
@[simp] theorem complete_spanJobs : (complete h op st hd a b s).spanJobs = s.spanJobs := of_core State.spanJobs (fun _ => rfl) (core_complete h op st hd a b s)
@[simp] theorem complete_bnkNan : (complete h op st hd a b s).bnkNan = s.bnkNan := of_core State.bnkNan (fun _ => rfl) (core_complete h op st hd a b s)
@[simp] theorem complete_arrDraw : (complete h op st hd a b s).arrDraw = s.arrDraw := of_core State.arrDraw (fun _ => rfl) (core_complete h op st hd a b s)
@[simp] theorem complete_codeMem : (complete h op st hd a b s).codeMem = s.codeMem := of_core State.codeMem (fun _ => rfl) (core_complete h op st hd a b s)
@[simp] theorem complete_dmaQ : (complete h op st hd a b s).dmaQ = s.dmaQ := of_core State.dmaQ (fun _ => rfl) (core_complete h op st hd a b s)
@[simp] theorem complete_resid : (complete h op st hd a b s).resid = s.resid := of_core State.resid (fun _ => rfl) (core_complete h op st hd a b s)
@[simp] theorem refuse_net : (refuse h op st s).net = s.net := of_core State.net (fun _ => rfl) (core_refuse h op st s)
@[simp] theorem refuse_runs : (refuse h op st s).runs = s.runs := of_core State.runs (fun _ => rfl) (core_refuse h op st s)
@[simp] theorem refuse_exts : (refuse h op st s).exts = s.exts := of_core State.exts (fun _ => rfl) (core_refuse h op st s)
@[simp] theorem refuse_chanWait : (refuse h op st s).chanWait = s.chanWait := of_core State.chanWait (fun _ => rfl) (core_refuse h op st s)
@[simp] theorem refuse_c0Wait : (refuse h op st s).c0Wait = s.c0Wait := of_core State.c0Wait (fun _ => rfl) (core_refuse h op st s)
@[simp] theorem refuse_fetchLast : (refuse h op st s).fetchLast = s.fetchLast := of_core State.fetchLast (fun _ => rfl) (core_refuse h op st s)
@[simp] theorem refuse_rootCache : (refuse h op st s).rootCache = s.rootCache := of_core State.rootCache (fun _ => rfl) (core_refuse h op st s)
@[simp] theorem refuse_spanJobs : (refuse h op st s).spanJobs = s.spanJobs := of_core State.spanJobs (fun _ => rfl) (core_refuse h op st s)
@[simp] theorem refuse_bnkNan : (refuse h op st s).bnkNan = s.bnkNan := of_core State.bnkNan (fun _ => rfl) (core_refuse h op st s)
@[simp] theorem refuse_arrDraw : (refuse h op st s).arrDraw = s.arrDraw := of_core State.arrDraw (fun _ => rfl) (core_refuse h op st s)
@[simp] theorem refuse_codeMem : (refuse h op st s).codeMem = s.codeMem := of_core State.codeMem (fun _ => rfl) (core_refuse h op st s)
@[simp] theorem refuse_dmaQ : (refuse h op st s).dmaQ = s.dmaQ := of_core State.dmaQ (fun _ => rfl) (core_refuse h op st s)
@[simp] theorem refuse_resid : (refuse h op st s).resid = s.resid := of_core State.resid (fun _ => rfl) (core_refuse h op st s)
@[simp] theorem postPf_net : (postPf a b c d e s).net = s.net := of_core State.net (fun _ => rfl) (core_postPf a b c d e s)
@[simp] theorem postPf_runs : (postPf a b c d e s).runs = s.runs := of_core State.runs (fun _ => rfl) (core_postPf a b c d e s)
@[simp] theorem postPf_exts : (postPf a b c d e s).exts = s.exts := of_core State.exts (fun _ => rfl) (core_postPf a b c d e s)
@[simp] theorem postPf_chanWait : (postPf a b c d e s).chanWait = s.chanWait := of_core State.chanWait (fun _ => rfl) (core_postPf a b c d e s)
@[simp] theorem postPf_c0Wait : (postPf a b c d e s).c0Wait = s.c0Wait := of_core State.c0Wait (fun _ => rfl) (core_postPf a b c d e s)
@[simp] theorem postPf_fetchLast : (postPf a b c d e s).fetchLast = s.fetchLast := of_core State.fetchLast (fun _ => rfl) (core_postPf a b c d e s)
@[simp] theorem postPf_rootCache : (postPf a b c d e s).rootCache = s.rootCache := of_core State.rootCache (fun _ => rfl) (core_postPf a b c d e s)
@[simp] theorem postPf_spanJobs : (postPf a b c d e s).spanJobs = s.spanJobs := of_core State.spanJobs (fun _ => rfl) (core_postPf a b c d e s)
@[simp] theorem postPf_bnkNan : (postPf a b c d e s).bnkNan = s.bnkNan := of_core State.bnkNan (fun _ => rfl) (core_postPf a b c d e s)
@[simp] theorem postPf_arrDraw : (postPf a b c d e s).arrDraw = s.arrDraw := of_core State.arrDraw (fun _ => rfl) (core_postPf a b c d e s)
@[simp] theorem postPf_codeMem : (postPf a b c d e s).codeMem = s.codeMem := of_core State.codeMem (fun _ => rfl) (core_postPf a b c d e s)
@[simp] theorem postPf_dmaQ : (postPf a b c d e s).dmaQ = s.dmaQ := of_core State.dmaQ (fun _ => rfl) (core_postPf a b c d e s)
@[simp] theorem postPf_resid : (postPf a b c d e s).resid = s.resid := of_core State.resid (fun _ => rfl) (core_postPf a b c d e s)
@[simp] theorem postSes_net : (postSes i a b c d e s).net = s.net := of_core State.net (fun _ => rfl) (core_postSes i a b c d e s)
@[simp] theorem postSes_runs : (postSes i a b c d e s).runs = s.runs := of_core State.runs (fun _ => rfl) (core_postSes i a b c d e s)
@[simp] theorem postSes_exts : (postSes i a b c d e s).exts = s.exts := of_core State.exts (fun _ => rfl) (core_postSes i a b c d e s)
@[simp] theorem postSes_chanWait : (postSes i a b c d e s).chanWait = s.chanWait := of_core State.chanWait (fun _ => rfl) (core_postSes i a b c d e s)
@[simp] theorem postSes_c0Wait : (postSes i a b c d e s).c0Wait = s.c0Wait := of_core State.c0Wait (fun _ => rfl) (core_postSes i a b c d e s)
@[simp] theorem postSes_fetchLast : (postSes i a b c d e s).fetchLast = s.fetchLast := of_core State.fetchLast (fun _ => rfl) (core_postSes i a b c d e s)
@[simp] theorem postSes_rootCache : (postSes i a b c d e s).rootCache = s.rootCache := of_core State.rootCache (fun _ => rfl) (core_postSes i a b c d e s)
@[simp] theorem postSes_spanJobs : (postSes i a b c d e s).spanJobs = s.spanJobs := of_core State.spanJobs (fun _ => rfl) (core_postSes i a b c d e s)
@[simp] theorem postSes_bnkNan : (postSes i a b c d e s).bnkNan = s.bnkNan := of_core State.bnkNan (fun _ => rfl) (core_postSes i a b c d e s)
@[simp] theorem postSes_arrDraw : (postSes i a b c d e s).arrDraw = s.arrDraw := of_core State.arrDraw (fun _ => rfl) (core_postSes i a b c d e s)
@[simp] theorem postSes_codeMem : (postSes i a b c d e s).codeMem = s.codeMem := of_core State.codeMem (fun _ => rfl) (core_postSes i a b c d e s)
@[simp] theorem postSes_dmaQ : (postSes i a b c d e s).dmaQ = s.dmaQ := of_core State.dmaQ (fun _ => rfl) (core_postSes i a b c d e s)
@[simp] theorem postSes_resid : (postSes i a b c d e s).resid = s.resid := of_core State.resid (fun _ => rfl) (core_postSes i a b c d e s)
@[simp] theorem trace_net (r : Trc) : (trace r s).net = s.net := of_core State.net (fun _ => rfl) (core_trace r s)
@[simp] theorem trace_runs (r : Trc) : (trace r s).runs = s.runs := of_core State.runs (fun _ => rfl) (core_trace r s)
@[simp] theorem trace_exts (r : Trc) : (trace r s).exts = s.exts := of_core State.exts (fun _ => rfl) (core_trace r s)
@[simp] theorem trace_chanWait (r : Trc) : (trace r s).chanWait = s.chanWait := of_core State.chanWait (fun _ => rfl) (core_trace r s)
@[simp] theorem trace_c0Wait (r : Trc) : (trace r s).c0Wait = s.c0Wait := of_core State.c0Wait (fun _ => rfl) (core_trace r s)
@[simp] theorem trace_fetchLast (r : Trc) : (trace r s).fetchLast = s.fetchLast := of_core State.fetchLast (fun _ => rfl) (core_trace r s)
@[simp] theorem trace_rootCache (r : Trc) : (trace r s).rootCache = s.rootCache := of_core State.rootCache (fun _ => rfl) (core_trace r s)
@[simp] theorem trace_spanJobs (r : Trc) : (trace r s).spanJobs = s.spanJobs := of_core State.spanJobs (fun _ => rfl) (core_trace r s)
@[simp] theorem trace_bnkNan (r : Trc) : (trace r s).bnkNan = s.bnkNan := of_core State.bnkNan (fun _ => rfl) (core_trace r s)
@[simp] theorem trace_arrDraw (r : Trc) : (trace r s).arrDraw = s.arrDraw := of_core State.arrDraw (fun _ => rfl) (core_trace r s)
@[simp] theorem trace_codeMem (r : Trc) : (trace r s).codeMem = s.codeMem := of_core State.codeMem (fun _ => rfl) (core_trace r s)
@[simp] theorem trace_dmaQ (r : Trc) : (trace r s).dmaQ = s.dmaQ := of_core State.dmaQ (fun _ => rfl) (core_trace r s)
@[simp] theorem trace_resid (r : Trc) : (trace r s).resid = s.resid := of_core State.resid (fun _ => rfl) (core_trace r s)
end

end Sys2Proof.Machine
end

