-- ==== Sys2Proof/Laws/Sessions.lean ====
section
/-!
SUPPORT. Sys2Proof/Laws/Sessions.lean: what a host command does before its own effect, and what writing a descriptor or a session
changes.
-/
namespace Sys2Proof.Machine

/-! ## Host commands -/

/-- Reading a descriptor that reads clean changes nothing (R25). -/
theorem readDesc_of_reads (i : Nat) (s : State) (h : descReads i s = true) : readDesc i s = s := by
  unfold descReads copyClean at h; unfold readDesc; dsimp only
  split
  · rfl
  · next hp =>
    simp only [List.isEmpty_iff, Bool.or_eq_true, Bool.and_eq_true, Bool.not_eq_true', hp, false_or] at h
    rcases h with ⟨a, b⟩ | ⟨a, b, c⟩
    · simp [a, b]
    · simp [a, b, c]

theorem entered_cases (h : Hdr) (op : Nat) (s : State) : ∃ y, entered h op s = { s with started := y } := by
  unfold entered noteStarted; split
  · exact ⟨s.started, rfl⟩
  · exact ⟨_, rfl⟩
@[simp] theorem entered_desc (h : Hdr) (op i : Nat) (s : State) : descOf i (entered h op s) = descOf i s := by
  obtain ⟨y, ey⟩ := entered_cases h op s; rw [ey]; rfl
@[simp] theorem entered_sess (h : Hdr) (op i : Nat) (s : State) : sessOf i (entered h op s) = sessOf i s := by
  obtain ⟨y, ey⟩ := entered_cases h op s; rw [ey]; rfl
@[simp] theorem entered_rd (h : Hdr) (op : Nat) (f : Fld) (s : State) : rd f (entered h op s) = rd f s := by
  obtain ⟨y, ey⟩ := entered_cases h op s; rw [ey]; rfl
@[simp] theorem entered_now (h : Hdr) (op : Nat) (s : State) : now (entered h op s) = now s := entered_rd h op _ s

/-- A command that names no session and passes the intake has its own effect on the state in which it is started. -/
theorem host_passes (h : Hdr) (op : Nat) (bad : Bool) (s : State) (f : State → State) (hp : passes h op bad s = true)
    (e : namesSession op = false ∨ h.handle = 0 ∨ descReads (hIndex h.handle) s = true) :
    hostCmd h op s f = .next (f (entered h op s)) ∧ intakeFails h op bad (entered h op s) = false := by
  simp only [passes, Bool.and_eq_true, Bool.not_eq_true'] at hp
  constructor
  · unfold hostCmd; simp only [hp.1, if_true]
    rcases e with e | e | e
    · simp [e, entered]
    · simp [e, entered]
    · rw [readDesc_of_reads _ _ e]; simp [entered]
  · obtain ⟨y, ey⟩ := entered_cases h op s
    rw [ey]; exact hp.2

/-- A session command that acts on slot `i` runs its body there. -/
theorem host_acts (h : Hdr) (op : Nat) (bad : Bool) (args : List Nat) (data : Option (Buf × Nat)) (held : HeldCmd) (nop : Desc → Nat × Nat)
    (body : Nat → State → State) (i : Nat) (s : State) (ha : actsOn h op bad i s = true) :
    hostCmd h op s (sessionCmd h op bad args data held nop body) = .next (body i (entered h op s)) := by
  simp only [actsOn, Bool.and_eq_true, Bool.not_eq_true', beq_iff_eq] at ha
  obtain ⟨⟨⟨⟨⟨⟨hp, po⟩, hc⟩, tb⟩, ar⟩, re⟩, ju⟩ := ha
  obtain ⟨a, b⟩ := host_passes h op bad s (sessionCmd h op bad args data held nop body) hp (.inr (.inr po))
  rw [a]
  obtain ⟨y, ey⟩ := entered_cases h op s
  rw [ey] at b ⊢
  unfold sessionCmd
  rw [b]
  have hc' : handleCheck h.fn h.handle { s with started := y } = .found i := hc
  have tb' : ({ s with started := y } : State).tombs.find? (fun t => t.idx == i) = none := by
    rw [List.find?_eq_none]; intro x hx; have := List.all_eq_true.mp tb x hx; simpa using this
  have ar' : armed i { s with started := y } = false := ar
  have re' : resuming i { s with started := y } = false := re
  have ju' : judge op (descOf i { s with started := y }) = .apply := ju
  simp only [hc', tb', ar', re', ju', Bool.or_self, if_false, Bool.false_eq_true]

/-! ## Descriptors and sessions -/

theorem countDesc_desc (d : Desc) (u : Bool) (s : State) : (countDesc d u s).desc = s.desc := by
  unfold countDesc; dsimp only; split <;> split <;> rfl
theorem countDesc_core (d : Desc) (u : Bool) (s : State) : (countDesc d u s).core = s.core := by
  unfold countDesc; dsimp only; split <;> split <;> rfl
/-- Writing a descriptor changes the descriptor, the log of the session's migration, and what reporting may change. -/
theorem putDesc_core (i : Nat) (d : Desc) (s : State) :
    (putDesc i d s).core = { s.core with
      desc := sset s.desc i d, migs := s.migs.map fun m => if m.idx = i then { m with log := m.log ++ [d] } else m } := by
  have e : ∀ (x : State) (y : Store Desc) (p : List Nat) (z : List Migration),
      State.core { x with desc := y, poison := p, migs := z } = { x.core with desc := y, migs := z } := fun _ _ _ _ => rfl
  have g : ∀ (o : Desc) (x : State), (countDesc d true (countDesc o false x)).core = x.core := fun o x => by
    rw [countDesc_core, countDesc_core]
  have g1 : ∀ (o : Desc) (x : State), (countDesc d true (countDesc o false x)).desc = x.desc := fun o x =>
    of_core State.desc (fun _ => rfl) (g o x)
  have g2 : ∀ (o : Desc) (x : State), (countDesc d true (countDesc o false x)).migs = x.migs := fun o x =>
    of_core State.migs (fun _ => rfl) (g o x)
  unfold putDesc; dsimp only
  split
  · rw [e, g, g1, g2]
  · rw [e, g, g1, g2, core_trace, trace_desc, trace_migs]
theorem putDesc_desc (i : Nat) (d : Desc) (s : State) : (putDesc i d s).desc = sset s.desc i d := by
  show (putDesc i d s).core.desc = _; rw [putDesc_core]
theorem putDesc_boots (i : Nat) (d : Desc) (s : State) : (putDesc i d s).boots = s.boots := by
  show (putDesc i d s).core.boots = _; rw [putDesc_core]; rfl
@[simp] theorem putDesc_sess (i : Nat) (d : Desc) (s : State) : (putDesc i d s).sess = s.sess := by
  show (putDesc i d s).core.sess = _; rw [putDesc_core]; rfl
@[simp] theorem putDesc_transits (i : Nat) (d : Desc) (s : State) : (putDesc i d s).transits = s.transits := by
  show (putDesc i d s).core.transits = _; rw [putDesc_core]; rfl
@[simp] theorem putDesc_deepMem (i : Nat) (d : Desc) (s : State) : (putDesc i d s).deepMem = s.deepMem := by
  show (putDesc i d s).core.deepMem = _; rw [putDesc_core]; rfl
@[simp] theorem putDesc_freed (i : Nat) (d : Desc) (s : State) : (putDesc i d s).freed = s.freed := by
  show (putDesc i d s).core.freed = _; rw [putDesc_core]; rfl
@[simp] theorem descOf_putDesc_self (i : Nat) (d : Desc) (s : State) : descOf i (putDesc i d s) = d := by
  unfold descOf; rw [putDesc_desc]; exact sgetD_sset_self _ _ _ _
theorem descOf_putDesc_ne (i j : Nat) (d : Desc) (s : State) (h : j ≠ i) : descOf j (putDesc i d s) = descOf j s := by
  unfold descOf; rw [putDesc_desc, putDesc_boots]; exact sgetD_sset_other _ _ _ _ _ h
@[simp] theorem sessOf_putDesc (i j : Nat) (d : Desc) (s : State) : sessOf j (putDesc i d s) = sessOf j s := by
  unfold sessOf; rw [putDesc_sess]
@[simp] theorem descOf_putSess (i j : Nat) (x : Sess) (s : State) : descOf i (putSess j x s) = descOf i s := rfl
@[simp] theorem sessOf_putSess_self (i : Nat) (x : Sess) (s : State) : sessOf i (putSess i x s) = x := by
  unfold sessOf putSess; exact sgetD_sset_self _ _ _ _
theorem sessOf_putSess_ne (i j : Nat) (x : Sess) (s : State) (h : j ≠ i) : sessOf j (putSess i x s) = sessOf j s := by
  unfold sessOf putSess; exact sgetD_sset_other _ _ _ _ _ h
@[simp] theorem descOf_wr (i : Nat) (f : Fld) (v : Nat) (s : State) : descOf i (wr f v s) = descOf i s := rfl
@[simp] theorem sessOf_wr (i : Nat) (f : Fld) (v : Nat) (s : State) : sessOf i (wr f v s) = sessOf i s := rfl
@[simp] theorem descOf_complete (i : Nat) (h : Hdr) (op st hd a b : Nat) (s : State) :
    descOf i (complete h op st hd a b s) = descOf i s := by unfold descOf; simp
@[simp] theorem sessOf_complete (i : Nat) (h : Hdr) (op st hd a b : Nat) (s : State) :
    sessOf i (complete h op st hd a b s) = sessOf i s := by unfold sessOf; simp
@[simp] theorem descOf_postPf (i a b c d e : Nat) (s : State) : descOf i (postPf a b c d e s) = descOf i s := by unfold descOf; simp
@[simp] theorem sessOf_postPf (i a b c d e : Nat) (s : State) : sessOf i (postPf a b c d e s) = sessOf i s := by unfold sessOf; simp

end Sys2Proof.Machine
end

