-- ==== Sys2Proof/Laws/Alloc.lean ====
section
/-!
SUPPORT. Sys2Proof/Laws/Alloc.lean: what an allocation can do (R203, R571): where there is room it answers a place, and
what it leaves unchanged.
-/
namespace Sys2Proof.Machine

/-- Each run of a list costs a search at most its own bytes, one step of the alignment and the bytes sought. -/
theorem runGap_isSome (n al lim a : Nat) (l : List (Nat × Nat)) (hal : 0 < al)
    (h : a + n + (l.map (·.2)).sum + l.length * (al + n) ≤ lim) : (runGap n al lim a l).isSome = true := by
  induction l generalizing a with
  | nil => simp only [runGap]; rw [if_pos (by simpa using h)]; rfl
  | cons r l ih =>
    simp only [runGap]
    split
    · rfl
    · apply ih
      have h1 : al * ceilDiv (r.1 + r.2) al ≤ r.1 + r.2 + al := by
        unfold ceilDiv
        have := Nat.mul_div_le (r.1 + r.2 + al - 1) al
        omega
      simp only [List.map_cons, List.sum_cons, List.length_cons, Nat.succ_mul] at h
      omega

/-- A channel has a place for a run when the runs of all channels leave that much of it. -/
theorem placeIn_isSome (g n al : Nat) (s : State) (hal : 0 < al)
    (h : n + (s.runs.map (·.2)).sum + s.runs.length * (al + n) ≤ chanBytes) : (placeIn g n al s).isSome = true := by
  unfold placeIn
  simp only
  have hs : ∀ p : Nat × Nat → Bool, ((s.runs.filter p).map (·.2)).sum ≤ (s.runs.map (·.2)).sum ∧
      (s.runs.filter p).length ≤ s.runs.length := by
    intro p
    refine ⟨?_, List.length_filter_le _ _⟩
    induction s.runs with
    | nil => simp
    | cons r l ih =>
      by_cases hp : p r = true
      · rw [List.filter_cons_of_pos hp]; simpa using ih
      · rw [List.filter_cons_of_neg hp]; simp only [List.map_cons, List.sum_cons]; omega
  obtain ⟨h1, h2⟩ := hs fun r => decide (gchanBase g ≤ r.1) && decide (r.1 < gchanBase g + chanBytes)
  rw [if_neg (by omega)]
  split
  · rfl
  · apply runGap_isSome _ _ _ _ _ hal
    have := Nat.mul_le_mul_right (al + n) h2
    omega

/-- What `leastFilled` picks is one of the candidates, up and with room. -/
theorem leastFilled_cases (cands : List Nat) (room : Nat → Bool) (s : State) (g : Nat) (h : leastFilled cands room s = some g) :
    g ∈ cands ∧ chUp g s = true ∧ room g = true := by
  unfold leastFilled at h
  suffices H : ∀ (l : List Nat) (b : Option Nat), (∀ x, b = some x → x ∈ cands ∧ chUp x s = true ∧ room x = true) →
      (∀ x ∈ l, x ∈ cands) → ∀ x, (l.foldl (fun best g =>
        if chUp g s && room g then
          match best with
          | none => some g
          | some b => if chFill g s < chFill b s ∨ (chFill g s = chFill b s ∧ g < b) then some g else best
        else best) b) = some x → x ∈ cands ∧ chUp x s = true ∧ room x = true from
    H cands none (by simp) (fun _ hx => hx) g h
  intro l
  induction l with
  | nil => intro b hb _ x hx; exact hb x hx
  | cons c l ih =>
    intro b hb hl x hx
    refine ih _ ?_ (fun y hy => hl y (List.mem_cons_of_mem _ hy)) x hx
    intro y hy
    have hc : c ∈ cands := hl c (List.mem_cons_self ..)
    simp only at hy
    split at hy
    · rename_i hu
      simp only [Bool.and_eq_true] at hu
      split at hy
      · cases hy; exact ⟨hc, hu.1, hu.2⟩
      · split at hy
        · cases hy; exact ⟨hc, hu.1, hu.2⟩
        · exact hb y hy
    · exact hb y hy

/-- Where a candidate is up and has room, `leastFilled` picks one. -/
theorem leastFilled_isSome (cands : List Nat) (room : Nat → Bool) (s : State) (g : Nat) (hg : g ∈ cands) (hu : chUp g s = true)
    (hr : room g = true) : (leastFilled cands room s).isSome = true := by
  unfold leastFilled
  suffices H : ∀ (l : List Nat) (b : Option Nat), (b.isSome = true ∨ g ∈ l) → (l.foldl (fun best g =>
      if chUp g s && room g then
        match best with
        | none => some g
        | some b => if chFill g s < chFill b s ∨ (chFill g s = chFill b s ∧ g < b) then some g else best
      else best) b).isSome = true from H cands none (.inr hg)
  intro l
  induction l with
  | nil => intro b hb; simpa using hb
  | cons c l ih =>
    intro b hb
    apply ih
    rcases hb with hb | hb
    · left
      simp only
      split
      · split
        · rfl
        · split <;> first | rfl | exact hb
      · exact hb
    · rcases List.mem_cons.mp hb with rfl | hb
      · left; simp only; rw [if_pos (by simp [hu, hr])]; split
        · rfl
        · split <;> rfl
      · exact .inr hb

/-- What an allocation of session state does, when it answers. -/
theorem allocState_cases (i kind n a : Nat) (s t : State) (h : allocState i kind n s = some (a, t)) :
    ∃ g, g ∈ protChans (modelOf (descOf i s).model s) s ∧ chUp g s = true ∧
      t = charge (descOf i s).cls n (modSess i (fun x => { x with allocs := { kind := kind, chan := g, addr := a, bytes := n } :: x.allocs })
        (chanTake g a n { s with fresh := s.fresh + 1 })) := by
  unfold allocState allocStateIn at h
  split at h
  · cases h
  · rename_i g a' s' he
    unfold allocIn at he
    cases hl : leastFilled (protChans (modelOf (descOf i s).model s) s) (fun g => (placeIn g n 64 s).isSome) s with
    | none => rw [hl] at he; cases he
    | some c =>
      rw [hl, Option.bind_some] at he
      obtain ⟨hc, hu, -⟩ := leastFilled_cases _ _ _ _ hl
      cases hp : placeIn c n 64 s with
      | none => rw [hp] at he; cases he
      | some a0 => rw [hp] at he; cases he; cases h; exact ⟨g, hc, hu, rfl⟩

/-- Where a channel of the session's home tile is up and there is room, an allocation answers. -/
theorem allocState_isSome (i kind n g : Nat) (s : State) (hg : g ∈ protChans (modelOf (descOf i s).model s) s) (hu : chUp g s = true)
    (h : n + (s.runs.map (·.2)).sum + s.runs.length * (64 + n) ≤ chanBytes) : (allocState i kind n s).isSome = true := by
  obtain ⟨c, hc⟩ := Option.isSome_iff_exists.mp (leastFilled_isSome _ (fun g => (placeIn g n 64 s).isSome) s g hg hu (placeIn_isSome g n 64 s (by decide) h))
  obtain ⟨-, -, hp⟩ := leastFilled_cases _ _ _ _ hc
  obtain ⟨a, ha⟩ := Option.isSome_iff_exists.mp hp
  unfold allocState allocStateIn allocIn
  rw [hc, Option.bind_some, ha]; rfl

theorem runIns_sum (r : Nat × Nat) (l : List (Nat × Nat)) : ((runIns r l).map (·.2)).sum = r.2 + (l.map (·.2)).sum := by
  induction l with
  | nil => rfl
  | cons x l ih => unfold runIns; split <;> simp [ih]; omega
theorem runIns_length (r : Nat × Nat) (l : List (Nat × Nat)) : (runIns r l).length = l.length + 1 := by
  induction l with
  | nil => rfl
  | cons x l ih => unfold runIns; split <;> simp [ih]

/-- What an allocation of session state leaves unchanged, and what its run adds to the runs of the channels. -/
theorem allocState_keeps (i kind n a : Nat) (s t : State) (h : allocState i kind n s = some (a, t)) (hc : (descOf i s).cls < 8) :
    t.desc = s.desc ∧ t.boots = s.boots ∧ t.models = s.models ∧ t.remaps = s.remaps ∧
    (t.runs.map (·.2)).sum = n + (s.runs.map (·.2)).sum ∧ t.runs.length = s.runs.length + 1 ∧
    (∀ f : Fld, f.lo < 64 ∧ f.hi < 64 → f.off < 0x3_0000 ∨ 0x10_0000 ≤ f.off →
      (∀ g, apart f (MEM_CH_USED.ALLOCATED (g / 192) (g / 32 % 6))) → rd f t = rd f s) := by
  obtain ⟨g, -, -, rfl⟩ := allocState_cases _ _ _ _ _ _ h
  refine ⟨rfl, rfl, rfl, rfl, runIns_sum _ _, runIns_length _ _, ?_⟩
  intro f hb hf ha
  have h1 : apart f SES_POOL_USED.USED_MIB := apart_of_off _ _ hb (by decide) (by unfold SES_POOL_USED.USED_MIB; simp only; omega)
  have h2 : apart f (SES_CLASS_USAGE.USED_MIB (descOf i s).cls) :=
    apart_of_off _ _ hb ⟨by simp [SES_CLASS_USAGE.USED_MIB], by simp [SES_CLASS_USAGE.USED_MIB]⟩ (by unfold SES_CLASS_USAGE.USED_MIB; simp only; omega)
  exact (rd_wr_apart _ _ _ _ h2).trans ((rd_wr_apart _ _ _ _ h1).trans (rd_wrBit_apart _ _ _ _ _ (ha g)))

/-- The next allocation of a session's state has a channel where this one had, while there is room for both. -/
theorem allocState_again (i kind kind' n n' a g : Nat) (s t : State) (h : allocState i kind n s = some (a, t)) (hc : (descOf i s).cls < 8)
    (hg : g ∈ protChans (modelOf (descOf i s).model s) s) (hu : chUp g s = true) (hl : g < 768)
    (hr : n + n' + (s.runs.map (·.2)).sum + (s.runs.length + 1) * (64 + n') ≤ chanBytes) :
    g ∈ protChans (modelOf (descOf i t).model t) t ∧ chUp g t = true ∧ (allocState i kind' n' t).isSome = true := by
  obtain ⟨hd, hb, hm, hp, hs, hn, hf⟩ := allocState_keeps _ _ _ _ _ _ h hc
  have hD : descOf i t = descOf i s := by unfold descOf; rw [hd, hb]
  have hM : modelOf (descOf i t).model t = modelOf (descOf i s).model s := by rw [hD]; unfold modelOf; rw [hm]
  have far : ∀ x : Nat, x < 768 → ∀ b hi lo r, b ∈ [0x100000, 0x100040] → hi < 64 → lo < 64 →
      rd ⟨b + 0x10000 * (x / 192) + 0x8 * (x / 32 % 6), hi, lo, r⟩ t = rd ⟨b + 0x10000 * (x / 192) + 0x8 * (x / 32 % 6), hi, lo, r⟩ s := by
    intro x hx b hi lo r hb h1 h2
    simp only [List.mem_cons, List.not_mem_nil, or_false] at hb
    refine hf _ ⟨h2, h1⟩ (.inr (by simp only; omega)) fun y => apart_of_off _ _ ⟨h2, h1⟩ ⟨by simp [MEM_CH_USED.ALLOCATED], by simp [MEM_CH_USED.ALLOCATED]⟩ ?_
    unfold MEM_CH_USED.ALLOCATED; simp only; omega
  have hS : stackOnline (g / 32) t = stackOnline (g / 32) s := by
    unfold stackOnline rdBit
    rw [hf HUB_DOMAIN_STATUS.STACK_ONLINE (by decide) (by decide) fun y => apart_of_off _ _ (by decide) ⟨by simp [MEM_CH_USED.ALLOCATED], by simp [MEM_CH_USED.ALLOCATED]⟩ (by
      unfold MEM_CH_USED.ALLOCATED HUB_DOMAIN_STATUS.STACK_ONLINE; simp only; omega)]
  have hR : chRetired g t = chRetired g s := by
    unfold chRetired rdBit MEM_CH_STATUS.RETIRED; rw [far g hl _ _ _ _ (by decide) (by decide) (by decide)]
  have hU : chUp g t = true := by unfold chUp at hu ⊢; rw [hS, hR, hp]; exact hu
  have hO : chProtectedOk g t = chProtectedOk g s := by
    unfold chProtectedOk chRaw chOutsideSpare spareGib rdBit MEM_CH_CFG.RAW MEM_CH_CFG.SPARE_GIB
    have e1 : g / 32 / 6 = g / 192 := by omega
    rw [e1, far g hl _ _ _ _ (by decide) (by decide) (by decide), far g hl _ _ _ _ (by decide) (by decide) (by decide)]
  have hG : g ∈ protChans (modelOf (descOf i t).model t) t := by
    rw [hM]; unfold protChans at hg ⊢; rw [List.mem_filter] at hg ⊢; rw [hO]; exact hg
  exact ⟨hG, hU, allocState_isSome i kind' n' g t hG hU (by rw [hs, hn]; omega)⟩

/-- Where the pool supplies it and a channel of the model's home tile has room, a session's first allocations are had. -/
theorem createAlloc_isSome (cls model i g : Nat) (s : State) (hs : canSupply cls (rootBytes 16 + 32832 + 512) s = true) (hc : cls < 8)
    (hl : g < 768) (hg : g ∈ protChans (modelOf model s) s) (hu : chUp g s = true)
    (hr : rootBytes 16 + 32832 + 512 + (s.runs.map (·.2)).sum + (s.runs.length + 2) * (64 + 32832 + rootBytes 16) ≤ chanBytes) :
    (createAlloc cls model i s).isSome = true := by
  unfold createAlloc
  rw [if_neg (by simp [hs])]
  have hd : ∀ x : State, descOf i { x with sess := sset x.sess i {}, desc := sset x.desc i { descOf i x with cls := cls, model := model } }
      = { descOf i x with cls := cls, model := model } := by intro x; simp [descOf]
  generalize hu' : ({ s with sess := sset s.sess i {}, desc := sset s.desc i { descOf i s with cls := cls, model := model } } : State) = u
  have hru : u.runs = s.runs := by rw [← hu']
  have hgu : g ∈ protChans (modelOf (descOf i u).model u) u := by rw [← hu', hd]; exact hg
  have huu : chUp g u = true := by rw [← hu']; exact hu
  have hcu : (descOf i u).cls < 8 := by rw [← hu', hd]; exact hc
  have hkeep : ∀ {k n a x y}, allocState i k n x = some (a, y) → (descOf i x).cls < 8 → (descOf i y).cls < 8 := by
    intro k n a x y h hx
    obtain ⟨h1, h2, -⟩ := allocState_keeps _ _ _ _ _ _ h hx
    unfold descOf at hx ⊢; rw [h1, h2]; exact hx
  have hb : rootBytes 16 = 320 := rfl
  rw [hb] at hr
  simp only
  obtain ⟨⟨pt, v⟩, hv⟩ := Option.isSome_iff_exists.mp (allocState_isSome i 1 (rootBytes 16) g u hgu huu (by rw [hru, hb]; omega))
  obtain ⟨-, -, -, -, v4, v5, -⟩ := allocState_keeps _ _ _ _ _ _ hv hcu
  obtain ⟨hgv, huv, hav⟩ := allocState_again i 1 3 (rootBytes 16) 32832 pt g u v hv hcu hgu huu hl (by rw [hru, hb]; omega)
  obtain ⟨⟨pen, w⟩, hw⟩ := Option.isSome_iff_exists.mp hav
  obtain ⟨-, -, haw⟩ := allocState_again i 3 4 32832 512 pen g v w hw (hkeep hv hcu) hgv huv hl (by
    rw [v4, v5, hru, hb]; omega)
  obtain ⟨⟨st, z⟩, hz⟩ := Option.isSome_iff_exists.mp haw
  rw [hv]; simp only; rw [hw]; simp only; rw [hz]; rfl

end Sys2Proof.Machine
end

