-- ==== Sys2Proof/Laws/Memory.lean ====
section
/-!
SUPPORT. Sys2Proof/Laws/Memory.lean: the byte memories: a read after a write, and that every operation keeps the canonical form.
-/
namespace Sys2Proof.Machine

theorem cellGet_cellSet_self (m : List Host.Cell) (a : Nat) (v : Byte) (h : Memory.wf m = true) :
    cellGet (cellSet m a v) a = v := by
  induction m with
  | nil => by_cases e : v = 0#8 <;> simp [cellSet, cellGet, e]
  | cons p r ih =>
    obtain ⟨k, w⟩ := p
    have hr : Memory.wf r = true := by
      cases r with
      | nil => rfl
      | cons q t => obtain ⟨b, y⟩ := q; simp [Memory.wf] at h; exact h.2
    -- an address below the first one listed reads as zero
    have low : ∀ (l : List Host.Cell) (k : Nat) (w : Byte), Memory.wf ((k, w) :: l) = true → ∀ x, x ≤ k → x ≠ k → cellGet l x = 0#8 := by
      intro l
      induction l with
      | nil => intros; rfl
      | cons q t iht =>
        obtain ⟨b, y⟩ := q
        intro k w hw x hx hn
        simp [Memory.wf] at hw
        have : x ≠ b := by omega
        simp only [cellGet, this, if_false]
        exact iht b y hw.2 x (by omega) this
    by_cases l : a < k
    · by_cases e : v = 0#8
      · have hk : a ≠ k := by omega
        simp only [cellSet, l, e, if_true, cellGet, hk, if_false]
        exact low r k w h a (by omega) hk
      · simp [cellSet, l, e, cellGet]
    · by_cases g : a = k
      · by_cases e : v = 0#8
        · subst g
          simp only [cellSet, e, if_true, Nat.lt_irrefl, if_false]
          cases r with
          | nil => rfl
          | cons q t =>
            obtain ⟨b, y⟩ := q
            simp [Memory.wf] at h
            have : a ≠ b := by omega
            simp only [cellGet, this, if_false]
            exact low t b y h.2 a (by omega) this
        · simp [cellSet, g, e, cellGet]
      · simp only [cellSet, l, g, if_false, cellGet]
        exact ih hr

theorem cellGet_cellSet_other (m : List Host.Cell) (a b : Nat) (v : Byte) (h : b ≠ a) : cellGet (cellSet m a v) b = cellGet m b := by
  induction m with
  | nil => by_cases e : v = 0#8 <;> simp [cellSet, cellGet, e, h]
  | cons p r ih =>
    obtain ⟨k, w⟩ := p
    by_cases l : a < k
    · by_cases e : v = 0#8 <;> simp [cellSet, l, e, cellGet, h]
    · by_cases g : a = k
      · subst g; by_cases e : v = 0#8 <;> simp [cellSet, e, cellGet, h]
      · simp only [cellSet, l, g, if_false, cellGet, ih]

theorem Memory.wf_cons (a : Nat) (v : Byte) (r : List Host.Cell) :
    Memory.wf ((a, v) :: r) = true ↔ v ≠ 0#8 ∧ (∀ p ∈ r.head?, a < p.1) ∧ Memory.wf r = true := by
  cases r with
  | nil => simp [Memory.wf]
  | cons q t => obtain ⟨b, w⟩ := q; simp [Memory.wf, and_assoc]

theorem cellSet_head (m : List Host.Cell) (a k : Nat) (v : Byte) (hk : ∀ p ∈ m.head?, k < p.1) (hm : Memory.wf m = true) (h : k < a) :
    ∀ p ∈ (cellSet m a v).head?, k < p.1 := by
  cases m with
  | nil =>
    intro p hp; simp only [cellSet] at hp; split at hp
    · simp at hp
    · simp at hp; subst hp; exact h
  | cons q t =>
    obtain ⟨b, w⟩ := q
    have hb : k < b := hk (b, w) (by simp)
    have ht := ((Memory.wf_cons b w t).mp hm).2.1
    intro p hp
    simp only [cellSet] at hp
    split at hp
    · split at hp
      · simp at hp; subst hp; exact hb
      · simp at hp; subst hp; exact h
    · split at hp
      · split at hp
        · have := ht p hp; show k < p.1; omega
        · simp at hp; subst hp; exact h
      · simp at hp; subst hp; exact hb

/-- Writing a byte keeps the canonical form. -/
theorem cellSet_wf (m : List Host.Cell) (a : Nat) (v : Byte) (h : Memory.wf m = true) : Memory.wf (cellSet m a v) = true := by
  induction m with
  | nil => by_cases e : v = 0#8 <;> simp [cellSet, e, Memory.wf]
  | cons p r ih =>
    obtain ⟨k, w⟩ := p
    have hc := (Memory.wf_cons k w r).mp h
    by_cases l : a < k
    · by_cases e : v = 0#8
      · simpa [cellSet, l, e] using h
      · simp only [cellSet, l, e, if_true, if_false]
        exact (Memory.wf_cons _ _ _).mpr ⟨e, by simp [l], h⟩
    · by_cases g : a = k
      · by_cases e : v = 0#8
        · simp only [cellSet, g, e, if_true, Nat.lt_irrefl, if_false]; exact hc.2.2
        · simp only [cellSet, g, e, if_true, Nat.lt_irrefl, if_false]
          exact (Memory.wf_cons _ _ _).mpr ⟨e, hc.2.1, hc.2.2⟩
      · simp only [cellSet, l, g, if_false]
        exact (Memory.wf_cons _ _ _).mpr ⟨hc.1, cellSet_head r a k v hc.2.1 hc.2.2 (by omega), ih hc.2.2⟩

/-- Writing a run of bytes keeps it. -/
theorem cellsSet_wf (m : List Host.Cell) (a : Nat) (bs : List Byte) (h : Memory.wf m = true) : Memory.wf (cellsSet m a bs) = true := by
  induction bs generalizing m a with
  | nil => exact h
  | cons b r ih => exact ih _ _ (cellSet_wf m a b h)

theorem wf_tail (m : List Host.Cell) (h : Memory.wf m = true) : Memory.wf m.tail = true := by
  cases m with
  | nil => rfl
  | cons p r => obtain ⟨k, w⟩ := p; exact ((Memory.wf_cons k w r).mp h).2.2

/-- Every later address is above the first. -/
theorem wf_above (k : Nat) (w : Byte) (r : List Host.Cell) (h : Memory.wf ((k, w) :: r) = true) : ∀ p ∈ r, k < p.1 := by
  induction r generalizing k w with
  | nil => simp
  | cons q t ih =>
    obtain ⟨b, y⟩ := q
    have hc := (Memory.wf_cons k w _).mp h
    have hb : k < b := hc.2.1 (b, y) (by simp)
    intro p hp
    rcases List.mem_cons.mp hp with e | m
    · subst e; exact hb
    · have := ih b y hc.2.2 p m; omega

/-- Leaving out entries keeps it, and so does clearing a run. -/
theorem filter_wf (m : List Host.Cell) (f : Host.Cell → Bool) (h : Memory.wf m = true) : Memory.wf (m.filter f) = true := by
  induction m with
  | nil => rfl
  | cons p r ih =>
    obtain ⟨k, w⟩ := p
    have hc := (Memory.wf_cons k w r).mp h
    by_cases e : f (k, w)
    · simp only [List.filter, e]
      refine (Memory.wf_cons _ _ _).mpr ⟨hc.1, ?_, ih hc.2.2⟩
      intro p hp
      have hm : p ∈ r := (List.mem_filter.mp (List.mem_of_mem_head? hp)).1
      exact wf_above k w r h p hm
    · simp only [List.filter, e]; exact ih hc.2.2

theorem cellsClear_wf (m : List Host.Cell) (a n : Nat) (h : Memory.wf m = true) : Memory.wf (cellsClear m a n) = true := filter_wf m _ h

/-- An address outside a run written reads as before; one inside reads as written. -/
theorem cellGet_cellsSet_outside (m : List Host.Cell) (a : Nat) (bs : List Byte) (x : Nat) (h : x < a ∨ a + bs.length ≤ x) :
    cellGet (cellsSet m a bs) x = cellGet m x := by
  induction bs generalizing m a with
  | nil => rfl
  | cons b r ih =>
    simp only [cellsSet]
    rw [ih, cellGet_cellSet_other]
    · simp at h; omega
    · simp at h; omega

end Sys2Proof.Machine
end

