-- ==== Sys2Proof/Laws/Startup.lean ====
section
/-!
SUPPORT. Sys2Proof/Laws/Startup.lean: what start-up's test of the arrays leaves (R166, R557).
-/
namespace Sys2Proof.Machine

/-- An array of a tile, counted as `tileArrays` counts. -/
def isArr (a : Nat) : Prop := a / 512 < 4 ∧ a % 512 < 352
/-- An array that passed its test. -/
def passedArr (a : Nat) (s : State) : Prop := arrState a s = aEnabled ∨ arrState a s = aSpare

theorem isArr_of_tile {t a : Nat} (ht : t < 4) (h : a ∈ tileArrays t) : isArr a ∧ a / 512 = t := by
  simp only [tileArrays, List.mem_map, List.mem_range] at h
  obtain ⟨k, hk, rfl⟩ := h
  unfold isArr; omega

/-- Writing an array's state shows it there and leaves every other array's. -/
theorem arrState_wr (a b v : Nat) (s : State) (ha : isArr a) (hb : isArr b) (hv : v < 8) :
    arrState b (wr (ARY_STATUS.STATE (a / 512) (a % 512)) v s) = if b = a then v else arrState b s := by
  by_cases h : b = a
  · subst h; simp [arrState, fwidth, ARY_STATUS.STATE, Nat.mod_eq_of_lt hv]
  · rw [if_neg h]
    refine rd_wr_apart _ _ _ _ (apart_of_off _ _ ?_ ?_ ?_) <;> simp only [ARY_STATUS.STATE, isArr] at * <;> omega

/-- A place that a store does not list reads as nothing. -/
theorem sgetD_unlisted {α : Type} (l : List (Nat × α)) (k : Nat) (d : α) (h : ∀ p ∈ l, p.1 ≠ k) : sgetD l k d = d := by
  induction l with
  | nil => rfl
  | cons p l ih =>
    have h1 := h p (List.mem_cons_self ..)
    have h2 := ih fun q hq => h q (List.mem_cons_of_mem _ hq)
    obtain ⟨j, v⟩ := p
    show (if k = j then some v else sget l k).getD d = d
    rw [if_neg fun e => h1 e.symm]
    exact h2

/-- An array whose register is not listed is in TESTING, its reset value (R195). -/
theorem arrState_unlisted (b : Nat) (s : State) (h : s.regs.all (fun p => decide (p.1 < 0x14_0000 * 4096)) = true) :
    arrState b s = aTesting := by
  unfold arrState rd
  refine sgetD_unlisted _ _ _ fun p hp => ?_
  have := of_decide_eq_true (List.all_eq_true.mp h p hp)
  simp only [fkey, ARY_STATUS.STATE]
  omega

/-- The shown counts are no array's state. -/
theorem arrState_showArrays (b t : Nat) (s : State) (hb : isArr b) : arrState b (showArrays t s) = arrState b s := by
  unfold arrState showArrays
  have h : ∀ g : Fld, g ∈ [ARY_COUNTS.ENABLED t, ARY_COUNTS.SPARE t, ARY_COUNTS.RETIRED t] → apart (ARY_STATUS.STATE (b / 512) (b % 512)) g := by
    intro g hg
    simp only [List.mem_cons, List.not_mem_nil, or_false] at hg
    unfold isArr at hb
    rcases hg with rfl | rfl | rfl <;> apply apart_of_off <;>
      simp only [ARY_STATUS.STATE, ARY_COUNTS.ENABLED, ARY_COUNTS.SPARE, ARY_COUNTS.RETIRED] <;> omega
  rw [rd_wr_apart _ _ _ _ (h _ (by simp)), rd_wr_apart _ _ _ _ (h _ (by simp)), rd_wr_apart _ _ _ _ (h _ (by simp))]

/-- Ranking a tile's arrays leaves each array that passed so. -/
theorem passedArr_rank (b t : Nat) (s : State) (hb : isArr b) (ht : t < 4) (h : passedArr b s) : passedArr b (rankPassed t s) := by
  unfold passedArr rankPassed
  rw [arrState_showArrays _ _ _ hb]
  have key : ∀ (l : List (Nat × Nat)) (s : State), (∀ p ∈ l, p.2 ∈ tileArrays t) → passedArr b s →
      passedArr b (l.foldl (fun s p => wr (ARY_STATUS.STATE t (p.2 % 512)) (if p.1 < 336 then aEnabled else aSpare) s) s) := by
    intro l
    induction l with
    | nil => intro s _ h; exact h
    | cons p l ih =>
      intro s hl h
      refine ih _ (fun q hq => hl q (List.mem_cons_of_mem _ hq)) ?_
      obtain ⟨ha, ht'⟩ := isArr_of_tile ht (hl p (List.mem_cons_self ..))
      have e := arrState_wr p.2 b (if p.1 < 336 then aEnabled else aSpare) s ha hb (by split <;> decide)
      rw [ht'] at e
      unfold passedArr; rw [e]
      split
      · split <;> simp
      · exact h
  exact key _ s (fun p hp => (List.mem_filter.mp (List.of_mem_zip hp).2).1) h

/-- The test of one tile's arrays, none of them bad. -/
theorem passedArr_tests (t : Nat) (ht : t < 4) (bad : Nat → Bool) (hbad : ∀ a, bad a = false) :
    ∀ (l : List Nat) (s : State), (∀ a ∈ l, a ∈ tileArrays t) →
      (∀ b, isArr b → arrState b s = aTesting ∨ passedArr b s) →
      let u := l.foldl (fun s a => if bad a then wr (ARY_STATUS.STATE t (a % 512)) aRetired s
        else if arrState a s = aTesting then wr (ARY_STATUS.STATE t (a % 512)) aSpare s else s) s
      (∀ b, isArr b → arrState b u = aTesting ∨ passedArr b u) ∧ (∀ b, isArr b → passedArr b s → passedArr b u) ∧ (∀ b ∈ l, passedArr b u) := by
  intro l
  induction l with
  | nil => intro s _ h; exact ⟨h, fun _ _ h => h, by simp⟩
  | cons a l ih =>
    intro s hl h
    obtain ⟨ha, hta⟩ := isArr_of_tile ht (hl a (List.mem_cons_self ..))
    have step : ∃ v, (if bad a then wr (ARY_STATUS.STATE t (a % 512)) aRetired s
        else if arrState a s = aTesting then wr (ARY_STATUS.STATE t (a % 512)) aSpare s else s) = v ∧ passedArr a v ∧
        ∀ b, isArr b → b ≠ a → arrState b v = arrState b s := by
      refine ⟨_, rfl, ?_⟩
      have e : ∀ b, isArr b → arrState b (wr (ARY_STATUS.STATE t (a % 512)) aSpare s) = if b = a then aSpare else arrState b s := by
        intro b hb
        have e := arrState_wr a b aSpare s ha hb (by decide)
        rwa [hta] at e
      simp only [hbad, Bool.false_eq_true, if_false]
      by_cases hT : arrState a s = aTesting
      · rw [if_pos hT]
        refine ⟨.inr (by rw [e a ha, if_pos rfl]), fun b hb hne => by rw [e b hb, if_neg hne]⟩
      · rw [if_neg hT]
        exact ⟨(h a ha).resolve_left hT, fun _ _ _ => rfl⟩
    obtain ⟨v, hv, hpa, hother⟩ := step
    have hv1 : ∀ b, isArr b → passedArr b s → passedArr b v := by
      intro b hb hp
      by_cases hne : b = a
      · subst hne; exact hpa
      · unfold passedArr; rw [hother b hb hne]; exact hp
    have hv2 : ∀ b, isArr b → arrState b v = aTesting ∨ passedArr b v := by
      intro b hb
      by_cases hne : b = a
      · subst hne; exact .inr hpa
      · rcases h b hb with h | h
        · exact .inl (by rw [hother b hb hne]; exact h)
        · exact .inr (hv1 b hb h)
    obtain ⟨i1, i2, i3⟩ := ih v (fun b hb => hl b (List.mem_cons_of_mem _ hb)) hv2
    simp only [List.foldl_cons, hv]
    refine ⟨i1, fun b hb hp => i2 b hb (hv1 b hb hp), fun b hb => ?_⟩
    rcases List.mem_cons.mp hb with rfl | hb
    · exact i2 b ha hpa
    · exact i3 b hb

/-- Where start-up finds no fault among arrays that are to be tested, every array passes (R166). -/
theorem passedArr_boot (r : BootResult) (s : State) (h1 : r.faulty = []) (h2 : r.badArrays = [])
    (h : ∀ b, isArr b → arrState b s = aTesting ∨ passedArr b s) (b : Nat) (hb : isArr b) : passedArr b (bootArrays r s) := by
  have T : ∀ (t : Nat) (s : State), t < 4 → (∀ b, isArr b → arrState b s = aTesting ∨ passedArr b s) → ∃ u,
      (tileArrays t).foldl (fun s a => if r.faulty.contains a || r.badArrays.contains a then wr (ARY_STATUS.STATE t (a % 512)) aRetired s
        else if arrState a s = aTesting then wr (ARY_STATUS.STATE t (a % 512)) aSpare s else s) s = u ∧
      (∀ b, isArr b → arrState b u = aTesting ∨ passedArr b u) ∧ (∀ b, isArr b → passedArr b s → passedArr b u) ∧
      (∀ b ∈ tileArrays t, passedArr b u) := fun t s ht h =>
    ⟨_, rfl, passedArr_tests t ht (fun a => r.faulty.contains a || r.badArrays.contains a) (by simp [h1, h2]) (tileArrays t) s (fun _ h => h) h⟩
  obtain ⟨s1, e1, a1, a2, a3⟩ := T 0 s (by decide) h
  obtain ⟨s2, e2, b1, b2, b3⟩ := T 1 s1 (by decide) a1
  obtain ⟨s3, e3, c1, c2, c3⟩ := T 2 s2 (by decide) b1
  obtain ⟨s4, e4, d1, d2, d3⟩ := T 3 s3 (by decide) c1
  have hr : List.range 4 = [0, 1, 2, 3] := rfl
  unfold bootArrays
  simp only [hr, List.foldl_cons, List.foldl_nil, e1, e2, e3, e4]
  refine passedArr_rank _ _ _ hb (by decide) (passedArr_rank _ _ _ hb (by decide) (passedArr_rank _ _ _ hb (by decide)
    (passedArr_rank _ _ _ hb (by decide) ?_)))
  have hm : b ∈ tileArrays (b / 512) := by
    simp only [tileArrays, List.mem_map, List.mem_range]
    exact ⟨b % 512, hb.2, by omega⟩
  have h4 : b / 512 < 4 := hb.1
  generalize b / 512 = t at hm h4
  rcases (show t = 0 ∨ t = 1 ∨ t = 2 ∨ t = 3 by omega) with rfl | rfl | rfl | rfl
  · exact d2 b hb (c2 b hb (b2 b hb (a3 b hm)))
  · exact d2 b hb (c2 b hb (b3 b hm))
  · exact d2 b hb (c3 b hm)
  · exact d3 b hm

/-- So every tile whose stacks and bridge are good is present (R557). -/
theorem bootTile_passed (r : BootResult) (s : State) (t : Nat) (ht : t < 4) (h3 : r.badStacks = []) (h4 : r.badBridges = [])
    (h : ∀ b, isArr b → passedArr b s) : bootTile r s t = true := by
  unfold bootTile
  have e : (tileArrays t).filter (fun a => arrState a s == aEnabled || arrState a s == aSpare) = tileArrays t := by
    rw [List.filter_eq_self]
    intro a ha
    have := h a (isArr_of_tile ht ha).1
    unfold passedArr at this
    simpa using this
  rw [e, h3, h4]
  simp [tileArrays]

end Sys2Proof.Machine
end

