-- ==== Sys2Proof/Laws/State.lean ====
section
/-!
SUPPORT. Sys2Proof/Laws/State.lean: what each primitive update leaves of each field of the state.
-/
namespace Sys2Proof.Machine

section
variable (s : State)

@[simp] theorem wr_pending (f : Fld) (v : Nat) : (wr f v s).pending = s.pending := rfl
@[simp] theorem wr_fresh (f : Fld) (v : Nat) : (wr f v s).fresh = s.fresh := rfl
@[simp] theorem wr_boots (f : Fld) (v : Nat) : (wr f v s).boots = s.boots := rfl
@[simp] theorem wr_pow (f : Fld) (v : Nat) : (wr f v s).pow = s.pow := rfl
@[simp] theorem wr_ltPend (f : Fld) (v : Nat) : (wr f v s).ltPend = s.ltPend := rfl
@[simp] theorem wr_shadow (f : Fld) (v : Nat) : (wr f v s).shadow = s.shadow := rfl
@[simp] theorem wr_heldWr (f : Fld) (v : Nat) : (wr f v s).heldWr = s.heldWr := rfl
@[simp] theorem wr_oldView (f : Fld) (v : Nat) : (wr f v s).oldView = s.oldView := rfl
@[simp] theorem wr_cad (f : Fld) (v : Nat) : (wr f v s).cad = s.cad := rfl
@[simp] theorem wr_eph (f : Fld) (v : Nat) : (wr f v s).eph = s.eph := rfl
@[simp] theorem wr_fenWaits (f : Fld) (v : Nat) : (wr f v s).fenWaits = s.fenWaits := rfl
@[simp] theorem wr_desc (f : Fld) (v : Nat) : (wr f v s).desc = s.desc := rfl
@[simp] theorem wr_sess (f : Fld) (v : Nat) : (wr f v s).sess = s.sess := rfl
@[simp] theorem wr_freeNext (f : Fld) (v : Nat) : (wr f v s).freeNext = s.freeNext := rfl
@[simp] theorem wr_freed (f : Fld) (v : Nat) : (wr f v s).freed = s.freed := rfl
@[simp] theorem wr_poolBytes (f : Fld) (v : Nat) : (wr f v s).poolBytes = s.poolBytes := rfl
@[simp] theorem wr_clsBytes (f : Fld) (v : Nat) : (wr f v s).clsBytes = s.clsBytes := rfl
@[simp] theorem wr_chUsed (f : Fld) (v : Nat) : (wr f v s).chUsed = s.chUsed := rfl
@[simp] theorem wr_c0Window (f : Fld) (v : Nat) : (wr f v s).c0Window = s.c0Window := rfl
@[simp] theorem wr_heldCmds (f : Fld) (v : Nat) : (wr f v s).heldCmds = s.heldCmds := rfl
@[simp] theorem wr_dueLate (f : Fld) (v : Nat) : (wr f v s).dueLate = s.dueLate := rfl
@[simp] theorem wr_queues (f : Fld) (v : Nat) : (wr f v s).queues = s.queues := rfl
@[simp] theorem wr_started (f : Fld) (v : Nat) : (wr f v s).started = s.started := rfl
@[simp] theorem wr_cpl (f : Fld) (v : Nat) : (wr f v s).cpl = s.cpl := rfl
@[simp] theorem wr_recOut (f : Fld) (v : Nat) : (wr f v s).recOut = s.recOut := rfl
@[simp] theorem wr_evHeld (f : Fld) (v : Nat) : (wr f v s).evHeld = s.evHeld := rfl
@[simp] theorem wr_evOut (f : Fld) (v : Nat) : (wr f v s).evOut = s.evOut := rfl
@[simp] theorem wr_evqPi (f : Fld) (v : Nat) : (wr f v s).evqPi = s.evqPi := rfl
@[simp] theorem wr_evqCi (f : Fld) (v : Nat) : (wr f v s).evqCi = s.evqCi := rfl
@[simp] theorem wr_coal (f : Fld) (v : Nat) : (wr f v s).coal = s.coal := rfl
@[simp] theorem wr_bar4Gib (f : Fld) (v : Nat) : (wr f v s).bar4Gib = s.bar4Gib := rfl
@[simp] theorem wr_numVfs (f : Fld) (v : Nat) : (wr f v s).numVfs = s.numVfs := rfl
@[simp] theorem wr_msixTab (f : Fld) (v : Nat) : (wr f v s).msixTab = s.msixTab := rfl
@[simp] theorem wr_msix (f : Fld) (v : Nat) : (wr f v s).msix = s.msix := rfl
@[simp] theorem wr_mem (f : Fld) (v : Nat) : (wr f v s).mem = s.mem := rfl
@[simp] theorem wr_deepMem (f : Fld) (v : Nat) : (wr f v s).deepMem = s.deepMem := rfl
@[simp] theorem wr_transits (f : Fld) (v : Nat) : (wr f v s).transits = s.transits := rfl
@[simp] theorem wr_migs (f : Fld) (v : Nat) : (wr f v s).migs = s.migs := rfl
@[simp] theorem wr_migSeq (f : Fld) (v : Nat) : (wr f v s).migSeq = s.migSeq := rfl
@[simp] theorem wr_tombs (f : Fld) (v : Nat) : (wr f v s).tombs = s.tombs := rfl
@[simp] theorem wr_hints (f : Fld) (v : Nat) : (wr f v s).hints = s.hints := rfl
@[simp] theorem wr_modelCopyGib (f : Fld) (v : Nat) : (wr f v s).modelCopyGib = s.modelCopyGib := rfl
@[simp] theorem wr_ckptGib (f : Fld) (v : Nat) : (wr f v s).ckptGib = s.ckptGib := rfl
@[simp] theorem wr_chunkMap (f : Fld) (v : Nat) : (wr f v s).chunkMap = s.chunkMap := rfl
@[simp] theorem wr_moving (f : Fld) (v : Nat) : (wr f v s).moving = s.moving := rfl
@[simp] theorem wr_hostUnits (f : Fld) (v : Nat) : (wr f v s).hostUnits = s.hostUnits := rfl
@[simp] theorem wr_models (f : Fld) (v : Nat) : (wr f v s).models = s.models := rfl
@[simp] theorem wr_keyExts (f : Fld) (v : Nat) : (wr f v s).keyExts = s.keyExts := rfl
@[simp] theorem wr_fetchQ (f : Fld) (v : Nat) : (wr f v s).fetchQ = s.fetchQ := rfl
@[simp] theorem wr_fetchFly (f : Fld) (v : Nat) : (wr f v s).fetchFly = s.fetchFly := rfl
@[simp] theorem wr_returnReq (f : Fld) (v : Nat) : (wr f v s).returnReq = s.returnReq := rfl
@[simp] theorem wr_vecChans (f : Fld) (v : Nat) : (wr f v s).vecChans = s.vecChans := rfl
@[simp] theorem wr_parts (f : Fld) (v : Nat) : (wr f v s).parts = s.parts := rfl
@[simp] theorem wr_evicting (f : Fld) (v : Nat) : (wr f v s).evicting = s.evicting := rfl
@[simp] theorem wr_tokSets (f : Fld) (v : Nat) : (wr f v s).tokSets = s.tokSets := rfl
@[simp] theorem wr_grams (f : Fld) (v : Nat) : (wr f v s).grams = s.grams := rfl
@[simp] theorem wr_maskQ (f : Fld) (v : Nat) : (wr f v s).maskQ = s.maskQ := rfl
@[simp] theorem wr_bankQ (f : Fld) (v : Nat) : (wr f v s).bankQ = s.bankQ := rfl
@[simp] theorem wr_deepTrained (f : Fld) (v : Nat) : (wr f v s).deepTrained = s.deepTrained := rfl
@[simp] theorem wr_deepFails (f : Fld) (v : Nat) : (wr f v s).deepFails = s.deepFails := rfl
@[simp] theorem wr_deepSkip (f : Fld) (v : Nat) : (wr f v s).deepSkip = s.deepSkip := rfl
@[simp] theorem wr_evacuated (f : Fld) (v : Nat) : (wr f v s).evacuated = s.evacuated := rfl
@[simp] theorem wr_deepLeaving (f : Fld) (v : Nat) : (wr f v s).deepLeaving = s.deepLeaving := rfl
@[simp] theorem wr_ueLog (f : Fld) (v : Nat) : (wr f v s).ueLog = s.ueLog := rfl
@[simp] theorem wr_deepUeLog (f : Fld) (v : Nat) : (wr f v s).deepUeLog = s.deepUeLog := rfl
@[simp] theorem wr_poison (f : Fld) (v : Nat) : (wr f v s).poison = s.poison := rfl
@[simp] theorem wr_badToks (f : Fld) (v : Nat) : (wr f v s).badToks = s.badToks := rfl
@[simp] theorem wr_badGrams (f : Fld) (v : Nat) : (wr f v s).badGrams = s.badGrams := rfl
@[simp] theorem wr_remaps (f : Fld) (v : Nat) : (wr f v s).remaps = s.remaps := rfl
@[simp] theorem wr_rebuilds (f : Fld) (v : Nat) : (wr f v s).rebuilds = s.rebuilds := rfl
@[simp] theorem wr_testFails (f : Fld) (v : Nat) : (wr f v s).testFails = s.testFails := rfl
@[simp] theorem wr_testPat (f : Fld) (v : Nat) : (wr f v s).testPat = s.testPat := rfl
@[simp] theorem wr_testLast (f : Fld) (v : Nat) : (wr f v s).testLast = s.testLast := rfl
@[simp] theorem wr_tileDrain (f : Fld) (v : Nat) : (wr f v s).tileDrain = s.tileDrain := rfl
@[simp] theorem wr_dfPass (f : Fld) (v : Nat) : (wr f v s).dfPass = s.dfPass := rfl
@[simp] theorem wr_ckpt (f : Fld) (v : Nat) : (wr f v s).ckpt = s.ckpt := rfl
@[simp] theorem wr_ckptImages (f : Fld) (v : Nat) : (wr f v s).ckptImages = s.ckptImages := rfl
@[simp] theorem wr_embTabs (f : Fld) (v : Nat) : (wr f v s).embTabs = s.embTabs := rfl
@[simp] theorem wr_hot (f : Fld) (v : Nat) : (wr f v s).hot = s.hot := rfl
@[simp] theorem wr_hotLast (f : Fld) (v : Nat) : (wr f v s).hotLast = s.hotLast := rfl
@[simp] theorem wr_replicas (f : Fld) (v : Nat) : (wr f v s).replicas = s.replicas := rfl
@[simp] theorem wr_embQ (f : Fld) (v : Nat) : (wr f v s).embQ = s.embQ := rfl
@[simp] theorem wr_embSeq (f : Fld) (v : Nat) : (wr f v s).embSeq = s.embSeq := rfl
@[simp] theorem wr_embJobs (f : Fld) (v : Nat) : (wr f v s).embJobs = s.embJobs := rfl
@[simp] theorem wr_embLooks (f : Fld) (v : Nat) : (wr f v s).embLooks = s.embLooks := rfl
@[simp] theorem wr_embMoved (f : Fld) (v : Nat) : (wr f v s).embMoved = s.embMoved := rfl
@[simp] theorem wr_vecs (f : Fld) (v : Nat) : (wr f v s).vecs = s.vecs := rfl
@[simp] theorem wr_vecQs (f : Fld) (v : Nat) : (wr f v s).vecQs = s.vecQs := rfl
@[simp] theorem wr_vecSeq (f : Fld) (v : Nat) : (wr f v s).vecSeq = s.vecSeq := rfl
@[simp] theorem wr_vecJobs (f : Fld) (v : Nat) : (wr f v s).vecJobs = s.vecJobs := rfl
@[simp] theorem wr_vecCompacts (f : Fld) (v : Nat) : (wr f v s).vecCompacts = s.vecCompacts := rfl
@[simp] theorem wr_aborts (f : Fld) (v : Nat) : (wr f v s).aborts = s.aborts := rfl
@[simp] theorem wr_hostOut (f : Fld) (v : Nat) : (wr f v s).hostOut = s.hostOut := rfl
@[simp] theorem wr_traces (f : Fld) (v : Nat) : (wr f v s).traces = s.traces := rfl
@[simp] theorem wr_dumps (f : Fld) (v : Nat) : (wr f v s).dumps = s.dumps := rfl
@[simp] theorem wr_dumpSeq (f : Fld) (v : Nat) : (wr f v s).dumpSeq = s.dumpSeq := rfl
@[simp] theorem wr_arrTests (f : Fld) (v : Nat) : (wr f v s).arrTests = s.arrTests := rfl
@[simp] theorem wr_retireWait (f : Fld) (v : Nat) : (wr f v s).retireWait = s.retireWait := rfl
@[simp] theorem wr_sram (f : Fld) (v : Nat) : (wr f v s).sram = s.sram := rfl
@[simp] theorem wr_sramDraw (f : Fld) (v : Nat) : (wr f v s).sramDraw = s.sramDraw := rfl
@[simp] theorem wr_fabOut (f : Fld) (v : Nat) : (wr f v s).fabOut = s.fabOut := rfl
@[simp] theorem wr_fwdWait (f : Fld) (v : Nat) : (wr f v s).fwdWait = s.fwdWait := rfl
@[simp] theorem wr_dirKnown (f : Fld) (v : Nat) : (wr f v s).dirKnown = s.dirKnown := rfl
@[simp] theorem wr_net (f : Fld) (v : Nat) : (wr f v s).net = s.net := rfl
@[simp] theorem wr_adm (f : Fld) (v : Nat) : (wr f v s).adm = s.adm := rfl
@[simp] theorem wr_runs (f : Fld) (v : Nat) : (wr f v s).runs = s.runs := rfl
@[simp] theorem wr_exts (f : Fld) (v : Nat) : (wr f v s).exts = s.exts := rfl
@[simp] theorem wr_chanWait (f : Fld) (v : Nat) : (wr f v s).chanWait = s.chanWait := rfl
@[simp] theorem wr_c0Wait (f : Fld) (v : Nat) : (wr f v s).c0Wait = s.c0Wait := rfl
@[simp] theorem wr_fetchLast (f : Fld) (v : Nat) : (wr f v s).fetchLast = s.fetchLast := rfl
@[simp] theorem wr_rootCache (f : Fld) (v : Nat) : (wr f v s).rootCache = s.rootCache := rfl
@[simp] theorem wr_spanJobs (f : Fld) (v : Nat) : (wr f v s).spanJobs = s.spanJobs := rfl
@[simp] theorem wr_bnkNan (f : Fld) (v : Nat) : (wr f v s).bnkNan = s.bnkNan := rfl
@[simp] theorem wr_arrDraw (f : Fld) (v : Nat) : (wr f v s).arrDraw = s.arrDraw := rfl
@[simp] theorem wr_codeMem (f : Fld) (v : Nat) : (wr f v s).codeMem = s.codeMem := rfl
@[simp] theorem wr_dmaQ (f : Fld) (v : Nat) : (wr f v s).dmaQ = s.dmaQ := rfl
@[simp] theorem wr_resid (f : Fld) (v : Nat) : (wr f v s).resid = s.resid := rfl

@[simp] theorem bump_pending (f : Fld) (n : Nat) : (bump f n s).pending = s.pending := rfl
@[simp] theorem bump_fresh (f : Fld) (n : Nat) : (bump f n s).fresh = s.fresh := rfl
@[simp] theorem bump_boots (f : Fld) (n : Nat) : (bump f n s).boots = s.boots := rfl
@[simp] theorem bump_pow (f : Fld) (n : Nat) : (bump f n s).pow = s.pow := rfl
@[simp] theorem bump_ltPend (f : Fld) (n : Nat) : (bump f n s).ltPend = s.ltPend := rfl
@[simp] theorem bump_shadow (f : Fld) (n : Nat) : (bump f n s).shadow = s.shadow := rfl
@[simp] theorem bump_heldWr (f : Fld) (n : Nat) : (bump f n s).heldWr = s.heldWr := rfl
@[simp] theorem bump_oldView (f : Fld) (n : Nat) : (bump f n s).oldView = s.oldView := rfl
@[simp] theorem bump_cad (f : Fld) (n : Nat) : (bump f n s).cad = s.cad := rfl
@[simp] theorem bump_eph (f : Fld) (n : Nat) : (bump f n s).eph = s.eph := rfl
@[simp] theorem bump_fenWaits (f : Fld) (n : Nat) : (bump f n s).fenWaits = s.fenWaits := rfl
@[simp] theorem bump_desc (f : Fld) (n : Nat) : (bump f n s).desc = s.desc := rfl
@[simp] theorem bump_sess (f : Fld) (n : Nat) : (bump f n s).sess = s.sess := rfl
@[simp] theorem bump_freeNext (f : Fld) (n : Nat) : (bump f n s).freeNext = s.freeNext := rfl
@[simp] theorem bump_freed (f : Fld) (n : Nat) : (bump f n s).freed = s.freed := rfl
@[simp] theorem bump_poolBytes (f : Fld) (n : Nat) : (bump f n s).poolBytes = s.poolBytes := rfl
@[simp] theorem bump_clsBytes (f : Fld) (n : Nat) : (bump f n s).clsBytes = s.clsBytes := rfl
@[simp] theorem bump_chUsed (f : Fld) (n : Nat) : (bump f n s).chUsed = s.chUsed := rfl
@[simp] theorem bump_c0Window (f : Fld) (n : Nat) : (bump f n s).c0Window = s.c0Window := rfl
@[simp] theorem bump_heldCmds (f : Fld) (n : Nat) : (bump f n s).heldCmds = s.heldCmds := rfl
@[simp] theorem bump_dueLate (f : Fld) (n : Nat) : (bump f n s).dueLate = s.dueLate := rfl
@[simp] theorem bump_queues (f : Fld) (n : Nat) : (bump f n s).queues = s.queues := rfl
@[simp] theorem bump_started (f : Fld) (n : Nat) : (bump f n s).started = s.started := rfl
@[simp] theorem bump_cpl (f : Fld) (n : Nat) : (bump f n s).cpl = s.cpl := rfl
@[simp] theorem bump_recOut (f : Fld) (n : Nat) : (bump f n s).recOut = s.recOut := rfl
@[simp] theorem bump_evHeld (f : Fld) (n : Nat) : (bump f n s).evHeld = s.evHeld := rfl
@[simp] theorem bump_evOut (f : Fld) (n : Nat) : (bump f n s).evOut = s.evOut := rfl
@[simp] theorem bump_evqPi (f : Fld) (n : Nat) : (bump f n s).evqPi = s.evqPi := rfl
@[simp] theorem bump_evqCi (f : Fld) (n : Nat) : (bump f n s).evqCi = s.evqCi := rfl
@[simp] theorem bump_coal (f : Fld) (n : Nat) : (bump f n s).coal = s.coal := rfl
@[simp] theorem bump_bar4Gib (f : Fld) (n : Nat) : (bump f n s).bar4Gib = s.bar4Gib := rfl
@[simp] theorem bump_numVfs (f : Fld) (n : Nat) : (bump f n s).numVfs = s.numVfs := rfl
@[simp] theorem bump_msixTab (f : Fld) (n : Nat) : (bump f n s).msixTab = s.msixTab := rfl
@[simp] theorem bump_msix (f : Fld) (n : Nat) : (bump f n s).msix = s.msix := rfl
@[simp] theorem bump_mem (f : Fld) (n : Nat) : (bump f n s).mem = s.mem := rfl
@[simp] theorem bump_deepMem (f : Fld) (n : Nat) : (bump f n s).deepMem = s.deepMem := rfl
@[simp] theorem bump_transits (f : Fld) (n : Nat) : (bump f n s).transits = s.transits := rfl
@[simp] theorem bump_migs (f : Fld) (n : Nat) : (bump f n s).migs = s.migs := rfl
@[simp] theorem bump_migSeq (f : Fld) (n : Nat) : (bump f n s).migSeq = s.migSeq := rfl
@[simp] theorem bump_tombs (f : Fld) (n : Nat) : (bump f n s).tombs = s.tombs := rfl
@[simp] theorem bump_hints (f : Fld) (n : Nat) : (bump f n s).hints = s.hints := rfl
@[simp] theorem bump_modelCopyGib (f : Fld) (n : Nat) : (bump f n s).modelCopyGib = s.modelCopyGib := rfl
@[simp] theorem bump_ckptGib (f : Fld) (n : Nat) : (bump f n s).ckptGib = s.ckptGib := rfl
@[simp] theorem bump_chunkMap (f : Fld) (n : Nat) : (bump f n s).chunkMap = s.chunkMap := rfl
@[simp] theorem bump_moving (f : Fld) (n : Nat) : (bump f n s).moving = s.moving := rfl
@[simp] theorem bump_hostUnits (f : Fld) (n : Nat) : (bump f n s).hostUnits = s.hostUnits := rfl
@[simp] theorem bump_models (f : Fld) (n : Nat) : (bump f n s).models = s.models := rfl
@[simp] theorem bump_keyExts (f : Fld) (n : Nat) : (bump f n s).keyExts = s.keyExts := rfl
@[simp] theorem bump_fetchQ (f : Fld) (n : Nat) : (bump f n s).fetchQ = s.fetchQ := rfl
@[simp] theorem bump_fetchFly (f : Fld) (n : Nat) : (bump f n s).fetchFly = s.fetchFly := rfl
@[simp] theorem bump_returnReq (f : Fld) (n : Nat) : (bump f n s).returnReq = s.returnReq := rfl
@[simp] theorem bump_vecChans (f : Fld) (n : Nat) : (bump f n s).vecChans = s.vecChans := rfl
@[simp] theorem bump_parts (f : Fld) (n : Nat) : (bump f n s).parts = s.parts := rfl
@[simp] theorem bump_evicting (f : Fld) (n : Nat) : (bump f n s).evicting = s.evicting := rfl
@[simp] theorem bump_tokSets (f : Fld) (n : Nat) : (bump f n s).tokSets = s.tokSets := rfl
@[simp] theorem bump_grams (f : Fld) (n : Nat) : (bump f n s).grams = s.grams := rfl
@[simp] theorem bump_maskQ (f : Fld) (n : Nat) : (bump f n s).maskQ = s.maskQ := rfl
@[simp] theorem bump_bankQ (f : Fld) (n : Nat) : (bump f n s).bankQ = s.bankQ := rfl
@[simp] theorem bump_deepTrained (f : Fld) (n : Nat) : (bump f n s).deepTrained = s.deepTrained := rfl
@[simp] theorem bump_deepFails (f : Fld) (n : Nat) : (bump f n s).deepFails = s.deepFails := rfl
@[simp] theorem bump_deepSkip (f : Fld) (n : Nat) : (bump f n s).deepSkip = s.deepSkip := rfl
@[simp] theorem bump_evacuated (f : Fld) (n : Nat) : (bump f n s).evacuated = s.evacuated := rfl
@[simp] theorem bump_deepLeaving (f : Fld) (n : Nat) : (bump f n s).deepLeaving = s.deepLeaving := rfl
@[simp] theorem bump_ueLog (f : Fld) (n : Nat) : (bump f n s).ueLog = s.ueLog := rfl
@[simp] theorem bump_deepUeLog (f : Fld) (n : Nat) : (bump f n s).deepUeLog = s.deepUeLog := rfl
@[simp] theorem bump_poison (f : Fld) (n : Nat) : (bump f n s).poison = s.poison := rfl
@[simp] theorem bump_badToks (f : Fld) (n : Nat) : (bump f n s).badToks = s.badToks := rfl
@[simp] theorem bump_badGrams (f : Fld) (n : Nat) : (bump f n s).badGrams = s.badGrams := rfl
@[simp] theorem bump_remaps (f : Fld) (n : Nat) : (bump f n s).remaps = s.remaps := rfl
@[simp] theorem bump_rebuilds (f : Fld) (n : Nat) : (bump f n s).rebuilds = s.rebuilds := rfl
@[simp] theorem bump_testFails (f : Fld) (n : Nat) : (bump f n s).testFails = s.testFails := rfl
@[simp] theorem bump_testPat (f : Fld) (n : Nat) : (bump f n s).testPat = s.testPat := rfl
@[simp] theorem bump_testLast (f : Fld) (n : Nat) : (bump f n s).testLast = s.testLast := rfl
@[simp] theorem bump_tileDrain (f : Fld) (n : Nat) : (bump f n s).tileDrain = s.tileDrain := rfl
@[simp] theorem bump_dfPass (f : Fld) (n : Nat) : (bump f n s).dfPass = s.dfPass := rfl
@[simp] theorem bump_ckpt (f : Fld) (n : Nat) : (bump f n s).ckpt = s.ckpt := rfl
@[simp] theorem bump_ckptImages (f : Fld) (n : Nat) : (bump f n s).ckptImages = s.ckptImages := rfl
@[simp] theorem bump_embTabs (f : Fld) (n : Nat) : (bump f n s).embTabs = s.embTabs := rfl
@[simp] theorem bump_hot (f : Fld) (n : Nat) : (bump f n s).hot = s.hot := rfl
@[simp] theorem bump_hotLast (f : Fld) (n : Nat) : (bump f n s).hotLast = s.hotLast := rfl
@[simp] theorem bump_replicas (f : Fld) (n : Nat) : (bump f n s).replicas = s.replicas := rfl
@[simp] theorem bump_embQ (f : Fld) (n : Nat) : (bump f n s).embQ = s.embQ := rfl
@[simp] theorem bump_embSeq (f : Fld) (n : Nat) : (bump f n s).embSeq = s.embSeq := rfl
@[simp] theorem bump_embJobs (f : Fld) (n : Nat) : (bump f n s).embJobs = s.embJobs := rfl
@[simp] theorem bump_embLooks (f : Fld) (n : Nat) : (bump f n s).embLooks = s.embLooks := rfl
@[simp] theorem bump_embMoved (f : Fld) (n : Nat) : (bump f n s).embMoved = s.embMoved := rfl
@[simp] theorem bump_vecs (f : Fld) (n : Nat) : (bump f n s).vecs = s.vecs := rfl
@[simp] theorem bump_vecQs (f : Fld) (n : Nat) : (bump f n s).vecQs = s.vecQs := rfl
@[simp] theorem bump_vecSeq (f : Fld) (n : Nat) : (bump f n s).vecSeq = s.vecSeq := rfl
@[simp] theorem bump_vecJobs (f : Fld) (n : Nat) : (bump f n s).vecJobs = s.vecJobs := rfl
@[simp] theorem bump_vecCompacts (f : Fld) (n : Nat) : (bump f n s).vecCompacts = s.vecCompacts := rfl
@[simp] theorem bump_aborts (f : Fld) (n : Nat) : (bump f n s).aborts = s.aborts := rfl
@[simp] theorem bump_hostOut (f : Fld) (n : Nat) : (bump f n s).hostOut = s.hostOut := rfl
@[simp] theorem bump_traces (f : Fld) (n : Nat) : (bump f n s).traces = s.traces := rfl
@[simp] theorem bump_dumps (f : Fld) (n : Nat) : (bump f n s).dumps = s.dumps := rfl
@[simp] theorem bump_dumpSeq (f : Fld) (n : Nat) : (bump f n s).dumpSeq = s.dumpSeq := rfl
@[simp] theorem bump_arrTests (f : Fld) (n : Nat) : (bump f n s).arrTests = s.arrTests := rfl
@[simp] theorem bump_retireWait (f : Fld) (n : Nat) : (bump f n s).retireWait = s.retireWait := rfl
@[simp] theorem bump_sram (f : Fld) (n : Nat) : (bump f n s).sram = s.sram := rfl
@[simp] theorem bump_sramDraw (f : Fld) (n : Nat) : (bump f n s).sramDraw = s.sramDraw := rfl
@[simp] theorem bump_fabOut (f : Fld) (n : Nat) : (bump f n s).fabOut = s.fabOut := rfl
@[simp] theorem bump_fwdWait (f : Fld) (n : Nat) : (bump f n s).fwdWait = s.fwdWait := rfl
@[simp] theorem bump_dirKnown (f : Fld) (n : Nat) : (bump f n s).dirKnown = s.dirKnown := rfl
@[simp] theorem bump_net (f : Fld) (n : Nat) : (bump f n s).net = s.net := rfl
@[simp] theorem bump_adm (f : Fld) (n : Nat) : (bump f n s).adm = s.adm := rfl
@[simp] theorem bump_runs (f : Fld) (n : Nat) : (bump f n s).runs = s.runs := rfl
@[simp] theorem bump_exts (f : Fld) (n : Nat) : (bump f n s).exts = s.exts := rfl
@[simp] theorem bump_chanWait (f : Fld) (n : Nat) : (bump f n s).chanWait = s.chanWait := rfl
@[simp] theorem bump_c0Wait (f : Fld) (n : Nat) : (bump f n s).c0Wait = s.c0Wait := rfl
@[simp] theorem bump_fetchLast (f : Fld) (n : Nat) : (bump f n s).fetchLast = s.fetchLast := rfl
@[simp] theorem bump_rootCache (f : Fld) (n : Nat) : (bump f n s).rootCache = s.rootCache := rfl
@[simp] theorem bump_spanJobs (f : Fld) (n : Nat) : (bump f n s).spanJobs = s.spanJobs := rfl
@[simp] theorem bump_bnkNan (f : Fld) (n : Nat) : (bump f n s).bnkNan = s.bnkNan := rfl
@[simp] theorem bump_arrDraw (f : Fld) (n : Nat) : (bump f n s).arrDraw = s.arrDraw := rfl
@[simp] theorem bump_codeMem (f : Fld) (n : Nat) : (bump f n s).codeMem = s.codeMem := rfl
@[simp] theorem bump_dmaQ (f : Fld) (n : Nat) : (bump f n s).dmaQ = s.dmaQ := rfl
@[simp] theorem bump_resid (f : Fld) (n : Nat) : (bump f n s).resid = s.resid := rfl

@[simp] theorem drop_pending (f : Fld) (n : Nat) : (drop f n s).pending = s.pending := rfl
@[simp] theorem drop_fresh (f : Fld) (n : Nat) : (drop f n s).fresh = s.fresh := rfl
@[simp] theorem drop_boots (f : Fld) (n : Nat) : (drop f n s).boots = s.boots := rfl
@[simp] theorem drop_pow (f : Fld) (n : Nat) : (drop f n s).pow = s.pow := rfl
@[simp] theorem drop_ltPend (f : Fld) (n : Nat) : (drop f n s).ltPend = s.ltPend := rfl
@[simp] theorem drop_shadow (f : Fld) (n : Nat) : (drop f n s).shadow = s.shadow := rfl
@[simp] theorem drop_heldWr (f : Fld) (n : Nat) : (drop f n s).heldWr = s.heldWr := rfl
@[simp] theorem drop_oldView (f : Fld) (n : Nat) : (drop f n s).oldView = s.oldView := rfl
@[simp] theorem drop_cad (f : Fld) (n : Nat) : (drop f n s).cad = s.cad := rfl
@[simp] theorem drop_eph (f : Fld) (n : Nat) : (drop f n s).eph = s.eph := rfl
@[simp] theorem drop_fenWaits (f : Fld) (n : Nat) : (drop f n s).fenWaits = s.fenWaits := rfl
@[simp] theorem drop_desc (f : Fld) (n : Nat) : (drop f n s).desc = s.desc := rfl
@[simp] theorem drop_sess (f : Fld) (n : Nat) : (drop f n s).sess = s.sess := rfl
@[simp] theorem drop_freeNext (f : Fld) (n : Nat) : (drop f n s).freeNext = s.freeNext := rfl
@[simp] theorem drop_freed (f : Fld) (n : Nat) : (drop f n s).freed = s.freed := rfl
@[simp] theorem drop_poolBytes (f : Fld) (n : Nat) : (drop f n s).poolBytes = s.poolBytes := rfl
@[simp] theorem drop_clsBytes (f : Fld) (n : Nat) : (drop f n s).clsBytes = s.clsBytes := rfl
@[simp] theorem drop_chUsed (f : Fld) (n : Nat) : (drop f n s).chUsed = s.chUsed := rfl
@[simp] theorem drop_c0Window (f : Fld) (n : Nat) : (drop f n s).c0Window = s.c0Window := rfl
@[simp] theorem drop_heldCmds (f : Fld) (n : Nat) : (drop f n s).heldCmds = s.heldCmds := rfl
@[simp] theorem drop_dueLate (f : Fld) (n : Nat) : (drop f n s).dueLate = s.dueLate := rfl
@[simp] theorem drop_queues (f : Fld) (n : Nat) : (drop f n s).queues = s.queues := rfl
@[simp] theorem drop_started (f : Fld) (n : Nat) : (drop f n s).started = s.started := rfl
@[simp] theorem drop_cpl (f : Fld) (n : Nat) : (drop f n s).cpl = s.cpl := rfl
@[simp] theorem drop_recOut (f : Fld) (n : Nat) : (drop f n s).recOut = s.recOut := rfl
@[simp] theorem drop_evHeld (f : Fld) (n : Nat) : (drop f n s).evHeld = s.evHeld := rfl
@[simp] theorem drop_evOut (f : Fld) (n : Nat) : (drop f n s).evOut = s.evOut := rfl
@[simp] theorem drop_evqPi (f : Fld) (n : Nat) : (drop f n s).evqPi = s.evqPi := rfl
@[simp] theorem drop_evqCi (f : Fld) (n : Nat) : (drop f n s).evqCi = s.evqCi := rfl
@[simp] theorem drop_coal (f : Fld) (n : Nat) : (drop f n s).coal = s.coal := rfl
@[simp] theorem drop_bar4Gib (f : Fld) (n : Nat) : (drop f n s).bar4Gib = s.bar4Gib := rfl
@[simp] theorem drop_numVfs (f : Fld) (n : Nat) : (drop f n s).numVfs = s.numVfs := rfl
@[simp] theorem drop_msixTab (f : Fld) (n : Nat) : (drop f n s).msixTab = s.msixTab := rfl
@[simp] theorem drop_msix (f : Fld) (n : Nat) : (drop f n s).msix = s.msix := rfl
@[simp] theorem drop_mem (f : Fld) (n : Nat) : (drop f n s).mem = s.mem := rfl
@[simp] theorem drop_deepMem (f : Fld) (n : Nat) : (drop f n s).deepMem = s.deepMem := rfl
@[simp] theorem drop_transits (f : Fld) (n : Nat) : (drop f n s).transits = s.transits := rfl
@[simp] theorem drop_migs (f : Fld) (n : Nat) : (drop f n s).migs = s.migs := rfl
@[simp] theorem drop_migSeq (f : Fld) (n : Nat) : (drop f n s).migSeq = s.migSeq := rfl
@[simp] theorem drop_tombs (f : Fld) (n : Nat) : (drop f n s).tombs = s.tombs := rfl
@[simp] theorem drop_hints (f : Fld) (n : Nat) : (drop f n s).hints = s.hints := rfl
@[simp] theorem drop_modelCopyGib (f : Fld) (n : Nat) : (drop f n s).modelCopyGib = s.modelCopyGib := rfl
@[simp] theorem drop_ckptGib (f : Fld) (n : Nat) : (drop f n s).ckptGib = s.ckptGib := rfl
@[simp] theorem drop_chunkMap (f : Fld) (n : Nat) : (drop f n s).chunkMap = s.chunkMap := rfl
@[simp] theorem drop_moving (f : Fld) (n : Nat) : (drop f n s).moving = s.moving := rfl
@[simp] theorem drop_hostUnits (f : Fld) (n : Nat) : (drop f n s).hostUnits = s.hostUnits := rfl
@[simp] theorem drop_models (f : Fld) (n : Nat) : (drop f n s).models = s.models := rfl
@[simp] theorem drop_keyExts (f : Fld) (n : Nat) : (drop f n s).keyExts = s.keyExts := rfl
@[simp] theorem drop_fetchQ (f : Fld) (n : Nat) : (drop f n s).fetchQ = s.fetchQ := rfl
@[simp] theorem drop_fetchFly (f : Fld) (n : Nat) : (drop f n s).fetchFly = s.fetchFly := rfl
@[simp] theorem drop_returnReq (f : Fld) (n : Nat) : (drop f n s).returnReq = s.returnReq := rfl
@[simp] theorem drop_vecChans (f : Fld) (n : Nat) : (drop f n s).vecChans = s.vecChans := rfl
@[simp] theorem drop_parts (f : Fld) (n : Nat) : (drop f n s).parts = s.parts := rfl
@[simp] theorem drop_evicting (f : Fld) (n : Nat) : (drop f n s).evicting = s.evicting := rfl
@[simp] theorem drop_tokSets (f : Fld) (n : Nat) : (drop f n s).tokSets = s.tokSets := rfl
@[simp] theorem drop_grams (f : Fld) (n : Nat) : (drop f n s).grams = s.grams := rfl
@[simp] theorem drop_maskQ (f : Fld) (n : Nat) : (drop f n s).maskQ = s.maskQ := rfl
@[simp] theorem drop_bankQ (f : Fld) (n : Nat) : (drop f n s).bankQ = s.bankQ := rfl
@[simp] theorem drop_deepTrained (f : Fld) (n : Nat) : (drop f n s).deepTrained = s.deepTrained := rfl
@[simp] theorem drop_deepFails (f : Fld) (n : Nat) : (drop f n s).deepFails = s.deepFails := rfl
@[simp] theorem drop_deepSkip (f : Fld) (n : Nat) : (drop f n s).deepSkip = s.deepSkip := rfl
@[simp] theorem drop_evacuated (f : Fld) (n : Nat) : (drop f n s).evacuated = s.evacuated := rfl
@[simp] theorem drop_deepLeaving (f : Fld) (n : Nat) : (drop f n s).deepLeaving = s.deepLeaving := rfl
@[simp] theorem drop_ueLog (f : Fld) (n : Nat) : (drop f n s).ueLog = s.ueLog := rfl
@[simp] theorem drop_deepUeLog (f : Fld) (n : Nat) : (drop f n s).deepUeLog = s.deepUeLog := rfl
@[simp] theorem drop_poison (f : Fld) (n : Nat) : (drop f n s).poison = s.poison := rfl
@[simp] theorem drop_badToks (f : Fld) (n : Nat) : (drop f n s).badToks = s.badToks := rfl
@[simp] theorem drop_badGrams (f : Fld) (n : Nat) : (drop f n s).badGrams = s.badGrams := rfl
@[simp] theorem drop_remaps (f : Fld) (n : Nat) : (drop f n s).remaps = s.remaps := rfl
@[simp] theorem drop_rebuilds (f : Fld) (n : Nat) : (drop f n s).rebuilds = s.rebuilds := rfl
@[simp] theorem drop_testFails (f : Fld) (n : Nat) : (drop f n s).testFails = s.testFails := rfl
@[simp] theorem drop_testPat (f : Fld) (n : Nat) : (drop f n s).testPat = s.testPat := rfl
@[simp] theorem drop_testLast (f : Fld) (n : Nat) : (drop f n s).testLast = s.testLast := rfl
@[simp] theorem drop_tileDrain (f : Fld) (n : Nat) : (drop f n s).tileDrain = s.tileDrain := rfl
@[simp] theorem drop_dfPass (f : Fld) (n : Nat) : (drop f n s).dfPass = s.dfPass := rfl
@[simp] theorem drop_ckpt (f : Fld) (n : Nat) : (drop f n s).ckpt = s.ckpt := rfl
@[simp] theorem drop_ckptImages (f : Fld) (n : Nat) : (drop f n s).ckptImages = s.ckptImages := rfl
@[simp] theorem drop_embTabs (f : Fld) (n : Nat) : (drop f n s).embTabs = s.embTabs := rfl
@[simp] theorem drop_hot (f : Fld) (n : Nat) : (drop f n s).hot = s.hot := rfl
@[simp] theorem drop_hotLast (f : Fld) (n : Nat) : (drop f n s).hotLast = s.hotLast := rfl
@[simp] theorem drop_replicas (f : Fld) (n : Nat) : (drop f n s).replicas = s.replicas := rfl
@[simp] theorem drop_embQ (f : Fld) (n : Nat) : (drop f n s).embQ = s.embQ := rfl
@[simp] theorem drop_embSeq (f : Fld) (n : Nat) : (drop f n s).embSeq = s.embSeq := rfl
@[simp] theorem drop_embJobs (f : Fld) (n : Nat) : (drop f n s).embJobs = s.embJobs := rfl
@[simp] theorem drop_embLooks (f : Fld) (n : Nat) : (drop f n s).embLooks = s.embLooks := rfl
@[simp] theorem drop_embMoved (f : Fld) (n : Nat) : (drop f n s).embMoved = s.embMoved := rfl
@[simp] theorem drop_vecs (f : Fld) (n : Nat) : (drop f n s).vecs = s.vecs := rfl
@[simp] theorem drop_vecQs (f : Fld) (n : Nat) : (drop f n s).vecQs = s.vecQs := rfl
@[simp] theorem drop_vecSeq (f : Fld) (n : Nat) : (drop f n s).vecSeq = s.vecSeq := rfl
@[simp] theorem drop_vecJobs (f : Fld) (n : Nat) : (drop f n s).vecJobs = s.vecJobs := rfl
@[simp] theorem drop_vecCompacts (f : Fld) (n : Nat) : (drop f n s).vecCompacts = s.vecCompacts := rfl
@[simp] theorem drop_aborts (f : Fld) (n : Nat) : (drop f n s).aborts = s.aborts := rfl
@[simp] theorem drop_hostOut (f : Fld) (n : Nat) : (drop f n s).hostOut = s.hostOut := rfl
@[simp] theorem drop_traces (f : Fld) (n : Nat) : (drop f n s).traces = s.traces := rfl
@[simp] theorem drop_dumps (f : Fld) (n : Nat) : (drop f n s).dumps = s.dumps := rfl
@[simp] theorem drop_dumpSeq (f : Fld) (n : Nat) : (drop f n s).dumpSeq = s.dumpSeq := rfl
@[simp] theorem drop_arrTests (f : Fld) (n : Nat) : (drop f n s).arrTests = s.arrTests := rfl
@[simp] theorem drop_retireWait (f : Fld) (n : Nat) : (drop f n s).retireWait = s.retireWait := rfl
@[simp] theorem drop_sram (f : Fld) (n : Nat) : (drop f n s).sram = s.sram := rfl
@[simp] theorem drop_sramDraw (f : Fld) (n : Nat) : (drop f n s).sramDraw = s.sramDraw := rfl
@[simp] theorem drop_fabOut (f : Fld) (n : Nat) : (drop f n s).fabOut = s.fabOut := rfl
@[simp] theorem drop_fwdWait (f : Fld) (n : Nat) : (drop f n s).fwdWait = s.fwdWait := rfl
@[simp] theorem drop_dirKnown (f : Fld) (n : Nat) : (drop f n s).dirKnown = s.dirKnown := rfl
@[simp] theorem drop_net (f : Fld) (n : Nat) : (drop f n s).net = s.net := rfl
@[simp] theorem drop_adm (f : Fld) (n : Nat) : (drop f n s).adm = s.adm := rfl
@[simp] theorem drop_runs (f : Fld) (n : Nat) : (drop f n s).runs = s.runs := rfl
@[simp] theorem drop_exts (f : Fld) (n : Nat) : (drop f n s).exts = s.exts := rfl
@[simp] theorem drop_chanWait (f : Fld) (n : Nat) : (drop f n s).chanWait = s.chanWait := rfl
@[simp] theorem drop_c0Wait (f : Fld) (n : Nat) : (drop f n s).c0Wait = s.c0Wait := rfl
@[simp] theorem drop_fetchLast (f : Fld) (n : Nat) : (drop f n s).fetchLast = s.fetchLast := rfl
@[simp] theorem drop_rootCache (f : Fld) (n : Nat) : (drop f n s).rootCache = s.rootCache := rfl
@[simp] theorem drop_spanJobs (f : Fld) (n : Nat) : (drop f n s).spanJobs = s.spanJobs := rfl
@[simp] theorem drop_bnkNan (f : Fld) (n : Nat) : (drop f n s).bnkNan = s.bnkNan := rfl
@[simp] theorem drop_arrDraw (f : Fld) (n : Nat) : (drop f n s).arrDraw = s.arrDraw := rfl
@[simp] theorem drop_codeMem (f : Fld) (n : Nat) : (drop f n s).codeMem = s.codeMem := rfl
@[simp] theorem drop_dmaQ (f : Fld) (n : Nat) : (drop f n s).dmaQ = s.dmaQ := rfl
@[simp] theorem drop_resid (f : Fld) (n : Nat) : (drop f n s).resid = s.resid := rfl

@[simp] theorem raise_pending (f : Fld) (n : Nat) : (raise f n s).pending = s.pending := rfl
@[simp] theorem raise_fresh (f : Fld) (n : Nat) : (raise f n s).fresh = s.fresh := rfl
@[simp] theorem raise_boots (f : Fld) (n : Nat) : (raise f n s).boots = s.boots := rfl
@[simp] theorem raise_pow (f : Fld) (n : Nat) : (raise f n s).pow = s.pow := rfl
@[simp] theorem raise_ltPend (f : Fld) (n : Nat) : (raise f n s).ltPend = s.ltPend := rfl
@[simp] theorem raise_shadow (f : Fld) (n : Nat) : (raise f n s).shadow = s.shadow := rfl
@[simp] theorem raise_heldWr (f : Fld) (n : Nat) : (raise f n s).heldWr = s.heldWr := rfl
@[simp] theorem raise_oldView (f : Fld) (n : Nat) : (raise f n s).oldView = s.oldView := rfl
@[simp] theorem raise_cad (f : Fld) (n : Nat) : (raise f n s).cad = s.cad := rfl
@[simp] theorem raise_eph (f : Fld) (n : Nat) : (raise f n s).eph = s.eph := rfl
@[simp] theorem raise_fenWaits (f : Fld) (n : Nat) : (raise f n s).fenWaits = s.fenWaits := rfl
@[simp] theorem raise_desc (f : Fld) (n : Nat) : (raise f n s).desc = s.desc := rfl
@[simp] theorem raise_sess (f : Fld) (n : Nat) : (raise f n s).sess = s.sess := rfl
@[simp] theorem raise_freeNext (f : Fld) (n : Nat) : (raise f n s).freeNext = s.freeNext := rfl
@[simp] theorem raise_freed (f : Fld) (n : Nat) : (raise f n s).freed = s.freed := rfl
@[simp] theorem raise_poolBytes (f : Fld) (n : Nat) : (raise f n s).poolBytes = s.poolBytes := rfl
@[simp] theorem raise_clsBytes (f : Fld) (n : Nat) : (raise f n s).clsBytes = s.clsBytes := rfl
@[simp] theorem raise_chUsed (f : Fld) (n : Nat) : (raise f n s).chUsed = s.chUsed := rfl
@[simp] theorem raise_c0Window (f : Fld) (n : Nat) : (raise f n s).c0Window = s.c0Window := rfl
@[simp] theorem raise_heldCmds (f : Fld) (n : Nat) : (raise f n s).heldCmds = s.heldCmds := rfl
@[simp] theorem raise_dueLate (f : Fld) (n : Nat) : (raise f n s).dueLate = s.dueLate := rfl
@[simp] theorem raise_queues (f : Fld) (n : Nat) : (raise f n s).queues = s.queues := rfl
@[simp] theorem raise_started (f : Fld) (n : Nat) : (raise f n s).started = s.started := rfl
@[simp] theorem raise_cpl (f : Fld) (n : Nat) : (raise f n s).cpl = s.cpl := rfl
@[simp] theorem raise_recOut (f : Fld) (n : Nat) : (raise f n s).recOut = s.recOut := rfl
@[simp] theorem raise_evHeld (f : Fld) (n : Nat) : (raise f n s).evHeld = s.evHeld := rfl
@[simp] theorem raise_evOut (f : Fld) (n : Nat) : (raise f n s).evOut = s.evOut := rfl
@[simp] theorem raise_evqPi (f : Fld) (n : Nat) : (raise f n s).evqPi = s.evqPi := rfl
@[simp] theorem raise_evqCi (f : Fld) (n : Nat) : (raise f n s).evqCi = s.evqCi := rfl
@[simp] theorem raise_coal (f : Fld) (n : Nat) : (raise f n s).coal = s.coal := rfl
@[simp] theorem raise_bar4Gib (f : Fld) (n : Nat) : (raise f n s).bar4Gib = s.bar4Gib := rfl
@[simp] theorem raise_numVfs (f : Fld) (n : Nat) : (raise f n s).numVfs = s.numVfs := rfl
@[simp] theorem raise_msixTab (f : Fld) (n : Nat) : (raise f n s).msixTab = s.msixTab := rfl
@[simp] theorem raise_msix (f : Fld) (n : Nat) : (raise f n s).msix = s.msix := rfl
@[simp] theorem raise_mem (f : Fld) (n : Nat) : (raise f n s).mem = s.mem := rfl
@[simp] theorem raise_deepMem (f : Fld) (n : Nat) : (raise f n s).deepMem = s.deepMem := rfl
@[simp] theorem raise_transits (f : Fld) (n : Nat) : (raise f n s).transits = s.transits := rfl
@[simp] theorem raise_migs (f : Fld) (n : Nat) : (raise f n s).migs = s.migs := rfl
@[simp] theorem raise_migSeq (f : Fld) (n : Nat) : (raise f n s).migSeq = s.migSeq := rfl
@[simp] theorem raise_tombs (f : Fld) (n : Nat) : (raise f n s).tombs = s.tombs := rfl
@[simp] theorem raise_hints (f : Fld) (n : Nat) : (raise f n s).hints = s.hints := rfl
@[simp] theorem raise_modelCopyGib (f : Fld) (n : Nat) : (raise f n s).modelCopyGib = s.modelCopyGib := rfl
@[simp] theorem raise_ckptGib (f : Fld) (n : Nat) : (raise f n s).ckptGib = s.ckptGib := rfl
@[simp] theorem raise_chunkMap (f : Fld) (n : Nat) : (raise f n s).chunkMap = s.chunkMap := rfl
@[simp] theorem raise_moving (f : Fld) (n : Nat) : (raise f n s).moving = s.moving := rfl
@[simp] theorem raise_hostUnits (f : Fld) (n : Nat) : (raise f n s).hostUnits = s.hostUnits := rfl
@[simp] theorem raise_models (f : Fld) (n : Nat) : (raise f n s).models = s.models := rfl
@[simp] theorem raise_keyExts (f : Fld) (n : Nat) : (raise f n s).keyExts = s.keyExts := rfl
@[simp] theorem raise_fetchQ (f : Fld) (n : Nat) : (raise f n s).fetchQ = s.fetchQ := rfl
@[simp] theorem raise_fetchFly (f : Fld) (n : Nat) : (raise f n s).fetchFly = s.fetchFly := rfl
@[simp] theorem raise_returnReq (f : Fld) (n : Nat) : (raise f n s).returnReq = s.returnReq := rfl
@[simp] theorem raise_vecChans (f : Fld) (n : Nat) : (raise f n s).vecChans = s.vecChans := rfl
@[simp] theorem raise_parts (f : Fld) (n : Nat) : (raise f n s).parts = s.parts := rfl
@[simp] theorem raise_evicting (f : Fld) (n : Nat) : (raise f n s).evicting = s.evicting := rfl
@[simp] theorem raise_tokSets (f : Fld) (n : Nat) : (raise f n s).tokSets = s.tokSets := rfl
@[simp] theorem raise_grams (f : Fld) (n : Nat) : (raise f n s).grams = s.grams := rfl
@[simp] theorem raise_maskQ (f : Fld) (n : Nat) : (raise f n s).maskQ = s.maskQ := rfl
@[simp] theorem raise_bankQ (f : Fld) (n : Nat) : (raise f n s).bankQ = s.bankQ := rfl
@[simp] theorem raise_deepTrained (f : Fld) (n : Nat) : (raise f n s).deepTrained = s.deepTrained := rfl
@[simp] theorem raise_deepFails (f : Fld) (n : Nat) : (raise f n s).deepFails = s.deepFails := rfl
@[simp] theorem raise_deepSkip (f : Fld) (n : Nat) : (raise f n s).deepSkip = s.deepSkip := rfl
@[simp] theorem raise_evacuated (f : Fld) (n : Nat) : (raise f n s).evacuated = s.evacuated := rfl
@[simp] theorem raise_deepLeaving (f : Fld) (n : Nat) : (raise f n s).deepLeaving = s.deepLeaving := rfl
@[simp] theorem raise_ueLog (f : Fld) (n : Nat) : (raise f n s).ueLog = s.ueLog := rfl
@[simp] theorem raise_deepUeLog (f : Fld) (n : Nat) : (raise f n s).deepUeLog = s.deepUeLog := rfl
@[simp] theorem raise_poison (f : Fld) (n : Nat) : (raise f n s).poison = s.poison := rfl
@[simp] theorem raise_badToks (f : Fld) (n : Nat) : (raise f n s).badToks = s.badToks := rfl
@[simp] theorem raise_badGrams (f : Fld) (n : Nat) : (raise f n s).badGrams = s.badGrams := rfl
@[simp] theorem raise_remaps (f : Fld) (n : Nat) : (raise f n s).remaps = s.remaps := rfl
@[simp] theorem raise_rebuilds (f : Fld) (n : Nat) : (raise f n s).rebuilds = s.rebuilds := rfl
@[simp] theorem raise_testFails (f : Fld) (n : Nat) : (raise f n s).testFails = s.testFails := rfl
@[simp] theorem raise_testPat (f : Fld) (n : Nat) : (raise f n s).testPat = s.testPat := rfl
@[simp] theorem raise_testLast (f : Fld) (n : Nat) : (raise f n s).testLast = s.testLast := rfl
@[simp] theorem raise_tileDrain (f : Fld) (n : Nat) : (raise f n s).tileDrain = s.tileDrain := rfl
@[simp] theorem raise_dfPass (f : Fld) (n : Nat) : (raise f n s).dfPass = s.dfPass := rfl
@[simp] theorem raise_ckpt (f : Fld) (n : Nat) : (raise f n s).ckpt = s.ckpt := rfl
@[simp] theorem raise_ckptImages (f : Fld) (n : Nat) : (raise f n s).ckptImages = s.ckptImages := rfl
@[simp] theorem raise_embTabs (f : Fld) (n : Nat) : (raise f n s).embTabs = s.embTabs := rfl
@[simp] theorem raise_hot (f : Fld) (n : Nat) : (raise f n s).hot = s.hot := rfl
@[simp] theorem raise_hotLast (f : Fld) (n : Nat) : (raise f n s).hotLast = s.hotLast := rfl
@[simp] theorem raise_replicas (f : Fld) (n : Nat) : (raise f n s).replicas = s.replicas := rfl
@[simp] theorem raise_embQ (f : Fld) (n : Nat) : (raise f n s).embQ = s.embQ := rfl
@[simp] theorem raise_embSeq (f : Fld) (n : Nat) : (raise f n s).embSeq = s.embSeq := rfl
@[simp] theorem raise_embJobs (f : Fld) (n : Nat) : (raise f n s).embJobs = s.embJobs := rfl
@[simp] theorem raise_embLooks (f : Fld) (n : Nat) : (raise f n s).embLooks = s.embLooks := rfl
@[simp] theorem raise_embMoved (f : Fld) (n : Nat) : (raise f n s).embMoved = s.embMoved := rfl
@[simp] theorem raise_vecs (f : Fld) (n : Nat) : (raise f n s).vecs = s.vecs := rfl
@[simp] theorem raise_vecQs (f : Fld) (n : Nat) : (raise f n s).vecQs = s.vecQs := rfl
@[simp] theorem raise_vecSeq (f : Fld) (n : Nat) : (raise f n s).vecSeq = s.vecSeq := rfl
@[simp] theorem raise_vecJobs (f : Fld) (n : Nat) : (raise f n s).vecJobs = s.vecJobs := rfl
@[simp] theorem raise_vecCompacts (f : Fld) (n : Nat) : (raise f n s).vecCompacts = s.vecCompacts := rfl
@[simp] theorem raise_aborts (f : Fld) (n : Nat) : (raise f n s).aborts = s.aborts := rfl
@[simp] theorem raise_hostOut (f : Fld) (n : Nat) : (raise f n s).hostOut = s.hostOut := rfl
@[simp] theorem raise_traces (f : Fld) (n : Nat) : (raise f n s).traces = s.traces := rfl
@[simp] theorem raise_dumps (f : Fld) (n : Nat) : (raise f n s).dumps = s.dumps := rfl
@[simp] theorem raise_dumpSeq (f : Fld) (n : Nat) : (raise f n s).dumpSeq = s.dumpSeq := rfl
@[simp] theorem raise_arrTests (f : Fld) (n : Nat) : (raise f n s).arrTests = s.arrTests := rfl
@[simp] theorem raise_retireWait (f : Fld) (n : Nat) : (raise f n s).retireWait = s.retireWait := rfl
@[simp] theorem raise_sram (f : Fld) (n : Nat) : (raise f n s).sram = s.sram := rfl
@[simp] theorem raise_sramDraw (f : Fld) (n : Nat) : (raise f n s).sramDraw = s.sramDraw := rfl
@[simp] theorem raise_fabOut (f : Fld) (n : Nat) : (raise f n s).fabOut = s.fabOut := rfl
@[simp] theorem raise_fwdWait (f : Fld) (n : Nat) : (raise f n s).fwdWait = s.fwdWait := rfl
@[simp] theorem raise_dirKnown (f : Fld) (n : Nat) : (raise f n s).dirKnown = s.dirKnown := rfl
@[simp] theorem raise_net (f : Fld) (n : Nat) : (raise f n s).net = s.net := rfl
@[simp] theorem raise_adm (f : Fld) (n : Nat) : (raise f n s).adm = s.adm := rfl
@[simp] theorem raise_runs (f : Fld) (n : Nat) : (raise f n s).runs = s.runs := rfl
@[simp] theorem raise_exts (f : Fld) (n : Nat) : (raise f n s).exts = s.exts := rfl
@[simp] theorem raise_chanWait (f : Fld) (n : Nat) : (raise f n s).chanWait = s.chanWait := rfl
@[simp] theorem raise_c0Wait (f : Fld) (n : Nat) : (raise f n s).c0Wait = s.c0Wait := rfl
@[simp] theorem raise_fetchLast (f : Fld) (n : Nat) : (raise f n s).fetchLast = s.fetchLast := rfl
@[simp] theorem raise_rootCache (f : Fld) (n : Nat) : (raise f n s).rootCache = s.rootCache := rfl
@[simp] theorem raise_spanJobs (f : Fld) (n : Nat) : (raise f n s).spanJobs = s.spanJobs := rfl
@[simp] theorem raise_bnkNan (f : Fld) (n : Nat) : (raise f n s).bnkNan = s.bnkNan := rfl
@[simp] theorem raise_arrDraw (f : Fld) (n : Nat) : (raise f n s).arrDraw = s.arrDraw := rfl
@[simp] theorem raise_codeMem (f : Fld) (n : Nat) : (raise f n s).codeMem = s.codeMem := rfl
@[simp] theorem raise_dmaQ (f : Fld) (n : Nat) : (raise f n s).dmaQ = s.dmaQ := rfl
@[simp] theorem raise_resid (f : Fld) (n : Nat) : (raise f n s).resid = s.resid := rfl

@[simp] theorem wrBit_pending (f : Fld) (i : Nat) (b : Bool) : (wrBit f i b s).pending = s.pending := rfl
@[simp] theorem wrBit_fresh (f : Fld) (i : Nat) (b : Bool) : (wrBit f i b s).fresh = s.fresh := rfl
@[simp] theorem wrBit_boots (f : Fld) (i : Nat) (b : Bool) : (wrBit f i b s).boots = s.boots := rfl
@[simp] theorem wrBit_pow (f : Fld) (i : Nat) (b : Bool) : (wrBit f i b s).pow = s.pow := rfl
@[simp] theorem wrBit_ltPend (f : Fld) (i : Nat) (b : Bool) : (wrBit f i b s).ltPend = s.ltPend := rfl
@[simp] theorem wrBit_shadow (f : Fld) (i : Nat) (b : Bool) : (wrBit f i b s).shadow = s.shadow := rfl
@[simp] theorem wrBit_heldWr (f : Fld) (i : Nat) (b : Bool) : (wrBit f i b s).heldWr = s.heldWr := rfl
@[simp] theorem wrBit_oldView (f : Fld) (i : Nat) (b : Bool) : (wrBit f i b s).oldView = s.oldView := rfl
@[simp] theorem wrBit_cad (f : Fld) (i : Nat) (b : Bool) : (wrBit f i b s).cad = s.cad := rfl
@[simp] theorem wrBit_eph (f : Fld) (i : Nat) (b : Bool) : (wrBit f i b s).eph = s.eph := rfl
@[simp] theorem wrBit_fenWaits (f : Fld) (i : Nat) (b : Bool) : (wrBit f i b s).fenWaits = s.fenWaits := rfl
@[simp] theorem wrBit_desc (f : Fld) (i : Nat) (b : Bool) : (wrBit f i b s).desc = s.desc := rfl
@[simp] theorem wrBit_sess (f : Fld) (i : Nat) (b : Bool) : (wrBit f i b s).sess = s.sess := rfl
@[simp] theorem wrBit_freeNext (f : Fld) (i : Nat) (b : Bool) : (wrBit f i b s).freeNext = s.freeNext := rfl
@[simp] theorem wrBit_freed (f : Fld) (i : Nat) (b : Bool) : (wrBit f i b s).freed = s.freed := rfl
@[simp] theorem wrBit_poolBytes (f : Fld) (i : Nat) (b : Bool) : (wrBit f i b s).poolBytes = s.poolBytes := rfl
@[simp] theorem wrBit_clsBytes (f : Fld) (i : Nat) (b : Bool) : (wrBit f i b s).clsBytes = s.clsBytes := rfl
@[simp] theorem wrBit_chUsed (f : Fld) (i : Nat) (b : Bool) : (wrBit f i b s).chUsed = s.chUsed := rfl
@[simp] theorem wrBit_c0Window (f : Fld) (i : Nat) (b : Bool) : (wrBit f i b s).c0Window = s.c0Window := rfl
@[simp] theorem wrBit_heldCmds (f : Fld) (i : Nat) (b : Bool) : (wrBit f i b s).heldCmds = s.heldCmds := rfl
@[simp] theorem wrBit_dueLate (f : Fld) (i : Nat) (b : Bool) : (wrBit f i b s).dueLate = s.dueLate := rfl
@[simp] theorem wrBit_queues (f : Fld) (i : Nat) (b : Bool) : (wrBit f i b s).queues = s.queues := rfl
@[simp] theorem wrBit_started (f : Fld) (i : Nat) (b : Bool) : (wrBit f i b s).started = s.started := rfl
@[simp] theorem wrBit_cpl (f : Fld) (i : Nat) (b : Bool) : (wrBit f i b s).cpl = s.cpl := rfl
@[simp] theorem wrBit_recOut (f : Fld) (i : Nat) (b : Bool) : (wrBit f i b s).recOut = s.recOut := rfl
@[simp] theorem wrBit_evHeld (f : Fld) (i : Nat) (b : Bool) : (wrBit f i b s).evHeld = s.evHeld := rfl
@[simp] theorem wrBit_evOut (f : Fld) (i : Nat) (b : Bool) : (wrBit f i b s).evOut = s.evOut := rfl
@[simp] theorem wrBit_evqPi (f : Fld) (i : Nat) (b : Bool) : (wrBit f i b s).evqPi = s.evqPi := rfl
@[simp] theorem wrBit_evqCi (f : Fld) (i : Nat) (b : Bool) : (wrBit f i b s).evqCi = s.evqCi := rfl
@[simp] theorem wrBit_coal (f : Fld) (i : Nat) (b : Bool) : (wrBit f i b s).coal = s.coal := rfl
@[simp] theorem wrBit_bar4Gib (f : Fld) (i : Nat) (b : Bool) : (wrBit f i b s).bar4Gib = s.bar4Gib := rfl
@[simp] theorem wrBit_numVfs (f : Fld) (i : Nat) (b : Bool) : (wrBit f i b s).numVfs = s.numVfs := rfl
@[simp] theorem wrBit_msixTab (f : Fld) (i : Nat) (b : Bool) : (wrBit f i b s).msixTab = s.msixTab := rfl
@[simp] theorem wrBit_msix (f : Fld) (i : Nat) (b : Bool) : (wrBit f i b s).msix = s.msix := rfl
@[simp] theorem wrBit_mem (f : Fld) (i : Nat) (b : Bool) : (wrBit f i b s).mem = s.mem := rfl
@[simp] theorem wrBit_deepMem (f : Fld) (i : Nat) (b : Bool) : (wrBit f i b s).deepMem = s.deepMem := rfl
@[simp] theorem wrBit_transits (f : Fld) (i : Nat) (b : Bool) : (wrBit f i b s).transits = s.transits := rfl
@[simp] theorem wrBit_migs (f : Fld) (i : Nat) (b : Bool) : (wrBit f i b s).migs = s.migs := rfl
@[simp] theorem wrBit_migSeq (f : Fld) (i : Nat) (b : Bool) : (wrBit f i b s).migSeq = s.migSeq := rfl
@[simp] theorem wrBit_tombs (f : Fld) (i : Nat) (b : Bool) : (wrBit f i b s).tombs = s.tombs := rfl
@[simp] theorem wrBit_hints (f : Fld) (i : Nat) (b : Bool) : (wrBit f i b s).hints = s.hints := rfl
@[simp] theorem wrBit_modelCopyGib (f : Fld) (i : Nat) (b : Bool) : (wrBit f i b s).modelCopyGib = s.modelCopyGib := rfl
@[simp] theorem wrBit_ckptGib (f : Fld) (i : Nat) (b : Bool) : (wrBit f i b s).ckptGib = s.ckptGib := rfl
@[simp] theorem wrBit_chunkMap (f : Fld) (i : Nat) (b : Bool) : (wrBit f i b s).chunkMap = s.chunkMap := rfl
@[simp] theorem wrBit_moving (f : Fld) (i : Nat) (b : Bool) : (wrBit f i b s).moving = s.moving := rfl
@[simp] theorem wrBit_hostUnits (f : Fld) (i : Nat) (b : Bool) : (wrBit f i b s).hostUnits = s.hostUnits := rfl
@[simp] theorem wrBit_models (f : Fld) (i : Nat) (b : Bool) : (wrBit f i b s).models = s.models := rfl
@[simp] theorem wrBit_keyExts (f : Fld) (i : Nat) (b : Bool) : (wrBit f i b s).keyExts = s.keyExts := rfl
@[simp] theorem wrBit_fetchQ (f : Fld) (i : Nat) (b : Bool) : (wrBit f i b s).fetchQ = s.fetchQ := rfl
@[simp] theorem wrBit_fetchFly (f : Fld) (i : Nat) (b : Bool) : (wrBit f i b s).fetchFly = s.fetchFly := rfl
@[simp] theorem wrBit_returnReq (f : Fld) (i : Nat) (b : Bool) : (wrBit f i b s).returnReq = s.returnReq := rfl
@[simp] theorem wrBit_vecChans (f : Fld) (i : Nat) (b : Bool) : (wrBit f i b s).vecChans = s.vecChans := rfl
@[simp] theorem wrBit_parts (f : Fld) (i : Nat) (b : Bool) : (wrBit f i b s).parts = s.parts := rfl
@[simp] theorem wrBit_evicting (f : Fld) (i : Nat) (b : Bool) : (wrBit f i b s).evicting = s.evicting := rfl
@[simp] theorem wrBit_tokSets (f : Fld) (i : Nat) (b : Bool) : (wrBit f i b s).tokSets = s.tokSets := rfl
@[simp] theorem wrBit_grams (f : Fld) (i : Nat) (b : Bool) : (wrBit f i b s).grams = s.grams := rfl
@[simp] theorem wrBit_maskQ (f : Fld) (i : Nat) (b : Bool) : (wrBit f i b s).maskQ = s.maskQ := rfl
@[simp] theorem wrBit_bankQ (f : Fld) (i : Nat) (b : Bool) : (wrBit f i b s).bankQ = s.bankQ := rfl
@[simp] theorem wrBit_deepTrained (f : Fld) (i : Nat) (b : Bool) : (wrBit f i b s).deepTrained = s.deepTrained := rfl
@[simp] theorem wrBit_deepFails (f : Fld) (i : Nat) (b : Bool) : (wrBit f i b s).deepFails = s.deepFails := rfl
@[simp] theorem wrBit_deepSkip (f : Fld) (i : Nat) (b : Bool) : (wrBit f i b s).deepSkip = s.deepSkip := rfl
@[simp] theorem wrBit_evacuated (f : Fld) (i : Nat) (b : Bool) : (wrBit f i b s).evacuated = s.evacuated := rfl
@[simp] theorem wrBit_deepLeaving (f : Fld) (i : Nat) (b : Bool) : (wrBit f i b s).deepLeaving = s.deepLeaving := rfl
@[simp] theorem wrBit_ueLog (f : Fld) (i : Nat) (b : Bool) : (wrBit f i b s).ueLog = s.ueLog := rfl
@[simp] theorem wrBit_deepUeLog (f : Fld) (i : Nat) (b : Bool) : (wrBit f i b s).deepUeLog = s.deepUeLog := rfl
@[simp] theorem wrBit_poison (f : Fld) (i : Nat) (b : Bool) : (wrBit f i b s).poison = s.poison := rfl
@[simp] theorem wrBit_badToks (f : Fld) (i : Nat) (b : Bool) : (wrBit f i b s).badToks = s.badToks := rfl
@[simp] theorem wrBit_badGrams (f : Fld) (i : Nat) (b : Bool) : (wrBit f i b s).badGrams = s.badGrams := rfl
@[simp] theorem wrBit_remaps (f : Fld) (i : Nat) (b : Bool) : (wrBit f i b s).remaps = s.remaps := rfl
@[simp] theorem wrBit_rebuilds (f : Fld) (i : Nat) (b : Bool) : (wrBit f i b s).rebuilds = s.rebuilds := rfl
@[simp] theorem wrBit_testFails (f : Fld) (i : Nat) (b : Bool) : (wrBit f i b s).testFails = s.testFails := rfl
@[simp] theorem wrBit_testPat (f : Fld) (i : Nat) (b : Bool) : (wrBit f i b s).testPat = s.testPat := rfl
@[simp] theorem wrBit_testLast (f : Fld) (i : Nat) (b : Bool) : (wrBit f i b s).testLast = s.testLast := rfl
@[simp] theorem wrBit_tileDrain (f : Fld) (i : Nat) (b : Bool) : (wrBit f i b s).tileDrain = s.tileDrain := rfl
@[simp] theorem wrBit_dfPass (f : Fld) (i : Nat) (b : Bool) : (wrBit f i b s).dfPass = s.dfPass := rfl
@[simp] theorem wrBit_ckpt (f : Fld) (i : Nat) (b : Bool) : (wrBit f i b s).ckpt = s.ckpt := rfl
@[simp] theorem wrBit_ckptImages (f : Fld) (i : Nat) (b : Bool) : (wrBit f i b s).ckptImages = s.ckptImages := rfl
@[simp] theorem wrBit_embTabs (f : Fld) (i : Nat) (b : Bool) : (wrBit f i b s).embTabs = s.embTabs := rfl
@[simp] theorem wrBit_hot (f : Fld) (i : Nat) (b : Bool) : (wrBit f i b s).hot = s.hot := rfl
@[simp] theorem wrBit_hotLast (f : Fld) (i : Nat) (b : Bool) : (wrBit f i b s).hotLast = s.hotLast := rfl
@[simp] theorem wrBit_replicas (f : Fld) (i : Nat) (b : Bool) : (wrBit f i b s).replicas = s.replicas := rfl
@[simp] theorem wrBit_embQ (f : Fld) (i : Nat) (b : Bool) : (wrBit f i b s).embQ = s.embQ := rfl
@[simp] theorem wrBit_embSeq (f : Fld) (i : Nat) (b : Bool) : (wrBit f i b s).embSeq = s.embSeq := rfl
@[simp] theorem wrBit_embJobs (f : Fld) (i : Nat) (b : Bool) : (wrBit f i b s).embJobs = s.embJobs := rfl
@[simp] theorem wrBit_embLooks (f : Fld) (i : Nat) (b : Bool) : (wrBit f i b s).embLooks = s.embLooks := rfl
@[simp] theorem wrBit_embMoved (f : Fld) (i : Nat) (b : Bool) : (wrBit f i b s).embMoved = s.embMoved := rfl
@[simp] theorem wrBit_vecs (f : Fld) (i : Nat) (b : Bool) : (wrBit f i b s).vecs = s.vecs := rfl
@[simp] theorem wrBit_vecQs (f : Fld) (i : Nat) (b : Bool) : (wrBit f i b s).vecQs = s.vecQs := rfl
@[simp] theorem wrBit_vecSeq (f : Fld) (i : Nat) (b : Bool) : (wrBit f i b s).vecSeq = s.vecSeq := rfl
@[simp] theorem wrBit_vecJobs (f : Fld) (i : Nat) (b : Bool) : (wrBit f i b s).vecJobs = s.vecJobs := rfl
@[simp] theorem wrBit_vecCompacts (f : Fld) (i : Nat) (b : Bool) : (wrBit f i b s).vecCompacts = s.vecCompacts := rfl
@[simp] theorem wrBit_aborts (f : Fld) (i : Nat) (b : Bool) : (wrBit f i b s).aborts = s.aborts := rfl
@[simp] theorem wrBit_hostOut (f : Fld) (i : Nat) (b : Bool) : (wrBit f i b s).hostOut = s.hostOut := rfl
@[simp] theorem wrBit_traces (f : Fld) (i : Nat) (b : Bool) : (wrBit f i b s).traces = s.traces := rfl
@[simp] theorem wrBit_dumps (f : Fld) (i : Nat) (b : Bool) : (wrBit f i b s).dumps = s.dumps := rfl
@[simp] theorem wrBit_dumpSeq (f : Fld) (i : Nat) (b : Bool) : (wrBit f i b s).dumpSeq = s.dumpSeq := rfl
@[simp] theorem wrBit_arrTests (f : Fld) (i : Nat) (b : Bool) : (wrBit f i b s).arrTests = s.arrTests := rfl
@[simp] theorem wrBit_retireWait (f : Fld) (i : Nat) (b : Bool) : (wrBit f i b s).retireWait = s.retireWait := rfl
@[simp] theorem wrBit_sram (f : Fld) (i : Nat) (b : Bool) : (wrBit f i b s).sram = s.sram := rfl
@[simp] theorem wrBit_sramDraw (f : Fld) (i : Nat) (b : Bool) : (wrBit f i b s).sramDraw = s.sramDraw := rfl
@[simp] theorem wrBit_fabOut (f : Fld) (i : Nat) (b : Bool) : (wrBit f i b s).fabOut = s.fabOut := rfl
@[simp] theorem wrBit_fwdWait (f : Fld) (i : Nat) (b : Bool) : (wrBit f i b s).fwdWait = s.fwdWait := rfl
@[simp] theorem wrBit_dirKnown (f : Fld) (i : Nat) (b : Bool) : (wrBit f i b s).dirKnown = s.dirKnown := rfl
@[simp] theorem wrBit_net (f : Fld) (i : Nat) (b : Bool) : (wrBit f i b s).net = s.net := rfl
@[simp] theorem wrBit_adm (f : Fld) (i : Nat) (b : Bool) : (wrBit f i b s).adm = s.adm := rfl
@[simp] theorem wrBit_runs (f : Fld) (i : Nat) (b : Bool) : (wrBit f i b s).runs = s.runs := rfl
@[simp] theorem wrBit_exts (f : Fld) (i : Nat) (b : Bool) : (wrBit f i b s).exts = s.exts := rfl
@[simp] theorem wrBit_chanWait (f : Fld) (i : Nat) (b : Bool) : (wrBit f i b s).chanWait = s.chanWait := rfl
@[simp] theorem wrBit_c0Wait (f : Fld) (i : Nat) (b : Bool) : (wrBit f i b s).c0Wait = s.c0Wait := rfl
@[simp] theorem wrBit_fetchLast (f : Fld) (i : Nat) (b : Bool) : (wrBit f i b s).fetchLast = s.fetchLast := rfl
@[simp] theorem wrBit_rootCache (f : Fld) (i : Nat) (b : Bool) : (wrBit f i b s).rootCache = s.rootCache := rfl
@[simp] theorem wrBit_spanJobs (f : Fld) (i : Nat) (b : Bool) : (wrBit f i b s).spanJobs = s.spanJobs := rfl
@[simp] theorem wrBit_bnkNan (f : Fld) (i : Nat) (b : Bool) : (wrBit f i b s).bnkNan = s.bnkNan := rfl
@[simp] theorem wrBit_arrDraw (f : Fld) (i : Nat) (b : Bool) : (wrBit f i b s).arrDraw = s.arrDraw := rfl
@[simp] theorem wrBit_codeMem (f : Fld) (i : Nat) (b : Bool) : (wrBit f i b s).codeMem = s.codeMem := rfl
@[simp] theorem wrBit_dmaQ (f : Fld) (i : Nat) (b : Bool) : (wrBit f i b s).dmaQ = s.dmaQ := rfl
@[simp] theorem wrBit_resid (f : Fld) (i : Nat) (b : Bool) : (wrBit f i b s).resid = s.resid := rfl

@[simp] theorem memWrite_pending (a : Nat) (bs : List Byte) : (memWrite a bs s).pending = s.pending := rfl
@[simp] theorem memWrite_fresh (a : Nat) (bs : List Byte) : (memWrite a bs s).fresh = s.fresh := rfl
@[simp] theorem memWrite_boots (a : Nat) (bs : List Byte) : (memWrite a bs s).boots = s.boots := rfl
@[simp] theorem memWrite_pow (a : Nat) (bs : List Byte) : (memWrite a bs s).pow = s.pow := rfl
@[simp] theorem memWrite_regs (a : Nat) (bs : List Byte) : (memWrite a bs s).regs = s.regs := rfl
@[simp] theorem memWrite_ltPend (a : Nat) (bs : List Byte) : (memWrite a bs s).ltPend = s.ltPend := rfl
@[simp] theorem memWrite_shadow (a : Nat) (bs : List Byte) : (memWrite a bs s).shadow = s.shadow := rfl
@[simp] theorem memWrite_heldWr (a : Nat) (bs : List Byte) : (memWrite a bs s).heldWr = s.heldWr := rfl
@[simp] theorem memWrite_oldView (a : Nat) (bs : List Byte) : (memWrite a bs s).oldView = s.oldView := rfl
@[simp] theorem memWrite_cad (a : Nat) (bs : List Byte) : (memWrite a bs s).cad = s.cad := rfl
@[simp] theorem memWrite_eph (a : Nat) (bs : List Byte) : (memWrite a bs s).eph = s.eph := rfl
@[simp] theorem memWrite_fenWaits (a : Nat) (bs : List Byte) : (memWrite a bs s).fenWaits = s.fenWaits := rfl
@[simp] theorem memWrite_desc (a : Nat) (bs : List Byte) : (memWrite a bs s).desc = s.desc := rfl
@[simp] theorem memWrite_sess (a : Nat) (bs : List Byte) : (memWrite a bs s).sess = s.sess := rfl
@[simp] theorem memWrite_freeNext (a : Nat) (bs : List Byte) : (memWrite a bs s).freeNext = s.freeNext := rfl
@[simp] theorem memWrite_freed (a : Nat) (bs : List Byte) : (memWrite a bs s).freed = s.freed := rfl
@[simp] theorem memWrite_poolBytes (a : Nat) (bs : List Byte) : (memWrite a bs s).poolBytes = s.poolBytes := rfl
@[simp] theorem memWrite_clsBytes (a : Nat) (bs : List Byte) : (memWrite a bs s).clsBytes = s.clsBytes := rfl
@[simp] theorem memWrite_chUsed (a : Nat) (bs : List Byte) : (memWrite a bs s).chUsed = s.chUsed := rfl
@[simp] theorem memWrite_c0Window (a : Nat) (bs : List Byte) : (memWrite a bs s).c0Window = s.c0Window := rfl
@[simp] theorem memWrite_heldCmds (a : Nat) (bs : List Byte) : (memWrite a bs s).heldCmds = s.heldCmds := rfl
@[simp] theorem memWrite_dueLate (a : Nat) (bs : List Byte) : (memWrite a bs s).dueLate = s.dueLate := rfl
@[simp] theorem memWrite_queues (a : Nat) (bs : List Byte) : (memWrite a bs s).queues = s.queues := rfl
@[simp] theorem memWrite_started (a : Nat) (bs : List Byte) : (memWrite a bs s).started = s.started := rfl
@[simp] theorem memWrite_cpl (a : Nat) (bs : List Byte) : (memWrite a bs s).cpl = s.cpl := rfl
@[simp] theorem memWrite_recOut (a : Nat) (bs : List Byte) : (memWrite a bs s).recOut = s.recOut := rfl
@[simp] theorem memWrite_evHeld (a : Nat) (bs : List Byte) : (memWrite a bs s).evHeld = s.evHeld := rfl
@[simp] theorem memWrite_evOut (a : Nat) (bs : List Byte) : (memWrite a bs s).evOut = s.evOut := rfl
@[simp] theorem memWrite_evqPi (a : Nat) (bs : List Byte) : (memWrite a bs s).evqPi = s.evqPi := rfl
@[simp] theorem memWrite_evqCi (a : Nat) (bs : List Byte) : (memWrite a bs s).evqCi = s.evqCi := rfl
@[simp] theorem memWrite_coal (a : Nat) (bs : List Byte) : (memWrite a bs s).coal = s.coal := rfl
@[simp] theorem memWrite_bar4Gib (a : Nat) (bs : List Byte) : (memWrite a bs s).bar4Gib = s.bar4Gib := rfl
@[simp] theorem memWrite_numVfs (a : Nat) (bs : List Byte) : (memWrite a bs s).numVfs = s.numVfs := rfl
@[simp] theorem memWrite_msixTab (a : Nat) (bs : List Byte) : (memWrite a bs s).msixTab = s.msixTab := rfl
@[simp] theorem memWrite_msix (a : Nat) (bs : List Byte) : (memWrite a bs s).msix = s.msix := rfl
@[simp] theorem memWrite_deepMem (a : Nat) (bs : List Byte) : (memWrite a bs s).deepMem = s.deepMem := rfl
@[simp] theorem memWrite_transits (a : Nat) (bs : List Byte) : (memWrite a bs s).transits = s.transits := rfl
@[simp] theorem memWrite_migs (a : Nat) (bs : List Byte) : (memWrite a bs s).migs = s.migs := rfl
@[simp] theorem memWrite_migSeq (a : Nat) (bs : List Byte) : (memWrite a bs s).migSeq = s.migSeq := rfl
@[simp] theorem memWrite_tombs (a : Nat) (bs : List Byte) : (memWrite a bs s).tombs = s.tombs := rfl
@[simp] theorem memWrite_hints (a : Nat) (bs : List Byte) : (memWrite a bs s).hints = s.hints := rfl
@[simp] theorem memWrite_modelCopyGib (a : Nat) (bs : List Byte) : (memWrite a bs s).modelCopyGib = s.modelCopyGib := rfl
@[simp] theorem memWrite_ckptGib (a : Nat) (bs : List Byte) : (memWrite a bs s).ckptGib = s.ckptGib := rfl
@[simp] theorem memWrite_chunkMap (a : Nat) (bs : List Byte) : (memWrite a bs s).chunkMap = s.chunkMap := rfl
@[simp] theorem memWrite_moving (a : Nat) (bs : List Byte) : (memWrite a bs s).moving = s.moving := rfl
@[simp] theorem memWrite_hostUnits (a : Nat) (bs : List Byte) : (memWrite a bs s).hostUnits = s.hostUnits := rfl
@[simp] theorem memWrite_models (a : Nat) (bs : List Byte) : (memWrite a bs s).models = s.models := rfl
@[simp] theorem memWrite_keyExts (a : Nat) (bs : List Byte) : (memWrite a bs s).keyExts = s.keyExts := rfl
@[simp] theorem memWrite_fetchQ (a : Nat) (bs : List Byte) : (memWrite a bs s).fetchQ = s.fetchQ := rfl
@[simp] theorem memWrite_fetchFly (a : Nat) (bs : List Byte) : (memWrite a bs s).fetchFly = s.fetchFly := rfl
@[simp] theorem memWrite_returnReq (a : Nat) (bs : List Byte) : (memWrite a bs s).returnReq = s.returnReq := rfl
@[simp] theorem memWrite_vecChans (a : Nat) (bs : List Byte) : (memWrite a bs s).vecChans = s.vecChans := rfl
@[simp] theorem memWrite_parts (a : Nat) (bs : List Byte) : (memWrite a bs s).parts = s.parts := rfl
@[simp] theorem memWrite_evicting (a : Nat) (bs : List Byte) : (memWrite a bs s).evicting = s.evicting := rfl
@[simp] theorem memWrite_tokSets (a : Nat) (bs : List Byte) : (memWrite a bs s).tokSets = s.tokSets := rfl
@[simp] theorem memWrite_grams (a : Nat) (bs : List Byte) : (memWrite a bs s).grams = s.grams := rfl
@[simp] theorem memWrite_maskQ (a : Nat) (bs : List Byte) : (memWrite a bs s).maskQ = s.maskQ := rfl
@[simp] theorem memWrite_bankQ (a : Nat) (bs : List Byte) : (memWrite a bs s).bankQ = s.bankQ := rfl
@[simp] theorem memWrite_deepTrained (a : Nat) (bs : List Byte) : (memWrite a bs s).deepTrained = s.deepTrained := rfl
@[simp] theorem memWrite_deepFails (a : Nat) (bs : List Byte) : (memWrite a bs s).deepFails = s.deepFails := rfl
@[simp] theorem memWrite_deepSkip (a : Nat) (bs : List Byte) : (memWrite a bs s).deepSkip = s.deepSkip := rfl
@[simp] theorem memWrite_evacuated (a : Nat) (bs : List Byte) : (memWrite a bs s).evacuated = s.evacuated := rfl
@[simp] theorem memWrite_deepLeaving (a : Nat) (bs : List Byte) : (memWrite a bs s).deepLeaving = s.deepLeaving := rfl
@[simp] theorem memWrite_ueLog (a : Nat) (bs : List Byte) : (memWrite a bs s).ueLog = s.ueLog := rfl
@[simp] theorem memWrite_deepUeLog (a : Nat) (bs : List Byte) : (memWrite a bs s).deepUeLog = s.deepUeLog := rfl
@[simp] theorem memWrite_badToks (a : Nat) (bs : List Byte) : (memWrite a bs s).badToks = s.badToks := rfl
@[simp] theorem memWrite_badGrams (a : Nat) (bs : List Byte) : (memWrite a bs s).badGrams = s.badGrams := rfl
@[simp] theorem memWrite_remaps (a : Nat) (bs : List Byte) : (memWrite a bs s).remaps = s.remaps := rfl
@[simp] theorem memWrite_rebuilds (a : Nat) (bs : List Byte) : (memWrite a bs s).rebuilds = s.rebuilds := rfl
@[simp] theorem memWrite_testFails (a : Nat) (bs : List Byte) : (memWrite a bs s).testFails = s.testFails := rfl
@[simp] theorem memWrite_testPat (a : Nat) (bs : List Byte) : (memWrite a bs s).testPat = s.testPat := rfl
@[simp] theorem memWrite_testLast (a : Nat) (bs : List Byte) : (memWrite a bs s).testLast = s.testLast := rfl
@[simp] theorem memWrite_tileDrain (a : Nat) (bs : List Byte) : (memWrite a bs s).tileDrain = s.tileDrain := rfl
@[simp] theorem memWrite_dfPass (a : Nat) (bs : List Byte) : (memWrite a bs s).dfPass = s.dfPass := rfl
@[simp] theorem memWrite_ckpt (a : Nat) (bs : List Byte) : (memWrite a bs s).ckpt = s.ckpt := rfl
@[simp] theorem memWrite_ckptImages (a : Nat) (bs : List Byte) : (memWrite a bs s).ckptImages = s.ckptImages := rfl
@[simp] theorem memWrite_embTabs (a : Nat) (bs : List Byte) : (memWrite a bs s).embTabs = s.embTabs := rfl
@[simp] theorem memWrite_hot (a : Nat) (bs : List Byte) : (memWrite a bs s).hot = s.hot := rfl
@[simp] theorem memWrite_hotLast (a : Nat) (bs : List Byte) : (memWrite a bs s).hotLast = s.hotLast := rfl
@[simp] theorem memWrite_replicas (a : Nat) (bs : List Byte) : (memWrite a bs s).replicas = s.replicas := rfl
@[simp] theorem memWrite_embQ (a : Nat) (bs : List Byte) : (memWrite a bs s).embQ = s.embQ := rfl
@[simp] theorem memWrite_embSeq (a : Nat) (bs : List Byte) : (memWrite a bs s).embSeq = s.embSeq := rfl
@[simp] theorem memWrite_embJobs (a : Nat) (bs : List Byte) : (memWrite a bs s).embJobs = s.embJobs := rfl
@[simp] theorem memWrite_embLooks (a : Nat) (bs : List Byte) : (memWrite a bs s).embLooks = s.embLooks := rfl
@[simp] theorem memWrite_embMoved (a : Nat) (bs : List Byte) : (memWrite a bs s).embMoved = s.embMoved := rfl
@[simp] theorem memWrite_vecs (a : Nat) (bs : List Byte) : (memWrite a bs s).vecs = s.vecs := rfl
@[simp] theorem memWrite_vecQs (a : Nat) (bs : List Byte) : (memWrite a bs s).vecQs = s.vecQs := rfl
@[simp] theorem memWrite_vecSeq (a : Nat) (bs : List Byte) : (memWrite a bs s).vecSeq = s.vecSeq := rfl
@[simp] theorem memWrite_vecJobs (a : Nat) (bs : List Byte) : (memWrite a bs s).vecJobs = s.vecJobs := rfl
@[simp] theorem memWrite_vecCompacts (a : Nat) (bs : List Byte) : (memWrite a bs s).vecCompacts = s.vecCompacts := rfl
@[simp] theorem memWrite_aborts (a : Nat) (bs : List Byte) : (memWrite a bs s).aborts = s.aborts := rfl
@[simp] theorem memWrite_hostOut (a : Nat) (bs : List Byte) : (memWrite a bs s).hostOut = s.hostOut := rfl
@[simp] theorem memWrite_traces (a : Nat) (bs : List Byte) : (memWrite a bs s).traces = s.traces := rfl
@[simp] theorem memWrite_dumps (a : Nat) (bs : List Byte) : (memWrite a bs s).dumps = s.dumps := rfl
@[simp] theorem memWrite_dumpSeq (a : Nat) (bs : List Byte) : (memWrite a bs s).dumpSeq = s.dumpSeq := rfl
@[simp] theorem memWrite_arrTests (a : Nat) (bs : List Byte) : (memWrite a bs s).arrTests = s.arrTests := rfl
@[simp] theorem memWrite_retireWait (a : Nat) (bs : List Byte) : (memWrite a bs s).retireWait = s.retireWait := rfl
@[simp] theorem memWrite_sram (a : Nat) (bs : List Byte) : (memWrite a bs s).sram = s.sram := rfl
@[simp] theorem memWrite_sramDraw (a : Nat) (bs : List Byte) : (memWrite a bs s).sramDraw = s.sramDraw := rfl
@[simp] theorem memWrite_fabOut (a : Nat) (bs : List Byte) : (memWrite a bs s).fabOut = s.fabOut := rfl
@[simp] theorem memWrite_fwdWait (a : Nat) (bs : List Byte) : (memWrite a bs s).fwdWait = s.fwdWait := rfl
@[simp] theorem memWrite_dirKnown (a : Nat) (bs : List Byte) : (memWrite a bs s).dirKnown = s.dirKnown := rfl
@[simp] theorem memWrite_net (a : Nat) (bs : List Byte) : (memWrite a bs s).net = s.net := rfl
@[simp] theorem memWrite_adm (a : Nat) (bs : List Byte) : (memWrite a bs s).adm = s.adm := rfl
@[simp] theorem memWrite_runs (a : Nat) (bs : List Byte) : (memWrite a bs s).runs = s.runs := rfl
@[simp] theorem memWrite_exts (a : Nat) (bs : List Byte) : (memWrite a bs s).exts = s.exts := rfl
@[simp] theorem memWrite_chanWait (a : Nat) (bs : List Byte) : (memWrite a bs s).chanWait = s.chanWait := rfl
@[simp] theorem memWrite_c0Wait (a : Nat) (bs : List Byte) : (memWrite a bs s).c0Wait = s.c0Wait := rfl
@[simp] theorem memWrite_fetchLast (a : Nat) (bs : List Byte) : (memWrite a bs s).fetchLast = s.fetchLast := rfl
@[simp] theorem memWrite_rootCache (a : Nat) (bs : List Byte) : (memWrite a bs s).rootCache = s.rootCache := rfl
@[simp] theorem memWrite_spanJobs (a : Nat) (bs : List Byte) : (memWrite a bs s).spanJobs = s.spanJobs := rfl
@[simp] theorem memWrite_bnkNan (a : Nat) (bs : List Byte) : (memWrite a bs s).bnkNan = s.bnkNan := rfl
@[simp] theorem memWrite_arrDraw (a : Nat) (bs : List Byte) : (memWrite a bs s).arrDraw = s.arrDraw := rfl
@[simp] theorem memWrite_codeMem (a : Nat) (bs : List Byte) : (memWrite a bs s).codeMem = s.codeMem := rfl
@[simp] theorem memWrite_dmaQ (a : Nat) (bs : List Byte) : (memWrite a bs s).dmaQ = s.dmaQ := rfl
@[simp] theorem memWrite_resid (a : Nat) (bs : List Byte) : (memWrite a bs s).resid = s.resid := rfl

@[simp] theorem memClear_pending (a n : Nat) : (memClear a n s).pending = s.pending := rfl
@[simp] theorem memClear_fresh (a n : Nat) : (memClear a n s).fresh = s.fresh := rfl
@[simp] theorem memClear_boots (a n : Nat) : (memClear a n s).boots = s.boots := rfl
@[simp] theorem memClear_pow (a n : Nat) : (memClear a n s).pow = s.pow := rfl
@[simp] theorem memClear_regs (a n : Nat) : (memClear a n s).regs = s.regs := rfl
@[simp] theorem memClear_ltPend (a n : Nat) : (memClear a n s).ltPend = s.ltPend := rfl
@[simp] theorem memClear_shadow (a n : Nat) : (memClear a n s).shadow = s.shadow := rfl
@[simp] theorem memClear_heldWr (a n : Nat) : (memClear a n s).heldWr = s.heldWr := rfl
@[simp] theorem memClear_oldView (a n : Nat) : (memClear a n s).oldView = s.oldView := rfl
@[simp] theorem memClear_cad (a n : Nat) : (memClear a n s).cad = s.cad := rfl
@[simp] theorem memClear_eph (a n : Nat) : (memClear a n s).eph = s.eph := rfl
@[simp] theorem memClear_fenWaits (a n : Nat) : (memClear a n s).fenWaits = s.fenWaits := rfl
@[simp] theorem memClear_desc (a n : Nat) : (memClear a n s).desc = s.desc := rfl
@[simp] theorem memClear_sess (a n : Nat) : (memClear a n s).sess = s.sess := rfl
@[simp] theorem memClear_freeNext (a n : Nat) : (memClear a n s).freeNext = s.freeNext := rfl
@[simp] theorem memClear_freed (a n : Nat) : (memClear a n s).freed = s.freed := rfl
@[simp] theorem memClear_poolBytes (a n : Nat) : (memClear a n s).poolBytes = s.poolBytes := rfl
@[simp] theorem memClear_clsBytes (a n : Nat) : (memClear a n s).clsBytes = s.clsBytes := rfl
@[simp] theorem memClear_chUsed (a n : Nat) : (memClear a n s).chUsed = s.chUsed := rfl
@[simp] theorem memClear_c0Window (a n : Nat) : (memClear a n s).c0Window = s.c0Window := rfl
@[simp] theorem memClear_heldCmds (a n : Nat) : (memClear a n s).heldCmds = s.heldCmds := rfl
@[simp] theorem memClear_dueLate (a n : Nat) : (memClear a n s).dueLate = s.dueLate := rfl
@[simp] theorem memClear_queues (a n : Nat) : (memClear a n s).queues = s.queues := rfl
@[simp] theorem memClear_started (a n : Nat) : (memClear a n s).started = s.started := rfl
@[simp] theorem memClear_cpl (a n : Nat) : (memClear a n s).cpl = s.cpl := rfl
@[simp] theorem memClear_recOut (a n : Nat) : (memClear a n s).recOut = s.recOut := rfl
@[simp] theorem memClear_evHeld (a n : Nat) : (memClear a n s).evHeld = s.evHeld := rfl
@[simp] theorem memClear_evOut (a n : Nat) : (memClear a n s).evOut = s.evOut := rfl
@[simp] theorem memClear_evqPi (a n : Nat) : (memClear a n s).evqPi = s.evqPi := rfl
@[simp] theorem memClear_evqCi (a n : Nat) : (memClear a n s).evqCi = s.evqCi := rfl
@[simp] theorem memClear_coal (a n : Nat) : (memClear a n s).coal = s.coal := rfl
@[simp] theorem memClear_bar4Gib (a n : Nat) : (memClear a n s).bar4Gib = s.bar4Gib := rfl
@[simp] theorem memClear_numVfs (a n : Nat) : (memClear a n s).numVfs = s.numVfs := rfl
@[simp] theorem memClear_msixTab (a n : Nat) : (memClear a n s).msixTab = s.msixTab := rfl
@[simp] theorem memClear_msix (a n : Nat) : (memClear a n s).msix = s.msix := rfl
@[simp] theorem memClear_deepMem (a n : Nat) : (memClear a n s).deepMem = s.deepMem := rfl
@[simp] theorem memClear_transits (a n : Nat) : (memClear a n s).transits = s.transits := rfl
@[simp] theorem memClear_migs (a n : Nat) : (memClear a n s).migs = s.migs := rfl
@[simp] theorem memClear_migSeq (a n : Nat) : (memClear a n s).migSeq = s.migSeq := rfl
@[simp] theorem memClear_tombs (a n : Nat) : (memClear a n s).tombs = s.tombs := rfl
@[simp] theorem memClear_hints (a n : Nat) : (memClear a n s).hints = s.hints := rfl
@[simp] theorem memClear_modelCopyGib (a n : Nat) : (memClear a n s).modelCopyGib = s.modelCopyGib := rfl
@[simp] theorem memClear_ckptGib (a n : Nat) : (memClear a n s).ckptGib = s.ckptGib := rfl
@[simp] theorem memClear_chunkMap (a n : Nat) : (memClear a n s).chunkMap = s.chunkMap := rfl
@[simp] theorem memClear_moving (a n : Nat) : (memClear a n s).moving = s.moving := rfl
@[simp] theorem memClear_hostUnits (a n : Nat) : (memClear a n s).hostUnits = s.hostUnits := rfl
@[simp] theorem memClear_models (a n : Nat) : (memClear a n s).models = s.models := rfl
@[simp] theorem memClear_keyExts (a n : Nat) : (memClear a n s).keyExts = s.keyExts := rfl
@[simp] theorem memClear_fetchQ (a n : Nat) : (memClear a n s).fetchQ = s.fetchQ := rfl
@[simp] theorem memClear_fetchFly (a n : Nat) : (memClear a n s).fetchFly = s.fetchFly := rfl
@[simp] theorem memClear_returnReq (a n : Nat) : (memClear a n s).returnReq = s.returnReq := rfl
@[simp] theorem memClear_vecChans (a n : Nat) : (memClear a n s).vecChans = s.vecChans := rfl
@[simp] theorem memClear_parts (a n : Nat) : (memClear a n s).parts = s.parts := rfl
@[simp] theorem memClear_evicting (a n : Nat) : (memClear a n s).evicting = s.evicting := rfl
@[simp] theorem memClear_tokSets (a n : Nat) : (memClear a n s).tokSets = s.tokSets := rfl
@[simp] theorem memClear_grams (a n : Nat) : (memClear a n s).grams = s.grams := rfl
@[simp] theorem memClear_maskQ (a n : Nat) : (memClear a n s).maskQ = s.maskQ := rfl
@[simp] theorem memClear_bankQ (a n : Nat) : (memClear a n s).bankQ = s.bankQ := rfl
@[simp] theorem memClear_deepTrained (a n : Nat) : (memClear a n s).deepTrained = s.deepTrained := rfl
@[simp] theorem memClear_deepFails (a n : Nat) : (memClear a n s).deepFails = s.deepFails := rfl
@[simp] theorem memClear_deepSkip (a n : Nat) : (memClear a n s).deepSkip = s.deepSkip := rfl
@[simp] theorem memClear_evacuated (a n : Nat) : (memClear a n s).evacuated = s.evacuated := rfl
@[simp] theorem memClear_deepLeaving (a n : Nat) : (memClear a n s).deepLeaving = s.deepLeaving := rfl
@[simp] theorem memClear_ueLog (a n : Nat) : (memClear a n s).ueLog = s.ueLog := rfl
@[simp] theorem memClear_deepUeLog (a n : Nat) : (memClear a n s).deepUeLog = s.deepUeLog := rfl
@[simp] theorem memClear_badToks (a n : Nat) : (memClear a n s).badToks = s.badToks := rfl
@[simp] theorem memClear_badGrams (a n : Nat) : (memClear a n s).badGrams = s.badGrams := rfl
@[simp] theorem memClear_remaps (a n : Nat) : (memClear a n s).remaps = s.remaps := rfl
@[simp] theorem memClear_rebuilds (a n : Nat) : (memClear a n s).rebuilds = s.rebuilds := rfl
@[simp] theorem memClear_testFails (a n : Nat) : (memClear a n s).testFails = s.testFails := rfl
@[simp] theorem memClear_testPat (a n : Nat) : (memClear a n s).testPat = s.testPat := rfl
@[simp] theorem memClear_testLast (a n : Nat) : (memClear a n s).testLast = s.testLast := rfl
@[simp] theorem memClear_tileDrain (a n : Nat) : (memClear a n s).tileDrain = s.tileDrain := rfl
@[simp] theorem memClear_dfPass (a n : Nat) : (memClear a n s).dfPass = s.dfPass := rfl
@[simp] theorem memClear_ckpt (a n : Nat) : (memClear a n s).ckpt = s.ckpt := rfl
@[simp] theorem memClear_ckptImages (a n : Nat) : (memClear a n s).ckptImages = s.ckptImages := rfl
@[simp] theorem memClear_embTabs (a n : Nat) : (memClear a n s).embTabs = s.embTabs := rfl
@[simp] theorem memClear_hot (a n : Nat) : (memClear a n s).hot = s.hot := rfl
@[simp] theorem memClear_hotLast (a n : Nat) : (memClear a n s).hotLast = s.hotLast := rfl
@[simp] theorem memClear_replicas (a n : Nat) : (memClear a n s).replicas = s.replicas := rfl
@[simp] theorem memClear_embQ (a n : Nat) : (memClear a n s).embQ = s.embQ := rfl
@[simp] theorem memClear_embSeq (a n : Nat) : (memClear a n s).embSeq = s.embSeq := rfl
@[simp] theorem memClear_embJobs (a n : Nat) : (memClear a n s).embJobs = s.embJobs := rfl
@[simp] theorem memClear_embLooks (a n : Nat) : (memClear a n s).embLooks = s.embLooks := rfl
@[simp] theorem memClear_embMoved (a n : Nat) : (memClear a n s).embMoved = s.embMoved := rfl
@[simp] theorem memClear_vecs (a n : Nat) : (memClear a n s).vecs = s.vecs := rfl
@[simp] theorem memClear_vecQs (a n : Nat) : (memClear a n s).vecQs = s.vecQs := rfl
@[simp] theorem memClear_vecSeq (a n : Nat) : (memClear a n s).vecSeq = s.vecSeq := rfl
@[simp] theorem memClear_vecJobs (a n : Nat) : (memClear a n s).vecJobs = s.vecJobs := rfl
@[simp] theorem memClear_vecCompacts (a n : Nat) : (memClear a n s).vecCompacts = s.vecCompacts := rfl
@[simp] theorem memClear_aborts (a n : Nat) : (memClear a n s).aborts = s.aborts := rfl
@[simp] theorem memClear_hostOut (a n : Nat) : (memClear a n s).hostOut = s.hostOut := rfl
@[simp] theorem memClear_traces (a n : Nat) : (memClear a n s).traces = s.traces := rfl
@[simp] theorem memClear_dumps (a n : Nat) : (memClear a n s).dumps = s.dumps := rfl
@[simp] theorem memClear_dumpSeq (a n : Nat) : (memClear a n s).dumpSeq = s.dumpSeq := rfl
@[simp] theorem memClear_arrTests (a n : Nat) : (memClear a n s).arrTests = s.arrTests := rfl
@[simp] theorem memClear_retireWait (a n : Nat) : (memClear a n s).retireWait = s.retireWait := rfl
@[simp] theorem memClear_sram (a n : Nat) : (memClear a n s).sram = s.sram := rfl
@[simp] theorem memClear_sramDraw (a n : Nat) : (memClear a n s).sramDraw = s.sramDraw := rfl
@[simp] theorem memClear_fabOut (a n : Nat) : (memClear a n s).fabOut = s.fabOut := rfl
@[simp] theorem memClear_fwdWait (a n : Nat) : (memClear a n s).fwdWait = s.fwdWait := rfl
@[simp] theorem memClear_dirKnown (a n : Nat) : (memClear a n s).dirKnown = s.dirKnown := rfl
@[simp] theorem memClear_net (a n : Nat) : (memClear a n s).net = s.net := rfl
@[simp] theorem memClear_adm (a n : Nat) : (memClear a n s).adm = s.adm := rfl
@[simp] theorem memClear_runs (a n : Nat) : (memClear a n s).runs = s.runs := rfl
@[simp] theorem memClear_exts (a n : Nat) : (memClear a n s).exts = s.exts := rfl
@[simp] theorem memClear_chanWait (a n : Nat) : (memClear a n s).chanWait = s.chanWait := rfl
@[simp] theorem memClear_c0Wait (a n : Nat) : (memClear a n s).c0Wait = s.c0Wait := rfl
@[simp] theorem memClear_fetchLast (a n : Nat) : (memClear a n s).fetchLast = s.fetchLast := rfl
@[simp] theorem memClear_rootCache (a n : Nat) : (memClear a n s).rootCache = s.rootCache := rfl
@[simp] theorem memClear_spanJobs (a n : Nat) : (memClear a n s).spanJobs = s.spanJobs := rfl
@[simp] theorem memClear_bnkNan (a n : Nat) : (memClear a n s).bnkNan = s.bnkNan := rfl
@[simp] theorem memClear_arrDraw (a n : Nat) : (memClear a n s).arrDraw = s.arrDraw := rfl
@[simp] theorem memClear_codeMem (a n : Nat) : (memClear a n s).codeMem = s.codeMem := rfl
@[simp] theorem memClear_dmaQ (a n : Nat) : (memClear a n s).dmaQ = s.dmaQ := rfl
@[simp] theorem memClear_resid (a n : Nat) : (memClear a n s).resid = s.resid := rfl

@[simp] theorem deepWrite_pending (a : Nat) (bs : List Byte) : (deepWrite a bs s).pending = s.pending := rfl
@[simp] theorem deepWrite_fresh (a : Nat) (bs : List Byte) : (deepWrite a bs s).fresh = s.fresh := rfl
@[simp] theorem deepWrite_boots (a : Nat) (bs : List Byte) : (deepWrite a bs s).boots = s.boots := rfl
@[simp] theorem deepWrite_pow (a : Nat) (bs : List Byte) : (deepWrite a bs s).pow = s.pow := rfl
@[simp] theorem deepWrite_regs (a : Nat) (bs : List Byte) : (deepWrite a bs s).regs = s.regs := rfl
@[simp] theorem deepWrite_ltPend (a : Nat) (bs : List Byte) : (deepWrite a bs s).ltPend = s.ltPend := rfl
@[simp] theorem deepWrite_shadow (a : Nat) (bs : List Byte) : (deepWrite a bs s).shadow = s.shadow := rfl
@[simp] theorem deepWrite_heldWr (a : Nat) (bs : List Byte) : (deepWrite a bs s).heldWr = s.heldWr := rfl
@[simp] theorem deepWrite_oldView (a : Nat) (bs : List Byte) : (deepWrite a bs s).oldView = s.oldView := rfl
@[simp] theorem deepWrite_cad (a : Nat) (bs : List Byte) : (deepWrite a bs s).cad = s.cad := rfl
@[simp] theorem deepWrite_eph (a : Nat) (bs : List Byte) : (deepWrite a bs s).eph = s.eph := rfl
@[simp] theorem deepWrite_fenWaits (a : Nat) (bs : List Byte) : (deepWrite a bs s).fenWaits = s.fenWaits := rfl
@[simp] theorem deepWrite_desc (a : Nat) (bs : List Byte) : (deepWrite a bs s).desc = s.desc := rfl
@[simp] theorem deepWrite_sess (a : Nat) (bs : List Byte) : (deepWrite a bs s).sess = s.sess := rfl
@[simp] theorem deepWrite_freeNext (a : Nat) (bs : List Byte) : (deepWrite a bs s).freeNext = s.freeNext := rfl
@[simp] theorem deepWrite_freed (a : Nat) (bs : List Byte) : (deepWrite a bs s).freed = s.freed := rfl
@[simp] theorem deepWrite_poolBytes (a : Nat) (bs : List Byte) : (deepWrite a bs s).poolBytes = s.poolBytes := rfl
@[simp] theorem deepWrite_clsBytes (a : Nat) (bs : List Byte) : (deepWrite a bs s).clsBytes = s.clsBytes := rfl
@[simp] theorem deepWrite_chUsed (a : Nat) (bs : List Byte) : (deepWrite a bs s).chUsed = s.chUsed := rfl
@[simp] theorem deepWrite_c0Window (a : Nat) (bs : List Byte) : (deepWrite a bs s).c0Window = s.c0Window := rfl
@[simp] theorem deepWrite_heldCmds (a : Nat) (bs : List Byte) : (deepWrite a bs s).heldCmds = s.heldCmds := rfl
@[simp] theorem deepWrite_dueLate (a : Nat) (bs : List Byte) : (deepWrite a bs s).dueLate = s.dueLate := rfl
@[simp] theorem deepWrite_queues (a : Nat) (bs : List Byte) : (deepWrite a bs s).queues = s.queues := rfl
@[simp] theorem deepWrite_started (a : Nat) (bs : List Byte) : (deepWrite a bs s).started = s.started := rfl
@[simp] theorem deepWrite_cpl (a : Nat) (bs : List Byte) : (deepWrite a bs s).cpl = s.cpl := rfl
@[simp] theorem deepWrite_recOut (a : Nat) (bs : List Byte) : (deepWrite a bs s).recOut = s.recOut := rfl
@[simp] theorem deepWrite_evHeld (a : Nat) (bs : List Byte) : (deepWrite a bs s).evHeld = s.evHeld := rfl
@[simp] theorem deepWrite_evOut (a : Nat) (bs : List Byte) : (deepWrite a bs s).evOut = s.evOut := rfl
@[simp] theorem deepWrite_evqPi (a : Nat) (bs : List Byte) : (deepWrite a bs s).evqPi = s.evqPi := rfl
@[simp] theorem deepWrite_evqCi (a : Nat) (bs : List Byte) : (deepWrite a bs s).evqCi = s.evqCi := rfl
@[simp] theorem deepWrite_coal (a : Nat) (bs : List Byte) : (deepWrite a bs s).coal = s.coal := rfl
@[simp] theorem deepWrite_bar4Gib (a : Nat) (bs : List Byte) : (deepWrite a bs s).bar4Gib = s.bar4Gib := rfl
@[simp] theorem deepWrite_numVfs (a : Nat) (bs : List Byte) : (deepWrite a bs s).numVfs = s.numVfs := rfl
@[simp] theorem deepWrite_msixTab (a : Nat) (bs : List Byte) : (deepWrite a bs s).msixTab = s.msixTab := rfl
@[simp] theorem deepWrite_msix (a : Nat) (bs : List Byte) : (deepWrite a bs s).msix = s.msix := rfl
@[simp] theorem deepWrite_mem (a : Nat) (bs : List Byte) : (deepWrite a bs s).mem = s.mem := rfl
@[simp] theorem deepWrite_transits (a : Nat) (bs : List Byte) : (deepWrite a bs s).transits = s.transits := rfl
@[simp] theorem deepWrite_migs (a : Nat) (bs : List Byte) : (deepWrite a bs s).migs = s.migs := rfl
@[simp] theorem deepWrite_migSeq (a : Nat) (bs : List Byte) : (deepWrite a bs s).migSeq = s.migSeq := rfl
@[simp] theorem deepWrite_tombs (a : Nat) (bs : List Byte) : (deepWrite a bs s).tombs = s.tombs := rfl
@[simp] theorem deepWrite_hints (a : Nat) (bs : List Byte) : (deepWrite a bs s).hints = s.hints := rfl
@[simp] theorem deepWrite_modelCopyGib (a : Nat) (bs : List Byte) : (deepWrite a bs s).modelCopyGib = s.modelCopyGib := rfl
@[simp] theorem deepWrite_ckptGib (a : Nat) (bs : List Byte) : (deepWrite a bs s).ckptGib = s.ckptGib := rfl
@[simp] theorem deepWrite_chunkMap (a : Nat) (bs : List Byte) : (deepWrite a bs s).chunkMap = s.chunkMap := rfl
@[simp] theorem deepWrite_moving (a : Nat) (bs : List Byte) : (deepWrite a bs s).moving = s.moving := rfl
@[simp] theorem deepWrite_hostUnits (a : Nat) (bs : List Byte) : (deepWrite a bs s).hostUnits = s.hostUnits := rfl
@[simp] theorem deepWrite_models (a : Nat) (bs : List Byte) : (deepWrite a bs s).models = s.models := rfl
@[simp] theorem deepWrite_keyExts (a : Nat) (bs : List Byte) : (deepWrite a bs s).keyExts = s.keyExts := rfl
@[simp] theorem deepWrite_fetchQ (a : Nat) (bs : List Byte) : (deepWrite a bs s).fetchQ = s.fetchQ := rfl
@[simp] theorem deepWrite_fetchFly (a : Nat) (bs : List Byte) : (deepWrite a bs s).fetchFly = s.fetchFly := rfl
@[simp] theorem deepWrite_returnReq (a : Nat) (bs : List Byte) : (deepWrite a bs s).returnReq = s.returnReq := rfl
@[simp] theorem deepWrite_vecChans (a : Nat) (bs : List Byte) : (deepWrite a bs s).vecChans = s.vecChans := rfl
@[simp] theorem deepWrite_parts (a : Nat) (bs : List Byte) : (deepWrite a bs s).parts = s.parts := rfl
@[simp] theorem deepWrite_evicting (a : Nat) (bs : List Byte) : (deepWrite a bs s).evicting = s.evicting := rfl
@[simp] theorem deepWrite_tokSets (a : Nat) (bs : List Byte) : (deepWrite a bs s).tokSets = s.tokSets := rfl
@[simp] theorem deepWrite_grams (a : Nat) (bs : List Byte) : (deepWrite a bs s).grams = s.grams := rfl
@[simp] theorem deepWrite_maskQ (a : Nat) (bs : List Byte) : (deepWrite a bs s).maskQ = s.maskQ := rfl
@[simp] theorem deepWrite_bankQ (a : Nat) (bs : List Byte) : (deepWrite a bs s).bankQ = s.bankQ := rfl
@[simp] theorem deepWrite_deepTrained (a : Nat) (bs : List Byte) : (deepWrite a bs s).deepTrained = s.deepTrained := rfl
@[simp] theorem deepWrite_deepFails (a : Nat) (bs : List Byte) : (deepWrite a bs s).deepFails = s.deepFails := rfl
@[simp] theorem deepWrite_deepSkip (a : Nat) (bs : List Byte) : (deepWrite a bs s).deepSkip = s.deepSkip := rfl
@[simp] theorem deepWrite_evacuated (a : Nat) (bs : List Byte) : (deepWrite a bs s).evacuated = s.evacuated := rfl
@[simp] theorem deepWrite_deepLeaving (a : Nat) (bs : List Byte) : (deepWrite a bs s).deepLeaving = s.deepLeaving := rfl
@[simp] theorem deepWrite_ueLog (a : Nat) (bs : List Byte) : (deepWrite a bs s).ueLog = s.ueLog := rfl
@[simp] theorem deepWrite_deepUeLog (a : Nat) (bs : List Byte) : (deepWrite a bs s).deepUeLog = s.deepUeLog := rfl
@[simp] theorem deepWrite_poison (a : Nat) (bs : List Byte) : (deepWrite a bs s).poison = s.poison := rfl
@[simp] theorem deepWrite_badToks (a : Nat) (bs : List Byte) : (deepWrite a bs s).badToks = s.badToks := rfl
@[simp] theorem deepWrite_badGrams (a : Nat) (bs : List Byte) : (deepWrite a bs s).badGrams = s.badGrams := rfl
@[simp] theorem deepWrite_remaps (a : Nat) (bs : List Byte) : (deepWrite a bs s).remaps = s.remaps := rfl
@[simp] theorem deepWrite_rebuilds (a : Nat) (bs : List Byte) : (deepWrite a bs s).rebuilds = s.rebuilds := rfl
@[simp] theorem deepWrite_testFails (a : Nat) (bs : List Byte) : (deepWrite a bs s).testFails = s.testFails := rfl
@[simp] theorem deepWrite_testPat (a : Nat) (bs : List Byte) : (deepWrite a bs s).testPat = s.testPat := rfl
@[simp] theorem deepWrite_testLast (a : Nat) (bs : List Byte) : (deepWrite a bs s).testLast = s.testLast := rfl
@[simp] theorem deepWrite_tileDrain (a : Nat) (bs : List Byte) : (deepWrite a bs s).tileDrain = s.tileDrain := rfl
@[simp] theorem deepWrite_dfPass (a : Nat) (bs : List Byte) : (deepWrite a bs s).dfPass = s.dfPass := rfl
@[simp] theorem deepWrite_ckpt (a : Nat) (bs : List Byte) : (deepWrite a bs s).ckpt = s.ckpt := rfl
@[simp] theorem deepWrite_ckptImages (a : Nat) (bs : List Byte) : (deepWrite a bs s).ckptImages = s.ckptImages := rfl
@[simp] theorem deepWrite_embTabs (a : Nat) (bs : List Byte) : (deepWrite a bs s).embTabs = s.embTabs := rfl
@[simp] theorem deepWrite_hot (a : Nat) (bs : List Byte) : (deepWrite a bs s).hot = s.hot := rfl
@[simp] theorem deepWrite_hotLast (a : Nat) (bs : List Byte) : (deepWrite a bs s).hotLast = s.hotLast := rfl
@[simp] theorem deepWrite_replicas (a : Nat) (bs : List Byte) : (deepWrite a bs s).replicas = s.replicas := rfl
@[simp] theorem deepWrite_embQ (a : Nat) (bs : List Byte) : (deepWrite a bs s).embQ = s.embQ := rfl
@[simp] theorem deepWrite_embSeq (a : Nat) (bs : List Byte) : (deepWrite a bs s).embSeq = s.embSeq := rfl
@[simp] theorem deepWrite_embJobs (a : Nat) (bs : List Byte) : (deepWrite a bs s).embJobs = s.embJobs := rfl
@[simp] theorem deepWrite_embLooks (a : Nat) (bs : List Byte) : (deepWrite a bs s).embLooks = s.embLooks := rfl
@[simp] theorem deepWrite_embMoved (a : Nat) (bs : List Byte) : (deepWrite a bs s).embMoved = s.embMoved := rfl
@[simp] theorem deepWrite_vecs (a : Nat) (bs : List Byte) : (deepWrite a bs s).vecs = s.vecs := rfl
@[simp] theorem deepWrite_vecQs (a : Nat) (bs : List Byte) : (deepWrite a bs s).vecQs = s.vecQs := rfl
@[simp] theorem deepWrite_vecSeq (a : Nat) (bs : List Byte) : (deepWrite a bs s).vecSeq = s.vecSeq := rfl
@[simp] theorem deepWrite_vecJobs (a : Nat) (bs : List Byte) : (deepWrite a bs s).vecJobs = s.vecJobs := rfl
@[simp] theorem deepWrite_vecCompacts (a : Nat) (bs : List Byte) : (deepWrite a bs s).vecCompacts = s.vecCompacts := rfl
@[simp] theorem deepWrite_aborts (a : Nat) (bs : List Byte) : (deepWrite a bs s).aborts = s.aborts := rfl
@[simp] theorem deepWrite_hostOut (a : Nat) (bs : List Byte) : (deepWrite a bs s).hostOut = s.hostOut := rfl
@[simp] theorem deepWrite_traces (a : Nat) (bs : List Byte) : (deepWrite a bs s).traces = s.traces := rfl
@[simp] theorem deepWrite_dumps (a : Nat) (bs : List Byte) : (deepWrite a bs s).dumps = s.dumps := rfl
@[simp] theorem deepWrite_dumpSeq (a : Nat) (bs : List Byte) : (deepWrite a bs s).dumpSeq = s.dumpSeq := rfl
@[simp] theorem deepWrite_arrTests (a : Nat) (bs : List Byte) : (deepWrite a bs s).arrTests = s.arrTests := rfl
@[simp] theorem deepWrite_retireWait (a : Nat) (bs : List Byte) : (deepWrite a bs s).retireWait = s.retireWait := rfl
@[simp] theorem deepWrite_sram (a : Nat) (bs : List Byte) : (deepWrite a bs s).sram = s.sram := rfl
@[simp] theorem deepWrite_sramDraw (a : Nat) (bs : List Byte) : (deepWrite a bs s).sramDraw = s.sramDraw := rfl
@[simp] theorem deepWrite_fabOut (a : Nat) (bs : List Byte) : (deepWrite a bs s).fabOut = s.fabOut := rfl
@[simp] theorem deepWrite_fwdWait (a : Nat) (bs : List Byte) : (deepWrite a bs s).fwdWait = s.fwdWait := rfl
@[simp] theorem deepWrite_dirKnown (a : Nat) (bs : List Byte) : (deepWrite a bs s).dirKnown = s.dirKnown := rfl
@[simp] theorem deepWrite_net (a : Nat) (bs : List Byte) : (deepWrite a bs s).net = s.net := rfl
@[simp] theorem deepWrite_adm (a : Nat) (bs : List Byte) : (deepWrite a bs s).adm = s.adm := rfl
@[simp] theorem deepWrite_runs (a : Nat) (bs : List Byte) : (deepWrite a bs s).runs = s.runs := rfl
@[simp] theorem deepWrite_exts (a : Nat) (bs : List Byte) : (deepWrite a bs s).exts = s.exts := rfl
@[simp] theorem deepWrite_chanWait (a : Nat) (bs : List Byte) : (deepWrite a bs s).chanWait = s.chanWait := rfl
@[simp] theorem deepWrite_c0Wait (a : Nat) (bs : List Byte) : (deepWrite a bs s).c0Wait = s.c0Wait := rfl
@[simp] theorem deepWrite_fetchLast (a : Nat) (bs : List Byte) : (deepWrite a bs s).fetchLast = s.fetchLast := rfl
@[simp] theorem deepWrite_rootCache (a : Nat) (bs : List Byte) : (deepWrite a bs s).rootCache = s.rootCache := rfl
@[simp] theorem deepWrite_spanJobs (a : Nat) (bs : List Byte) : (deepWrite a bs s).spanJobs = s.spanJobs := rfl
@[simp] theorem deepWrite_bnkNan (a : Nat) (bs : List Byte) : (deepWrite a bs s).bnkNan = s.bnkNan := rfl
@[simp] theorem deepWrite_arrDraw (a : Nat) (bs : List Byte) : (deepWrite a bs s).arrDraw = s.arrDraw := rfl
@[simp] theorem deepWrite_codeMem (a : Nat) (bs : List Byte) : (deepWrite a bs s).codeMem = s.codeMem := rfl
@[simp] theorem deepWrite_dmaQ (a : Nat) (bs : List Byte) : (deepWrite a bs s).dmaQ = s.dmaQ := rfl
@[simp] theorem deepWrite_resid (a : Nat) (bs : List Byte) : (deepWrite a bs s).resid = s.resid := rfl

@[simp] theorem putSess_pending (i : Nat) (x : Sess) : (putSess i x s).pending = s.pending := rfl
@[simp] theorem putSess_fresh (i : Nat) (x : Sess) : (putSess i x s).fresh = s.fresh := rfl
@[simp] theorem putSess_boots (i : Nat) (x : Sess) : (putSess i x s).boots = s.boots := rfl
@[simp] theorem putSess_pow (i : Nat) (x : Sess) : (putSess i x s).pow = s.pow := rfl
@[simp] theorem putSess_regs (i : Nat) (x : Sess) : (putSess i x s).regs = s.regs := rfl
@[simp] theorem putSess_ltPend (i : Nat) (x : Sess) : (putSess i x s).ltPend = s.ltPend := rfl
@[simp] theorem putSess_shadow (i : Nat) (x : Sess) : (putSess i x s).shadow = s.shadow := rfl
@[simp] theorem putSess_heldWr (i : Nat) (x : Sess) : (putSess i x s).heldWr = s.heldWr := rfl
@[simp] theorem putSess_oldView (i : Nat) (x : Sess) : (putSess i x s).oldView = s.oldView := rfl
@[simp] theorem putSess_cad (i : Nat) (x : Sess) : (putSess i x s).cad = s.cad := rfl
@[simp] theorem putSess_eph (i : Nat) (x : Sess) : (putSess i x s).eph = s.eph := rfl
@[simp] theorem putSess_fenWaits (i : Nat) (x : Sess) : (putSess i x s).fenWaits = s.fenWaits := rfl
@[simp] theorem putSess_desc (i : Nat) (x : Sess) : (putSess i x s).desc = s.desc := rfl
@[simp] theorem putSess_freeNext (i : Nat) (x : Sess) : (putSess i x s).freeNext = s.freeNext := rfl
@[simp] theorem putSess_freed (i : Nat) (x : Sess) : (putSess i x s).freed = s.freed := rfl
@[simp] theorem putSess_poolBytes (i : Nat) (x : Sess) : (putSess i x s).poolBytes = s.poolBytes := rfl
@[simp] theorem putSess_clsBytes (i : Nat) (x : Sess) : (putSess i x s).clsBytes = s.clsBytes := rfl
@[simp] theorem putSess_chUsed (i : Nat) (x : Sess) : (putSess i x s).chUsed = s.chUsed := rfl
@[simp] theorem putSess_c0Window (i : Nat) (x : Sess) : (putSess i x s).c0Window = s.c0Window := rfl
@[simp] theorem putSess_heldCmds (i : Nat) (x : Sess) : (putSess i x s).heldCmds = s.heldCmds := rfl
@[simp] theorem putSess_dueLate (i : Nat) (x : Sess) : (putSess i x s).dueLate = s.dueLate := rfl
@[simp] theorem putSess_queues (i : Nat) (x : Sess) : (putSess i x s).queues = s.queues := rfl
@[simp] theorem putSess_started (i : Nat) (x : Sess) : (putSess i x s).started = s.started := rfl
@[simp] theorem putSess_cpl (i : Nat) (x : Sess) : (putSess i x s).cpl = s.cpl := rfl
@[simp] theorem putSess_recOut (i : Nat) (x : Sess) : (putSess i x s).recOut = s.recOut := rfl
@[simp] theorem putSess_evHeld (i : Nat) (x : Sess) : (putSess i x s).evHeld = s.evHeld := rfl
@[simp] theorem putSess_evOut (i : Nat) (x : Sess) : (putSess i x s).evOut = s.evOut := rfl
@[simp] theorem putSess_evqPi (i : Nat) (x : Sess) : (putSess i x s).evqPi = s.evqPi := rfl
@[simp] theorem putSess_evqCi (i : Nat) (x : Sess) : (putSess i x s).evqCi = s.evqCi := rfl
@[simp] theorem putSess_coal (i : Nat) (x : Sess) : (putSess i x s).coal = s.coal := rfl
@[simp] theorem putSess_bar4Gib (i : Nat) (x : Sess) : (putSess i x s).bar4Gib = s.bar4Gib := rfl
@[simp] theorem putSess_numVfs (i : Nat) (x : Sess) : (putSess i x s).numVfs = s.numVfs := rfl
@[simp] theorem putSess_msixTab (i : Nat) (x : Sess) : (putSess i x s).msixTab = s.msixTab := rfl
@[simp] theorem putSess_msix (i : Nat) (x : Sess) : (putSess i x s).msix = s.msix := rfl
@[simp] theorem putSess_mem (i : Nat) (x : Sess) : (putSess i x s).mem = s.mem := rfl
@[simp] theorem putSess_deepMem (i : Nat) (x : Sess) : (putSess i x s).deepMem = s.deepMem := rfl
@[simp] theorem putSess_transits (i : Nat) (x : Sess) : (putSess i x s).transits = s.transits := rfl
@[simp] theorem putSess_migs (i : Nat) (x : Sess) : (putSess i x s).migs = s.migs := rfl
@[simp] theorem putSess_migSeq (i : Nat) (x : Sess) : (putSess i x s).migSeq = s.migSeq := rfl
@[simp] theorem putSess_tombs (i : Nat) (x : Sess) : (putSess i x s).tombs = s.tombs := rfl
@[simp] theorem putSess_hints (i : Nat) (x : Sess) : (putSess i x s).hints = s.hints := rfl
@[simp] theorem putSess_modelCopyGib (i : Nat) (x : Sess) : (putSess i x s).modelCopyGib = s.modelCopyGib := rfl
@[simp] theorem putSess_ckptGib (i : Nat) (x : Sess) : (putSess i x s).ckptGib = s.ckptGib := rfl
@[simp] theorem putSess_chunkMap (i : Nat) (x : Sess) : (putSess i x s).chunkMap = s.chunkMap := rfl
@[simp] theorem putSess_moving (i : Nat) (x : Sess) : (putSess i x s).moving = s.moving := rfl
@[simp] theorem putSess_hostUnits (i : Nat) (x : Sess) : (putSess i x s).hostUnits = s.hostUnits := rfl
@[simp] theorem putSess_models (i : Nat) (x : Sess) : (putSess i x s).models = s.models := rfl
@[simp] theorem putSess_keyExts (i : Nat) (x : Sess) : (putSess i x s).keyExts = s.keyExts := rfl
@[simp] theorem putSess_fetchQ (i : Nat) (x : Sess) : (putSess i x s).fetchQ = s.fetchQ := rfl
@[simp] theorem putSess_fetchFly (i : Nat) (x : Sess) : (putSess i x s).fetchFly = s.fetchFly := rfl
@[simp] theorem putSess_returnReq (i : Nat) (x : Sess) : (putSess i x s).returnReq = s.returnReq := rfl
@[simp] theorem putSess_vecChans (i : Nat) (x : Sess) : (putSess i x s).vecChans = s.vecChans := rfl
@[simp] theorem putSess_parts (i : Nat) (x : Sess) : (putSess i x s).parts = s.parts := rfl
@[simp] theorem putSess_evicting (i : Nat) (x : Sess) : (putSess i x s).evicting = s.evicting := rfl
@[simp] theorem putSess_tokSets (i : Nat) (x : Sess) : (putSess i x s).tokSets = s.tokSets := rfl
@[simp] theorem putSess_grams (i : Nat) (x : Sess) : (putSess i x s).grams = s.grams := rfl
@[simp] theorem putSess_maskQ (i : Nat) (x : Sess) : (putSess i x s).maskQ = s.maskQ := rfl
@[simp] theorem putSess_bankQ (i : Nat) (x : Sess) : (putSess i x s).bankQ = s.bankQ := rfl
@[simp] theorem putSess_deepTrained (i : Nat) (x : Sess) : (putSess i x s).deepTrained = s.deepTrained := rfl
@[simp] theorem putSess_deepFails (i : Nat) (x : Sess) : (putSess i x s).deepFails = s.deepFails := rfl
@[simp] theorem putSess_deepSkip (i : Nat) (x : Sess) : (putSess i x s).deepSkip = s.deepSkip := rfl
@[simp] theorem putSess_evacuated (i : Nat) (x : Sess) : (putSess i x s).evacuated = s.evacuated := rfl
@[simp] theorem putSess_deepLeaving (i : Nat) (x : Sess) : (putSess i x s).deepLeaving = s.deepLeaving := rfl
@[simp] theorem putSess_ueLog (i : Nat) (x : Sess) : (putSess i x s).ueLog = s.ueLog := rfl
@[simp] theorem putSess_deepUeLog (i : Nat) (x : Sess) : (putSess i x s).deepUeLog = s.deepUeLog := rfl
@[simp] theorem putSess_poison (i : Nat) (x : Sess) : (putSess i x s).poison = s.poison := rfl
@[simp] theorem putSess_badToks (i : Nat) (x : Sess) : (putSess i x s).badToks = s.badToks := rfl
@[simp] theorem putSess_badGrams (i : Nat) (x : Sess) : (putSess i x s).badGrams = s.badGrams := rfl
@[simp] theorem putSess_remaps (i : Nat) (x : Sess) : (putSess i x s).remaps = s.remaps := rfl
@[simp] theorem putSess_rebuilds (i : Nat) (x : Sess) : (putSess i x s).rebuilds = s.rebuilds := rfl
@[simp] theorem putSess_testFails (i : Nat) (x : Sess) : (putSess i x s).testFails = s.testFails := rfl
@[simp] theorem putSess_testPat (i : Nat) (x : Sess) : (putSess i x s).testPat = s.testPat := rfl
@[simp] theorem putSess_testLast (i : Nat) (x : Sess) : (putSess i x s).testLast = s.testLast := rfl
@[simp] theorem putSess_tileDrain (i : Nat) (x : Sess) : (putSess i x s).tileDrain = s.tileDrain := rfl
@[simp] theorem putSess_dfPass (i : Nat) (x : Sess) : (putSess i x s).dfPass = s.dfPass := rfl
@[simp] theorem putSess_ckpt (i : Nat) (x : Sess) : (putSess i x s).ckpt = s.ckpt := rfl
@[simp] theorem putSess_ckptImages (i : Nat) (x : Sess) : (putSess i x s).ckptImages = s.ckptImages := rfl
@[simp] theorem putSess_embTabs (i : Nat) (x : Sess) : (putSess i x s).embTabs = s.embTabs := rfl
@[simp] theorem putSess_hot (i : Nat) (x : Sess) : (putSess i x s).hot = s.hot := rfl
@[simp] theorem putSess_hotLast (i : Nat) (x : Sess) : (putSess i x s).hotLast = s.hotLast := rfl
@[simp] theorem putSess_replicas (i : Nat) (x : Sess) : (putSess i x s).replicas = s.replicas := rfl
@[simp] theorem putSess_embQ (i : Nat) (x : Sess) : (putSess i x s).embQ = s.embQ := rfl
@[simp] theorem putSess_embSeq (i : Nat) (x : Sess) : (putSess i x s).embSeq = s.embSeq := rfl
@[simp] theorem putSess_embJobs (i : Nat) (x : Sess) : (putSess i x s).embJobs = s.embJobs := rfl
@[simp] theorem putSess_embLooks (i : Nat) (x : Sess) : (putSess i x s).embLooks = s.embLooks := rfl
@[simp] theorem putSess_embMoved (i : Nat) (x : Sess) : (putSess i x s).embMoved = s.embMoved := rfl
@[simp] theorem putSess_vecs (i : Nat) (x : Sess) : (putSess i x s).vecs = s.vecs := rfl
@[simp] theorem putSess_vecQs (i : Nat) (x : Sess) : (putSess i x s).vecQs = s.vecQs := rfl
@[simp] theorem putSess_vecSeq (i : Nat) (x : Sess) : (putSess i x s).vecSeq = s.vecSeq := rfl
@[simp] theorem putSess_vecJobs (i : Nat) (x : Sess) : (putSess i x s).vecJobs = s.vecJobs := rfl
@[simp] theorem putSess_vecCompacts (i : Nat) (x : Sess) : (putSess i x s).vecCompacts = s.vecCompacts := rfl
@[simp] theorem putSess_aborts (i : Nat) (x : Sess) : (putSess i x s).aborts = s.aborts := rfl
@[simp] theorem putSess_hostOut (i : Nat) (x : Sess) : (putSess i x s).hostOut = s.hostOut := rfl
@[simp] theorem putSess_traces (i : Nat) (x : Sess) : (putSess i x s).traces = s.traces := rfl
@[simp] theorem putSess_dumps (i : Nat) (x : Sess) : (putSess i x s).dumps = s.dumps := rfl
@[simp] theorem putSess_dumpSeq (i : Nat) (x : Sess) : (putSess i x s).dumpSeq = s.dumpSeq := rfl
@[simp] theorem putSess_arrTests (i : Nat) (x : Sess) : (putSess i x s).arrTests = s.arrTests := rfl
@[simp] theorem putSess_retireWait (i : Nat) (x : Sess) : (putSess i x s).retireWait = s.retireWait := rfl
@[simp] theorem putSess_sram (i : Nat) (x : Sess) : (putSess i x s).sram = s.sram := rfl
@[simp] theorem putSess_sramDraw (i : Nat) (x : Sess) : (putSess i x s).sramDraw = s.sramDraw := rfl
@[simp] theorem putSess_fabOut (i : Nat) (x : Sess) : (putSess i x s).fabOut = s.fabOut := rfl
@[simp] theorem putSess_fwdWait (i : Nat) (x : Sess) : (putSess i x s).fwdWait = s.fwdWait := rfl
@[simp] theorem putSess_dirKnown (i : Nat) (x : Sess) : (putSess i x s).dirKnown = s.dirKnown := rfl
@[simp] theorem putSess_net (i : Nat) (x : Sess) : (putSess i x s).net = s.net := rfl
@[simp] theorem putSess_adm (i : Nat) (x : Sess) : (putSess i x s).adm = s.adm := rfl
@[simp] theorem putSess_runs (i : Nat) (x : Sess) : (putSess i x s).runs = s.runs := rfl
@[simp] theorem putSess_exts (i : Nat) (x : Sess) : (putSess i x s).exts = s.exts := rfl
@[simp] theorem putSess_chanWait (i : Nat) (x : Sess) : (putSess i x s).chanWait = s.chanWait := rfl
@[simp] theorem putSess_c0Wait (i : Nat) (x : Sess) : (putSess i x s).c0Wait = s.c0Wait := rfl
@[simp] theorem putSess_fetchLast (i : Nat) (x : Sess) : (putSess i x s).fetchLast = s.fetchLast := rfl
@[simp] theorem putSess_rootCache (i : Nat) (x : Sess) : (putSess i x s).rootCache = s.rootCache := rfl
@[simp] theorem putSess_spanJobs (i : Nat) (x : Sess) : (putSess i x s).spanJobs = s.spanJobs := rfl
@[simp] theorem putSess_bnkNan (i : Nat) (x : Sess) : (putSess i x s).bnkNan = s.bnkNan := rfl
@[simp] theorem putSess_arrDraw (i : Nat) (x : Sess) : (putSess i x s).arrDraw = s.arrDraw := rfl
@[simp] theorem putSess_codeMem (i : Nat) (x : Sess) : (putSess i x s).codeMem = s.codeMem := rfl
@[simp] theorem putSess_dmaQ (i : Nat) (x : Sess) : (putSess i x s).dmaQ = s.dmaQ := rfl
@[simp] theorem putSess_resid (i : Nat) (x : Sess) : (putSess i x s).resid = s.resid := rfl

@[simp] theorem putQp_pending (fn qp : Nat) (q : Qp) : (putQp fn qp q s).pending = s.pending := rfl
@[simp] theorem putQp_fresh (fn qp : Nat) (q : Qp) : (putQp fn qp q s).fresh = s.fresh := rfl
@[simp] theorem putQp_boots (fn qp : Nat) (q : Qp) : (putQp fn qp q s).boots = s.boots := rfl
@[simp] theorem putQp_pow (fn qp : Nat) (q : Qp) : (putQp fn qp q s).pow = s.pow := rfl
@[simp] theorem putQp_regs (fn qp : Nat) (q : Qp) : (putQp fn qp q s).regs = s.regs := rfl
@[simp] theorem putQp_ltPend (fn qp : Nat) (q : Qp) : (putQp fn qp q s).ltPend = s.ltPend := rfl
@[simp] theorem putQp_shadow (fn qp : Nat) (q : Qp) : (putQp fn qp q s).shadow = s.shadow := rfl
@[simp] theorem putQp_heldWr (fn qp : Nat) (q : Qp) : (putQp fn qp q s).heldWr = s.heldWr := rfl
@[simp] theorem putQp_oldView (fn qp : Nat) (q : Qp) : (putQp fn qp q s).oldView = s.oldView := rfl
@[simp] theorem putQp_cad (fn qp : Nat) (q : Qp) : (putQp fn qp q s).cad = s.cad := rfl
@[simp] theorem putQp_eph (fn qp : Nat) (q : Qp) : (putQp fn qp q s).eph = s.eph := rfl
@[simp] theorem putQp_fenWaits (fn qp : Nat) (q : Qp) : (putQp fn qp q s).fenWaits = s.fenWaits := rfl
@[simp] theorem putQp_desc (fn qp : Nat) (q : Qp) : (putQp fn qp q s).desc = s.desc := rfl
@[simp] theorem putQp_sess (fn qp : Nat) (q : Qp) : (putQp fn qp q s).sess = s.sess := rfl
@[simp] theorem putQp_freeNext (fn qp : Nat) (q : Qp) : (putQp fn qp q s).freeNext = s.freeNext := rfl
@[simp] theorem putQp_freed (fn qp : Nat) (q : Qp) : (putQp fn qp q s).freed = s.freed := rfl
@[simp] theorem putQp_poolBytes (fn qp : Nat) (q : Qp) : (putQp fn qp q s).poolBytes = s.poolBytes := rfl
@[simp] theorem putQp_clsBytes (fn qp : Nat) (q : Qp) : (putQp fn qp q s).clsBytes = s.clsBytes := rfl
@[simp] theorem putQp_chUsed (fn qp : Nat) (q : Qp) : (putQp fn qp q s).chUsed = s.chUsed := rfl
@[simp] theorem putQp_c0Window (fn qp : Nat) (q : Qp) : (putQp fn qp q s).c0Window = s.c0Window := rfl
@[simp] theorem putQp_heldCmds (fn qp : Nat) (q : Qp) : (putQp fn qp q s).heldCmds = s.heldCmds := rfl
@[simp] theorem putQp_dueLate (fn qp : Nat) (q : Qp) : (putQp fn qp q s).dueLate = s.dueLate := rfl
@[simp] theorem putQp_started (fn qp : Nat) (q : Qp) : (putQp fn qp q s).started = s.started := rfl
@[simp] theorem putQp_cpl (fn qp : Nat) (q : Qp) : (putQp fn qp q s).cpl = s.cpl := rfl
@[simp] theorem putQp_recOut (fn qp : Nat) (q : Qp) : (putQp fn qp q s).recOut = s.recOut := rfl
@[simp] theorem putQp_evHeld (fn qp : Nat) (q : Qp) : (putQp fn qp q s).evHeld = s.evHeld := rfl
@[simp] theorem putQp_evOut (fn qp : Nat) (q : Qp) : (putQp fn qp q s).evOut = s.evOut := rfl
@[simp] theorem putQp_evqPi (fn qp : Nat) (q : Qp) : (putQp fn qp q s).evqPi = s.evqPi := rfl
@[simp] theorem putQp_evqCi (fn qp : Nat) (q : Qp) : (putQp fn qp q s).evqCi = s.evqCi := rfl
@[simp] theorem putQp_coal (fn qp : Nat) (q : Qp) : (putQp fn qp q s).coal = s.coal := rfl
@[simp] theorem putQp_bar4Gib (fn qp : Nat) (q : Qp) : (putQp fn qp q s).bar4Gib = s.bar4Gib := rfl
@[simp] theorem putQp_numVfs (fn qp : Nat) (q : Qp) : (putQp fn qp q s).numVfs = s.numVfs := rfl
@[simp] theorem putQp_msixTab (fn qp : Nat) (q : Qp) : (putQp fn qp q s).msixTab = s.msixTab := rfl
@[simp] theorem putQp_msix (fn qp : Nat) (q : Qp) : (putQp fn qp q s).msix = s.msix := rfl
@[simp] theorem putQp_mem (fn qp : Nat) (q : Qp) : (putQp fn qp q s).mem = s.mem := rfl
@[simp] theorem putQp_deepMem (fn qp : Nat) (q : Qp) : (putQp fn qp q s).deepMem = s.deepMem := rfl
@[simp] theorem putQp_transits (fn qp : Nat) (q : Qp) : (putQp fn qp q s).transits = s.transits := rfl
@[simp] theorem putQp_migs (fn qp : Nat) (q : Qp) : (putQp fn qp q s).migs = s.migs := rfl
@[simp] theorem putQp_migSeq (fn qp : Nat) (q : Qp) : (putQp fn qp q s).migSeq = s.migSeq := rfl
@[simp] theorem putQp_tombs (fn qp : Nat) (q : Qp) : (putQp fn qp q s).tombs = s.tombs := rfl
@[simp] theorem putQp_hints (fn qp : Nat) (q : Qp) : (putQp fn qp q s).hints = s.hints := rfl
@[simp] theorem putQp_modelCopyGib (fn qp : Nat) (q : Qp) : (putQp fn qp q s).modelCopyGib = s.modelCopyGib := rfl
@[simp] theorem putQp_ckptGib (fn qp : Nat) (q : Qp) : (putQp fn qp q s).ckptGib = s.ckptGib := rfl
@[simp] theorem putQp_chunkMap (fn qp : Nat) (q : Qp) : (putQp fn qp q s).chunkMap = s.chunkMap := rfl
@[simp] theorem putQp_moving (fn qp : Nat) (q : Qp) : (putQp fn qp q s).moving = s.moving := rfl
@[simp] theorem putQp_hostUnits (fn qp : Nat) (q : Qp) : (putQp fn qp q s).hostUnits = s.hostUnits := rfl
@[simp] theorem putQp_models (fn qp : Nat) (q : Qp) : (putQp fn qp q s).models = s.models := rfl
@[simp] theorem putQp_keyExts (fn qp : Nat) (q : Qp) : (putQp fn qp q s).keyExts = s.keyExts := rfl
@[simp] theorem putQp_fetchQ (fn qp : Nat) (q : Qp) : (putQp fn qp q s).fetchQ = s.fetchQ := rfl
@[simp] theorem putQp_fetchFly (fn qp : Nat) (q : Qp) : (putQp fn qp q s).fetchFly = s.fetchFly := rfl
@[simp] theorem putQp_returnReq (fn qp : Nat) (q : Qp) : (putQp fn qp q s).returnReq = s.returnReq := rfl
@[simp] theorem putQp_vecChans (fn qp : Nat) (q : Qp) : (putQp fn qp q s).vecChans = s.vecChans := rfl
@[simp] theorem putQp_parts (fn qp : Nat) (q : Qp) : (putQp fn qp q s).parts = s.parts := rfl
@[simp] theorem putQp_evicting (fn qp : Nat) (q : Qp) : (putQp fn qp q s).evicting = s.evicting := rfl
@[simp] theorem putQp_tokSets (fn qp : Nat) (q : Qp) : (putQp fn qp q s).tokSets = s.tokSets := rfl
@[simp] theorem putQp_grams (fn qp : Nat) (q : Qp) : (putQp fn qp q s).grams = s.grams := rfl
@[simp] theorem putQp_maskQ (fn qp : Nat) (q : Qp) : (putQp fn qp q s).maskQ = s.maskQ := rfl
@[simp] theorem putQp_bankQ (fn qp : Nat) (q : Qp) : (putQp fn qp q s).bankQ = s.bankQ := rfl
@[simp] theorem putQp_deepTrained (fn qp : Nat) (q : Qp) : (putQp fn qp q s).deepTrained = s.deepTrained := rfl
@[simp] theorem putQp_deepFails (fn qp : Nat) (q : Qp) : (putQp fn qp q s).deepFails = s.deepFails := rfl
@[simp] theorem putQp_deepSkip (fn qp : Nat) (q : Qp) : (putQp fn qp q s).deepSkip = s.deepSkip := rfl
@[simp] theorem putQp_evacuated (fn qp : Nat) (q : Qp) : (putQp fn qp q s).evacuated = s.evacuated := rfl
@[simp] theorem putQp_deepLeaving (fn qp : Nat) (q : Qp) : (putQp fn qp q s).deepLeaving = s.deepLeaving := rfl
@[simp] theorem putQp_ueLog (fn qp : Nat) (q : Qp) : (putQp fn qp q s).ueLog = s.ueLog := rfl
@[simp] theorem putQp_deepUeLog (fn qp : Nat) (q : Qp) : (putQp fn qp q s).deepUeLog = s.deepUeLog := rfl
@[simp] theorem putQp_poison (fn qp : Nat) (q : Qp) : (putQp fn qp q s).poison = s.poison := rfl
@[simp] theorem putQp_badToks (fn qp : Nat) (q : Qp) : (putQp fn qp q s).badToks = s.badToks := rfl
@[simp] theorem putQp_badGrams (fn qp : Nat) (q : Qp) : (putQp fn qp q s).badGrams = s.badGrams := rfl
@[simp] theorem putQp_remaps (fn qp : Nat) (q : Qp) : (putQp fn qp q s).remaps = s.remaps := rfl
@[simp] theorem putQp_rebuilds (fn qp : Nat) (q : Qp) : (putQp fn qp q s).rebuilds = s.rebuilds := rfl
@[simp] theorem putQp_testFails (fn qp : Nat) (q : Qp) : (putQp fn qp q s).testFails = s.testFails := rfl
@[simp] theorem putQp_testPat (fn qp : Nat) (q : Qp) : (putQp fn qp q s).testPat = s.testPat := rfl
@[simp] theorem putQp_testLast (fn qp : Nat) (q : Qp) : (putQp fn qp q s).testLast = s.testLast := rfl
@[simp] theorem putQp_tileDrain (fn qp : Nat) (q : Qp) : (putQp fn qp q s).tileDrain = s.tileDrain := rfl
@[simp] theorem putQp_dfPass (fn qp : Nat) (q : Qp) : (putQp fn qp q s).dfPass = s.dfPass := rfl
@[simp] theorem putQp_ckpt (fn qp : Nat) (q : Qp) : (putQp fn qp q s).ckpt = s.ckpt := rfl
@[simp] theorem putQp_ckptImages (fn qp : Nat) (q : Qp) : (putQp fn qp q s).ckptImages = s.ckptImages := rfl
@[simp] theorem putQp_embTabs (fn qp : Nat) (q : Qp) : (putQp fn qp q s).embTabs = s.embTabs := rfl
@[simp] theorem putQp_hot (fn qp : Nat) (q : Qp) : (putQp fn qp q s).hot = s.hot := rfl
@[simp] theorem putQp_hotLast (fn qp : Nat) (q : Qp) : (putQp fn qp q s).hotLast = s.hotLast := rfl
@[simp] theorem putQp_replicas (fn qp : Nat) (q : Qp) : (putQp fn qp q s).replicas = s.replicas := rfl
@[simp] theorem putQp_embQ (fn qp : Nat) (q : Qp) : (putQp fn qp q s).embQ = s.embQ := rfl
@[simp] theorem putQp_embSeq (fn qp : Nat) (q : Qp) : (putQp fn qp q s).embSeq = s.embSeq := rfl
@[simp] theorem putQp_embJobs (fn qp : Nat) (q : Qp) : (putQp fn qp q s).embJobs = s.embJobs := rfl
@[simp] theorem putQp_embLooks (fn qp : Nat) (q : Qp) : (putQp fn qp q s).embLooks = s.embLooks := rfl
@[simp] theorem putQp_embMoved (fn qp : Nat) (q : Qp) : (putQp fn qp q s).embMoved = s.embMoved := rfl
@[simp] theorem putQp_vecs (fn qp : Nat) (q : Qp) : (putQp fn qp q s).vecs = s.vecs := rfl
@[simp] theorem putQp_vecQs (fn qp : Nat) (q : Qp) : (putQp fn qp q s).vecQs = s.vecQs := rfl
@[simp] theorem putQp_vecSeq (fn qp : Nat) (q : Qp) : (putQp fn qp q s).vecSeq = s.vecSeq := rfl
@[simp] theorem putQp_vecJobs (fn qp : Nat) (q : Qp) : (putQp fn qp q s).vecJobs = s.vecJobs := rfl
@[simp] theorem putQp_vecCompacts (fn qp : Nat) (q : Qp) : (putQp fn qp q s).vecCompacts = s.vecCompacts := rfl
@[simp] theorem putQp_aborts (fn qp : Nat) (q : Qp) : (putQp fn qp q s).aborts = s.aborts := rfl
@[simp] theorem putQp_hostOut (fn qp : Nat) (q : Qp) : (putQp fn qp q s).hostOut = s.hostOut := rfl
@[simp] theorem putQp_traces (fn qp : Nat) (q : Qp) : (putQp fn qp q s).traces = s.traces := rfl
@[simp] theorem putQp_dumps (fn qp : Nat) (q : Qp) : (putQp fn qp q s).dumps = s.dumps := rfl
@[simp] theorem putQp_dumpSeq (fn qp : Nat) (q : Qp) : (putQp fn qp q s).dumpSeq = s.dumpSeq := rfl
@[simp] theorem putQp_arrTests (fn qp : Nat) (q : Qp) : (putQp fn qp q s).arrTests = s.arrTests := rfl
@[simp] theorem putQp_retireWait (fn qp : Nat) (q : Qp) : (putQp fn qp q s).retireWait = s.retireWait := rfl
@[simp] theorem putQp_sram (fn qp : Nat) (q : Qp) : (putQp fn qp q s).sram = s.sram := rfl
@[simp] theorem putQp_sramDraw (fn qp : Nat) (q : Qp) : (putQp fn qp q s).sramDraw = s.sramDraw := rfl
@[simp] theorem putQp_fabOut (fn qp : Nat) (q : Qp) : (putQp fn qp q s).fabOut = s.fabOut := rfl
@[simp] theorem putQp_fwdWait (fn qp : Nat) (q : Qp) : (putQp fn qp q s).fwdWait = s.fwdWait := rfl
@[simp] theorem putQp_dirKnown (fn qp : Nat) (q : Qp) : (putQp fn qp q s).dirKnown = s.dirKnown := rfl
@[simp] theorem putQp_net (fn qp : Nat) (q : Qp) : (putQp fn qp q s).net = s.net := rfl
@[simp] theorem putQp_adm (fn qp : Nat) (q : Qp) : (putQp fn qp q s).adm = s.adm := rfl
@[simp] theorem putQp_runs (fn qp : Nat) (q : Qp) : (putQp fn qp q s).runs = s.runs := rfl
@[simp] theorem putQp_exts (fn qp : Nat) (q : Qp) : (putQp fn qp q s).exts = s.exts := rfl
@[simp] theorem putQp_chanWait (fn qp : Nat) (q : Qp) : (putQp fn qp q s).chanWait = s.chanWait := rfl
@[simp] theorem putQp_c0Wait (fn qp : Nat) (q : Qp) : (putQp fn qp q s).c0Wait = s.c0Wait := rfl
@[simp] theorem putQp_fetchLast (fn qp : Nat) (q : Qp) : (putQp fn qp q s).fetchLast = s.fetchLast := rfl
@[simp] theorem putQp_rootCache (fn qp : Nat) (q : Qp) : (putQp fn qp q s).rootCache = s.rootCache := rfl
@[simp] theorem putQp_spanJobs (fn qp : Nat) (q : Qp) : (putQp fn qp q s).spanJobs = s.spanJobs := rfl
@[simp] theorem putQp_bnkNan (fn qp : Nat) (q : Qp) : (putQp fn qp q s).bnkNan = s.bnkNan := rfl
@[simp] theorem putQp_arrDraw (fn qp : Nat) (q : Qp) : (putQp fn qp q s).arrDraw = s.arrDraw := rfl
@[simp] theorem putQp_codeMem (fn qp : Nat) (q : Qp) : (putQp fn qp q s).codeMem = s.codeMem := rfl
@[simp] theorem putQp_dmaQ (fn qp : Nat) (q : Qp) : (putQp fn qp q s).dmaQ = s.dmaQ := rfl
@[simp] theorem putQp_resid (fn qp : Nat) (q : Qp) : (putQp fn qp q s).resid = s.resid := rfl
end

end Sys2Proof.Machine
end

