-- ==== Sys2Proof/WellFormed.lean ====
section
/-!
DEFINITION. Sys2Proof/WellFormed.lean: the commands whose operands lie in the ranges that the spec gives them. A command outside these
ranges spells nothing that the module could be given: a tile T4, a stack channel past the last, a byte over 255. Ranges that the
module itself checks (a fence a function may not use, a COUNT over its limit) are no part of this.
-/
namespace Sys2Proof

/-- A number that `w` bits hold. -/
def fits (w v : Nat) : Bool := decide (v < 2 ^ w)
/-- A function: F0 and 255 VFs. -/
def okFn (f : Nat) : Bool := decide (f < 256)
/-- A queue pair of a function. -/
def okQp (q : Nat) : Bool := decide (q < 64)
/-- One of the four tiles. -/
def okTile (t : Nat) : Bool := decide (t < 4)
/-- One of the 24 stacks. -/
def okStack (k : Nat) : Bool := decide (k < 24)
/-- A stack channel, 32 × stack + channel. -/
def okChan (g : Nat) : Bool := decide (g < 768)
/-- A deep-tier channel. -/
def okDeep (k : Nat) : Bool := decide (k < 96)
/-- An array of a tile. -/
def okArr (n : Nat) : Bool := decide (n < 352)
/-- A partition: all but 0xFF. -/
def okPart (p : Nat) : Bool := decide (p < 255)
/-- A session slot. -/
def okSlot (i : Nat) : Bool := decide (i < 0x40_0000)
/-- An ephemeris table. -/
def okEph (t : Nat) : Bool := decide (t < 64)
/-- An embedding table. -/
def okEmb (t : Nat) : Bool := decide (t < 256)
/-- A vector index. -/
def okVec (i : Nat) : Bool := decide (i < 64)
/-- A fabric port. -/
def okFab (p : Nat) : Bool := decide (p < 16)
/-- A governed port. -/
def okPort (p : Nat) : Bool := decide (p < 19)
/-- A class. -/
def okCls (c : Nat) : Bool := decide (c < 8)
/-- A directory shard. -/
def okShard (k : Nat) : Bool := decide (k < 4096)
/-- A module identifier, 0xFFF meaning none. -/
def okModule (m : Nat) : Bool := decide (m < 4096)
/-- A job. -/
def okJob (j : Nat) : Bool := decide (j < 128)
/-- A model slot. -/
def okModel (m : Nat) : Bool := decide (m < 16)
/-- A host region. -/
def okHtier (n : Nat) : Bool := decide (n < 64)
/-- A hang-dump slot. -/
def okDump (k : Nat) : Bool := decide (k < 8)
/-- An Almanac region. -/
def okRegion (r : Nat) : Bool := decide (r < 608)
/-- A power domain, or the whole module. -/
def okDomain (d : Nat) : Bool := decide (d < 13)
/-- A sensor kind, 1 to 4. -/
def okSensor (k : Nat) : Bool := decide (1 ≤ k) && decide (k ≤ 4)
/-- A management transport. -/
def okBind (b : Nat) : Bool := decide (b < 3)
/-- The half that a read takes: the whole register, the low half, the high half. -/
def okHalf (h : Nat) : Bool := decide (h < 3)
/-- A BAR that holds registers: BAR0 or BAR2. -/
def okBar (b : Nat) : Bool := b == 0 || b == 2
/-- The fence an entry names has 16 bits, its identifier too, its handle 64. -/
def okHdr (h : Hdr) : Bool := okFn h.fn && okQp h.qp && fits 16 h.cmdId && fits 16 h.fence && fits 64 h.handle
/-- A buffer's address. -/
def okBuf (b : Buf) : Bool := fits 64 b.addr
/-- The fields of an ephemeris entry (R79). -/
def okEntry (e : EphEntry) : Bool :=
  fits 64 e.tick && fits 8 e.action && fits 8 e.flags && fits 16 e.target && fits 32 e.tag && fits 64 e.opA && fits 64 e.opB
/-- The fields of SESSION_CREATE (R419). -/
def okCreate (o : CreateOps) : Bool :=
  fits 8 o.cls && fits 8 o.model && fits 8 o.outQueue && fits 16 o.hostPark && fits 16 o.mirror && fits 64 o.ttl &&
    fits 64 o.hostTag && okBuf o.sampling
/-- The fields of SET_SAMPLING (R420). -/
def okSampling (p : Sampling) : Bool :=
  fits 32 p.temperature && fits 32 p.topP && fits 32 p.minP && fits 32 p.repPenalty && fits 32 p.presencePenalty &&
    fits 32 p.frequencyPenalty && fits 32 p.topK && fits 8 p.decMode && fits 32 p.maxTokens && fits 64 p.seed
/-- A unit of governed traffic names a class and a function. -/
def okUnit (u : TmUnit) : Bool := okCls u.cls && okFn u.fn
/-- The meters give the energy of a tick and the power of twelve domains (R527). -/
def okPower (p : TickPower) : Bool := p.domains.length == 12
/-- What start-up finds is about channels and arrays that there are. -/
def okBoot (r : BootResult) : Bool :=
  r.badChans.all okChan && r.badDeep.all okDeep && r.badStacks.all okStack && r.badArrays.all (fun a => okTile (a / 512) && okArr (a % 512)) &&
    r.faulty.all (fun a => okTile (a / 512) && okArr (a % 512))
/-- An array numbered tile × 512 + index. -/
def okArray (a : Nat) : Bool := okTile (a / 512) && okArr (a % 512)

/-- Every operand of a command lies in its range. -/
def Instr.wf : Instr → Bool
  | .siderealPulse _ _ pw => okPower pw
  | .syntheticTick pw => okPower pw
  | .softTick _ pw => okPower pw
  | .sidEpochTx v => fits 64 v
  | .sidEpochLocal v => fits 64 v
  | .epochMsg port src domain value _ hops _ => okFab port && okModule src && fits 16 domain && fits 64 value && fits 8 hops
  | .nopEntry table idx e => okEph table && fits 24 idx && okEntry e
  | .launchStep table idx e => okEph table && fits 24 idx && okEntry e
  | .startTransit table idx e => okEph table && fits 24 idx && okEntry e
  | .ephFenceSignal table idx e => okEph table && fits 24 idx && okEntry e
  | .ephFenceWait table idx e => okEph table && fits 24 idx && okEntry e
  | .checkpointBarrier table idx e => okEph table && fits 24 idx && okEntry e
  | .migrationSwitch table idx e => okEph table && fits 24 idx && okEntry e
  | .applyGeneration table idx e => okEph table && fits 24 idx && okEntry e
  | .ephWaitTimeout table => okEph table
  | .ephTableUnblock table => okEph table
  | .ephEnable _ => true
  | .ephTableEnable table _ => okEph table
  | .ephTablePause table _ => okEph table
  | .ephFlush table => okEph table
  | .ephemerisSubmit h table _ buf => okHdr h && fits 8 table && okBuf buf
  | .sessionCreate h o => okHdr h && okCreate o
  | .sessionDestroy h => okHdr h
  | .appendText h _ buf => okHdr h && okBuf buf
  | .appendTokens h _ buf => okHdr h && okBuf buf
  | .generate h => okHdr h
  | .toolWait h wake ttl => okHdr h && fits 64 wake && fits 64 ttl
  | .resume h _ _ => okHdr h
  | .park h _ _ region => okHdr h && fits 16 region
  | .migrate h _ _ region => okHdr h && fits 16 region
  | .migratePeer h dest _ _ _ _ => okHdr h && okModule dest
  | .migrateEmbBlock h dest table part _ _ _ _ _ => okHdr h && okModule dest && okEmb table && decide (part < 2)
  | .cancel h => okHdr h
  | .setSampling h p _ _ => okHdr h && okSampling p
  | .setGrammar h _ => okHdr h
  | .setStops h buf _ _ => okHdr h && okBuf buf
  | .sessionExpiry idx => okSlot idx
  | .expiredEventWrite idx => okSlot idx
  | .eviction => true
  | .tombstoneClose idx => okSlot idx
  | .patrolScrub stack _ _ _ _ _ _ => okStack stack
  | .channelToProcessor chan => okChan chan
  | .channelWaitTimeout chan => okChan chan
  | .channelReturn chan _ => okChan chan
  | .bnkPfOp stack addr => okStack stack && fits 64 addr
  | .bankCopy chan => okChan chan
  | .bankFill chan => okChan chan
  | .maskedScan chan => okChan chan
  | .codeDistance chan => okChan chan
  | .summaryRecompute chan => okChan chan
  | .patternTest chan _ => okChan chan
  | .bankOpComplete chan _ => okChan chan
  | .thermalSample stack _ _ => okStack stack
  | .deepRetrainStart chan _ _ => okDeep chan
  | .deepDrainDone => true
  | .deepTrainingDone _ _ _ _ => true
  | .deepReturnDone => true
  | .htierEnable n _ => okHtier n
  | .transitSlotGrant => true
  | .transitChunk idx _ => okSlot idx
  | .parkComplete idx => okSlot idx
  | .reviveComplete idx _ => okSlot idx
  | .reviveSparseComplete idx _ => okSlot idx
  | .moveComplete idx => okSlot idx
  | .mirrorImage idx _ => okSlot idx
  | .backgroundFill idx => okSlot idx
  | .precopyPassEnd _ _ => true
  | .migrationSwitchRun _ => true
  | .migrationAbandon _ _ => true
  | .stepStart part _ => okPart part
  | .kernelStart part _ => okPart part
  | .kernelEnd part _ _ _ _ _ => okPart part
  | .watchdogOverrun part _ => okPart part
  | .hangDeclared part _ => okPart part
  | .hangDump array => okArray array
  | .knownAnswerTestDone tile n _ => okTile tile && okArr n
  | .rankMapSwap part => okPart part
  | .residentReloadDone part => okPart part
  | .aryRetire tile n => okTile tile && okArr n
  | .aryReturn tile n => okTile tile && okArr n
  | .sramUncorrectable tile n off => okTile tile && okArr n && decide (off < 0x20_0000)
  | .selectRow part _ _ => okPart part
  | .selectMerge part _ _ => okPart part
  | .sample part _ _ off _ _ => okPart part && fits 64 off
  | .kvScatterAppend part _ _ _ _ => okPart part
  | .attention part _ _ _ _ _ _ => okPart part
  | .embPool part _ table _ _ _ _ _ _ => okPart part && okEmb table
  | .vecTraverse part _ _ => okPart part
  | .collective part _ _ _ => okPart part
  | .spanSummaryDone idx _ => okSlot idx
  | .kvFetch tile => okTile tile
  | .kvFetchComplete idx _ _ => okSlot idx
  | .draw part _ off => okPart part && fits 64 off
  | .detokenize idx => okSlot idx
  | .outputRecordWrite fn qp _ => okFn fn && okQp qp
  | .grammarMask => true
  | .gramLoad slot addr => fits 16 slot && fits 64 addr
  | .gramUnload slot => fits 16 slot
  | .embLookup h table _ _ _ ents offs _ _ _ _ => okHdr h && okEmb table && okBuf ents && okBuf offs
  | .embUpdate h table _ buf _ => okHdr h && okEmb table && okBuf buf
  | .embHotHalving tile => okTile tile
  | .embReplicaValid tile table part _ => okTile tile && okEmb table && decide (part < 2)
  | .embRemoteTimeout fn qp cmdId => okFn fn && okQp qp && fits 16 cmdId
  | .embRead src _ table _ _ => okModule src && okEmb table
  | .embUpdateMsg src _ table tick _ => okModule src && okEmb table && fits 64 tick
  | .vecQuery h query _ _ _ => okHdr h && okBuf query
  | .vecUpsert h index _ buf => okHdr h && fits 8 index && okBuf buf
  | .vecDelete h index _ buf => okHdr h && fits 8 index && okBuf buf
  | .vecUpsertCommit index => okVec index
  | .vecDeleteApply index => okVec index
  | .vecQueryMerge _ => true
  | .vecEdgeRepair index => okVec index
  | .vecCompact index _ _ => okVec index
  | .vecCompactPublish index => okVec index
  | .vecCompactRelease index => okVec index
  | .tmUnitStart port chan _ arrivals => okPort port && okDeep chan && arrivals.all okUnit
  | .tmHwmRead port cls half => okPort port && okCls cls && okHalf half
  | .fabPortEnable port _ => okFab port
  | .fabRetrain port => okFab port
  | .fabRetire port => okFab port
  | .fabReturn port => okFab port
  | .linkTrainingDone port _ lanes neighbour _ _ worst _ => okFab port && decide (lanes ≤ 16) && okModule neighbour && fits 8 worst
  | .trainingRetry port => okFab port
  | .portDrainDone port _ => okFab port
  | .linkDown port _ => okFab port
  | .frameReceive port _ _ => okFab port
  | .frameSend port mgmt => okFab port && mgmt.all okUnit
  | .ackTimer port => okFab port
  | .heartbeatMsg src viewId => okModule src && fits 64 viewId
  | .viewMsg src viewId number _ members => okModule src && fits 64 viewId && fits 64 number && members.all okModule
  | .dirReq src _ _ _ => okModule src
  | .dirResp src _ status _ _ => okModule src && fits 8 status
  | .dirRepl src shard _ _ => okModule src && okShard shard
  | .xferChunk src _ => okModule src
  | .xferCtrl src _ _ => okModule src
  | .fwdCmd src _ fn _ handle _ _ => okModule src && okFn fn && fits 64 handle
  | .responseMsg src _ status _ => okModule src && fits 8 status
  | .collectiveMsg src _ => okModule src
  | .mirrorCtrl src handle nonce kind => okModule src && fits 64 handle && fits 96 nonce && fits 8 kind
  | .dropNotice src _ type _ _ => okModule src && fits 8 type
  | .memberSuspect => true
  | .viewProposalRetry => true
  | .isolation => true
  | .leaseRenew shard => okShard shard
  | .leaseExpire shard => okShard shard
  | .leaderElection shard => okShard shard
  | .candidateYield shard => okShard shard
  | .dirLookupTimeout _ => true
  | .dirEntryExpire _ => true
  | .mirrorAudit src handle => okModule src && fits 64 handle
  | .joinView => true
  | .standalone => true
  | .leaveView => true
  | .linkOffer port _ _ _ _ _ => okFab port
  | .linkReply port _ _ _ _ _ => okFab port
  | .sqTail fn qp idx => okFn fn && okQp qp && fits 32 idx
  | .cqHead fn qp idx => okFn fn && okQp qp && fits 32 idx
  | .outCi fn qp n => okFn fn && okQp qp && fits 32 n
  | .sqEntryFetch fn qp _ => okFn fn && okQp qp
  | .qpEnable fn qp _ => okFn fn && okQp qp
  | .msixCoalesceTimeout fn vec => okFn fn && decide (vec ≤ 64)
  | .functionLevelReset fn => okFn fn
  | .numvfsChange count => decide (count < 256)
  | .pcieLinkChange _ _ _ => true
  | .bar4Write off _ => fits 64 off
  | .fenceSignal h fence mode value => okHdr h && fits 16 fence && fits 8 mode && fits 64 value
  | .fenceWait h fence value timeout => okHdr h && fits 16 fence && fits 64 value && fits 32 timeout
  | .fenceWaitTimeout fn qp cmdId => okFn fn && okQp qp && fits 16 cmdId
  | .fenReset fence => fits 16 fence
  | .modelBind h slot _ _ _ _ _ _ _ shard _ => okHdr h && fits 8 slot && fits 32 shard
  | .modelUnbind h slot => okHdr h && fits 8 slot
  | .weightsLoad h slot _ _ buf _ => okHdr h && fits 8 slot && okBuf buf
  | .checkpoint h addr => okHdr h && fits 64 addr
  | .abortFunction h fn => okHdr h && fits 16 fn
  | .abortArrayReset part => okPart part
  | .evqCi n => fits 32 n
  | .eventQueueWrite => true
  | .almLoad _ => true
  | .almSeal => true
  | .almDiscard => true
  | .writeBoot => true
  | .rwsWrite off value => fits 64 off && fits 64 value
  | .regionCompleted region => okRegion region
  | .fwWrite _ _ _ => true
  | .fwActivate _ => true
  | .fwInvalidate => true
  | .activationTimeout => true
  | .retireChannel chan => okChan chan
  | .returnChannel chan _ => okChan chan
  | .channelRebuildDone chan _ => okChan chan
  | .tileOffline tile => okTile tile
  | .tileFault tile => okTile tile
  | .tileDrainDone tile => okTile tile
  | .tileOnline tile _ => okTile tile
  | .retireDeep chan => okDeep chan
  | .returnDeep chan _ _ _ _ => okDeep chan
  | .replicaScrub tile descs _ => okTile tile && descs.all okSlot
  | .captureDone _ => true
  | .packDone _ => true
  | .ckptMirrorDone => true
  | .restoreDone _ _ => true
  | .darkFrameSlice tile n _ _ => okTile tile && okArr n
  | .dfBankTest => true
  | .dfPortRetrain port _ _ _ => okFab port
  | .kxOffer job peer => okJob job && okModule peer
  | .kxAccept job peer _ => okJob job && okModule peer
  | .kxComplete job peer _ => okJob job && okModule peer
  | .kxClose job => okJob job
  | .ownerUpdate _ => true
  | .offerTimeout job peer => okJob job && okModule peer
  | .oldKeyExpiry job peer => okJob job && okModule peer
  | .spdmRequest bind _ => okBind bind
  | .modelKeySet bind _ slot _ _ _ => okBind bind && okModel slot
  | .modelKeyClear bind _ slot => okBind bind && okModel slot
  | .ideKm _ stream _ => decide (stream < 8)
  | .mgtWatchdogRestart => true
  | .sensorRefresh _ => true
  | .setEndpointId bind eid => decide (bind < 2) && fits 8 eid
  | .mctpMessage bind fn type code => decide (bind < 2) && okFn fn && fits 8 type && fits 8 code
  | .entdaa addr => fits 64 addr
  | .getstatus => true
  | .getTid bind => okBind bind
  | .setTid bind tid => okBind bind && fits 8 tid
  | .getPldmTypes bind => okBind bind
  | .getPldmCommands bind type => okBind bind && fits 8 type
  | .getPldmVersion bind type => okBind bind && fits 8 type
  | .getPdr bind _ => okBind bind
  | .getPdrRepositoryInfo bind => okBind bind
  | .getSensorReading bind _ => okBind bind
  | .getStateSensorReadings bind _ => okBind bind
  | .setSensorThresholds bind _ _ => okBind bind
  | .getSensorThresholds bind _ => okBind bind
  | .setNumericEffecterValue bind _ value => okBind bind && fits 64 value
  | .getNumericEffecterValue bind _ => okBind bind
  | .setEventReceiver bind eid _ => okBind bind && fits 8 eid
  | .requestUpdate bind => okBind bind
  | .activateFirmware bind _ _ => okBind bind
  | .dbgTraceEnable _ _ addr => fits 64 addr
  | .exportDump slot _ => okDump slot
  | .releaseDump slot => okDump slot
  | .engineStall block _ => fits 8 block
  | .peakDwRead domain => okDomain domain
  | .pwrEn _ => true
  | .firmwareSelfTestDone _ _ => true
  | .bootAlmanacLoad _ _ => true
  | .brownout => true
  | .perstN _ => true
  | .modRstN _ => true
  | .pcieHotReset => true
  | .hubFault => true
  | .criticalLimit kind index _ => okSensor kind && decide (index < 256)
  | .thermalTrip kind index _ => okSensor kind && decide (index < 256)
  | .registerWrite fn bar off value _ => okFn fn && okBar bar && fits 64 off && fits 64 value
  | .p54vChange _ slotId => fits 5 slotId
  | .startUpEngineDone r => okBoot r
  | .deepEvacuationDone chan _ => okDeep chan
  | .operatingLimitStop kind index _ => okSensor kind && decide (index < 256)
  | .pldmUpdateAgentCommand bind _ => okBind bind

end Sys2Proof
end

