-- ==== Sys2Proof/Tests/Slice0.lean ====
section
/-!
SUPPORT. Sys2Proof/Tests/Slice0.lean: commands that WellFormed refuses, one for each of its checks; a few commands on small states; and,
for every statement with hypotheses, a concrete state and operands that meet them, clause by clause (`witness_<statement>`).
-/
namespace Sys2Proof.Tests
open Sys2Proof Sys2Proof.Machine
set_option Elab.async false

/-! ## Small states -/


/-- A module that serves, with queue pair 0 of the physical function enabled. -/
def up : State :=
  wr HIF_LINK.SUPPORTED 1 (wr (HIF_QP_STATUS.STATE 0 0) 1 (wr (HIF_QP_SQ.LOG2 0 0) 4 (wr (HIF_QP_CQ.LOG2 0 0) 4
    (wr (HIF_QP_OUT.LOG2 0 0) 16 (wr SES_CTRL.MODULE_ID 0 (wr HUB_DOMAIN_STATUS.HUB_OK 1 State.reset))))))
/-- A command of that queue pair that names no session, and one that names slot 5. -/
def h0 : Hdr :=
  { fn := 0, qp := 0, cmdId := 0, barrier := false, fenceDone := false, bondedBuf := false, cplFault := false, fence := 0, handle := 0 }
def h5 : Hdr := { h0 with handle := mkHandle 0 5 7 }
/-- The descriptor of slot 5 in a state of R38, and a module that holds a session there. -/
def d5 (st : Nat) : Desc := { handle := mkHandle 0 5 7, st := st }
def on (d : Desc) (s : State) : State := { s with desc := sset s.desc 5 d }
def ses (st : Nat) : State := on (d5 st) up
/-- An ephemeris entry, and what the meters give. -/
def e0 : EphEntry := { tick := 0, action := 0, flags := 0, target := 0, tag := 0, opA := 0, opB := 0 }
def tp0 : TickPower := { mean := 0, energy := 0, domains := [] }

/-- The same module with space in both tiers. -/
def roomy : State :=
  wr SES_POOL_SIZE.POOL_MIB 1024 (wr HUB_DOMAIN_STATUS.STACK_ONLINE 0xFF_FFFF (wr DPT_CAPACITY.ALLOC_MIB 1024
    (wr DPT_ONLINE_LO.ONLINE 0xFFFF_FFFF_FFFF_FFFF (wr DPT_ONLINE_HI.ONLINE 0xFFFF_FFFF up))))
/-- Slot 5 of a module with its descriptor, and what it holds beside. -/
def sesX (d : Desc) (x : Sess) : State := { on d roomy with sess := [(5, x)] }
/-- A transit of slot 5 that has slot 3 of the transit engine, and a module where it runs. -/
def tr (kind : Nat) : Transit := { idx := 5, kind := kind, cls := 0, origin := 1, slot := some 3 }
def trS (st : Nat) (t : Transit) (x : Sess) : State := { sesX (d5 st) x with transits := [t] }
/-- An image in the deep tier that holds a session without pages. -/
def im0 : Image := { tier := 0, chunks := [0x2_0000] }
/-- A migration of slot 5 to module 2 under tag 9. -/
def mig (phase : Nat) : Migration := { entry := 0, tag := 9, idx := 5, dest := 2, newHandle := 1, cls := 0, phase := phase }
def migS (phase : Nat) : State := { ses stReady with migs := [mig phase] }
/-- The keys of mirror job 1 with module 2. -/
def keyed (s : State) : State :=
  wr SEC_CFG.MIRROR_JOB 1 { s with net.pairs := [(4098, { job := 1, peer := 2, tx := 1, rx := 2 })] }

/-- A module where a session of model 0 may be created. -/
def creates : State :=
  wr SES_CTRL.INIT_DONE 1 (wr (HIF_FN_CFG.CLASS_MASK 0) 0xFF (wr (HIF_MODEL.LOADED 0) 1 (wr (HIF_QP_CTRL.ENABLE 0 0) 1
    (wr (HIF_FN_CFG.SESSION_LIMIT 0) 1 { roomy with keyExts := [(0, 0x9000_0000)] }))))
def create7 : CreateOps :=
  { cls := 7, model := 0, outQueue := 0, includeStop := false, tokenOutput := false, hostPark := 0, mirror := 0xFFF, ttl := 0, hostTag := 0,
    sampling := ⟨0, none⟩ }

/-- The same with one slot in the free list. -/
def creates9 : State := { on { handle := mkHandle 0 5 7 } creates with freeNext := slots, freed := [5] }

/-- A page held in the deep tier, and a session that has it and its image. -/
def pg0 : Page := { layer := 0, span := 0, slot := 0, addr := 0, chan := 0, bytes := 64, deepHeld := true }
def sparse : State := sesX (d5 stReady) { fill := true, pages := [pg0], image := some { im0 with pageData := [List.replicate 64 1#8] } }

/-- One chunk of an empty deep tier whose channels all serve can be had. -/
theorem one_chunk (lo hi : Nat) (s : State) (hr : deepRoom 1 s = true) (hm : s.chunkMap = []) (hl : lo + 1 ≤ hi)
    (h : ∀ k, k < 96 → deepServes k s = true) : (allocDeep 1 lo hi s).isSome = true := by
  have place : ∀ c, (deepPlace c { s with fresh := s.fresh + 1 }).isSome = true := by
    intro c
    have h' : deepServes (c % 96) { s with fresh := s.fresh + 1 } = true := h (c % 96) (Nat.mod_lt _ (by decide))
    have e : slotTaken (c % 96) (c / 96) { s with fresh := s.fresh + 1 } = false := by simp [slotTaken, hm]
    simp [deepPlace, h', e]
  obtain ⟨c, hc⟩ : ∃ c, pickRun 1 lo hi (s.chunkMap.map (·.1)) s = some c := by
    rw [hm]
    unfold pickRun
    simp only
    split
    · exact ⟨_, rfl⟩
    · exact ⟨lo, by simp [firstGap, hl]⟩
  simp only [allocDeep, hr, hc, takeChunks, Bool.not_true, Bool.false_eq_true, if_false, List.range_one, List.map_nil, List.map_cons,
    List.foldl_cons, List.foldl_nil, Option.bind_some, Option.isSome_map, Nat.zero_add]
  exact place c

/-- A park that waits for a slot of the transit engine. -/
def waits : State := trS stReady { tr 1 with slot := none } {}

/-- A launch of partition 0, a run of slot 5 in its step, the step, and a kernel of operator `op`. -/
def l0 : Launch := { table := 0, idx := 0, e := e0, edge := 0 }
def r0 : SesRun :=
  { idx := 5, handle := mkHandle 0 5 7, start := 0, count := 1, stageOff := 0, status := 0, params := { d5 stActive with grammarId := 0xFFFF },
    stops := [] }
def st0 (eff next : Nat) : Step :=
  { launch := l0, plan := 0, cls := 0, eff := eff, stage := 0, hdrs := [0], next := next, runs := [r0], ranks := [0] }
def k0 (op : Nat) : Kern := { cls := 0, fn := 0, queued := 0, op := op }
def run0 (op : Nat) : Running := { ofStep := true, kern := k0 op }
/-- A module whose partition 0 is `x`, and one that runs an operator for slot 5. -/
def parted (x : Part) (s : State) : State := { s with parts := [(0, x)] }
def runs (op : Nat) (r : SesRun) (s : State) : State :=
  parted { ranks := [0], step := some { st0 0 0 with runs := [r] }, running := some (run0 op) } s
/-- A batch plan of one session and one kernel for partition 0, and a module where a launch that names it waits. -/
def plan0 : List Byte := leBytes 4 0x504C_4E31 ++ leBytes 2 0 ++ leBytes 2 1 ++ leBytes 4 1 ++ leBytes 4 1
def launches (bs : List Byte) : State := parted { waiting := [l0] } (memWrite 0 bs up)
def begun (bs : List Byte) : State :=
  (activeOn 0 (modPart 0 (fun x => { x with waiting := x.waiting.erase l0 }) (launches bs))).foldl (fun s i => detokenize i s)
    (modPart 0 (fun x => { x with waiting := x.waiting.erase l0 }) (launches bs))

/-- A module whose partition 0 runs SELECT with a parameter block. -/
def selects (b : List Byte) : State := runs 7 r0 (memWrite 0 b up)
def row1 (k : Nat) : List Byte := leBytes 4 0 ++ leBytes 2 k ++ leBytes 2 0 ++ leBytes 4 1
def merge2 : List Byte :=
  [1#8] ++ leBytes 3 0 ++ leBytes 2 1 ++ leBytes 2 2 ++ leBytes 8 0 ++ leBytes 8 64 ++ leBytes 40 0 ++ leBytes 8 128 ++ leBytes 8 128 ++
    leBytes 50 0 ++ [1#8]

/-- A compiled grammar of one state. -/
def gram0 : List Byte :=
  leBytes 4 0x4752_4D31 ++ leBytes 2 1 ++ leBytes 2 0 ++ leBytes 4 1 ++ leBytes 4 0 ++ leBytes 4 64 ++ leBytes 12 0 ++ leBytes 4 96 ++
    leBytes 2 1 ++ leBytes 58 0

/-- An embedding table of one row at 256, whose map lies at 0, and a module that holds it. -/
def emb0 : EmbTable :=
  { layout := 0, format := 0, flags := 7, dim := 1, blockLog2 := 0, home := 0, seed := 0, rowsA := 1, rowsB := 0, mapA := 0, mapB := 0 }
def embS : State := { memWrite 0 (leBytes 8 257) roomy with embTabs := [(0, emb0)] }
def item0 : EmbItem := { part := 0, row := 0, ovr := false, scale := 0, data := [], desc := 0 }
def row0 : EmbRow := { table := 0, part := 0, row := 0 }
def look0 : EmbLook := { h := h0, table := 0, fmt := 0, out := 0, bags := [], got := [], need := [], msg := 0, limit := 5 }
def job0 : EmbJob := { h := h0, tick := 0, localWaits := false, remote := [], msg := 0, limit := 5 }

/-- A bank operation on channel 1, and a module with one at a channel that its bank units hold. -/
def bop (op : Nat) : BankOp :=
  { op := op, tag := 0, src := gchanBase 1 + 64, dst := gchanBase 1, len := 1, stride := 0, a := 0, b := 0 }
def banked (g : Nat) (o : BankOp) : State := { wrBit (MEM_CH_STATUS.PROCESSOR (g / 192) (g / 32 % 6)) (g % 32) true roomy with bankQ := [(g, [o])] }
/-- The descriptor of a FILL of one granule of channel 1. -/
def fill1 : List Byte := leBytes 16 2 ++ leBytes 8 (gchanBase 1) ++ leBytes 4 1

/-- The module with its four tiles online. -/
def tiled : State := wr HUB_DOMAIN_STATUS.TILE_PRESENT 15 (wr HUB_DOMAIN_STATUS.TILE_ONLINE 15 roomy)
def three : State := wr HUB_DOMAIN_STATUS.TILE_ONLINE 7 tiled

/-- A vector index of one slot whose first segment is open, and a module that holds it as index 63. -/
def v0 : VecIndex :=
  { metric := 0, dim := 1, m := 1, degree := 1, home := 0, stride := 64, stackSet := 1, part := 0, graphCh := 2, flatCh := 2, idmapLog2 := 0,
    maxSlots := 1, codebook := 0x1000, slotTab := 0x2000, segTab := 0x3000, idmap := 0x80_0000 }
def vecS (v : VecIndex) : State :=
  putVseg v 0 { addr := 0x5000, kind := 0, state := 1, records := 0, cap := 1, entry := 0, publish := 0 }
    (wr (VEC_INDEX.READY 63) 1 { roomy with vecs := [(63, v)], cad.edges := 1 })
/-- An upsert item with identifier 1, and a query of index 63. -/
def vitem : List Byte := leBytes 68 1
def vquery : List Byte := [63#8, 1#8] ++ leBytes 2 1 ++ leBytes 2 1 ++ leBytes 62 0
def scan0 : ScanPar := { mask := 0, mat := 0, lo0 := 0, hi0 := 0, lo1 := 0, hi1 := 0, m := 0, thresh := 0, lut := [], rest := true }
def vq (done : Bool) : VecQuery :=
  { id := 0, h := h0, index := 63, q0 := 0, k := 1, ef := 1, par := scan0, q := 0, lo := 0, result := 0, travs := [{ seg := 0, done := done }] }
def searches : State := { parted { running := some { ofStep := false, kern := k0 0xA } } (vecS v0) with vecQs := [vq false] }

def sealed : State :=
  putVseg v0 4095 { addr := 0x5000, kind := 0, state := 2, records := 0, cap := 1, entry := 0, publish := 0 } (vecS v0)

/-- The CRC of 508 zero bytes, and of the frame header that names one byte of data, by runs of 64. -/
def z64 : List Byte := List.replicate 64 0#8
def z60 : List Byte := List.replicate 60 0#8
def head1 : List Byte := leBytes 4 0 ++ leBytes 60 1
def ones1 : List Byte := leBytes 4 0 ++ leBytes 504 1
theorem crc_zeros : crc32 (List.replicate 508 0#8) = 263941460 := by
  have e : List.replicate 508 0#8 = z64 ++ (z64 ++ (z64 ++ (z64 ++ (z64 ++ (z64 ++ (z64 ++ (z60))))))) := by decide +kernel
  have h0 : (z64).foldl crcByte 4294967295 = 2322767049 := by decide +kernel
  have h1 : (z64).foldl crcByte 2322767049 = 1029113186 := by decide +kernel
  have h2 : (z64).foldl crcByte 1029113186 = 1946220301 := by decide +kernel
  have h3 : (z64).foldl crcByte 1946220301 = 4066998951 := by decide +kernel
  have h4 : (z64).foldl crcByte 4066998951 = 1379444914 := by decide +kernel
  have h5 : (z64).foldl crcByte 1379444914 = 2001022648 := by decide +kernel
  have h6 : (z64).foldl crcByte 2001022648 = 3111512508 := by decide +kernel
  have h7 : (z60).foldl crcByte 3111512508 = 4031025835 := by decide +kernel
  rw [crc32, e, List.foldl_append, h0, List.foldl_append, h1, List.foldl_append, h2, List.foldl_append, h3, List.foldl_append, h4,
    List.foldl_append, h5, List.foldl_append, h6, h7]
  rfl
theorem crc_one : crc32 (ones1) = 59480137 := by
  have e : ones1 = head1 ++ (z64 ++ (z64 ++ (z64 ++ (z64 ++ (z64 ++ (z64 ++ (z60))))))) := by decide +kernel
  have h0 : (head1).foldl crcByte 4294967295 = 1084297798 := by decide +kernel
  have h1 : (z64).foldl crcByte 1084297798 = 1230110711 := by decide +kernel
  have h2 : (z64).foldl crcByte 1230110711 = 2976736155 := by decide +kernel
  have h3 : (z64).foldl crcByte 2976736155 = 4052779716 := by decide +kernel
  have h4 : (z64).foldl crcByte 4052779716 = 2867496104 := by decide +kernel
  have h5 : (z64).foldl crcByte 2867496104 = 3262021249 := by decide +kernel
  have h6 : (z64).foldl crcByte 3262021249 = 77069963 := by decide +kernel
  have h7 : (z60).foldl crcByte 77069963 = 4235487158 := by decide +kernel
  rw [crc32, e, List.foldl_append, h0, List.foldl_append, h1, List.foldl_append, h2, List.foldl_append, h3, List.foldl_append, h4,
    List.foldl_append, h5, List.foldl_append, h6, h7]
  rfl

/-- A module whose fabric port 15 is in a state, with a link. -/
def port (st : Nat) (l : Link) : State := wr (FAB_PORT_STATUS.STATE 15) st { up with net.links := [(15, l)] }
def link0 : Link := { txSeq := 0, rxSeq := 0 }
def unit0 : TmUnit := { cls := 0, fn := 0, bytes := 0, enq := 0, chan := 0, vc := 0, colour := 0, data := [], resent := false }
def frame0 : LinkFrame := { vc := 6, colour := 0, first := true, last := true, data := [], msg := 0 }
def msg0 : LinkMsg := { num := 0, unit := unit0, left := [frame0] }

/-- A unit that waits at port 17, whose link is up and whose class has share. -/
def tmS : State :=
  wr (FAB_PORT_STATUS.STATE 15) pUp (wr (TM_PORT.UP 17) 1
    { up with net.tmQ := [(17, [unit0])], net.links := [(15, link0)], net.tmShare := [(shareKey 17 0 0, 1)] })

/-- A module that is a member of a view. -/
def member (ms : List Nat) : State := wr DIR_SELF.STATE 2 { up with net.members := ms }

/-- A directory entry of type 1, and the leader of its shard. -/
def de0 : DirEntry := { type := 1, keyA := 3, keyB := 0, holder := 0, adopted := false, version := 0, value := 0, commit := 0, expire := 0 }
def leader : State := wr (DIR_SHARD.ROLE (entryShard de0)) 2 (member [0])
def follower (l : Nat) : State :=
  { wr (DIR_SHARD.ROLE (entryShard de0)) 1 (member [0, 1]) with net.shards := [(entryShard de0, { leader := l })] }

/-- A checkpoint of no partition, its descriptor, and a module where it is in a phase. -/
def ck (op phase : Nat) : Ckpt :=
  { op := op, cls := 0, mirrorOn := false, remote := false, jobKey := 0, id := 4, mirror := 0xFFF, source := 0xFFF, capFence := 0xFFFF,
    durFence := 0xFFFF, ranges := [(0x9000_0000, 64)], parts := [], tick := 0, barrier := false, phase := phase }
def ckS (op phase : Nat) : State := { roomy with ckpt := some (ck op phase), ckptGib := 1 }
def ckDesc : List Byte :=
  leBytes 4 0x434B_5031 ++ leBytes 4 0 ++ leBytes 8 4 ++ leBytes 2 0xFFF ++ leBytes 2 0xFFF ++ leBytes 2 1 ++ leBytes 2 0xFFFF ++
    leBytes 2 0xFFFF ++ leBytes 6 0 ++ leBytes 8 128 ++ leBytes 88 0 ++ leBytes 8 0x9000_0000 ++ leBytes 8 64
def ckpts : State :=
  (List.range 24).foldl (fun s st => wr (MEM_CH_CFG.SPARE_GIB (st / 6) (st % 6)) 9 s) { memWrite 0 ckDesc roomy with ckptGib := 1 }

theorem ckpt_read : readCkpt 0 ckpts = .ok (ck 0 1) := by
  have h : (match readCkpt 0 ckpts with | .ok d => decide (d = ck 0 1) | .error _ => false) = true := by decide +kernel
  revert h
  cases readCkpt 0 ckpts <;> simp

theorem ckpt_entered : readCkpt 0 (entered h0 0x41 ckpts) = .ok (ck 0 1) := by
  have h : (match readCkpt 0 (entered h0 0x41 ckpts) with | .ok d => decide (d = ck 0 1) | .error _ => false) = true := by decide +kernel
  revert h
  cases readCkpt 0 (entered h0 0x41 ckpts) <;> simp

/-- A module whose management complex runs, with its identity verified. -/
def managed : State :=
  wr HUB_DOMAIN_STATUS.MGT_RUNNING 1 (wr SEC_ID_STATUS.PUF_OK 1 (wr SEC_ID_STATUS.CERT_OK 1 (wr SEC_ID_STATUS.OWNER_OK 1 up)))
/-- An image that removes embedding table 63, and a module that has it in memory. -/
def entryD : List Byte := leBytes 2 9 ++ leBytes 2 (rgEmb 63) ++ leBytes 4 0 ++ leBytes 4 128 ++ leBytes 4 0 ++ leBytes 16 (Config.digest [])
def image0 : List Byte :=
  leBytes 4 0x414C_4D31 ++ leBytes 2 1 ++ leBytes 2 0x1728 ++ leBytes 4 1 ++ leBytes 4 0 ++ leBytes 4 1 ++ leBytes 4 128 ++ leBytes 8 0 ++
    leBytes 4 128 ++ leBytes 28 0 ++ entryD ++ leBytes 32 0
def imaged : State := { managed with mem := (List.range 128).zip image0 }
/-- Bytes taken from `n` spell the number `n`. -/
theorem leNat_leBytes (n v : Nat) : leNat (leBytes n v) = v % 256 ^ n := by
  induction n generalizing v with
  | zero => simp [leBytes, leNat, Nat.mod_one]
  | succ n ih =>
    simp only [leBytes, leNat, ih, BitVec.toNat_ofNat]
    rw [show 256 ^ (n + 1) = 256 * 256 ^ n from Nat.pow_succ', show (2 ^ 8 : Nat) = 256 from rfl, Nat.mod_mul]
theorem image0_digest : (sectOf image0 0).digest = Config.digest [] % 2 ^ 128 :=
  show leNat (leBytes 16 (Config.digest [])) = _ from
    (leNat_leBytes 16 _).trans (congrArg (Config.digest [] % ·) (show (256 ^ 16 : Nat) = 2 ^ 128 by decide))
theorem image0_data : (sectOf image0 0).data = [] := by
  rw [List.eq_nil_iff_length_eq_zero]; decide +kernel
theorem image0_passes : imageFails image0 true imaged = none := by
  have hn : (List.range (field image0 0x10 2)).map (sectOf image0) = [sectOf image0 0] := by
    rw [show field image0 0x10 2 = 1 by decide +kernel]; rfl
  have h1 : headerOk image0 = true := by decide +kernel
  have h2 : sectOk image0 (sectOf image0 0) = true := by decide +kernel
  have h3 : isSet SEC_ID_STATUS.OWNER_OK imaged = true := by decide +kernel
  have h4 : ¬ field image0 8 4 ≤ rd ALM_COMMITTED.GEN imaged := by decide +kernel
  have h5 : field image0 0xC 4 = 0 := by decide +kernel
  have h6 : typeFits (sectOf image0 0).ty (sectOf image0 0).region = true := by decide +kernel
  have h7 : (sectOf image0 0).count = 0 := by decide +kernel
  have h8 : crossBad (fun _ => true) (stageSects [sectOf image0 0] imaged) = [] := by decide +kernel
  have hd : ((sectOf image0 0).digest == Config.digest (sectOf image0 0).data % 2 ^ 128) = true := by
    rw [image0_data, image0_digest]; exact beq_self_eq_true _
  unfold imageFails
  rw [hn]
  simp only [h1, h3, h4, h5, h8, firstBad, List.find?, h2, hd, h6, h7, List.any_cons, List.any_nil]
  simp

/-- A module to which a model of one layer can be bound: its attention record at 0, tokenizer set 0, partition 0 on tile 0. -/
def record0 : List Byte :=
  [0#8, 1#8, 1#8, 0#8] ++ leBytes 2 64 ++ leBytes 2 1 ++ leBytes 8 0 ++ [3#8, 1#8] ++ leBytes 14 0 ++ leBytes 4 0
def binds : State :=
  wr SEC_ID_STATUS.OWNER_OK 1 (wr (TXT_SET.VALID 0) 1 (wr (TXT_SET.VOCAB 0) 256 (wr (ARY_PART_STATUS.DEFINED 0) 1
    (parted { model := 0, ranks := [0] } { memWrite 0 record0 roomy with modelCopyGib := 1 }))))
def manifest0 : Manifest := { blocks := [], alts := [], digest := 0, sigOk := true }
theorem weights_none (s : State) : reserveWeights manifest0 s = some ([], s) := by
  have h : ∀ tp : Nat, extraUnits manifest0.alts (tp / 3) (tp % 3) = 0 := by intro tp; simp [extraUnits, manifest0] <;> rfl
  simp [reserveWeights, h]
  simp [manifest0] <;> rfl
def copied : Option (List Nat × State) := reserveCopy (copyReserve manifest0.blocks.length) (entered h0 0x30 binds)
theorem copied_get : ∃ ks w, copied = some (ks, w) ∧ rd DIR_SELF.STATE w ≠ 2 := by
  have h : (match copied with | some x => decide (rd DIR_SELF.STATE x.2 ≠ 2) | none => false) = true := by decide +kernel
  cases hc : copied with
  | none => rw [hc] at h; cases h
  | some x => rw [hc] at h; exact ⟨x.1, x.2, rfl, of_decide_eq_true h⟩

/-- A bound model of one block, whose digest is that of what an empty sealed block unseals to. -/
def model1 : Model := { blocks := [(0, 0, Config.digest ((Config.unseal 0 []).take blockBytes))] }
def bound : State := wr (HIF_MODEL.BOUND 0) 1 { up with models := [(0, model1)], adm.modelKeys := [(0, { modelId := 0, digest := 0, key := 0 })] }

/-- A key-exchange header of job 127 between two modules, and a module whose buffers hold a blob and one zero entry of trust. -/
def kxH (kind init resp : Nat) : List Byte := leBytes 4 0x4F4B_5831 ++ leBytes 1 kind ++ leBytes 1 127 ++ leBytes 2 0 ++ leBytes 2 init ++ leBytes 2 resp
def kxS (kind init resp : Nat) : State :=
  wr SEC_TRUST_COUNT.COUNT 1 (wr SEC_TRUST_ADDR.ADDR 0x4000
    (memWrite (kxBody kind) (leBytes 4 0x5347_4231 ++ leBytes 2 0 ++ leBytes 1 3) (memWrite 0 (kxH kind init resp) managed)))
def off0 (edge : Nat) : Offer := { job := 127, peer := 0xFFE, jobId := 0, edge := edge, secret := 0 }
/-- An owner record of four keys, and a module without one that has it at its buffer. -/
def ownS : State :=
  wr SEC_ID_STATUS.OWNER_OK 0 (memWrite 0 (leBytes 4 0x4F57_4E31 ++ leBytes 4 7 ++ leBytes 1 4 ++ leBytes 189 0 ++ leBytes 1 1) managed)
/-- Management binding 1 has its endpoint identifier. -/
def hears : State := wr MGT_STATUS.I3C_EID 9 managed

/-- What start-up finds on a module without a fault, and the module up to the test of its arrays. -/
def boot0 : BootResult :=
  { puf := some 0, record := some 0, cert := true, ownerA := false, ownerB := false, hubOk := true, faulty := [], badArrays := [],
    badStacks := [], badBridges := [], badChans := [], badDeep := [], margins := [], ms := 5 }
def boots : State := wr HUB_BOOT_STATUS.SLOT_ID State.reset.pow.slotId (showBoot (showFw (bootIdentity boot0 State.reset)))
theorem boots_tiles : 3 ≤ ((List.range 4).filter (bootTile boot0 (bootArrays boot0 boots))).length := by
  have h : ∀ b, isArr b → passedArr b (bootArrays boot0 boots) := by
    refine passedArr_boot boot0 boots rfl rfl fun b _ => .inl ?_
    have hd : boots.regs.all (fun p => decide (p.1 < 0x14_0000 * 4096)) = true := by decide +kernel
    exact arrState_unlisted b boots hd
  rw [List.filter_eq_self.mpr fun t ht => bootTile_passed boot0 _ t (List.mem_range.mp ht) rfl rfl h]
  decide

def samp0 : Sampling :=
  { temperature := 0, topP := 0, minP := 0, repPenalty := 0, presencePenalty := 0, frequencyPenalty := 0, topK := 0, decMode := 0,
    maxTokens := 0, seed := 0 }

/-- A module in an open test window, and a dump that is written. -/
def tests : State := wr REL_DF_WINDOW.ENABLE 1 (wr HUB_BOOT_STATUS.STAGE 7 tiled)
def dump0 : Dump := { kind := 1, src := 0, complete := true, tick := 0, seq := 0 }

/-- The same with a host region of 2 MiB, where slot 5 may be parked. -/
def hostS (st : Nat) (t : Transit) : State :=
  wr (HIF_HTIER_BASE.ENABLE 0) 1 (wr (HIF_HTIER_SIZE.UNITS 0) 1
    { on { d5 st with hostParkOk := true } up with sess := [(5, {})], transits := [t] })
/-- A transit plan of slot 5 at address 0. -/
def tplan (s : State) : State := memWrite 0 (leBytes 8 (mkHandle 0 5 7) ++ [1#8, 1#8, 2#8, 0#8, 63#8, 0#8] ++ leBytes 18 0) s

/-- The same migration with its transit on a slot, and ranges written since the pass began. -/
def peerS (phase n : Nat) : State :=
  { ses stReady with migs := [{ mig phase with dirty := List.replicate n 0 }], transits := [{ tr 7 with cls := 0 }] }

/-- A kernel header that names no code, with the digest of that, and a module whose partition 0 has it as its next kernel. -/
def khdr0 : List Byte := leBytes 4 0x4B4E_4C31 ++ leBytes 8 0 ++ [1#8] ++ List.replicate 35 0#8 ++ leBytes 8 (Config.digest []) ++ leBytes 8 0
def kernS : State :=
  { wr (ARY_STATUS.STATE 0 0) 0 (parted { ranks := [0], step := some (st0 0 0) } up) with mem := (List.range 64).zip khdr0 }

/-- A partition that runs operator 1 on array 1887, and an array that a hang has frozen. -/
def hangs : State :=
  setArr 1887 aEnabled (parted { ranks := [1887], step := some (st0 0 0), running := some { run0 1 with ranks := [1887] } } up)
def dumpA : Dump := { kind := 0, src := 0, tick := 0, array := 1887, seq := 0 }
def swap0 (phase : Nat) : Swap := { rank := 0, failed := 0, spare := 1887, phase := phase }

def merge1 : List Byte := [1#8] ++ leBytes 3 0 ++ leBytes 2 1 ++ leBytes 2 1 ++ leBytes 56 0

/-- A module with that grammar at address 0 and its token set. -/
def gramS (mib : Nat) (s : State) : State := wr TXT_GRAM_STATUS.STORE_MIB mib { memWrite 0 gram0 s with tokSets := [(0, [])] }

/-- A model of one layer with one head, and slot 5 with its page of deep-held state under the attention of that layer. -/
def modelK : Model := { kvHeads := 1, qPerKv := 1, headDim := 64, layers := [(0, 0, false)], sparseThresh := 1 }
def heldX (p : Page) : Sess :=
  { fill := true, spans := [{ leafAddr := 0x9000_0000, cls := 0, fill := 1 }], pages := [p], image := some { im0 with pageOffs := [0] } }
def kvPart (op start : Nat) : Part :=
  { ranks := [0], step := some { st0 0 0 with runs := [{ r0 with start := start }] }, running := some { run0 op with ranks := [0] } }
def kvS (op start : Nat) (p : Page) : State := { sparse with sess := [(5, heldX p)], models := [(0, modelK)], parts := [(0, kvPart op start)] }

/-- The same table with an empty map, so that its row is elsewhere. -/
def embFar : State := { roomy with embTabs := [(0, emb0)] }

/-- A module that may take a session from module 2, with the extension that holds the keys of slots 0 to 32,767. -/
def takes : State := { keyed roomy with keyExts := [(0, 0x9000_0000)] }

theorem image0_unsigned : imageFails image0 false imaged = some (sAuthFail, 3, 0xFFF) := by
  have hn : (List.range (field image0 0x10 2)).map (sectOf image0) = [sectOf image0 0] := by
    rw [show field image0 0x10 2 = 1 by decide +kernel]; rfl
  have h1 : headerOk image0 = true := by decide +kernel
  have h2 : sectOk image0 (sectOf image0 0) = true := by decide +kernel
  unfold imageFails
  rw [hn]
  simp [firstBad, h1, h2]

theorem creates_had {α : Type} (f : State → Option α) (i : Nat) (s : State) (hk : (sget s.keyExts (i / 32768)).isSome = true)
    (hc : (f s).isSome = true) : ((takeKeyExt i s).bind f).isSome = true := by
  have h : takeKeyExt i s = some s := by unfold takeKeyExt; exact if_pos hk
  rw [h]; exact hc

/-- A run of units of an empty enabled region can be had. -/
theorem one_unit (n r : Nat) (s : State) (he : isSet (HIF_HTIER_BASE.ENABLE r) s = true) (hu : regionUnits r s = []) (hn : n ≤ regionSize r s) :
    (allocRegion n r s).isSome = true := by
  obtain ⟨c, hc⟩ : ∃ c, pickRun n 0 (regionSize r s) (regionUnits r s) s = some c := by
    rw [hu]
    unfold pickRun
    simp only
    split
    · exact ⟨_, rfl⟩
    · exact ⟨0, by simp [firstGap, hn]⟩
  simp [allocRegion, he, hc]

theorem kern_code : kernelCodeOk (khdrOf (memRead kernS 0 64)) kernS = true := by
  have h1 : memRead kernS 0 64 = khdr0 := by rfl
  have h2 : (khdrOf khdr0).digest = leBytes 8 (Config.digest []) := by rfl
  have h3 : kernelCode (khdrOf khdr0) kernS = [] := by rfl
  unfold kernelCodeOk
  rw [h1, h2, h3]; exact beq_self_eq_true _

def ms1 : Nat := 2 ^ 32
theorem pairOf {α β : Type} (p : α × β) : p = (p.1, p.2) := rfl

/-! ## What WellFormed refuses, and the last value it takes -/

theorem test_wf_fits : Instr.wf (.sidEpochTx (2 ^ 64)) = false ∧ Instr.wf (.sidEpochTx (2 ^ 64 - 1)) = true := by decide
theorem test_wf_okFn : Instr.wf (.functionLevelReset 256) = false ∧ Instr.wf (.functionLevelReset 255) = true := by decide
theorem test_wf_okQp : Instr.wf (.sqTail 0 64 0) = false ∧ Instr.wf (.sqTail 0 63 0) = true := by decide
theorem test_wf_okTile : Instr.wf (.tileOffline 4) = false ∧ Instr.wf (.tileOffline 3) = true := by decide
theorem test_wf_okStack : Instr.wf (.bnkPfOp 24 0) = false ∧ Instr.wf (.bnkPfOp 23 0) = true := by decide
theorem test_wf_okChan : Instr.wf (.bankCopy 768) = false ∧ Instr.wf (.bankCopy 767) = true := by decide
theorem test_wf_okDeep : Instr.wf (.retireDeep 96) = false ∧ Instr.wf (.retireDeep 95) = true := by decide
theorem test_wf_okArr : Instr.wf (.aryRetire 0 352) = false ∧ Instr.wf (.aryRetire 0 351) = true := by decide
theorem test_wf_okPart : Instr.wf (.rankMapSwap 255) = false ∧ Instr.wf (.rankMapSwap 254) = true := by decide
theorem test_wf_okSlot : Instr.wf (.sessionExpiry 0x40_0000) = false ∧ Instr.wf (.sessionExpiry 0x3F_FFFF) = true := by decide
theorem test_wf_okEph : Instr.wf (.ephFlush 64) = false ∧ Instr.wf (.ephFlush 63) = true := by decide
theorem test_wf_okEmb : Instr.wf (.embReplicaValid 0 256 0 0) = false ∧ Instr.wf (.embReplicaValid 0 255 1 0) = true := by decide
theorem test_wf_okVec : Instr.wf (.vecEdgeRepair 64) = false ∧ Instr.wf (.vecEdgeRepair 63) = true := by decide
theorem test_wf_okFab : Instr.wf (.fabRetrain 16) = false ∧ Instr.wf (.fabRetrain 15) = true := by decide
theorem test_wf_okPort : Instr.wf (.tmHwmRead 19 0 0) = false ∧ Instr.wf (.tmHwmRead 18 0 0) = true := by decide
theorem test_wf_okCls : Instr.wf (.tmHwmRead 0 8 0) = false ∧ Instr.wf (.tmHwmRead 0 7 0) = true := by decide
theorem test_wf_okHalf : Instr.wf (.tmHwmRead 0 0 3) = false ∧ Instr.wf (.tmHwmRead 0 0 2) = true := by decide
theorem test_wf_okShard : Instr.wf (.leaseRenew 4096) = false ∧ Instr.wf (.leaseRenew 4095) = true := by decide
theorem test_wf_okModule : Instr.wf (.kxOffer 1 4096) = false ∧ Instr.wf (.kxOffer 1 4095) = true := by decide
theorem test_wf_okJob : Instr.wf (.kxClose 128) = false ∧ Instr.wf (.kxClose 127) = true := by decide
theorem test_wf_okModel : Instr.wf (.modelKeyClear 2 0 16) = false ∧ Instr.wf (.modelKeyClear 2 0 15) = true := by decide
theorem test_wf_okHtier : Instr.wf (.htierEnable 64 true) = false ∧ Instr.wf (.htierEnable 63 true) = true := by decide
theorem test_wf_okDump : Instr.wf (.releaseDump 8) = false ∧ Instr.wf (.releaseDump 7) = true := by decide
theorem test_wf_okRegion : Instr.wf (.regionCompleted 608) = false ∧ Instr.wf (.regionCompleted 607) = true := by decide
theorem test_wf_okDomain : Instr.wf (.peakDwRead 13) = false ∧ Instr.wf (.peakDwRead 12) = true := by decide
theorem test_wf_okSensor : Instr.wf (.thermalTrip 5 0 0) = false ∧ Instr.wf (.thermalTrip 4 0 0) = true := by decide
theorem test_wf_okBind : Instr.wf (.getTid 3) = false ∧ Instr.wf (.getTid 2) = true := by decide
theorem test_wf_okBar : Instr.wf (.registerWrite 0 1 0 0 true) = false ∧ Instr.wf (.registerWrite 0 2 0 0 true) = true := by decide
theorem test_wf_okHdr : Instr.wf (.generate { h0 with qp := 64 }) = false ∧ Instr.wf (.generate h0) = true := by decide
theorem test_wf_okBuf : Instr.wf (.setStops h0 ⟨2 ^ 64, none⟩ 0 0) = false ∧ Instr.wf (.setStops h0 ⟨2 ^ 64 - 1, none⟩ 0 0) = true := by decide
theorem test_wf_okEntry : Instr.wf (.nopEntry 0 0 { e0 with flags := 256 }) = false ∧ Instr.wf (.nopEntry 0 0 e0) = true := by decide
theorem test_wf_okCreate : Instr.wf (.sessionCreate h0 { create7 with model := 256 }) = false ∧ Instr.wf (.sessionCreate h0 create7) = true := by decide
theorem test_wf_okSampling : Instr.wf (.setSampling h0 { samp0 with decMode := 256 } false false) = false ∧ Instr.wf (.setSampling h0 samp0 false false) = true := by decide
theorem test_wf_okUnit : Instr.wf (.frameSend 0 [{ unit0 with cls := 8 }]) = false ∧ Instr.wf (.frameSend 0 [unit0]) = true := by decide
theorem test_wf_okPower : Instr.wf (.syntheticTick tp0) = false ∧ Instr.wf (.syntheticTick { tp0 with domains := List.replicate 12 0 }) = true := by decide
theorem test_wf_okBoot : Instr.wf (.startUpEngineDone { boot0 with badChans := [768] }) = false ∧ Instr.wf (.startUpEngineDone boot0) = true := by decide
theorem test_wf_okArray : Instr.wf (.hangDump 352) = false ∧ Instr.wf (.hangDump 351) = true := by decide

/-! ## Single commands -/

/-- A command on a state answers a next state of which `p` is true. -/
def after (c : Instr) (s : State) (p : State → Bool) : Bool :=
  match exec c s with
  | .next t => p t
  | _ => false

/-- The queue: the command in front is taken, the rest waits; an empty queue idles. -/
theorem test_step_takes_front : (match step { up with pending := [.getstatus, .joinView] } with | .next t => t.pending == [.joinView] | _ => false) = true := by
  decide
theorem test_step_idles : step up = .next up := rfl
/-- R51, R559: before start-up ends nothing is served, and MODULE_ID is 0xFFF. -/
theorem test_reset_serves_nothing : serving State.reset = false ∧ rd SES_CTRL.MODULE_ID State.reset = 0xFFF := by decide
/-- R559: a session of a model that is not LOADED is REJECTED. -/
theorem test_create_not_loaded : after (.sessionCreate h0 create7) (wr (HIF_MODEL.LOADED 0) 0 creates) (fun t => (t.cpl.map (·.status)) == [3] && t.desc == []) = true := by decide
/-- R44: CANCEL of a READY session without TURN_PENDING is OK and leaves it READY. -/
theorem test_cancel_ready : after (.cancel h5) (ses stReady) (fun t => (t.cpl.map (·.status)) == [0] && (descOf 5 t).st == stReady) = true := by decide
/-- R566: only the PF writes BAR0. -/
theorem test_vf_writes_no_bar0 : after (.registerWrite 1 0 0x3_0018 7 true) up (fun t => t == up) = true := by decide
/-- R427: SET never lowers a fence; ADD saturates at all ones. -/
theorem test_fence_set_lower : after (.fenceSignal h0 5 0 7) (wr (FEN_VALUE.VALUE 5) 9 up) (fun t => fenceVal 5 t == 9) = true := by decide
theorem test_fence_add_saturates :
    after (.fenceSignal h0 5 1 2) (wr (FEN_VALUE.VALUE 5) (2 ^ 64 - 2) up) (fun t => fenceVal 5 t == 2 ^ 64 - 1) = true := by decide
/-- The bytes of memory are little-endian: 0x0102 at address 4 has 0x02 there. -/
theorem test_little_endian : memByte (memWrite 4 (leBytes 2 0x0102) State.reset) 4 = 2#8 := by decide
/-- R553: a function-level reset of F0 resets the module with power held, and tells cause 2. -/
theorem test_flr_of_f0 : after (.functionLevelReset 0) up (fun t => rd HUB_BOOT_STATUS.LAST_RESET t == 2 && rd HUB_DOMAIN_STATUS.HUB_OK t == 0) = true := by
  decide


/-! ## Hypotheses that are met -/

theorem witness_step_keeps_inv :
    ∃ (s t : State), Inv s ∧ step s = .next t :=
    ⟨{ up with pending := [.getstatus] }, _, ⟨by decide, by decide, by decide⟩, rfl⟩

theorem witness_step_takes_one :
    ∃ (s t : State), step s = .next t :=
    ⟨{ up with pending := [.getstatus] }, _, rfl⟩

theorem witness_memory_read_after_write :
    (∃ (s : State) (a : Nat), memOk s = true ∧ a < bondedEnd) ∧
    (∃ (a x : Nat) (bs : List Byte), (x < a ∨ a + bs.length ≤ x)) ∧
    (∃ (s : State), memOk s = true) :=
  ⟨⟨up, bondedEnd - 1, by decide, by decide⟩,
    ⟨64, 63, [], by decide⟩,
    ⟨up, by decide⟩⟩

theorem witness_register_fields :
    (∃ (f g : Fld), fkey f ≠ fkey g) ∧
    (∃ (f : Fld) (s : State), rd f s = fmax f) :=
  ⟨⟨SID_COUNT.COUNT, HUB_DOMAIN_STATUS.HUB_OK, by decide⟩,
    ⟨HUB_DOMAIN_STATUS.HUB_OK, up, by decide⟩⟩

theorem witness_doorbells :
    (∃ (fn qp idx : Nat) (s : State), live s = true ∧ ideShut s = false ∧ qpState fn qp s = 1 ∧ idx < sqSize fn qp s) ∧
    (∃ (fn qp idx : Nat) (s : State), live s = true ∧ ideShut s = false ∧ qpState fn qp s = 1 ∧ sqSize fn qp s ≤ idx) ∧
    (∃ (fn qp : Nat) (s : State), live s = true ∧ ideShut s = false ∧ qpState fn qp s ≠ 1) ∧
    (∃ (fn qp idx : Nat) (s : State), live s = true ∧ ideShut s = false ∧ (qpState fn qp s = 1 ∨ qpState fn qp s = 2) ∧
    idx < cqSize fn qp s) ∧
    (∃ (fn qp idx : Nat) (s : State), live s = true ∧ ideShut s = false ∧ (qpState fn qp s = 1 ∨ qpState fn qp s = 2) ∧
    cqSize fn qp s ≤ idx) ∧
    (∃ (fn qp n : Nat) (s : State), live s = true ∧ ideShut s = false ∧ (qpState fn qp s = 1 ∨ qpState fn qp s = 2) ∧
    (rd (HIF_QP_OUT_STATUS.PI fn qp) s + 2 ^ 32 - n % 2 ^ 32) % 2 ^ 32 ≤ outSize fn qp s ∧ (qpOf fn qp s).evs = []) ∧
    (∃ (fn qp n : Nat) (r : Rec) (rest : List Rec) (s : State), live s = true ∧ ideShut s = false ∧
    (qpState fn qp s = 1 ∨ qpState fn qp s = 2) ∧ (rd (HIF_QP_OUT_STATUS.PI fn qp) s + 2 ^ 32 - n % 2 ^ 32) % 2 ^ 32 ≤ outSize fn qp s ∧
    (qpOf fn qp s).evs = r :: rest ∧ recSize r ≤ ringFree fn qp (putQp fn qp { qpOf fn qp s with outCi := n % 2 ^ 32 } s)) ∧
    (∃ (fn qp n : Nat) (s : State), live s = true ∧ ideShut s = false ∧ (qpState fn qp s = 1 ∨ qpState fn qp s = 2) ∧
    outSize fn qp s < (rd (HIF_QP_OUT_STATUS.PI fn qp) s + 2 ^ 32 - n % 2 ^ 32) % 2 ^ 32) ∧
    (∃ (s : State), live s = true ∧ ideShut s = false) ∧
    (∃ (s : State), live s = true ∧ ideShut s = true) :=
  ⟨⟨0, 0, 15, up, by decide, by decide, by decide, by decide⟩,
    ⟨0, 0, 16, up, by decide, by decide, by decide, by decide⟩,
    ⟨0, 0, wr (HIF_QP_STATUS.STATE 0 0) 2 up, by decide, by decide, by decide⟩,
    ⟨0, 0, 15, up, by decide, by decide, by decide, by decide⟩,
    ⟨0, 0, 16, up, by decide, by decide, by decide, by decide⟩,
    ⟨0, 0, 0, wr (HIF_QP_OUT_STATUS.PI 0 0) (outSize 0 0 up) up, by decide, by decide, by decide, by decide, by decide⟩,
    ⟨0, 0, 0, { type := 2, flags := 0, turnId := 0, handle := 0, payload := [] }, [],
    putQp 0 0 { evs := [{ type := 2, flags := 0, turnId := 0, handle := 0, payload := [] }] } up, by decide, by decide, by decide,
    by decide, by decide, by decide⟩,
    ⟨0, 0, 2 ^ 32 - 1, wr (HIF_QP_OUT_STATUS.PI 0 0) (outSize 0 0 up) up, by decide, by decide, by decide, by decide⟩,
    ⟨up, by decide, by decide⟩,
    ⟨wr SEC_CFG.IDE_REQUIRED 1 up, by decide, by decide⟩⟩

theorem witness_queue_pair_enable :
    (∃ (fn qp : Nat) (s : State), serving s = true ∧ ideShut s = false ∧ fn < 256 ∧ qp < 64 ∧ qpState fn qp s ≠ 1 ∧
    qpValid fn qp s = true) ∧
    (∃ (fn qp : Nat) (s : State), serving s = true ∧ ideShut s = false ∧ fn < 256 ∧ qp < 64 ∧ qpState fn qp s ≠ 1 ∧
    qpValid fn qp s = false) ∧
    (∃ (fn qp : Nat) (s : State), serving s = true ∧ ideShut s = false ∧ qpState fn qp s = 1) ∧
    (∃ (s : State), serving s = true ∧ ideShut s = false) :=
  ⟨⟨0, 0, wr (HIF_FN_STATUS.STATE 0) 1 (wr (HIF_QP_STATUS.STATE 0 0) 0 up), by decide, by decide, by decide, by decide, by decide,
    by decide⟩,
    ⟨0, 63, up, by decide, by decide, by decide, by decide, by decide, by decide⟩,
    ⟨0, 0, up, by decide, by decide, by decide⟩,
    ⟨up, by decide, by decide⟩⟩

theorem witness_intake_and_output :
    (∃ (fn qp : Nat) (e : List Byte) (d : List (Nat × Nat)) (s : State), serving s = true ∧ ideShut s = false ∧
    mayFetch fn qp (field e 0 1) s = true ∧ fetchTurn fn qp (field e 0 1) s = true ∧ rd (HIF_QP_SQ.LOG2 fn qp) s ≤ 16 ∧
    opBytes (field e 0 1) = some d ∧ strayByte e d = false ∧ badCode fn (field e 0 1) e = false ∧
    (pfOnly (field e 0 1) = true → fn = 0) ∧ ((hdrOf fn qp e).bondedBuf = true → fn = 0) ∧
    (field e 8 8 = 0 ∨ namesSession (field e 0 1) = true) ∧
    ((hdrOf fn qp e).fenceDone = true → mayFence fn (hdrOf fn qp e).fence s = true)) ∧
    (∃ (fn qp : Nat) (e : List Byte) (s : State), serving s = true ∧ ideShut s = false ∧ mayFetch fn qp (field e 0 1) s = true ∧
    fetchTurn fn qp (field e 0 1) s = true ∧
    (opBytes (field e 0 1) = none ∨ ∃ d, opBytes (field e 0 1) = some d ∧ (strayByte e d = true ∨ badCode fn (field e 0 1) e = true ∨ (pfOnly (field e 0 1) = true ∧ fn ≠ 0) ∨ ((hdrOf fn qp e).bondedBuf = true ∧ fn ≠ 0)))) ∧
    (∃ (fn qp : Nat) (s : State), serving s = true ∧ ideShut s = false ∧ mayFetch fn qp 0 s = true ∧ fetchTurn fn qp 0 s = true) ∧
    (∃ (fn qp : Nat) (e : List Byte) (s : State), serving s = true ∧ ideShut s = false ∧ fetchTurn fn qp (field e 0 1) s = false) ∧
    (∃ (fn qp : Nat) (r : Rec) (rest : List Rec) (s : State), serving s = true ∧ ideShut s = false ∧
    (qpState fn qp s = 1 ∨ qpState fn qp s = 2) ∧ (qpOf fn qp s).recs = r :: rest ∧
    (rd (HIF_QP_OUT_STATUS.PI fn qp) s + 2 ^ 32 - (qpOf fn qp s).outCi) % 2 ^ 32 + recSize r ≤ outSize fn qp s) ∧
    (∃ (fn qp : Nat) (s : State), serving s = true ∧ ideShut s = false ∧ (qpState fn qp s = 1 ∨ qpState fn qp s = 2) ∧
    (qpOf fn qp s).recs ≠ []) ∧
    (∃ (e : Ev) (rest : List Ev) (s : State), serving s = true ∧ s.evHeld = e :: rest ∧ evqRoom s = true) ∧
    (∃ (fn vec : Nat) (s : State), serving s = true ∧ vec < 64 ∧ sgetD s.coal (fn * 128 + vec) 0 ≠ 0 ∧
    rd (HIF_QP_CTRL.INT_EN fn vec) s = 1) ∧
    (∃ (s : State), serving s = true ∧ sgetD s.coal 64 0 ≠ 0 ∧ rd HIF_EVQ_CFG.INT_EN s = 1) :=
  ⟨⟨0, 0, (0x20#8 :: List.replicate 63 0#8), [(0x10, 3), (0x18, 8)], putQp 0 0 { sqTail := 1 } up, by decide, by decide, by decide,
    by decide, by decide, by decide, by decide, by decide, by decide, by decide, by decide, by decide⟩,
    ⟨0, 0, (0x7E#8 :: List.replicate 63 0#8), putQp 0 0 { sqTail := 1 } up, by decide, by decide, by decide, by decide, by decide⟩,
    ⟨0, 0, putQp 0 0 { sqTail := 1 } up, by decide, by decide, by decide, by decide⟩,
    ⟨0, 1, (0x20#8 :: List.replicate 63 0#8),
    wr (HIF_QP_STATUS.STATE 0 1) 1 (wr (HIF_QP_SQ.LOG2 0 1) 4 (putQp 0 0 { sqTail := 1 } (putQp 0 1 { sqTail := 1 } up))), by decide,
    by decide, by decide⟩,
    ⟨0, 0, { type := 2, flags := 0, turnId := 0, handle := 0, payload := [] }, [],
    putQp 0 0 { recs := [{ type := 2, flags := 0, turnId := 0, handle := 0, payload := [] }] } up, by decide, by decide, by decide,
    by decide, by decide⟩,
    ⟨0, 0, putQp 0 0 { recs := [{ type := 2, flags := 0, turnId := 0, handle := 0, payload := [] }] } up, by decide, by decide,
    by decide, by decide⟩,
    ⟨{ code := 1, src := 0, status := 0, arg32 := 0, arg64 := 0, tick := 0 }, [],
    { wr HIF_EVQ_BASE.ENABLE 1 (wr HIF_EVQ_CFG.LOG2 16 up) with evHeld := [{ code := 1, src := 0, status := 0, arg32 := 0, arg64 := 0, tick := 0 }] },
    by decide, by decide, by decide⟩,
    ⟨0, 63, { wr (HIF_QP_CTRL.INT_EN 0 63) 1 up with coal := [(63, 1)] }, by decide, by decide, by decide, by decide⟩,
    ⟨{ wr HIF_EVQ_CFG.INT_EN 1 up with coal := [(64, 1)] }, by decide, by decide, by decide⟩⟩

theorem witness_host_link_and_bar4 :
    (∃ (rate width : Nat) (s : State), live s = true ∧ rate < 16 ∧ width < 64) ∧
    (∃ (off : Nat) (data : List Byte) (s : State), live s = true ∧ ideShut s = false ∧ data ≠ [] ∧
    off + data.length ≤ s.bar4Gib * 2 ^ 30 ∧ rd HIF_BAR4_WINDOW.ADDR s * 2 ^ 30 + off + data.length ≤ bondedEnd ∧
    (∀ k, k < data.length → bar4Area (rd HIF_BAR4_WINDOW.ADDR s * 2 ^ 30 + off + k) = 0) ∧ s.ckpt = none ∧
    chansOwned (rd HIF_BAR4_WINDOW.ADDR s * 2 ^ 30 + off) data.length s = false) ∧
    (∃ (off : Nat) (data : List Byte) (s : State), live s = true ∧ ideShut s = false ∧ data ≠ [] ∧
    off + data.length ≤ s.bar4Gib * 2 ^ 30 ∧ rd HIF_BAR4_WINDOW.ADDR s * 2 ^ 30 + off + data.length ≤ bondedEnd ∧
    (∀ k, k < data.length → bar4Area (rd HIF_BAR4_WINDOW.ADDR s * 2 ^ 30 + off + k) = 0) ∧
    chansOwned (rd HIF_BAR4_WINDOW.ADDR s * 2 ^ 30 + off) data.length s = true) ∧
    (∃ (off k : Nat) (data : List Byte) (s : State), live s = true ∧ ideShut s = false ∧ off + data.length ≤ s.bar4Gib * 2 ^ 30 ∧
    rd HIF_BAR4_WINDOW.ADDR s * 2 ^ 30 + off + data.length ≤ bondedEnd ∧ k < data.length ∧
    bar4Area (rd HIF_BAR4_WINDOW.ADDR s * 2 ^ 30 + off + k) ≠ 0 ∧
    (∀ j, k < j → j < data.length → bar4Area (rd HIF_BAR4_WINDOW.ADDR s * 2 ^ 30 + off + j) = 0)) :=
  ⟨⟨15, 63, up, by decide, by decide, by decide⟩,
    ⟨3, [1#8], wr HIF_BAR4_WINDOW.ADDR 1 up, by decide, by decide, by decide, by decide, by decide, by decide, by decide, by decide⟩,
    ⟨3, [1#8], wrBit (MEM_CH_STATUS.PROCESSOR 0 0) (chanOf (2 ^ 30 + 3) % 32) true (wr HIF_BAR4_WINDOW.ADDR 1 up), by decide, by decide,
    by decide, by decide, by decide, by decide, by decide⟩,
    ⟨0, 1, [1#8, 2#8], up, by decide, by decide, by decide, by decide, by decide, by decide, (by intro j h1 h2; simp at h2; omega)⟩⟩

theorem witness_fence_rules :
    (∃ (h : Hdr) (fence mode v : Nat) (s : State), passes h 0x20 (decide (1 < mode)) s = true ∧ mayFence h.fn fence s = true ∧ mode ≤ 1 ∧
    v < 2 ^ 64 ∧ fenceVal fence s < 2 ^ 64 ∧ s.fenWaits = [] ∧ h.fenceDone = false ∧ h.fn < 256 ∧ h.qp < 64) ∧
    (∃ (h : Hdr) (fence v : Nat) (s : State), passes h 0x21 false s = true ∧ mayFence h.fn fence s = true ∧ v ≤ fenceVal fence s) ∧
    (∃ (h : Hdr) (fence v : Nat) (s : State), passes h 0x21 false s = true ∧ mayFence h.fn fence s = true ∧ fenceVal fence s < v ∧
    s.fenWaits.length < 4096) ∧
    (∃ (h : Hdr) (fence v : Nat) (s : State), passes h 0x21 false s = true ∧ mayFence h.fn fence s = true ∧ fenceVal fence s < v ∧
    4096 ≤ s.fenWaits.length) ∧
    (∃ (w : FWait) (s : State), serving s = true ∧ s.fenWaits = [w] ∧ w.limit ≠ 0 ∧ w.limit ≤ s.cad.edges) ∧
    (∃ (fence : Nat) (s : State), live s = true ∧ fence < fences) :=
  ⟨⟨h0, 0, 1, 2 ^ 64 - 1, up, by decide, by decide, by decide, by decide, by decide, by decide, by decide, by decide, by decide⟩,
    ⟨h0, 0, 0, up, by decide, by decide, by decide⟩,
    ⟨h0, 0, 1, up, by decide, by decide, by decide, by decide⟩,
    ⟨h0, 0, 1, { up with fenWaits := List.replicate 4096 { h := h0, fence := 0, value := 1, limit := 5 } }, by decide +kernel,
    by decide +kernel, by decide +kernel, by decide +kernel⟩,
    ⟨{ h := h0, fence := 0, value := 1, limit := 5 },
    { up with fenWaits := [{ h := h0, fence := 0, value := 1, limit := 5 }], cad.edges := 5 }, by decide, by decide, by decide,
    by decide⟩,
    ⟨fences - 1, up, by decide, by decide⟩⟩

theorem witness_fence_done :
    ∃ (h : Hdr) (s : State), h.fn < 256 ∧ h.qp < 64 ∧ qpState h.fn h.qp s ≠ 0 ∧ qpState h.fn h.qp s ≠ 3 ∧ ideShut s = false ∧
    h.cplFault = false ∧ h.fenceDone = true ∧ mayFence h.fn h.fence s = true :=
    ⟨{ h0 with fenceDone := true, fence := 16383 }, up, by decide, by decide, by decide, by decide, by decide, by decide, by decide,
    by decide⟩

theorem witness_soft_tick :
    (∃ (s : State), live s = true ∧ rd SID_STATUS.STATE s = cNoPulse) ∧
    (∃ (s : State), live s = true ∧ rd SID_STATUS.STATE s ≠ cNoPulse) :=
  ⟨⟨up, by decide, by decide⟩,
    ⟨wr SID_STATUS.STATE cLocked up, by decide, by decide⟩⟩

theorem witness_pulse_classes :
    (∃ (high : Nat) (s : State), live s = true ∧ high < 200) ∧
    (∃ (t high e : Nat) (s : State), live s = true ∧ 200 ≤ high ∧ s.cad.lastEdge = some e ∧ 64 * t - e < 40000 * 64) ∧
    (∃ (t high e : Nat) (s : State), live s = true ∧ 200 ≤ high ∧ s.cad.lastEdge = some e ∧ 40000 * 64 ≤ 64 * t - e ∧
    s.cad.lastSynthetic = true ∧ 64 * t - e < 2 * periodQ s) ∧
    (∃ (t high : Nat) (s : State), live s = true ∧ 200 ≤ high ∧
    (∀ e, s.cad.lastEdge = some e → 40000 * 64 ≤ 64 * t - e ∧ (s.cad.lastSynthetic = true → 2 * periodQ s ≤ 64 * t - e))) ∧
    (∃ (s : State), live s = true ∧ periodQ s ≠ 0) ∧
    (∃ (s : State), live s = true) ∧
    (∃ (s : State), live s = true) :=
  ⟨⟨199, up, by decide, by decide⟩,
    ⟨139999, 200, 64 * 100000, { up with cad.lastEdge := some (64 * 100000) }, by decide, by decide, by decide, by decide⟩,
    ⟨140000, 200, 64 * 100000, { up with cad.lastEdge := some (64 * 100000), cad.lastSynthetic := true, cad.intervals := [100000] },
    by decide, by decide, by decide, by decide, by decide, by decide⟩,
    ⟨140000, 200, { up with cad.lastEdge := some (64 * 100000) }, by decide, by decide, (by intro e h; cases h; decide)⟩,
    ⟨{ up with cad.intervals := [100000] }, by decide, by decide⟩,
    ⟨up, by decide⟩,
    ⟨up, by decide⟩⟩

theorem witness_count_at_edge :
    (∃ (s : State), s.cad.written = none ∧ s.cad.frames = []) ∧
    (∃ (v : Nat) (s : State), s.cad.written = some (v, false) ∧ v < 2 ^ 64) ∧
    (∃ (v : Nat) (s : State), s.cad.written = some (v, true) ∧ v < 2 ^ 64) ∧
    (∃ (kind v : Nat) (s : State), kind ≠ 0 ∧ s.cad.written = some (v, true) ∧ s.cad.frames = []) :=
  ⟨⟨up, by decide, by decide⟩,
    ⟨7, { up with cad.written := some (7, false) }, by decide, by decide⟩,
    ⟨2 ^ 64 - 1, { up with cad.written := some (2 ^ 64 - 1, true) }, by decide, by decide⟩,
    ⟨1, 7, { up with cad.written := some (7, true) }, by decide, by decide, by decide⟩⟩

theorem witness_lt_takes_effect :
    ∃ (s : State) (f : Fld) (v : Nat), f ∈ [SES_POOL_WM.HIGH, SES_POOL_WM.LOW, TRN_TUNE.DIRTY_THRESH_MIB, MGT_CAP.MGMT_CAP_W] ∧
    (fkey f, v) ∈ s.ltPend ∧ (∀ w, (fkey f, w) ∈ s.ltPend → w = v) :=
    ⟨{ up with ltPend := [(fkey SES_POOL_WM.HIGH, 1023)] }, SES_POOL_WM.HIGH, 1023, by simp, by decide, by intro w h; simpa using h⟩

theorem witness_ephemeris_actions :
    (∃ (e : EphEntry) (s : State), serving s = true ∧ bitOf e.flags 0 = false) ∧
    (∃ (e : EphEntry) (s : State), serving s = true ∧ bitOf e.flags 0 = true) ∧
    (∃ (s : State), serving s = true) ∧
    (∃ (e : EphEntry) (s : State), serving s = true ∧ e.opA ≤ fenceVal e.target s) ∧
    (∃ (e : EphEntry) (s : State), serving s = true ∧ fenceVal e.target s < e.opA) ∧
    (∃ (table lim : Nat) (e : EphEntry) (s : State), serving s = true ∧ (ephOf table s).blocked = some lim ∧
    (ephOf table s).entries.head? = some e ∧ e.opA ≤ fenceVal e.target s) ∧
    (∃ (table lim : Nat) (e : EphEntry) (s : State), serving s = true ∧ (ephOf table s).blocked = some lim ∧
    (ephOf table s).entries.head? = some e ∧ fenceVal e.target s < e.opA ∧ 0 < lim ∧ lim ≤ s.cad.edges) :=
  ⟨⟨e0, up, by decide, by decide⟩,
    ⟨{ e0 with flags := 1 }, up, by decide, by decide⟩,
    ⟨up, by decide⟩,
    ⟨e0, up, by decide, by decide⟩,
    ⟨{ e0 with opA := 1 }, up, by decide, by decide⟩,
    ⟨0, 9, e0, { up with eph := [(0, { entries := [e0], blocked := some 9 })] }, by decide, by decide, by decide, by decide⟩,
    ⟨0, 9, { e0 with opA := 1 }, { up with eph := [(0, { entries := [{ e0 with opA := 1 }], blocked := some 9 })], cad.edges := 9 },
    by decide, by decide, by decide, by decide, by decide, by decide⟩⟩

theorem witness_ephemeris_controls :
    (∃ (table : Nat) (s : State), serving s = true ∧ table < 64 ∧ isSet (EPH_TABLE_CTRL.ENABLE table) s = false ∧
    ephPlaceOk table s = true) ∧
    (∃ (table : Nat) (s : State), serving s = true ∧ table < 64 ∧ isSet (EPH_TABLE_CTRL.ENABLE table) s = true) ∧
    (∃ (table : Nat) (s : State), serving s = true ∧ table < 64) ∧
    (∃ (table : Nat) (s : State), serving s = true ∧ table < 64) ∧
    (∃ (s : State), serving s = true) ∧
    (∃ (h : Hdr) (table count : Nat) (buf : Buf) (bs : List Byte) (s : State), passes h 0x40 false s = true ∧ count ≠ 0 ∧ count ≤ 65536 ∧
    table < 64 ∧ bufRead h buf (32 * count) s = some bs ∧ isSet (EPH_TABLE_CTRL.ENABLE table) s = true ∧
    (ephOf table s).entries.length + count ≤ ringSize table s ∧
    badEntry ((ephOf table s).entries.getLast?.map (·.tick)) 0 ((pieces 32 count bs).map entryOf) = none) :=
  ⟨⟨63, wr (HUB_DOMAIN_STATUS.TILE_ONLINE) 15 (wr (EPH_TABLE_CTRL.SIZE_LOG2 63) 8 (wr (EPH_TABLE_BASE.ADDR 63) 0x7000 up)), by decide,
    by decide, by decide, by decide⟩,
    ⟨63, wr (EPH_TABLE_CTRL.ENABLE 63) 1 up, by decide, by decide, by decide⟩,
    ⟨63, up, by decide, by decide⟩,
    ⟨63, up, by decide, by decide⟩,
    ⟨up, by decide⟩,
    ⟨h0, 0, 1, ⟨64, some (leBytes 8 5 ++ List.replicate 24 0#8)⟩, (leBytes 8 5 ++ List.replicate 24 0#8),
    wr (EPH_TABLE_CTRL.ENABLE 0) 1 up, by decide, by decide, by decide, by decide, by decide, by decide, by decide, by decide⟩⟩

theorem witness_session_turns :
    (∃ (h : Hdr) (i : Nat) (s : State), actsOn h 0x05 false i s = true) ∧
    (∃ (h : Hdr) (i : Nat) (s : State), actsOn h 0x06 false i s = true) ∧
    (∃ (h : Hdr) (i : Nat) (s : State), actsOn h 0x0A false i s = true ∧ (descOf i s).st = stReady ∧ (descOf i s).turnPending = true) ∧
    (∃ (h : Hdr) (i : Nat) (s : State), actsOn h 0x0A false i s = true ∧ (descOf i s).st = stReady ∧ (descOf i s).turnPending = false) ∧
    (∃ (h : Hdr) (i : Nat) (s : State), actsOn h 0x0A false i s = true ∧ (descOf i s).st = stActive) :=
  ⟨⟨h5, 5, ses stReady, by decide⟩,
    ⟨h5, 5, ses stWaiting, by decide⟩,
    ⟨h5, 5, on { d5 stReady with turnPending := true } up, by decide, by decide, by decide⟩,
    ⟨h5, 5, ses stReady, by decide, by decide, by decide⟩,
    ⟨h5, 5, ses stActive, by decide, by decide⟩⟩

theorem witness_session_settings :
    (∃ (h : Hdr) (p : Sampling) (i : Nat) (s : State), actsOn h 0x0B false i s = true ∧ samplingOk p = true) ∧
    (∃ (h : Hdr) (p : Sampling) (i : Nat) (s : State), actsOn h 0x0B false i s = true ∧ samplingOk p = false) ∧
    (∃ (h : Hdr) (i : Nat) (s : State), actsOn h 0x0C false i s = true) ∧
    (∃ (h : Hdr) (gid i : Nat) (s : State), actsOn h 0x0C false i s = true ∧ gid ≠ 0xFFFF ∧ (sget s.grams gid).isSome = true ∧
    field (sgetD s.grams gid []) 6 1 = rd (TXT_MODEL.SET (descOf i s).model) s ∧
    ((descOf i s).grammarStack ≠ 0 ∨ (descOf i s).st = stDeep ∨ (descOf i s).st = stHost)) ∧
    (∃ (h : Hdr) (gid i a : Nat) (s u : State), actsOn h 0x0C false i s = true ∧ gid ≠ 0xFFFF ∧ (sget s.grams gid).isSome = true ∧
    field (sgetD s.grams gid []) 6 1 = rd (TXT_MODEL.SET (descOf i s).model) s ∧ (descOf i s).grammarStack = 0 ∧
    (descOf i s).st ≠ stDeep ∧ (descOf i s).st ≠ stHost ∧ canSupply (descOf i s).cls 4096 s = true ∧
    allocState i 5 4096 (entered h 0x0C s) = some (a, u)) ∧
    (∃ (h : Hdr) (gid i : Nat) (s : State), actsOn h 0x0C false i s = true ∧ gid ≠ 0xFFFF ∧
    ((sget s.grams gid).isNone = true ∨ field (sgetD s.grams gid []) 6 1 ≠ rd (TXT_MODEL.SET (descOf i s).model) s)) ∧
    (∃ (h : Hdr) (buf : Buf) (stopLen incl i : Nat) (bs : List Byte) (s : State), actsOn h 0x0D (decide (2 < incl)) i s = true ∧
    ((leBytes 8 stopLen).map (·.toNat)).all (· ≤ 64) = true ∧ bufRead h buf 512 s = some bs) ∧
    (∃ (h : Hdr) (stopLen incl i : Nat) (s : State), actsOn h 0x0D (decide (2 < incl)) i s = true ∧
    ((leBytes 8 stopLen).map (·.toNat)).any (64 < ·) = true) :=
  ⟨⟨h5,
    { temperature := 0x3F80_0000, topP := 0x3F80_0000, minP := 0, repPenalty := 0x3F80_0000, presencePenalty := 0, frequencyPenalty := 0, topK := 1024, decMode := 7, maxTokens := 0, seed := 0 },
    5, ses stReady, by decide, by decide⟩,
    ⟨h5, { samp0 with topK := 1025 }, 5, ses stReady, by decide, by decide⟩,
    ⟨h5, 5, ses stReady, by decide⟩,
    ⟨h5, 0, 5, { on { d5 stReady with grammarStack := 64 } up with grams := [(0, List.replicate 64 0#8)] }, by decide, by decide,
    by decide, by decide, by decide⟩,
    (by
      obtain ⟨⟨a, u⟩, hu⟩ := Option.isSome_iff_exists.mp (show (allocState 5 5 4096 (entered h5 0x0C { on (d5 stReady) roomy with grams := [(0, List.replicate 64 0#8)] })).isSome = true by decide +kernel)
      exact ⟨h5, 0, 5, a, { on (d5 stReady) roomy with grams := [(0, List.replicate 64 0#8)] }, u, by decide, by decide, by decide +kernel,
    by decide +kernel, by decide, by decide, by decide, by decide +kernel, hu⟩),
    ⟨h5, 0xFFFE, 5, ses stReady, by decide, by decide, by decide⟩,
    ⟨h5, ⟨64, some []⟩, 64, 2, 5, [], ses stReady, by decide, by decide, by decide⟩,
    ⟨h5, 65, 2, 5, ses stReady, by decide, by decide⟩⟩

theorem witness_session_input :
    (∃ (h : Hdr) (count i : Nat) (buf : Buf) (bs : List Byte) (s u : State), actsOn h 0x04 false i s = true ∧ count ≠ 0 ∧
    count ≤ 0x100_0000 ∧ bufRead h buf (4 * count) s = some bs ∧
    ((pieces 4 count bs).map leNat).all (· < rd (DEC_MODEL.VOCAB (descOf i s).model) s) = true ∧
    (sessOf i s).allocs.all (fun a => !poisonIn a.addr a.bytes s) = true ∧ reserveMore i count (entered h 0x04 s) = some u) ∧
    (∃ (h : Hdr) (length i : Nat) (buf : Buf) (bs : List Byte) (s u : State), actsOn h 0x03 false i s = true ∧ length ≠ 0 ∧
    length ≤ 0x400_0000 ∧ bufRead h buf length s = some bs ∧ tokBad (descOf i s).model s = false ∧
    (sessOf i s).allocs.all (fun a => !poisonIn a.addr a.bytes s) = true ∧
    reserveMore i (tokenize (modelSet (descOf i s).model s) bs).toks.length (entered h 0x03 s) = some u) ∧
    (∃ (h : Hdr) (n i : Nat) (s : State), actsOn h 0x03 false i s = true ∧ (n = 0 ∨ 0x400_0000 < n)) ∧
    (∃ (h : Hdr) (n i : Nat) (s : State), actsOn h 0x04 false i s = true ∧ (n = 0 ∨ 0x100_0000 < n)) ∧
    (∃ (h : Hdr) (count k i : Nat) (buf : Buf) (bs : List Byte) (s : State), actsOn h 0x04 false i s = true ∧ count ≠ 0 ∧
    count ≤ 0x100_0000 ∧ bufRead h buf (4 * count) s = some bs ∧
    ((pieces 4 count bs).map leNat).findIdx? (rd (DEC_MODEL.VOCAB (descOf i s).model) s ≤ ·) = some k) :=
  ⟨(by
      obtain ⟨u, hu⟩ := Option.isSome_iff_exists.mp (show (reserveMore 5 1 (entered h5 0x04 (wr (DEC_MODEL.VOCAB 0) 1 (on (d5 stReady) roomy)))).isSome = true by decide)
      exact ⟨h5, 1, 5, ⟨64, some [0#8, 0#8, 0#8, 0#8]⟩, [0#8, 0#8, 0#8, 0#8], wr (DEC_MODEL.VOCAB 0) 1 (on (d5 stReady) roomy), u, by decide,
    by decide, by decide, by decide, by decide, by decide, hu⟩),
    (by
      obtain ⟨u, hu⟩ := Option.isSome_iff_exists.mp (show (reserveMore 5 (tokenize (modelSet (descOf 5 (on (d5 stReady) roomy)).model (on (d5 stReady) roomy)) [65#8]).toks.length (entered h5 0x03 (on (d5 stReady) roomy))).isSome = true by decide)
      exact ⟨h5, 1, 5, ⟨64, some [65#8]⟩, [65#8], on (d5 stReady) roomy, u, by decide, by decide, by decide, by decide, by decide, by decide, hu⟩),
    ⟨h5, 0x400_0001, 5, ses stReady, by decide, by decide⟩,
    ⟨h5, 0x100_0001, 5, ses stReady, by decide, by decide⟩,
    ⟨h5, 1, _, 5, ⟨64, some [0#8, 0#8, 0#8, 0#8]⟩, [0#8, 0#8, 0#8, 0#8], ses stReady, by decide, by decide, by decide, by decide, rfl⟩⟩

theorem witness_session_life :
    (∃ (h : Hdr) (o : CreateOps) (p : Sampling) (i pt pen stop : Nat) (s u : State), passes h 0x01 (o.hostPark == 3 || decide (3 < o.hostPark) || decide (0xFFF < o.mirror)) s = true ∧
    isSet SES_CTRL.INIT_DONE s = true ∧ rd SES_CTRL.MODULE_ID s ≠ 0xFFF ∧ o.cls ≤ 7 ∧ rdBit (HIF_FN_CFG.CLASS_MASK h.fn) o.cls s = true ∧
    o.model ≤ 15 ∧ isSet (HIF_MODEL.LOADED o.model) s = true ∧ o.outQueue ≤ 63 ∧ isSet (HIF_QP_CTRL.ENABLE h.fn o.outQueue) s = true ∧
    o.mirror ≠ rd SES_CTRL.MODULE_ID s ∧ createSampling h o s = some p ∧ samplingOk p = true ∧
    rd (HIF_FN_STATUS.SESSIONS h.fn) s < rd (HIF_FN_CFG.SESSION_LIMIT h.fn) s ∧ freeHead s = some i ∧
    ((takeKeyExt i (entered h 0x01 s)).bind (createAlloc o.cls o.model i)) = some (pt, pen, stop, u)) ∧
    (∃ (h : Hdr) (i : Nat) (s : State), actsOn h 0x02 false i s = true) ∧
    (∃ (i : Nat) (s : State), serving s = true ∧ descReads i s = true ∧ isSet SES_CTRL.EXPIRE_EN s = true ∧ isDue i s = true ∧
    mayExpire (descOf i s) = true) ∧
    (∃ (i : Nat) (s : State), serving s = true ∧ (descOf i s).st = stExpired ∧ qpState (descOf i s).fn (descOf i s).outQueue s = 1 ∧
    48 ≤ ringFree (descOf i s).fn (descOf i s).outQueue s) ∧
    (∃ (tb : Tomb) (s : State), serving s = true ∧ s.tombs = [tb] ∧ tb.limit ≤ s.cad.edges ∧ tb.block = none) :=
  ⟨(by
      obtain ⟨⟨pt, pen, sb, u⟩, hu⟩ := Option.isSome_iff_exists.mp (creates_had (createAlloc 7 0 0) 0 (entered h0 0x01 creates) (by decide +kernel)
        (createAlloc_isSome 7 0 0 1 (entered h0 0x01 creates) (by decide +kernel) (by decide) (by decide) (by decide +kernel) (by decide +kernel)
          (by decide +kernel)))
      exact ⟨h0, create7, samplingNeutral, 0, pt, pen, sb, creates, u, by decide, by decide, by decide, by decide, by decide, by decide,
    by decide, by decide, by decide, by decide, by decide, by decide, by decide, by decide, hu⟩),
    ⟨h5, 5, ses stFrozen, by decide⟩,
    ⟨5, wr SES_CTRL.EXPIRE_EN 1 (wr SID_COUNT.COUNT 9 (on { d5 stWaiting with ttl := 9 } up)), by decide, by decide, by decide,
    by decide, by decide⟩,
    ⟨5, ses stExpired, by decide, by decide, by decide, by decide⟩,
    ⟨{ idx := 5, newHandle := 1, limit := 7 },
    { ses stTransit with tombs := [{ idx := 5, newHandle := 1, limit := 7 }], cad.edges := 7 }, by decide, by decide, by decide,
    by decide⟩⟩

theorem witness_generation_rule :
    (∃ (i j : Nat), j ≠ i) ∧
    (∃ (g : Nat), g < 0x3FFF_FFFF) ∧
    (∃ (i g : Nat), i < 2 ^ 22 ∧ g < 2 ^ 30) ∧
    (∃ (i : Nat) (r : List Nat) (s : State), freeList s = i :: r) ∧
    (∃ (h : Hdr) (i : Nat) (s : State), actsOn h 0x02 false i s = true) ∧
    (∃ (i : Nat) (s : State), serving s = true ∧ (descOf i s).st = stExpired ∧ qpState (descOf i s).fn (descOf i s).outQueue s = 1 ∧
    48 ≤ ringFree (descOf i s).fn (descOf i s).outQueue s) ∧
    (∃ (tb : Tomb) (s : State), serving s = true ∧ s.tombs = [tb] ∧ tb.limit ≤ s.cad.edges ∧ tb.block = none) ∧
    (∃ (h : Hdr) (o : CreateOps) (p : Sampling) (i g pt pen stop : Nat) (r : List Nat) (s u : State), passes h 0x01 (o.hostPark == 3 || decide (3 < o.hostPark) || decide (0xFFF < o.mirror)) s = true ∧
    isSet SES_CTRL.INIT_DONE s = true ∧ rd SES_CTRL.MODULE_ID s ≠ 0xFFF ∧ o.cls ≤ 7 ∧ rdBit (HIF_FN_CFG.CLASS_MASK h.fn) o.cls s = true ∧
    o.model ≤ 15 ∧ isSet (HIF_MODEL.LOADED o.model) s = true ∧ o.outQueue ≤ 63 ∧ isSet (HIF_QP_CTRL.ENABLE h.fn o.outQueue) s = true ∧
    o.mirror ≠ rd SES_CTRL.MODULE_ID s ∧ createSampling h o s = some p ∧ samplingOk p = true ∧
    rd (HIF_FN_STATUS.SESSIONS h.fn) s < rd (HIF_FN_CFG.SESSION_LIMIT h.fn) s ∧ freeList s = i :: r ∧ g < 2 ^ 30 ∧
    descOf i s = { handle := mkHandle 0 i g } ∧
    ((takeKeyExt i (entered h 0x01 s)).bind (createAlloc o.cls o.model i)) = some (pt, pen, stop, u)) :=
  ⟨⟨0, 1, by decide⟩,
    ⟨0x3FFF_FFFE, by decide⟩,
    ⟨2 ^ 22 - 1, 2 ^ 30 - 1, by decide, by decide⟩,
    ⟨9, [], { up with freeNext := slots, freed := [9] }, by simp [freeList]⟩,
    ⟨h5, 5, ses stFrozen, by decide⟩,
    ⟨5, ses stExpired, by decide, by decide, by decide, by decide⟩,
    ⟨{ idx := 5, newHandle := 1, limit := 7 },
    { ses stTransit with tombs := [{ idx := 5, newHandle := 1, limit := 7 }], cad.edges := 7 }, by decide, by decide, by decide,
    by decide⟩,
    (by
      obtain ⟨⟨pt, pen, sb, u⟩, hu⟩ := Option.isSome_iff_exists.mp (creates_had (createAlloc 7 0 5) 5 (entered h0 0x01 creates9) (by decide +kernel)
        (createAlloc_isSome 7 0 5 1 (entered h0 0x01 creates9) (by decide +kernel) (by decide) (by decide) (by decide +kernel) (by decide +kernel)
          (by decide +kernel)))
      exact ⟨h0, create7, samplingNeutral, 5, 7, pt, pen, sb, [], creates9, u, by decide, by decide, by decide, by decide, by decide, by decide,
    by decide, by decide, by decide, by decide, by decide, by decide, by decide, by simp [freeList, creates9], by decide, by decide, hu⟩)⟩

theorem witness_resume_and_transit_requests :
    (∃ (h : Hdr) (i : Nat) (s : State), actsOn h 0x07 false i s = true ∧
    ((descOf i s).st = stReady ∨ (descOf i s).st = stWaiting ∨ ((descOf i s).st = stFrozen ∧ (descOf i s).ptRoot ≠ 0 ∧ stateLost i s = false)) ∧
    ((descOf i s).cls ≠ 0 ∨ tableAway i s = [])) ∧
    (∃ (h : Hdr) (i : Nat) (s : State), actsOn h 0x07 false i s = true ∧
    ((descOf i s).st = stReady ∨ (descOf i s).st = stWaiting ∨ ((descOf i s).st = stFrozen ∧ (descOf i s).ptRoot ≠ 0 ∧ stateLost i s = false)) ∧
    (descOf i s).cls = 0 ∧ tableAway i s ≠ []) ∧
    (∃ (h : Hdr) (i : Nat) (s : State), actsOn h 0x07 false i s = true ∧
    ((descOf i s).st = stDeep ∨ (descOf i s).st = stHost ∨ ((descOf i s).st = stFrozen ∧ (descOf i s).ptRoot = 0)) ∧
    queuedTransits s < 65536) ∧
    (∃ (h : Hdr) (tier demote region i : Nat) (s : State), actsOn h 0x08 (demoteBad demote region) i s = true ∧ preCopying i s = false ∧
    ((descOf i s).st = stReady ∨ (descOf i s).st = stWaiting) ∧ queuedTransits s < 65536 ∧
    (tier = 1 ∨ (tier = 2 ∧ (descOf i s).hostParkOk = true ∧ deepTakes i (demoteOf (descOf i s).cls demote s) s = false))) ∧
    (∃ (h : Hdr) (tier demote region i : Nat) (s : State), actsOn h 0x08 (demoteBad demote region) i s = true ∧ preCopying i s = false ∧
    (((descOf i s).st = stHost ∧ tier = 1) ∨ ((descOf i s).st = stDeep ∧ tier = 2 ∧ (descOf i s).hostParkOk = true)) ∧
    queuedTransits s < 65536) ∧
    (∃ (h : Hdr) (tier demote region i : Nat) (s : State), actsOn h 0x08 (demoteBad demote region) i s = true ∧ preCopying i s = false ∧
    (((descOf i s).st = stDeep ∧ tier = 1) ∨ ((descOf i s).st = stHost ∧ tier = 2))) ∧
    (∃ (h : Hdr) (target demote region i : Nat) (s : State), actsOn h 0x09 (demoteBad demote region) i s = true ∧
    (target = 1 ∨ target = 2)) ∧
    (∃ (h : Hdr) (i : Nat) (s : State), actsOn h 0x09 false i s = true ∧ preCopying i s = false ∧
    ((descOf i s).st = stDeep ∨ (descOf i s).st = stHost) ∧ queuedTransits s < 65536) ∧
    (∃ (h : Hdr) (i : Nat) (s : State), actsOn h 0x09 false i s = true ∧ preCopying i s = false ∧ (descOf i s).st ≠ stDeep ∧
    (descOf i s).st ≠ stHost) ∧
    (∃ (i k : Nat) (d : Desc) (s : State), serving s = true ∧ isSet SES_CTRL.EVICT_EN s = true ∧ evictAbove s = true ∧
    nextVictim s = some (i, d) ∧ evictTier i d s = some k ∧ queuedTransits s < 65536) ∧
    (∃ (h : Hdr) (dest i : Nat) (s : State), actsOn h 0x09 (decide (0xFFF < dest)) i s = true ∧ preCopying i s = false ∧
    (s.transits.any fun t => t.idx == i && t.kind != 6) = false ∧ rd DIR_SELF.STATE s ≠ 3 ∧ s.migs.length < 256 ∧ hasKey dest s = true ∧
    queuedTransits s < 65536) :=
  ⟨⟨h5, 5, on { d5 stFrozen with ptRoot := 64 } up, by decide, by decide, by decide⟩,
    ⟨h5, 5,
    wrBit (MEM_CH_STATUS.PROCESSOR 0 0) 7 true { on { d5 stFrozen with ptRoot := 64 } roomy with sess := [(5, { allocs := [{ kind := 1, chan := 7, addr := 64, bytes := 64 }] })] },
    by decide, by decide, by decide, by decide⟩,
    ⟨h5, 5, ses stFrozen, by decide, by decide, by decide⟩,
    ⟨h5, 2, 2, 63, 5, on { d5 stWaiting with hostParkOk := true } up, by decide, by decide, by decide, by decide, by decide⟩,
    ⟨h5, 1, 0xFF, 0xFFFF, 5, ses stHost, by decide, by decide, by decide, by decide⟩,
    ⟨h5, 2, 0xFF, 0xFFFF, 5, ses stHost, by decide, by decide, by decide⟩,
    ⟨h5, 2, 0xFF, 0xFFFF, 5, ses stReady, by decide, by decide⟩,
    ⟨h5, 5, ses stDeep, by decide, by decide, by decide, by decide⟩,
    ⟨h5, 5, ses stReady, by decide, by decide, by decide, by decide⟩,
    ⟨5, 1, d5 stWaiting,
    wr SES_CTRL.EVICT_EN 1 (wr SES_POOL_WM.HIGH 0 { on (d5 stWaiting) roomy with poolBytes := 1, clsBytes := [(0, 1)] }), by decide,
    by decide, by decide, by decide, by decide, by decide⟩,
    ⟨h5, 2, 5, keyed (ses stReady), by decide, by decide, by decide, by decide, by decide, by decide, by decide⟩⟩

theorem witness_transit_starts :
    (∃ (x : Transit) (ks : List Nat) (s u : State), serving s = true ∧ nextGrant s = some x ∧ x.kind = 1 ∧ descReads x.idx s = true ∧
    ((descOf x.idx s).st = stReady ∨ (descOf x.idx s).st = stWaiting) ∧
    allocDeep (imageChunks (metaSize x.idx s) (narrowedKv x.idx (demoteOf (descOf x.idx s).cls x.demote s) s)) (parkBase s) deepChunks { s with fresh := s.fresh + 1 } = some (ks, u)) ∧
    (∃ (x : Transit) (n r : Nat) (us : List Nat) (s u : State), serving s = true ∧ nextGrant s = some x ∧ x.kind = 2 ∧
    descReads x.idx s = true ∧ ((descOf x.idx s).st = stReady ∨ (descOf x.idx s).st = stWaiting) ∧ (descOf x.idx s).hostParkOk = true ∧
    n = imageChunks (metaSize x.idx s) (narrowedKv x.idx (demoteOf (descOf x.idx s).cls x.demote s) s) ∧
    (deepFits n s = false ∨ x.origin = 2) ∧ allocHost n x.region { s with fresh := s.fresh + 1 } = some (r, us, u)) ∧
    (∃ (x : Transit) (im : Image) (s : State), serving s = true ∧ nextGrant s = some x ∧ (x.kind = 3 ∨ x.kind = 4) ∧
    descReads x.idx s = true ∧ (sessOf x.idx s).image = some im ∧ unwrapFails x.idx s = false ∧
    ((descOf x.idx s).st = stDeep ∨ (descOf x.idx s).st = stHost ∨ (descOf x.idx s).st = stFrozen)) ∧
    (∃ (i : Nat) (ok : Bool) (x : Transit) (s u : State), serving s = true ∧ transitOf i s = some x ∧ x.placed = true ∧
    x.chunk < x.total ∧ (x.kind = 1 ∨ x.kind = 2 ∨ (x.kind = 5 ∧ ok = true)) ∧ x.stop = false ∧ (x.kind = 5 → mapGone x s = false) ∧
    mapUse x s = u) ∧
    (∃ (i : Nat) (x : Transit) (im : Image) (s u : State), serving s = true ∧ transitOf i s = some x ∧ x.placed = true ∧
    x.chunk < x.total ∧ (x.kind = 3 ∨ x.kind = 4) ∧ mapGone x s = false ∧ mapUse x s = u ∧ (sessOf i u).image = some im ∧
    (x.chunk = 0 → imageHeaderOk i im = true) ∧ x.stop = false) ∧
    (∃ (i : Nat) (ok : Bool) (x : Transit) (s u : State), serving s = true ∧ transitOf i s = some x ∧ x.placed = true ∧
    x.chunk < x.total ∧ (x.kind = 3 ∨ x.kind = 4 ∨ x.kind = 5) ∧ (ok = false ∨ mapGone x s = true) ∧ mapUse x s = u) ∧
    (∃ (i : Nat) (x : Transit) (s : State), serving s = true ∧ transitOf i s = some x ∧ x.kind ≠ 7 ∧ x.placed = false ∧ x.stop = false) ∧
    (∃ (i : Nat) (e : EphEntry) (s : State), serving s = true ∧ e.opA % 32 = 0 ∧ e.opA + 32 ≤ bondedEnd ∧
    1 ≤ field (memRead s e.opA 32) 8 1 ∧ field (memRead s e.opA 32) 8 1 ≤ 5 ∧ field (memRead s e.opA 32) 9 1 ≤ 1 ∧
    field (memRead s e.opA 32) 0xB 1 = 0 ∧ field (memRead s e.opA 32) 0xE 2 = 0 ∧ field (memRead s e.opA 32) 0x18 8 = 0 ∧
    demoteBad (field (memRead s e.opA 32) 0xA 1) (field (memRead s e.opA 32) 0xC 2) = false ∧
    handleCheck 0 (field (memRead s e.opA 32) 0 8) s = .found i ∧ s.tombs.any (·.idx == i) = false) ∧
    (∃ (i : Nat) (s : State), armed i s = false ∧ resuming i s = false ∧ preCopying i s = false ∧
    ((descOf i s).st = stReady ∨ (descOf i s).st = stWaiting) ∧ queuedTransits s < 65536) :=
  ⟨(by
      have hn : imageChunks (metaSize 5 waits) (narrowedKv 5 (demoteOf (descOf 5 waits).cls 0 waits) waits) = 1 := by decide
      obtain ⟨⟨ks, u⟩, hu⟩ := Option.isSome_iff_exists.mp
        (one_chunk (parkBase waits) deepChunks { waits with fresh := waits.fresh + 1 } (by decide) (by decide) (by decide) (by decide +kernel))
      exact ⟨{ tr 1 with slot := none }, ks, waits, u, by decide, by decide, by decide, by decide, by decide,
    (show allocDeep (imageChunks (metaSize 5 waits) (narrowedKv 5 (demoteOf (descOf 5 waits).cls 0 waits) waits)) (parkBase waits) deepChunks { waits with fresh := waits.fresh + 1 } = some (ks, u) by rw [hn]; exact hu)⟩),
    (by
      obtain ⟨⟨r, us, u⟩, hu⟩ := Option.isSome_iff_exists.mp
        (one_unit 1 0 { hostS stWaiting { tr 2 with slot := none, region := 0 } with fresh := (hostS stWaiting { tr 2 with slot := none, region := 0 }).fresh + 1 } (by decide +kernel) (by decide +kernel) (by decide +kernel))
      exact ⟨{ tr 2 with slot := none, region := 0 }, 1, r, us, hostS stWaiting { tr 2 with slot := none, region := 0 }, u, by decide, by decide,
    by decide, by decide, by decide, by decide, by decide +kernel, by decide, hu⟩),
    ⟨{ tr 3 with slot := none }, im0, trS stDeep { tr 3 with slot := none } { image := some im0 }, by decide, by decide, by decide,
    by decide, by decide, by decide, by decide⟩,
    ⟨5, false, { tr 1 with total := 1 }, trS stTransit { tr 1 with total := 1 } {}, trS stTransit { tr 1 with total := 1 } {}, by decide,
    by decide, by decide, by decide, by decide, by decide, by decide, by decide⟩,
    ⟨5, { tr 3 with total := 1 }, { im0 with handle := mkHandle 0 5 7 },
    trS stTransit { tr 3 with total := 1 } { image := some { im0 with handle := mkHandle 0 5 7 } },
    trS stTransit { tr 3 with total := 1 } { image := some { im0 with handle := mkHandle 0 5 7 } }, by decide, by decide, by decide,
    by decide, by decide, by decide, by decide, by decide, by decide, by decide⟩,
    ⟨5, false, { tr 4 with total := 1 }, trS stTransit { tr 4 with total := 1 } {}, trS stTransit { tr 4 with total := 1 } {}, by decide,
    by decide, by decide, by decide, by decide, by decide, by decide⟩,
    ⟨5, { tr 3 with placed := false }, trS stTransit { tr 3 with placed := false } {}, by decide, by decide, by decide, by decide,
    by decide⟩,
    ⟨5, e0, tplan (ses stReady), by decide, by decide, by decide, by decide, by decide, by decide, by decide, by decide, by decide,
    by decide, by decide, by decide⟩,
    ⟨5, ses stWaiting, by decide, by decide, by decide, by decide, by decide⟩⟩

theorem witness_transit_ends :
    (∃ (i : Nat) (x : Transit) (s : State), serving s = true ∧ s.heldCmds = [] ∧ transitOf i s = some x ∧ x.kind ≤ 2 ∧
    x.total ≤ x.chunk ∧ x.stop = false ∧ (allChans i s).any (chProcessor · s) = false) ∧
    (∃ (i : Nat) (x : Transit) (s : State), serving s = true ∧ s.heldCmds = [] ∧ transitOf i s = some x ∧ x.kind = 3 ∧
    revived x s = true ∧ x.stop = false) ∧
    (∃ (i : Nat) (x : Transit) (s : State), serving s = true ∧ s.heldCmds = [] ∧ transitOf i s = some x ∧ x.kind = 4 ∧
    revived x s = true ∧ x.stop = false) ∧
    (∃ (i : Nat) (x : Transit) (im : Image) (s : State), serving s = true ∧ s.heldCmds = [] ∧ transitOf i s = some x ∧
    (sessOf i s).image = some im ∧ x.kind = 5 ∧ x.total ≤ x.chunk ∧ x.stop = false) ∧
    (∃ (i : Nat) (x : Transit) (im : Image) (s : State), serving s = true ∧
    s.transits.find? (fun t => t.idx == i && t.kind == 6 && t.slot.isSome) = some x ∧ (sessOf i s).image = some im ∧
    rd DIR_SELF.STATE s ≠ 3 ∧ unwrapFails i s = false ∧ hasKey (descOf i s).mirrorModule s = true) ∧
    (∃ (i k : Nat) (s u : State), serving s = true ∧ (sessOf i s).fill = true ∧ (descOf i s).st ≠ stTransit ∧
    (sessOf i s).pages.findIdx? (fun p => p.deepHeld && !p.fetching) = some k ∧ bringPage i k s = some u) :=
  ⟨⟨5, tr 2, trS stTransit (tr 2) {}, by decide, by decide, by decide, by decide, by decide, by decide, by decide⟩,
    ⟨5, tr 3, trS stTransit (tr 3) { image := some im0 }, by decide, by decide, by decide, by decide, by decide, by decide⟩,
    ⟨5, tr 4, trS stTransit (tr 4) { image := some im0 }, by decide, by decide, by decide, by decide, by decide, by decide⟩,
    ⟨5, tr 5, im0, trS stTransit (tr 5) { image := some im0 }, by decide, by decide, by decide, by decide, by decide, by decide,
    by decide⟩,
    ⟨5, tr 6, im0, keyed { trS stDeep (tr 6) { image := some im0 } with desc := [(5, { d5 stDeep with mirrorModule := 2 })] }, by decide,
    by decide, by decide, by decide, by decide, by decide⟩,
    (by
      obtain ⟨u, hu⟩ := Option.isSome_iff_exists.mp (show (bringPage 5 0 sparse).isSome = true by decide +kernel)
      exact ⟨5, 0, sparse, u, by decide, by decide, by decide, by decide, hu⟩)⟩

theorem witness_peer_migration :
    (∃ (tag n : Nat) (m : Migration) (s : State), serving s = true ∧ s.migs.find? (·.tag == tag) = some m ∧ m.cls < 8 ∧ m.phase = 1 ∧
    peerRuns m s = true ∧ rd TRN_TUNE.DIRTY_THRESH_MIB s * 0x10_0000 < (m.dirty.drop (m.dirty.length - n)).length * 65536 ∧
    m.passes < rd TRN_TUNE.PRECOPY_PASSES s) ∧
    (∃ (tag n : Nat) (m : Migration) (s : State), serving s = true ∧ s.migs.find? (·.tag == tag) = some m ∧ m.cls < 8 ∧ m.phase = 1 ∧
    peerRuns m s = true ∧
    ((m.dirty.drop (m.dirty.length - n)).length * 65536 ≤ rd TRN_TUNE.DIRTY_THRESH_MIB s * 0x10_0000 ∨ rd TRN_TUNE.PRECOPY_PASSES s ≤ m.passes)) ∧
    (∃ (e : EphEntry) (m : Migration) (s : State), serving s = true ∧
    s.migs.find? (fun m => m.tag == e.opA && decide (m.phase ≤ 2)) = some m) ∧
    (∃ (tag : Nat) (m : Migration) (s : State), serving s = true ∧ s.migs.find? (·.tag == tag) = some m ∧ m.phase = 3 ∧
    peerRuns m s = true ∧ (m.block ≠ none ∨ (descOf m.idx s).st ≠ stActive)) ∧
    (∃ (tag : Nat) (lost : Bool) (m : Migration) (s : State), serving s = true ∧ s.heldCmds = [] ∧ s.migs.find? (·.tag == tag) = some m ∧
    (lost = true ∨ (m.phase = 4 ∧ m.limit ≤ s.cad.edges)) ∧ (m.phase = 4 → s.net.doneTags.contains m.tag = false)) ∧
    (∃ (n : Nat) (s : State), serving s = true ∧ n < 64) ∧
    (∃ (n : Nat) (s : State), serving s = true ∧ n < 64) :=
  ⟨⟨9, 17, { mig 1 with dirty := List.replicate 17 0 }, wr TRN_TUNE.DIRTY_THRESH_MIB 1 (wr TRN_TUNE.PRECOPY_PASSES 2 (peerS 1 17)),
    by decide, by decide, by decide, by decide, by decide, by decide, by decide⟩,
    ⟨9, 16, { mig 1 with dirty := List.replicate 17 0 }, wr TRN_TUNE.DIRTY_THRESH_MIB 1 (wr TRN_TUNE.PRECOPY_PASSES 2 (peerS 1 17)),
    by decide, by decide, by decide, by decide, by decide, by decide⟩,
    ⟨{ e0 with opA := 9 }, mig 2, migS 2, by decide, by decide⟩,
    ⟨9, mig 3, peerS 3 0, by decide, by decide, by decide, by decide, by decide⟩,
    ⟨9, false, mig 4, migS 4, by decide, by decide, by decide, by decide, by decide⟩,
    ⟨63, up, by decide, by decide⟩,
    ⟨63, up, by decide, by decide⟩⟩

theorem witness_launch_starts :
    (∃ (e : EphEntry) (s : State), serving s = true ∧ e.target < 255 ∧ isSet (ARY_PART_STATUS.DEFINED e.target) s = true ∧
    isSet (ARY_PART_STATUS.DEGRADED e.target) s = false ∧ (partOf e.target s).model ≠ 0xFF ∧
    isSet (HIF_MODEL.LOADED (partOf e.target s).model) s = true ∧ waitingLaunches e.target s < 2) ∧
    (∃ (e : EphEntry) (s : State), serving s = true ∧
    (255 ≤ e.target ∨ isSet (ARY_PART_STATUS.DEFINED e.target) s = false ∨ isSet (ARY_PART_STATUS.DEGRADED e.target) s = true ∨ (partOf e.target s).model = 0xFF ∨ isSet (HIF_MODEL.LOADED (partOf e.target s).model) s = false ∨ 2 ≤ waitingLaunches e.target s)) ∧
    (∃ (p : Nat) (l : Launch) (pl : Plan) (s v w u : State), serving s = true ∧ partBusy p s = false ∧ (partOf p s).running = none ∧
    nextLaunch p s = some l ∧ w = modPart p (fun x => { x with waiting := x.waiting.erase l }) s ∧
    v = (if l.busy then countBusy l w else w) ∧ u = (activeOn p v).foldl (fun s i => detokenize i s) v ∧
    isSet (ARY_PART_STATUS.DEGRADED p) u = false ∧ poisonIn l.e.opA 64 u = false ∧ planOf p l.e.opA u = some pl) ∧
    (∃ (p : Nat) (l : Launch) (s v w u : State), serving s = true ∧ partBusy p s = false ∧ (partOf p s).running = none ∧
    nextLaunch p s = some l ∧ w = modPart p (fun x => { x with waiting := x.waiting.erase l }) s ∧
    v = (if l.busy then countBusy l w else w) ∧ u = (activeOn p v).foldl (fun s i => detokenize i s) v ∧
    isSet (ARY_PART_STATUS.DEGRADED p) u = false ∧ poisonIn l.e.opA 64 u = false ∧ planOf p l.e.opA u = none) ∧
    (∃ (p : Nat) (l : Launch) (s v w u : State), serving s = true ∧ partBusy p s = false ∧ (partOf p s).running = none ∧
    nextLaunch p s = some l ∧ w = modPart p (fun x => { x with waiting := x.waiting.erase l }) s ∧
    v = (if l.busy then countBusy l w else w) ∧ u = spoilIf true l.e.opA 64 ((activeOn p v).foldl (fun s i => detokenize i s) v) ∧
    isSet (ARY_PART_STATUS.DEGRADED p) u = false) ∧
    (∃ (p : Nat) (poison : Bool) (l : Launch) (s v w u : State), serving s = true ∧ partBusy p s = false ∧ (partOf p s).running = none ∧
    nextLaunch p s = some l ∧ w = modPart p (fun x => { x with waiting := x.waiting.erase l }) s ∧
    v = (if l.busy then countBusy l w else w) ∧ u = spoilIf poison l.e.opA 64 ((activeOn p v).foldl (fun s i => detokenize i s) v) ∧
    isSet (ARY_PART_STATUS.DEGRADED p) u = true) :=
  ⟨⟨{ e0 with target := 254 },
    wr (ARY_PART_STATUS.DEFINED 254) 1 (wr (HIF_MODEL.LOADED 0) 1 { up with parts := [(254, { model := 0, waiting := [l0] })] }),
    by decide, by decide, by decide, by decide, by decide, by decide, by decide⟩,
    ⟨{ e0 with target := 255 }, up, by decide, by decide⟩,
    (by
      obtain ⟨pl, hpl⟩ := Option.isSome_iff_exists.mp (show (planOf 0 0 (begun plan0)).isSome = true by decide)
      exact ⟨0, l0, pl, launches plan0, _, _, _, by decide, by decide, by decide, by decide, rfl, rfl, rfl, by decide, by decide, hpl⟩),
    ⟨0, l0, launches [], _, _, _, by decide, by decide, by decide, by decide, rfl, rfl, rfl, by decide, by decide, by decide⟩,
    ⟨0, l0, launches plan0, _, _, _, by decide, by decide, by decide, by decide, rfl, rfl, rfl, by decide⟩,
    ⟨0, false, l0, wr (ARY_PART_STATUS.DEGRADED 0) 1 (launches plan0), _, _, _, by decide, by decide, by decide, by decide, rfl, rfl,
    rfl, by decide⟩⟩

theorem witness_kernels_run :
    (∃ (p : Nat) (st : Step) (a : Nat) (h : KHdr) (s : State), serving s = true ∧ partFree p s = true ∧ stepReady p s = some st ∧
    (∀ k, bestQueued p s = some k → st.eff ≤ k.cls) ∧ a = (st.hdrs.drop st.next).head?.getD 0 ∧ h = khdrOf (memRead s a 64) ∧
    protAddr a 64 s = true ∧ poisonIn a 64 s = false ∧ (∀ f ∈ stepFns st, f < 256) ∧ khdrOk p h s = true ∧ kernelCodeOk h s = true ∧
    ranksUp p s = true ∧ poisonIn h.codeAddr h.codeBytes s = false) ∧
    (∃ (p : Nat) (k : Kern) (s : State), serving s = true ∧ partFree p s = true ∧ bestQueued p s = some k ∧
    (∀ st, stepReady p s = some st → k.cls < st.eff)) ∧
    (∃ (p : Nat) (x : KStart) (st : Step) (a : Nat) (h : KHdr) (s : State), serving s = true ∧ partFree p s = true ∧
    stepReady p s = some st ∧ (∀ k, bestQueued p s = some k → st.eff ≤ k.cls) ∧ a = (st.hdrs.drop st.next).head?.getD 0 ∧
    h = khdrOf (memRead s a 64) ∧ (∀ f ∈ stepFns st, f < 256) ∧
    (x.clean = false ∨ protAddr a 64 s = false ∨ khdrOk p h s = false ∨ kernelCodeOk h s = false ∨ ranksUp p s = false ∨ poisonIn a 64 s = true ∨ poisonIn h.codeAddr h.codeBytes s = true)) ∧
    (∃ (p : Nat) (k : Running) (st : Step) (s : State), serving s = true ∧ (partOf p s).running = some k ∧ (partOf p s).step = some st ∧
    st.next < st.hdrs.length ∧ s.retireWait = []) ∧
    (∃ (p : Nat) (k : Running) (st : Step) (s : State), serving s = true ∧ (partOf p s).running = some k ∧ (partOf p s).step = some st ∧
    st.next = st.hdrs.length) ∧
    (∃ (p : Nat) (k : Running) (s : State), serving s = true ∧ (partOf p s).running = some k ∧ (partOf p s).step = none) :=
  ⟨⟨0, st0 0 0, _, _, kernS, by decide, by decide, by decide, (fun k h => nomatch (h : none = some k)), rfl, rfl, by decide, by decide,
    by decide, by decide, kern_code, by decide, by decide⟩,
    ⟨0, k0 1, parted { ranks := [0], step := some (st0 1 0), queue := [k0 1] } up, by decide, by decide, by decide,
    (fun st h => by cases (h : some (st0 1 0) = some st); decide)⟩,
    ⟨0, ⟨false, []⟩, st0 0 0, _, _,
    parted { ranks := [0], step := some (st0 0 0), queue := [k0 1] } (wr (ARY_SCHED_CFG.INTERLEAVE_US 0) 1 up), by decide, by decide,
    by decide, (fun k h => by cases (h : some (k0 1) = some k); decide), rfl, rfl, by decide, by decide⟩,
    ⟨0, run0 1, st0 0 0, runs 1 r0 up, by decide, by decide, by decide, by decide, by decide⟩,
    ⟨0, run0 1, st0 0 1, parted { ranks := [0], step := some (st0 0 1), running := some (run0 1) } up, by decide, by decide, by decide,
    by decide⟩,
    ⟨0, { ofStep := false, kern := k0 1 }, parted { ranks := [0], running := some { ofStep := false, kern := k0 1 } } up, by decide,
    by decide, by decide⟩⟩

theorem witness_array_life :
    (∃ (t n : Nat) (s : State), serving s = true ∧ t < 4 ∧ n < 352 ∧ isSet (ARY_CMD_STATUS.BUSY t) s = false ∧
    arrState (t * 512 + n) s = aSpare) ∧
    (∃ (t n a : Nat) (s : State), serving s = true ∧ t < 4 ∧ n < 352 ∧ isSet (ARY_CMD_STATUS.BUSY t) s = false ∧
    arrState (t * 512 + n) s = aEnabled ∧ lowestSpare t s = some a ∧ isSet (ARY_STATUS.BUSY t n) s = false) ∧
    (∃ (t n a : Nat) (s : State), serving s = true ∧ t < 4 ∧ n < 352 ∧ isSet (ARY_CMD_STATUS.BUSY t) s = false ∧
    arrState (t * 512 + n) s = aEnabled ∧ lowestSpare t s = some a ∧ isSet (ARY_STATUS.BUSY t n) s = true) ∧
    (∃ (t : Nat) (s : State), serving s = true ∧ (4 ≤ t ∨ isSet (ARY_CMD_STATUS.BUSY t) s = true)) ∧
    (∃ (t n : Nat) (s : State), serving s = true ∧ t < 4 ∧ isSet (ARY_CMD_STATUS.BUSY t) s = false ∧
    (352 ≤ n ∨ arrState (t * 512 + n) s ≠ aRetired)) ∧
    (∃ (t n : Nat) (s : State), serving s = true ∧ t < 4 ∧ isSet (ARY_CMD_STATUS.BUSY t) s = false ∧
    (352 ≤ n ∨ (arrState (t * 512 + n) s ≠ aSpare ∧ (arrState (t * 512 + n) s ≠ aEnabled ∨ lowestSpare t s = none)))) ∧
    (∃ (t n : Nat) (s : State), serving s = true ∧ t < 4 ∧ n < 352 ∧ isSet (ARY_CMD_STATUS.BUSY t) s = false ∧
    arrState (t * 512 + n) s = aRetired) ∧
    (∃ (t n : Nat) (s : State), live s = true ∧ t < 4 ∧ n < 352 ∧ arrState (t * 512 + n) s = aTesting ∧
    sget s.arrTests (t * 512 + n) = some 1) ∧
    (∃ (p r a : Nat) (k : Running) (s : State), serving s = true ∧ (partOf p s).running = some k ∧ runArr p r s = some a) ∧
    (∃ (p r a : Nat) (k : Running) (s : State), serving s = true ∧ (partOf p s).running = some k ∧ runArr p r s = some a) ∧
    (∃ (p r a : Nat) (k : Running) (s : State), serving s = true ∧ (partOf p s).running = some k ∧ runArr p r s = some a ∧
    a % 512 < 352 ∧ p < 255 ∧ (∀ q ∈ s.parts, q.2.incoming = [])) ∧
    (∃ (a k : Nat) (d : Dump) (s : State), serving s = true ∧ a < 2048 ∧ arrState a s = aFrozen ∧
    s.dumps.find? (fun p => p.2.array == a && !p.2.complete) = some (k, d) ∧ dumpRuns d s = true) ∧
    (∃ (a : Nat) (s : State), serving s = true ∧ a < 2048 ∧ arrState a s = aFrozen ∧
    s.dumps.find? (fun p => p.2.array == a && !p.2.complete) = none) ∧
    (∃ (p : Nat) (w : Swap) (s : State), serving s = true ∧ (partOf p s).swaps = [w] ∧ w.phase = 2 ∧ w.spare < 2048 ∧
    w.spare % 512 < 352 ∧ w.failed < 2048 ∧ w.failed % 512 < 352 ∧ w.failed ≠ w.spare ∧ p < 255) ∧
    (∃ (p : Nat) (s : State), serving s = true ∧ (partOf p s).swaps ≠ [] ∧ (partOf p s).swaps.all (·.phase == 3) = true) ∧
    (∃ (p : Nat) (s : State), serving s = true ∧ (partOf p s).reload = true ∧ (partOf p s).incoming = [] ∧
    isSet (ALM_REGION.COMPLETING (0x10 + p)) s = false) :=
  ⟨⟨3, 351, setArr 1887 aSpare up, by decide, by decide, by decide, by decide, by decide⟩,
    (by
      obtain ⟨a, ha⟩ := Option.isSome_iff_exists.mp (show (lowestSpare 3 (setArr 1887 aEnabled (setArr 1886 aSpare up))).isSome = true by decide +kernel)
      exact ⟨3, 351, a, setArr 1887 aEnabled (setArr 1886 aSpare up), by decide, by decide, by decide, by decide, by decide, ha, by decide⟩),
    ⟨3, 351, 1886, wr (ARY_STATUS.BUSY 3 351) 1 (setArr 1887 aEnabled (setArr 1886 aSpare up)), by decide, by decide, by decide,
    by decide, by decide, by decide, by decide⟩,
    ⟨4, up, by decide, by decide⟩,
    ⟨3, 352, up, by decide, by decide, by decide, by decide⟩,
    ⟨3, 352, up, by decide, by decide, by decide, by decide⟩,
    ⟨3, 351, setArr 1887 aRetired up, by decide, by decide, by decide, by decide, by decide⟩,
    ⟨3, 351, { setArr 1887 aTesting up with arrTests := [(1887, 1)] }, by decide, by decide, by decide, by decide, by decide⟩,
    ⟨0, 0, 1887, { run0 1 with ranks := [1887] }, hangs, by decide, by decide, by decide⟩,
    ⟨0, 0, 1887, { run0 1 with ranks := [1887] }, hangs, by decide, by decide, by decide⟩,
    ⟨0, 0, 1887, { run0 1 with ranks := [1887] }, hangs, by decide, by decide, by decide, by decide, by decide, by decide⟩,
    ⟨1887, _, dumpA, { setArr 1887 aFrozen up with dumps := [(0, dumpA)] }, by decide, by decide, by decide, rfl, by decide⟩,
    ⟨1887, setArr 1887 aFrozen up, by decide, by decide, by decide, by decide⟩,
    ⟨254, swap0 2, { up with parts := [(254, { swaps := [swap0 2] })] }, by decide, by decide, by decide, by decide, by decide,
    by decide, by decide, by decide, by decide⟩,
    ⟨0, parted { swaps := [swap0 3] } up, by decide, by decide, by decide⟩,
    ⟨0, parted { reload := true } up, by decide, by decide, by decide, by decide⟩⟩

theorem witness_sram_errors :
    (∃ (t n off : Nat) (s u : State), serving s = true ∧ t < 4 ∧ n < 352 ∧
    u = wr (ARY_SRAM_ECC.LAST_ARRAY t) n (bump (ARY_SRAM_ECC.UNCORRECTABLE t) 1 s) ∧
    (arrPart (t * 512 + n) u = 0xFF ∨ regionOf (arrPart (t * 512 + n) u) off u ≠ 3)) ∧
    (∃ (t n off p hdr : Nat) (s u : State), serving s = true ∧ t < 4 ∧ n < 352 ∧
    u = wr (ARY_SRAM_ECC.LAST_ARRAY t) n (bump (ARY_SRAM_ECC.UNCORRECTABLE t) 1 s) ∧ p = arrPart (t * 512 + n) u ∧ p ≠ 0xFF ∧
    regionOf p off u = 3 ∧ hdr = ((partOf p u).running.map (·.hdr)).getD 0) :=
  ⟨⟨3, 351, 0, wr (ARY_STATUS.PARTITION 3 351) 0xFF up, _, by decide, by decide, by decide, rfl, .inl (by decide)⟩,
    ⟨3, 351, 0, _, _,
    wr (ARY_STATUS.PARTITION 3 351) 0 (parted { ranks := [1887], head := { workKib := 4 }, running := some (run0 1) } up), _, by decide,
    by decide, by decide, rfl, rfl, by decide, by decide, rfl⟩⟩

theorem witness_select_results :
    (∃ (p rank layer arr : Nat) (q : SelPar) (s u : State), serving s = true ∧ selKernel p rank s = some (q, layer, arr) ∧ q.mode ≠ 1 ∧
    selCheck arr q (selPoison p rank s) s = 0 ∧ u = selRead p rank false s) ∧
    (∃ (p rank layer arr : Nat) (poison : Bool) (q : SelPar) (s : State), serving s = true ∧ selKernel p rank s = some (q, layer, arr) ∧
    q.mode ≠ 1 ∧ selCheck arr q (poison || selPoison p rank s) s ≠ 0) ∧
    (∃ (p rank layer arr : Nat) (poison : Bool) (q : SelPar) (s : State), serving s = true ∧ selKernel p rank s = some (q, layer, arr) ∧
    q.mode = 1 ∧ selCheck arr q (poison || selPoison p rank s) s ≠ 0) ∧
    (∃ (p rank layer arr : Nat) (q : SelPar) (s u : State), serving s = true ∧ selKernel p rank s = some (q, layer, arr) ∧ q.mode = 1 ∧
    selCheck arr q (selPoison p rank s) s = 0 ∧ u = selRead p rank false s) :=
  ⟨⟨0, 0, _, _, _, selects (row1 1), _, by decide, rfl, by decide, by decide, rfl⟩,
    ⟨0, 0, _, _, false, _, selects (row1 1025), by decide, rfl, by decide, by decide⟩,
    ⟨0, 0, _, _, false, _, selects (merge1), by decide, rfl, by decide, by decide⟩,
    ⟨0, 0, _, _, _, selects (merge2), _, by decide, rfl, by decide, by decide, rfl⟩⟩

theorem witness_sampling_and_draws :
    (∃ (p k : Nat) (r : SesRun) (s : State), serving s = true ∧ runsOp p 0x0008 s = true ∧ runOf p k s = some r ∧ r.status = 0 ∧
    (r.params.grammarId = 0xFFFF ∨ (sessOf r.idx s).mask.isSome = true)) ∧
    (∃ (p k : Nat) (r : SesRun) (s : State), serving s = true ∧ runsOp p 0x0008 s = true ∧ runOf p k s = some r ∧ r.status = 0 ∧
    r.params.grammarId ≠ 0xFFFF ∧ (sessOf r.idx s).mask = none) ∧
    (∃ (i : Nat) (rest : List Nat) (s : State), serving s = true ∧ s.maskQ = i :: rest ∧ s.poison = [] ∧
    tokBad (descOf i s).model s = false ∧ s.badGrams.contains (descOf i s).grammarId = false) ∧
    (∃ (i : Nat) (rest : List Nat) (s : State), serving s = true ∧ s.maskQ = i :: rest ∧ s.poison = [] ∧
    (tokBad (descOf i s).model s = true ∨ s.badGrams.contains (descOf i s).grammarId = true)) ∧
    (∃ (p k : Nat) (r : SesRun) (s : State), serving s = true ∧ runOf p k s = some r ∧ drawWaits p k s = true) ∧
    (∃ (p k : Nat) (r : SesRun) (s : State), serving s = true ∧ runOf p k s = some r ∧ r.status = 0 ∧ r.outcome = none ∧
    (descOf r.idx s).st = stActive ∧ drawWaits p k s = false ∧ (r.held = true ∨ r.late = true ∨ ringReserve (descOf r.idx s) s = false)) ∧
    (∃ (p k : Nat) (r : SesRun) (s : State), serving s = true ∧ runOf p k s = some r ∧ r.status = 0 ∧ r.outcome = none ∧
    (descOf r.idx s).st = stActive ∧ drawWaits p k s = false ∧ r.held = false ∧ r.late = false ∧ ringReserve (descOf r.idx s) s = true ∧
    r.noPage = true) ∧
    (∃ (p k off : Nat) (r : SesRun) (res : SelRes) (s : State), serving s = true ∧ runOf p k s = some r ∧ r.status = 0 ∧
    r.outcome = none ∧ (descOf r.idx s).st = stActive ∧ drawWaits p k s = false ∧ r.held = false ∧ r.late = false ∧
    ringReserve (descOf r.idx s) s = true ∧ r.noPage = false ∧
    res = selResOf (sramRead s (rankArr p 0 s) off (32 + 8 * leNat (sramRead s (rankArr p 0 s) off 2))) ∧
    (((sessOf r.idx s).mask.map (·.empty)).getD false = true ∨ res.n = 0 ∨ res.ref = f32NegInf)) ∧
    (∃ (p k off : Nat) (r : SesRun) (res : SelRes) (s : State), serving s = true ∧ runOf p k s = some r ∧ r.status = 0 ∧
    r.outcome = none ∧ (descOf r.idx s).st = stActive ∧ drawWaits p k s = false ∧ r.held = false ∧ r.late = false ∧
    ringReserve (descOf r.idx s) s = true ∧ r.noPage = false ∧ ((sessOf r.idx s).mask.map (·.empty)).getD false = false ∧
    res = selResOf (sramRead s (rankArr p 0 s) off (32 + 8 * leNat (sramRead s (rankArr p 0 s) off 2))) ∧ res.n ≠ 0 ∧ res.ref ≠ f32NegInf) :=
  ⟨⟨0, 0, r0, runs 8 r0 up, by decide, by decide, by decide, by decide, by decide⟩,
    ⟨0, 0, { r0 with params := d5 stActive }, runs 8 { r0 with params := d5 stActive } up, by decide, by decide, by decide, by decide,
    by decide, by decide⟩,
    ⟨5, [6], { ses stReady with maskQ := [5, 6] }, by decide, by decide, by decide, by decide, by decide⟩,
    ⟨5, [6], { wr (TXT_MODEL.SET 0) 9 (ses stReady) with maskQ := [5, 6], badToks := [9] }, by decide, by decide, by decide, by decide⟩,
    ⟨0, 1, r0, parted { step := some { st0 0 0 with runs := [r0, r0] } } (ses stActive), by decide, by decide, by decide⟩,
    ⟨0, 0, { r0 with late := true }, runs 8 { r0 with late := true } (ses stActive), by decide, by decide, by decide, by decide,
    by decide, by decide, by decide⟩,
    ⟨0, 0, { r0 with noPage := true }, runs 8 { r0 with noPage := true } (ses stActive), by decide, by decide, by decide, by decide,
    by decide, by decide, by decide, by decide, by decide, by decide⟩,
    ⟨0, 0, 0, r0, _, runs 8 r0 { ses stActive with sess := [(5, { mask := some ⟨[], true⟩ })] }, by decide, by decide, by decide,
    by decide, by decide, by decide, by decide, by decide, by decide, by decide, rfl, .inl (by decide)⟩,
    ⟨0, 0, 0, r0, _, sramWrite 0 0 (leBytes 2 1 ++ leBytes 38 0) (runs 8 r0 (ses stActive)), by decide, by decide, by decide, by decide,
    by decide, by decide, by decide, by decide, by decide, by decide, by decide, rfl, by decide, by decide⟩⟩

theorem witness_text_output :
    (∃ (i : Nat) (s : State), serving s = true ∧ s.poison = [] ∧ (sessOf i s).drawn = none) ∧
    (∃ (i tok a b : Nat) (c : Bool) (s : State), serving s = true ∧ s.poison = [] ∧ (sessOf i s).drawn = some (tok, 0xFF, a, b, c) ∧
    (descOf i s).st = stActive ∧ (descOf i s).cancelPending = false) ∧
    (∃ (i tok reason a b : Nat) (c : Bool) (s : State), serving s = true ∧ s.poison = [] ∧
    (sessOf i s).drawn = some (tok, reason, a, b, c) ∧ (descOf i s).st = stActive ∧ (descOf i s).cancelPending = false ∧ reason ≠ 0xFF) ∧
    (∃ (i tok a b : Nat) (c : Bool) (s : State), serving s = true ∧ s.poison = [] ∧ (sessOf i s).drawn = some (tok, 0xFF, a, b, c) ∧
    (descOf i s).st = stActive ∧ (descOf i s).cancelPending = true) ∧
    (∃ (i tok reason a b : Nat) (c : Bool) (s : State), serving s = true ∧ s.poison = [] ∧
    (sessOf i s).drawn = some (tok, reason, a, b, c) ∧ (descOf i s).st = stActive ∧ (descOf i s).cancelPending = true ∧ reason ≠ 0xFF) ∧
    (∃ (slot addr : Nat) (g : List Byte) (s : State), serving s = true ∧ g = memRead s addr (field (memRead s addr 0x40) 0x20 4) ∧
    gramOk g s = true ∧ gramInUse slot s = false ∧
    gramStoreBytes { s with grams := sdel s.grams slot } + g.length ≤ rd TXT_GRAM_STATUS.STORE_MIB s * 0x10_0000) ∧
    (∃ (addr : Nat) (g : List Byte) (s : State), serving s = true ∧ g = memRead s addr (field (memRead s addr 0x40) 0x20 4) ∧
    gramOk g s = false) ∧
    (∃ (slot addr : Nat) (g : List Byte) (s : State), serving s = true ∧ g = memRead s addr (field (memRead s addr 0x40) 0x20 4) ∧
    gramOk g s = true ∧ gramInUse slot s = true) ∧
    (∃ (slot addr : Nat) (g : List Byte) (s : State), serving s = true ∧ g = memRead s addr (field (memRead s addr 0x40) 0x20 4) ∧
    gramOk g s = true ∧ gramInUse slot s = false ∧
    rd TXT_GRAM_STATUS.STORE_MIB s * 0x10_0000 < gramStoreBytes { s with grams := sdel s.grams slot } + g.length) ∧
    (∃ (slot : Nat) (g : List Byte) (s : State), serving s = true ∧ sget s.grams slot = some g ∧ gramInUse slot s = false) ∧
    (∃ (slot : Nat) (g : List Byte) (s : State), serving s = true ∧ sget s.grams slot = some g ∧ gramInUse slot s = true) ∧
    (∃ (slot : Nat) (s : State), serving s = true ∧ sget s.grams slot = none) ∧
    (∃ (st : Nat), st < 256) :=
  ⟨⟨5, ses stActive, by decide, by decide, by decide⟩,
    ⟨5, 65, 0, 0, false, sesX (d5 stActive) { drawn := some (65, 0xFF, 0, 0, false) }, by decide, by decide, by decide, by decide,
    by decide⟩,
    ⟨5, 65, 1, _, _, _, sesX (d5 stActive) { drawn := some (65, 1, 0, 0, false) }, by decide, by decide, rfl, by decide, by decide,
    by decide⟩,
    ⟨5, 65, 0, 0, false, sesX { d5 stActive with cancelPending := true } { drawn := some (65, 0xFF, 0, 0, false) }, by decide, by decide,
    by decide, by decide, by decide⟩,
    ⟨5, 65, 1, _, _, _, sesX { d5 stActive with cancelPending := true } { drawn := some (65, 1, 0, 0, false) }, by decide, by decide,
    rfl, by decide, by decide, by decide⟩,
    ⟨0, 0, _, gramS 1 up, by decide, rfl, by decide, by decide, by decide⟩,
    ⟨0, _, up, by decide, rfl, by decide⟩,
    ⟨0, 0, _, gramS 1 (ses stReady), by decide, rfl, by decide, by decide⟩,
    ⟨0, 0, _, gramS 0 up, by decide, rfl, by decide, by decide, by decide⟩,
    ⟨255, [1#8], { up with grams := [(255, [1#8])] }, by decide, by decide, by decide⟩,
    ⟨0, [1#8], { ses stReady with grams := [(0, [1#8])] }, by decide, by decide, by decide⟩,
    ⟨255, up, by decide, by decide⟩,
    ⟨255, by decide⟩⟩

theorem witness_key_value_pages :
    (∃ (p k layer : Nat) (bad : List Nat) (fixed : List (Nat × Nat × Nat)) (r : SesRun) (st : Step) (m : Model) (n : Nat) (s u : State), serving s = true ∧
    runOf p k s = some r ∧ (partOf p s).step = some st ∧ m = modelOf r.params.model s ∧ n = m.kvHeads * m.headDim ∧
    runsOp p 0x000B s = true ∧ r.status = 0 ∧ r.noPage = false ∧ layer < m.layers.length ∧
    foundBad [(st.stage + r.stageOff, r.count * (2 * n))] bad (corrections fixed s) = u) ∧
    (∃ (a n : Nat) (s : State), poisonIn a n s = false) ∧
    (∃ (s : State), serving s = true) ∧
    (∃ (s : State), serving s = true ∧ s.poison = []) ∧
    (∃ (p k layer : Nat) (r : SesRun) (s : State), serving s = true ∧ runOf p k s = some r ∧ runsOp p 0x0002 s = true ∧ r.status = 0 ∧
    s.poison = [] ∧ (sessOf r.idx s).pages.all (fun q => !q.deepHeld) = true ∧
    selective (modelOf r.params.model s) (sessOf r.idx s) r layer s = false) ∧
    (∃ (p k layer x : Nat) (qs : List (Nat × Nat)) (outs : List Nat) (q : Page) (r : SesRun) (s : State), serving s = true ∧
    runOf p k s = some r ∧ runsOp p 0x0002 s = true ∧ r.status = 0 ∧
    x ∈ visiblePages (modelOf r.params.model s) (sessOf r.idx s) r layer ∧ pageAt (sessOf r.idx s) x = some q ∧ q.deepHeld = true ∧
    groupsOf p (modelOf r.params.model s) (headPlaces qs outs) s ≠ [] ∧
    selective (modelOf r.params.model s) (sessOf r.idx s) r layer s = false) ∧
    (∃ (s : State), serving s = true) ∧
    (∃ (p k layer h : Nat) (r : SesRun) (s : State), serving s = true ∧ runOf p k s = some r ∧ runsOp p 0x0002 s = true ∧ r.status = 0 ∧
    selective (modelOf r.params.model s) (sessOf r.idx s) r layer s = true ∧ h = homeTile (modelOf r.params.model s) layer ∧ h < 4) ∧
    (∃ (i sp : Nat) (j : SpanJob) (s : State), serving s = true ∧ s.spanJobs.find? (fun j => j.idx == i && j.span == sp) = some j ∧
    j.todo = [] ∧ j.left = 0) ∧
    (∃ (t : Nat) (f : Nat × Nat × Nat) (s : State), serving s = true ∧ nextFetch t s = some f) ∧
    (∃ (i k : Nat) (f : Nat × Nat × Nat) (s u : State), serving s = true ∧ s.fetchFly.find? (fun f => f.2 == (i, k)) = some f ∧
    bringPage i k s = some u) ∧
    (∃ (i k : Nat) (f : Nat × Nat × Nat) (s : State), serving s = true ∧ s.fetchFly.find? (fun f => f.2 == (i, k)) = some f ∧
    bringPage i k s = none) ∧
    (∃ (i k : Nat) (f : Nat × Nat × Nat) (s : State), serving s = true ∧ s.fetchFly.find? (fun f => f.2 == (i, k)) = some f ∧
    ((sessOf i s).image.map fun im => decide (im.tier = 0)).getD false = false) ∧
    (∃ (i k c : Nat) (f : Nat × Nat × Nat) (im : Image) (s : State), serving s = true ∧
    s.fetchFly.find? (fun f => f.2 == (i, k)) = some f ∧ (sessOf i s).image = some im ∧ im.tier = 0 ∧
    im.chunks[chunkAt ((im.pageOffs[k]?).getD 0)]? = some c) :=
  ⟨⟨0, 0, 0, [], [], r0, _, _, _, kvS 0xB 0 pg0, kvS 0xB 0 pg0, by decide, by decide, rfl, rfl, rfl, by decide, by decide, by decide,
    by decide, by decide⟩,
    ⟨64, 64, kvS 0xB 0 pg0, by decide⟩,
    ⟨kvS 0xB 0 pg0, by decide⟩,
    ⟨kvS 0xB 0 pg0, by decide, by decide⟩,
    ⟨0, 0, 0, r0, runs 2 r0 up, by decide, by decide, by decide, by decide, by decide, by decide, by decide⟩,
    ⟨0, 0, 0, 0, [(0, 0)], [0], pg0, r0, kvS 2 0 pg0, by decide, by decide, by decide, by decide, by decide, by decide, by decide,
    by decide, by decide⟩,
    ⟨up, by decide⟩,
    ⟨0, 0, 0, _, { r0 with start := 2 }, wr KVP_CFG.SPARSE_EN 1 (kvS 2 2 pg0), by decide, by decide, by decide, by decide, by decide,
    rfl, by decide⟩,
    ⟨5, 0, { idx := 5, span := 0, todo := [] }, { kvS 2 2 pg0 with spanJobs := [{ idx := 5, span := 0, todo := [] }] }, by decide,
    by decide, by decide, by decide⟩,
    ⟨0, (0, 5, 0), { sparse with fetchQ := [(0, 5, 0)] }, by decide, by decide⟩,
    (by
      obtain ⟨u, hu⟩ := Option.isSome_iff_exists.mp (show (bringPage 5 0 { sparse with fetchFly := [(0, 5, 0)] }).isSome = true by decide +kernel)
      exact ⟨5, 0, (0, 5, 0), { sparse with fetchFly := [(0, 5, 0)] }, u, by decide, by decide, hu⟩),
    ⟨5, 0, (0, 5, 0), { sesX (d5 stReady) {} with fetchFly := [(0, 5, 0)] }, by decide, by decide, by decide⟩,
    ⟨5, 0, (0, 5, 0), { sesX (d5 stReady) {} with fetchFly := [(0, 5, 0)] }, by decide, by decide, by decide⟩,
    ⟨5, 0, 0x2_0000, (0, 5, 0), { im0 with pageOffs := [0] },
    { kvS 2 2 pg0 with fetchFly := [(0, 5, 0)], sess := [(5, { pages := [pg0], image := some { im0 with pageOffs := [0] } })] },
    by decide, by decide, by decide, by decide, by decide⟩⟩

theorem witness_embedding_commands :
    (∃ (h : Hdr) (table fmt bags entries : Nat) (ents offs : Buf) (out outBytes : Nat) (bad : List (Nat × Nat)) (t : EmbTable) (eb ob : List Byte) (s v : State), passes h 0x18 (decide (1 < fmt)) s = true ∧
    sget s.embTabs table = some t ∧ bags ≠ 0 ∧ bags ≤ 1024 ∧ entries ≤ 65536 ∧ bufRead h ents (16 * entries) s = some eb ∧
    bufRead h offs (4 * bags + 4) s = some ob ∧ lookOk h t fmt bags entries out outBytes eb ob = true ∧
    v = rowSpoil t (((((List.range bags).map (bagEntries t eb ob)).map (fun b => b.filter fun e => weightOk e.1)).flatten.flatMap (·.2)).eraseDups.filterMap fun r => (rowAddr t r.1 r.2 s).map fun a => (r, a)) bad (entered h 0x18 s) ∧
    (∀ e ∈ ((List.range bags).map (bagEntries t eb ob)).flatten, ∀ r ∈ e.2, (rowAddr t r.1 r.2 s).isSome = true)) ∧
    (∃ (h : Hdr) (table fmt bags entries : Nat) (ents offs : Buf) (out outBytes : Nat) (t : EmbTable) (eb ob : List Byte) (i : Nat) (e : Nat × List (Nat × Nat)) (r : Nat × Nat) (s : State), passes h 0x18 (decide (1 < fmt)) s = true ∧
    sget s.embTabs table = some t ∧ bags ≠ 0 ∧ bags ≤ 1024 ∧ entries ≤ 65536 ∧ bufRead h ents (16 * entries) s = some eb ∧
    bufRead h offs (4 * bags + 4) s = some ob ∧ lookOk h t fmt bags entries out outBytes eb ob = true ∧ i < bags ∧
    e ∈ bagEntries t eb ob i ∧ weightOk e.1 = true ∧ r ∈ e.2 ∧ rowAddr t r.1 r.2 s = none) ∧
    (∃ (h : Hdr) (table fmt : Nat) (s : State), passes h 0x18 (decide (1 < fmt)) s = true ∧ sget s.embTabs table = none) ∧
    (∃ (h : Hdr) (table count : Nat) (buf : Buf) (t : EmbTable) (bs : List Byte) (s : State), passes h 0x19 false s = true ∧
    sget s.embTabs table = some t ∧ count ≠ 0 ∧ count ≤ 65536 ∧ bufRead h buf (count * updBytes t) s = some bs ∧
    (pieces (updBytes t) count bs).all (updOk t) = true) ∧
    (∃ (h : Hdr) (table count : Nat) (buf : Buf) (t : EmbTable) (s : State), passes h 0x19 false s = true ∧
    sget s.embTabs table = some t ∧
    (count = 0 ∨ 65536 < count ∨ ∃ bs, bufRead h buf (count * updBytes t) s = some bs ∧ (pieces (updBytes t) count bs).all (updOk t) = false)) ∧
    (∃ (h : Hdr) (table : Nat) (s : State), passes h 0x19 false s = true ∧ sget s.embTabs table = none) ∧
    (∃ (l : EmbLook) (s : State), serving s = true ∧ s.embLooks = [l] ∧ l.limit ≤ s.cad.edges) ∧
    (∃ (j : EmbJob) (s : State), serving s = true ∧ s.embLooks = [] ∧ s.embJobs = [j] ∧ j.limit ≤ s.cad.edges ∧ j.localWaits = false) ∧
    (∃ (j : EmbJob) (s : State), serving s = true ∧ s.embLooks = [] ∧ s.embJobs = [j] ∧ j.limit ≤ s.cad.edges ∧ j.localWaits = true) ∧
    (∃ (h : Hdr) (dest table part block : Nat) (t : EmbTable) (s : State), passes h 0x09 false s = true ∧ h.fn = 0 ∧ h.handle = 0 ∧
    dest ≤ 0xFFF ∧ part ≤ 1 ∧ sget s.embTabs table = some t ∧ block * 2 ^ t.blockLog2 < t.rows part ∧
    (rowAddr t part (block * 2 ^ t.blockLog2) s).isSome = true ∧ s.migs.all (fun m => m.block != some (table, part, block)) = true ∧
    rd DIR_SELF.STATE s ≠ 3 ∧ s.migs.length < 256 ∧ (slotFor (rd (HIF_QP_CTRL.CLASS h.fn h.qp) s) s = true ∨ queuedTransits s < 65536)) ∧
    (∃ (h : Hdr) (dest table part block : Nat) (answers reach free room : Bool) (t : EmbTable) (s : State), passes h 0x09 false s = true ∧
    h.fn = 0 ∧ h.handle = 0 ∧ dest ≤ 0xFFF ∧ part ≤ 1 ∧ sget s.embTabs table = some t ∧ block * 2 ^ t.blockLog2 < t.rows part ∧
    (rowAddr t part (block * 2 ^ t.blockLog2) s).isSome = true ∧
    (answers = false ∨ reach = false ∨ free = false ∨ room = false ∨ rd DIR_SELF.STATE s = 3 ∨ 256 ≤ s.migs.length ∨ s.migs.any (fun m => m.block == some (table, part, block)) = true)) ∧
    (∃ (h : Hdr) (dest part : Nat) (s : State), cmdRuns h s = true ∧ h.handle = 0 ∧ (h.fn ≠ 0 ∨ 0xFFF < dest ∨ 1 < part)) :=
  ⟨⟨h0, 0, 0, 1, 1, ⟨0, some (leBytes 16 0)⟩, ⟨0, some (leBytes 4 0 ++ leBytes 4 1)⟩, 0, 64, [], emb0, leBytes 16 0,
    leBytes 4 0 ++ leBytes 4 1, embS, _, by decide, by decide, by decide, by decide, by decide, by decide, by decide, by decide, rfl,
    by decide +kernel⟩,
    ⟨h0, 0, 0, 1, 1, ⟨0, some (leBytes 16 0)⟩, ⟨0, some (leBytes 4 0 ++ leBytes 4 1)⟩, 0, 64, emb0, leBytes 16 0,
    leBytes 4 0 ++ leBytes 4 1, 0, (0, [(0, 0)]), (0, 0), embFar, by decide, by decide, by decide, by decide, by decide, by decide,
    by decide, by decide, by decide, by decide, by decide, by decide, by decide⟩,
    ⟨h0, 63, 0, embS, by decide, by decide⟩,
    ⟨h0, 0, 1, ⟨0, some (leBytes 64 0)⟩, emb0, leBytes 64 0, embS, by decide, by decide, by decide, by decide, by decide, by decide⟩,
    ⟨h0, 0, 65537, ⟨0, none⟩, emb0, embS, by decide, by decide, .inr (.inl (by decide))⟩,
    ⟨h0, 63, embS, by decide, by decide⟩,
    ⟨look0, { embS with embLooks := [look0], cad.edges := 5 }, by decide, by decide, by decide⟩,
    ⟨job0, { embS with embJobs := [job0], cad.edges := 5 }, by decide, by decide, by decide, by decide, by decide⟩,
    ⟨{ job0 with localWaits := true }, { embS with embJobs := [{ job0 with localWaits := true }], cad.edges := 5 }, by decide, by decide,
    by decide, by decide, by decide⟩,
    ⟨h0, 0xFFF, 0, 0, 0, emb0, embS, by decide, by decide, by decide, by decide, by decide, by decide, by decide, by decide, by decide,
    by decide, by decide, by decide⟩,
    ⟨h0, 0xFFF, 0, 0, 0, false, false, false, false, emb0, embS, by decide, by decide, by decide, by decide, by decide, by decide,
    by decide, by decide, by decide⟩,
    ⟨h0, 0, 2, embS, by decide, by decide, by decide⟩⟩

theorem witness_embedding_tables :
    (∃ (p rank table fmt dst : Nat) (sram : Bool) (bags : List (List (Nat × Nat))) (t : EmbTable) (s : State), serving s = true ∧
    sget s.embTabs table = some t ∧ runsOp p 0x000C s = true ∧ fmt ≤ 1 ∧ rangeOk sram dst (bags.length * outStride t.dim fmt) = true ∧
    rankArr p rank s < 2048) ∧
    (∃ (tile : Nat) (s : State), serving s = true ∧ tile < 4 ∧ sgetD s.hotLast tile 0 + max 1 (rd EMB_HOT_CFG.HOT_WINDOW s) ≤ s.cad.edges) ∧
    (∃ (tile table part row a : Nat) (t : EmbTable) (p : Replica) (s : State), serving s = true ∧ memOk s = true ∧
    sget s.embTabs table = some t ∧
    s.replicas.find? (fun p => p.tile == tile && p.row == { table := table, part := part, row := row } && !p.valid) = some p ∧
    rowAddr t part row s = some a ∧ p.addr + p.bytes ≤ bondedEnd ∧ rowLost t a s = false) ∧
    (∃ (tile table part row : Nat) (t : EmbTable) (p : Replica) (s : State), serving s = true ∧ sget s.embTabs table = some t ∧
    s.replicas.find? (fun p => p.tile == tile && p.row == { table := table, part := part, row := row } && !p.valid) = some p ∧
    rowAddr t part row s = none) ∧
    (∃ (table : Nat) (rows : List (Nat × Nat)) (t : EmbTable) (s : State), serving s = true ∧ sget s.embTabs table = some t ∧ rows ≠ [] ∧
    rows.all (fun r => (rowAddr t r.1 r.2 s).any fun a => !rowLost t a s) = true) ∧
    (∃ (table : Nat) (s : State), serving s = true ∧ sget s.embTabs table = none) ∧
    (∃ (table : Nat) (r : Nat × Nat) (t : EmbTable) (s : State), serving s = true ∧ sget s.embTabs table = some t ∧
    rowAddr t r.1 r.2 s = none ∧ blockTomb table r.1 (r.2 / 2 ^ t.blockLog2) s = none) ∧
    (∃ (table : Nat) (items : List EmbItem) (i : EmbItem) (t : EmbTable) (s : State), serving s = true ∧ sget s.embTabs table = some t ∧
    items.find? (fun i => !((rowAddr t i.part i.row s).isSome || (blockTomb table i.part (i.row / 2 ^ t.blockLog2) s).isSome)) = some i) ∧
    (∃ (table : Nat) (items : List EmbItem) (t : EmbTable) (s : State), serving s = true ∧ sget s.embTabs table = some t ∧
    items.all (fun i => (rowAddr t i.part i.row s).isSome || (blockTomb table i.part (i.row / 2 ^ t.blockLog2) s).isSome) = true) ∧
    (∃ (tile table part row a : Nat) (t : EmbTable) (p : Replica) (s : State), serving s = true ∧ sget s.embTabs table = some t ∧
    s.replicas.find? (fun p => p.tile == tile && p.row == { table := table, part := part, row := row } && !p.valid) = some p ∧
    rowAddr t part row s = some a ∧ rowLost t a s = true) :=
  ⟨⟨0, 0, 0, 1, 0, false, [], emb0, runs 0xC r0 embS, by decide, by decide, by decide, by decide, by decide, by decide⟩,
    ⟨3, { up with cad.edges := 2 ^ 32 }, by decide, by decide, by decide⟩,
    ⟨0, 0, 0, 0, 256, emb0, { tile := 0, row := row0, valid := false, chan := 0, addr := 512, bytes := 4 },
    { embS with replicas := [{ tile := 0, row := row0, valid := false, chan := 0, addr := 512, bytes := 4 }] }, by decide, by decide,
    by decide, by decide, by decide, by decide, by decide⟩,
    ⟨0, 0, 0, 0, emb0, { tile := 0, row := row0, valid := false, chan := 0, addr := 512, bytes := 4 },
    { embFar with replicas := [{ tile := 0, row := row0, valid := false, chan := 0, addr := 512, bytes := 4 }] }, by decide, by decide,
    by decide, by decide⟩,
    ⟨0, [(0, 0)], emb0, embS, by decide, by decide, by decide, by decide⟩,
    ⟨63, embS, by decide, by decide⟩,
    ⟨0, (0, 0), emb0, embFar, by decide, by decide, by decide, by decide⟩,
    ⟨0, [item0], item0, emb0, embFar, by decide, by decide, by decide⟩,
    ⟨0, [item0], emb0, embS, by decide, by decide, by decide⟩,
    ⟨0, 0, 0, 0, 256, emb0, { tile := 0, row := row0, valid := false, chan := 0, addr := 512, bytes := 4 },
    { { embS with replicas := [{ tile := 0, row := row0, valid := false, chan := 0, addr := 512, bytes := 4 }] } with poison := [4] },
    by decide, by decide, by decide, by decide, by decide⟩⟩

theorem witness_channel_modes :
    (∃ (g : Nat) (s : State), serving s = true ∧ g < 768 ∧ g % 32 ≠ 0 ∧ chProcessor g s = false ∧ chanHeld g s = false ∧
    bandOf (g / 32) s ≠ 3 ∧ stackOnline (g / 32) s = true ∧ headWants g s = true) ∧
    (∃ (g : Nat) (s : State), serving s = true ∧ chProcessor g s = true) ∧
    (∃ (g : Nat) (o x : BankOp) (r : List BankOp) (s u : State), serving s = true ∧ g ∈ s.returnReq ∧ chProcessor g s = true ∧
    bankOps g s = o :: r ∧ x = { o with suspended := true, acq := false } ∧ u = { s with returnReq := s.returnReq.filter (· != g) }) ∧
    (∃ (g : Nat) (s : State), serving s = true ∧ g ∉ s.returnReq) ∧
    (∃ (g : Nat) (o : BankOp) (r : List BankOp) (s : State), serving s = true ∧ g < 768 ∧ g ∈ s.returnReq ∧ chProcessor g s = true ∧
    bankOps g s = o :: r ∧ s.c0Wait = []) ∧
    (∃ (st addr : Nat) (s : State), serving s = true ∧ st < 24 ∧ isSet (BNK_PF_STATUS.BUSY st) s = false ∧
    addr / 64 * 64 + 64 ≤ bondedEnd ∧ stackOf (addr / 64 * 64) = st ∧
    bankCheck st (bankOpOf (memRead s (addr / 64 * 64) 64)) (bankRest (memRead s (addr / 64 * 64) 64)) s = sOk) ∧
    (∃ (st addr c : Nat) (s : State), serving s = true ∧ st < 24 ∧ isSet (BNK_PF_STATUS.BUSY st) s = false ∧
    addr / 64 * 64 + 64 ≤ bondedEnd ∧ stackOf (addr / 64 * 64) = st ∧
    bankCheck st (bankOpOf (memRead s (addr / 64 * 64) 64)) (bankRest (memRead s (addr / 64 * 64) 64)) s = c ∧ c ≠ sOk) ∧
    (∃ (st addr : Nat) (s : State), serving s = true ∧ st < 24 ∧ isSet (BNK_PF_STATUS.BUSY st) s = false ∧
    (bondedEnd < addr / 64 * 64 + 64 ∨ stackOf (addr / 64 * 64) ≠ st)) ∧
    (∃ (st : Nat) (s : State), serving s = true ∧ st < 24 ∧ isSet (BNK_PF_STATUS.BUSY st) s = true) ∧
    (∃ (st sensor : Nat) (s : State), live s = true ∧ st < 24 ∧ stackOnline st s = true ∧ sensor < 256) ∧
    (∃ (cur : Nat), cur ≤ 3) :=
  ⟨⟨767, { roomy with bankQ := [(767, [bop 2])] }, by decide, by decide, by decide, by decide, by decide, by decide, by decide,
    by decide⟩,
    ⟨767, banked 767 (bop 2), by decide, by decide⟩,
    ⟨767, bop 2, _, [], { banked 767 (bop 2) with returnReq := [767] }, _, by decide, by decide, by decide, by decide, rfl, rfl⟩,
    ⟨767, banked 767 (bop 2), by decide, by decide⟩,
    ⟨767, bop 2, [], { banked 767 (bop 2) with returnReq := [767] }, by decide, by decide, by decide, by decide, by decide, by decide⟩,
    ⟨_, 63, memWrite 0 fill1 roomy, by decide, by decide, by decide, by decide, rfl, by decide⟩,
    ⟨_, 0, sRejected, roomy, by decide, by decide, by decide, by decide, rfl, by decide, by decide⟩,
    ⟨23, 0, roomy, by decide, by decide, by decide, by decide⟩,
    ⟨23, wr (BNK_PF_STATUS.BUSY 23) 1 up, by decide, by decide, by decide⟩,
    ⟨23, 255, roomy, by decide, by decide, by decide, by decide⟩,
    ⟨3, by decide⟩⟩

theorem witness_bank_operations :
    (∃ (g a n : Nat) (o : BankOp) (s : State), serving s = true ∧ bankRuns g 1 s = some o ∧ a = 64 * o.pos ∧
    n = 64 * (sliceEnd o - o.pos) ∧ (poisonIn (o.src + a) n s = false ∨ capHeld (o.dst + a) n s = true)) ∧
    (∃ (g a n : Nat) (o : BankOp) (s : State), serving s = true ∧ bankRuns g 1 s = some o ∧ a = 64 * o.pos ∧
    n = 64 * (sliceEnd o - o.pos) ∧ poisonIn (o.src + a) n s = true ∧ capHeld (o.dst + a) n s = false) ∧
    (∃ (g a n : Nat) (o : BankOp) (s : State), serving s = true ∧ s.ckpt = none ∧ memOk s = true ∧ bankRuns g 1 s = some o ∧
    a = 64 * o.pos ∧ n = 64 * (sliceEnd o - o.pos) ∧ o.dst + a + n ≤ bondedEnd) ∧
    (∃ (g a n : Nat) (o : BankOp) (s : State), serving s = true ∧ bankRuns g 2 s = some o ∧ a = 64 * o.pos ∧
    n = 64 * (sliceEnd o - o.pos)) ∧
    (∃ (g a n : Nat) (o : BankOp) (s : State), serving s = true ∧ s.ckpt = none ∧ memOk s = true ∧ bankRuns g 2 s = some o ∧
    a = 64 * o.pos ∧ n = 64 * (sliceEnd o - o.pos) ∧ o.dst + a + n ≤ bondedEnd) ∧
    (∃ (g : Nat) (o : BankOp) (hits out : List (Nat × Nat)) (s : State), serving s = true ∧ bankRuns g 3 s = some o ∧
    hits = scanHits o (scanPar o s) s ∧ out = hits.take (o.b - o.written)) ∧
    (∃ (g : Nat) (o : BankOp) (hits out : List (Nat × Nat)) (s : State), serving s = true ∧ bankRuns g 4 s = some o ∧
    hits = scanHits o (scanPar o s) s ∧ out = hits.take (o.b - o.written)) ∧
    (∃ (g : Nat) (o : BankOp) (s : State), serving s = true ∧ bankRuns g 5 s = some o ∧ s.ckpt = none) ∧
    (∃ (g : Nat) (o : BankOp) (s : State), serving s = true ∧ bankRuns g 6 s = some o) ∧
    (∃ (g u : Nat) (fails : List Nat) (o : BankOp) (s : State), serving s = true ∧ bankRuns g 6 s = some o ∧ fails.getLast? = some u) ∧
    (∃ (g : Nat) (o : BankOp) (s : State), serving s = true ∧ bankHead g s = some o ∧ o.ran = true) ∧
    (∃ (g : Nat) (o : BankOp) (s : State), serving s = true ∧ bankHead g s = some o ∧ o.ran = false) ∧
    (∃ (g : Nat) (o : BankOp) (s : State), g < 768 ∧ o.issuer = 0 ∧ s.c0Wait = []) :=
  ⟨⟨1, _, _, bop 1, banked 1 (bop 1), by decide, by decide, rfl, rfl, by decide⟩,
    ⟨1, _, _, bop 1, { banked 1 (bop 1) with poison := [(gchanBase 1 + 64) / 64] }, by decide, by decide, rfl, rfl, by decide, by decide⟩,
    ⟨1, _, _, bop 1, banked 1 (bop 1), by decide, by decide, by decide, by decide, rfl, rfl, by decide⟩,
    ⟨1, _, _, bop 2, banked 1 (bop 2), by decide, by decide, rfl, rfl⟩,
    ⟨1, _, _, bop 2, banked 1 (bop 2), by decide, by decide, by decide, by decide, rfl, rfl, by decide⟩,
    ⟨1, bop 3, _, _, banked 1 (bop 3), by decide, by decide, rfl, rfl⟩,
    ⟨1, bop 4, _, _, banked 1 (bop 4), by decide, by decide, rfl, rfl⟩,
    ⟨1, bop 5, banked 1 (bop 5), by decide, by decide, by decide⟩,
    ⟨1, bop 6, banked 1 (bop 6), by decide, by decide⟩,
    ⟨1, 7, [7], bop 6, banked 1 (bop 6), by decide, by decide, by decide⟩,
    ⟨1, { bop 2 with ran := true }, banked 1 { bop 2 with ran := true }, by decide, by decide, by decide⟩,
    ⟨1, bop 2, banked 1 (bop 2), by decide, by decide, by decide⟩,
    ⟨767, bop 2, up, by decide, by decide, by decide⟩⟩

theorem witness_deep_retraining :
    (∃ (k temp margin : Nat) (s u : State), serving s = true ∧ k < 96 ∧ rd DPT_RETRAIN_STATUS.PHASE s = 0 ∧
    u = packTemp k temp (wr (DPT_MARGIN.TIMING k) margin s) ∧ nextRetrain u = some k) ∧
    (∃ (k temp margin : Nat) (s u : State), serving s = true ∧ k < 96 ∧ u = packTemp k temp (wr (DPT_MARGIN.TIMING k) margin s) ∧
    (rd DPT_RETRAIN_STATUS.PHASE u ≠ 0 ∨ nextRetrain u ≠ some k)) ∧
    (∃ (k : Nat) (s u : State), serving s = true ∧ s.deepLeaving.contains k = false ∧ rd DPT_RETRAIN_STATUS.PHASE s = 1 ∧
    rd DPT_RETRAIN_STATUS.CHANNEL s = k ∧ evacuate k (chunksOn k s) (k + 1) s = some u) ∧
    (∃ (k : Nat) (s : State), serving s = true ∧ s.deepLeaving.contains k = false ∧ rd DPT_RETRAIN_STATUS.PHASE s = 1 ∧
    rd DPT_RETRAIN_STATUS.CHANNEL s = k ∧ evacuate k (chunksOn k s) (k + 1) s = none) ∧
    (∃ (k : Nat) (lost : List Nat) (s u w : State), serving s = true ∧ s.deepLeaving.contains k = true ∧
    u = (lost.filter fun c => (chunksOn k s).contains c).foldl chunkLost s ∧ evacuate k (chunksOn k u) (k + 1) u = some w) ∧
    (∃ (s : State), serving s = true ∧ rd DPT_RETRAIN_STATUS.PHASE s = 2) ∧
    (∃ (s : State), serving s = true ∧ rd DPT_RETRAIN_STATUS.PHASE s = 3) ∧
    (∃ (s : State), serving s = true ∧ rd DPT_RETRAIN_STATUS.PHASE s = 3 ∧ s.deepFails = 0) ∧
    (∃ (s : State), serving s = true ∧ rd DPT_RETRAIN_STATUS.PHASE s = 3 ∧ s.deepFails ≠ 0 ∧ rd DPT_RETRAIN_STATUS.CHANNEL s < 96) ∧
    (∃ (s : State), serving s = true ∧ rd DPT_RETRAIN_STATUS.PHASE s = 4) ∧
    (∃ (k : Nat) (s : State), serving s = true ∧ isSet REL_CMD_STATUS.BUSY s = false ∧ k < 96 ∧ deepOnline k s = true ∧
    (rd DPT_RETRAIN_STATUS.CHANNEL s ≠ k ∨ rd DPT_RETRAIN_STATUS.PHASE s = 0)) ∧
    (∃ (k : Nat) (s : State), serving s = true ∧ isSet REL_CMD_STATUS.BUSY s = false ∧
    (96 ≤ k ∨ deepOnline k s = false ∨ (rd DPT_RETRAIN_STATUS.CHANNEL s = k ∧ rd DPT_RETRAIN_STATUS.PHASE s ≠ 0))) ∧
    (∃ (k : Nat) (s : State), serving s = true ∧ isSet REL_CMD_STATUS.BUSY s = false ∧ k < 96 ∧ deepRetired k s = true ∧
    s.deepLeaving.contains k = false) :=
  ⟨⟨95, 127, 0, wr DPT_ONLINE_LO.ONLINE 0 (wr DPT_ONLINE_HI.ONLINE 0x8000_0000 (wr DPT_RETRAIN_CFG.DRIFT_C 20 roomy)), _, by decide,
    by decide, by decide, rfl, by decide⟩,
    ⟨95, 0, 0, wr DPT_RETRAIN_STATUS.PHASE 1 (wr DPT_RETRAIN_STATUS.CHANNEL 95 roomy), _, by decide, by decide, rfl, by decide⟩,
    ⟨95, wr DPT_RETRAIN_STATUS.PHASE 1 (wr DPT_RETRAIN_STATUS.CHANNEL 95 roomy), _, by decide, by decide, by decide, by decide, rfl⟩,
    ⟨95, { wr DPT_RETRAIN_STATUS.PHASE 1 (wr DPT_RETRAIN_STATUS.CHANNEL 95 up) with chunkMap := [(0, 95 * 2 ^ 19)] }, by decide,
    by decide, by decide, by decide, by decide⟩,
    ⟨95, [], { roomy with deepLeaving := [95] }, _, _, by decide, by decide, rfl, rfl⟩,
    ⟨wr DPT_RETRAIN_STATUS.PHASE 2 (wr DPT_RETRAIN_STATUS.CHANNEL 95 roomy), by decide, by decide⟩,
    ⟨wr DPT_RETRAIN_STATUS.PHASE 3 (wr DPT_RETRAIN_STATUS.CHANNEL 95 roomy), by decide, by decide⟩,
    ⟨wr DPT_RETRAIN_STATUS.PHASE 3 (wr DPT_RETRAIN_STATUS.CHANNEL 95 roomy), by decide, by decide, by decide⟩,
    ⟨{ wr DPT_RETRAIN_STATUS.PHASE 3 (wr DPT_RETRAIN_STATUS.CHANNEL 95 roomy) with deepFails := 1 }, by decide, by decide, by decide,
    by decide⟩,
    ⟨wr DPT_RETRAIN_STATUS.PHASE 4 (wr DPT_RETRAIN_STATUS.CHANNEL 95 roomy), by decide, by decide⟩,
    ⟨95, wr DPT_RETRAIN_STATUS.CHANNEL 0 roomy, by decide, by decide, by decide, by decide, by decide⟩,
    ⟨96, roomy, by decide, by decide, by decide⟩,
    ⟨95, setDeepRetired 95 true roomy, by decide, by decide, by decide, by decide, by decide⟩⟩

theorem witness_elements_retire :
    (∃ (g : Nat) (s : State), serving s = true ∧ isSet REL_CMD_STATUS.BUSY s = false ∧ g < 768 ∧ stackOnline (g / 32) s = true ∧
    chRetired g s = false ∧ s.rebuilds.all (·.1 != g) = true) ∧
    (∃ (g : Nat) (s : State), serving s = true ∧ isSet REL_CMD_STATUS.BUSY s = false ∧
    (768 ≤ g ∨ stackOnline (g / 32) s = false ∨ chRetired g s = true ∨ s.rebuilds.any (·.1 == g) = true)) ∧
    (∃ (s : State), serving s = true ∧ isSet REL_CMD_STATUS.BUSY s = true) ∧
    (∃ (g p : Nat) (s : State), serving s = true ∧ isSet REL_CMD_STATUS.BUSY s = false ∧ g < 768 ∧ stackOnline (g / 32) s = true ∧
    chRetired g s = true ∧ s.rebuilds.all (·.1 != g) = true ∧ sget s.remaps g = some p) ∧
    (∃ (g : Nat) (s : State), serving s = true ∧ isSet REL_CMD_STATUS.BUSY s = false ∧ g < 768 ∧ stackOnline (g / 32) s = true ∧
    chRetired g s = true ∧ s.rebuilds.all (·.1 != g) = true ∧ sget s.remaps g = none) ∧
    (∃ (g : Nat) (pass : Bool) (s : State), serving s = true ∧ isSet REL_CMD_STATUS.BUSY s = false ∧
    (768 ≤ g ∨ stackOnline (g / 32) s = false ∨ chRetired g s = false ∨ s.rebuilds.any (·.1 == g) = true ∨ pass = false)) ∧
    (∃ (g : Nat) (back : Bool) (s : State), serving s = true ∧ s.rebuilds = [(g, back, true)] ∧ g < 768) ∧
    (∃ (k : Nat) (pass : Bool) (s : State), serving s = true ∧ isSet REL_CMD_STATUS.BUSY s = false ∧
    (96 ≤ k ∨ deepRetired k s = false ∨ s.deepLeaving.contains k = true ∨ pass = false)) ∧
    (∃ (t : Nat) (s : State), serving s = true ∧ isSet REL_CMD_STATUS.BUSY s = false ∧ otherTileOut t s = false ∧ tileOnline t s = true) ∧
    (∃ (t : Nat) (s : State), serving s = true ∧ isSet REL_CMD_STATUS.BUSY s = false ∧ otherTileOut t s = true) ∧
    (∃ (t : Nat) (s : State), serving s = true ∧ isSet REL_CMD_STATUS.BUSY s = false ∧ otherTileOut t s = false ∧ tileOnline t s = false) ∧
    (∃ (t : Nat) (s : State), serving s = true ∧
    (tilePresent t s = false ∨ (otherTileOut t s = false ∧ tileOnline t s = false ∧ s.tileDrain.any (fun q => q.1 == t && q.2.1) = false))) ∧
    (∃ (t : Nat) (s : State), serving s = true ∧ tilePresent t s = true ∧ otherTileOut t s = true) ∧
    (∃ (t : Nat) (s : State), serving s = true ∧ tilePresent t s = true ∧ otherTileOut t s = false ∧
    (tileOnline t s = true ∨ s.tileDrain.any (fun q => q.1 == t && q.2.1) = true)) ∧
    (∃ (t n : Nat) (s : State), serving s = true ∧ t < 4 ∧ s.tileDrain = some (t, false, n) ∧ isSet REL_CMD_STATUS.BUSY s = false ∧
    (partsOnTile t s).all (fun p => (partOf p s).step.isNone && (partOf p s).running.isNone) = true ∧ sessOnTile t s = []) ∧
    (∃ (t n : Nat) (s : State), serving s = true ∧ t < 4 ∧ s.tileDrain = some (t, true, n) ∧
    (partsOnTile t s).all (fun p => (partOf p s).step.isNone && (partOf p s).running.isNone) = true ∧ sessOnTile t s = []) ∧
    (∃ (t : Nat) (s : State), serving s = true ∧ isSet REL_CMD_STATUS.BUSY s = false ∧ t < 4 ∧ tilePresent t s = true ∧
    tileOnline t s = false ∧ s.tileDrain.any (·.1 == t) = false) ∧
    (∃ (t : Nat) (s : State), serving s = true ∧ isSet REL_CMD_STATUS.BUSY s = false ∧
    (tilePresent t s = false ∨ tileOnline t s = true ∨ s.tileDrain.any (·.1 == t) = true)) ∧
    (∃ (st ondie corrected : Nat) (bad b : List (Nat × Nat)) (s u v : State), serving s = true ∧ st < 24 ∧ stackOnline st s = true ∧
    isSet (MEM_SCRUB.ENABLE (st / 6)) s = true ∧
    u = bump (MEM_ECC_COUNTS.CORRECTED (st / 6) (st % 6)) corrected (bump (MEM_ECC_COUNTS.ONDIE (st / 6) (st % 6)) ondie s) ∧
    b = bad.filter (fun b => stackOf (64 * b.1) == st && !chRaw (gchan (64 * b.1)) s && chUp (gchan (64 * b.1)) s) ∧
    v = b.foldl (fun s b => noteUe (64 * b.1) b.2 s) u) ∧
    (∃ (st : Nat) (s : State), serving s = true ∧ st < 24 ∧ stackOnline st s = true ∧ isSet (MEM_SCRUB.ENABLE (st / 6)) s = false) ∧
    (∃ (t n : Nat) (descs chunks : List Nat) (s u v : State), serving s = true ∧ t < 4 ∧ tileOnline t s = true ∧
    isSet REL_SCRUB.ENABLE s = true ∧ s.poison = [] ∧ n = descs.length + chunks.length ∧
    u = bump REL_DIVERGENCE.COUNT n (bump REL_REWRITES.COUNT n s) ∧
    v = s.models.foldl (fun s m => (List.range m.2.blocks.length).foldl (fun s k => if ((m.2.blocks[k]?).map (·.1)) = some t then scrubBlock m.1 k s else s) s) u ∧
    v.poison = []) ∧
    (∃ (t : Nat) (s : State), serving s = true ∧ (4 ≤ t ∨ tileOnline t s = false ∨ isSet REL_SCRUB.ENABLE s = false)) :=
  ⟨⟨767, roomy, by decide, by decide, by decide, by decide, by decide, by decide⟩,
    ⟨768, roomy, by decide, by decide, by decide⟩,
    ⟨wr REL_CMD_STATUS.BUSY 1 tiled, by decide, by decide⟩,
    ⟨767, 5, { wrBit (MEM_CH_STATUS.RETIRED 3 5) 31 true roomy with remaps := [(767, 5)] }, by decide, by decide, by decide, by decide,
    by decide, by decide, by decide⟩,
    ⟨767, wrBit (MEM_CH_STATUS.RETIRED 3 5) 31 true roomy, by decide, by decide, by decide, by decide, by decide, by decide, by decide⟩,
    ⟨768, false, up, by decide, by decide, by decide⟩,
    ⟨767, true, { roomy with rebuilds := [(767, true, true)] }, by decide, by decide, by decide⟩,
    ⟨96, false, up, by decide, by decide, by decide⟩,
    ⟨3, tiled, by decide, by decide, by decide, by decide⟩,
    ⟨0, three, by decide, by decide, by decide⟩,
    ⟨3, three, by decide, by decide, by decide, by decide⟩,
    ⟨3, three, by decide, by decide⟩,
    ⟨0, three, by decide, by decide, by decide⟩,
    ⟨3, tiled, by decide, by decide, by decide, by decide⟩,
    ⟨3, 7, { tiled with tileDrain := some (3, false, 7) }, by decide, by decide, by decide, by decide, by decide, by decide⟩,
    ⟨3, 7, { tiled with tileDrain := some (3, true, 7) }, by decide, by decide, by decide, by decide, by decide⟩,
    ⟨3, three, by decide, by decide, by decide, by decide, by decide, by decide⟩,
    ⟨3, tiled, by decide, by decide, by decide⟩,
    ⟨23, 0, 0, [(0, 0)], [], wr (MEM_SCRUB.ENABLE 3) 1 roomy, _, _, by decide, by decide, by decide, by decide, rfl, by decide, rfl⟩,
    ⟨23, wr (MEM_SCRUB.ENABLE 3) 0 roomy, by decide, by decide, by decide, by decide⟩,
    ⟨3, _, [1], [], wr REL_SCRUB.ENABLE 1 tiled, _, _, by decide, by decide, by decide, by decide, by decide, rfl, rfl, rfl, by decide⟩,
    ⟨4, up, by decide, by decide⟩⟩

theorem witness_vector_updates :
    (∃ (h : Hdr) (i count : Nat) (buf : Buf) (v : VecIndex) (bs : List Byte) (l : List (Nat × Option Nat)) (s u : State), passes h 0x11 (decide (64 ≤ i) || count == 0 || decide (4096 < count)) s = true ∧
    vecOf i s = some v ∧ bufRead h buf (count * (64 + 4 * v.dim)) s = some bs ∧
    (pieces (64 + 4 * v.dim) count bs).all (itemOk v) = true ∧
    hasDup ((pieces (64 + 4 * v.dim) count bs).map fun b => field b 0 8) = false ∧
    (pieces (64 + 4 * v.dim) count bs).foldl (putItem i v) (some ([], idsRead v ((pieces (64 + 4 * v.dim) count bs).map fun b => field b 0 8) (entered h 0x11 s))) = some (l, u)) ∧
    (∃ (h : Hdr) (i count : Nat) (buf : Buf) (v : VecIndex) (bs : List Byte) (s : State), passes h 0x11 (decide (64 ≤ i) || count == 0 || decide (4096 < count)) s = true ∧
    vecOf i s = some v ∧ bufRead h buf (count * (64 + 4 * v.dim)) s = some bs ∧
    (pieces (64 + 4 * v.dim) count bs).all (itemOk v) = true ∧
    hasDup ((pieces (64 + 4 * v.dim) count bs).map fun b => field b 0 8) = false ∧
    (pieces (64 + 4 * v.dim) count bs).foldl (putItem i v) (some ([], idsRead v ((pieces (64 + 4 * v.dim) count bs).map fun b => field b 0 8) (entered h 0x11 s))) = none) ∧
    (∃ (h : Hdr) (i count : Nat) (buf : Buf) (v : VecIndex) (bs : List Byte) (s : State), passes h 0x11 (decide (64 ≤ i) || count == 0 || decide (4096 < count)) s = true ∧
    vecOf i s = some v ∧ bufRead h buf (count * (64 + 4 * v.dim)) s = some bs ∧
    ((pieces (64 + 4 * v.dim) count bs).all (itemOk v) = false ∨ hasDup ((pieces (64 + 4 * v.dim) count bs).map fun b => field b 0 8) = true)) ∧
    (∃ (h : Hdr) (i count : Nat) (s : State), passes h 0x11 (decide (64 ≤ i) || count == 0 || decide (4096 < count)) s = true ∧
    vecOf i s = none) ∧
    (∃ (h : Hdr) (i count : Nat) (s : State), passes h 0x12 (decide (64 ≤ i) || count == 0 || decide (4096 < count)) s = true ∧
    vecOf i s = none) ∧
    (∃ (h : Hdr) (i count : Nat) (buf : Buf) (v : VecIndex) (bs : List Byte) (s : State), passes h 0x12 (decide (64 ≤ i) || count == 0 || decide (4096 < count)) s = true ∧
    vecOf i s = some v ∧ bufRead h buf (count * 8) s = some bs ∧
    (((pieces 8 count bs).map leNat).contains ones64 = true ∨ hasDup ((pieces 8 count bs).map leNat) = true)) ∧
    (∃ (h : Hdr) (i count : Nat) (buf : Buf) (v : VecIndex) (bs : List Byte) (s : State), passes h 0x12 (decide (64 ≤ i) || count == 0 || decide (4096 < count)) s = true ∧
    vecOf i s = some v ∧ bufRead h buf (count * 8) s = some bs ∧ ((pieces 8 count bs).map leNat).contains ones64 = false ∧
    hasDup ((pieces 8 count bs).map leNat) = false) ∧
    (∃ (i : Nat) (j : VecJob) (v : VecIndex) (s : State), serving s = true ∧ headJob i false s = some j ∧ sget s.vecs i = some v ∧
    batchWritten v j s = true) ∧
    (∃ (i : Nat) (s : State), serving s = true ∧
    (headJob i false s = none ∨ ∃ j v, headJob i false s = some j ∧ sget s.vecs i = some v ∧ batchWritten v j s = false)) ∧
    (∃ (i : Nat) (j : VecJob) (v : VecIndex) (s : State), serving s = true ∧ headJob i true s = some j ∧ sget s.vecs i = some v) :=
  ⟨(by
      obtain ⟨⟨l, u⟩, hu⟩ := Option.isSome_iff_exists.mp
        (show ((pieces (64 + 4 * v0.dim) 1 vitem).foldl (putItem 63 v0) (some ([], idsRead v0 ((pieces (64 + 4 * v0.dim) 1 vitem).map fun b => field b 0 8)
          (entered h0 0x11 (vecS v0))))).isSome = true by decide +kernel)
      exact ⟨h0, 63, 1, ⟨0, some vitem⟩, v0, vitem, l, vecS v0, u, by decide, by decide, by decide, by decide, by decide, hu⟩),
    ⟨h0, 63, 1, ⟨0, some vitem⟩, { v0 with maxSlots := 0 }, vitem, vecS { v0 with maxSlots := 0 }, by decide, by decide, by decide,
    by decide, by decide, by decide +kernel⟩,
    ⟨h0, 63, 1, ⟨0, some (leBytes 8 ones64)⟩, v0, leBytes 8 ones64, vecS v0, by decide, by decide, by decide, by decide⟩,
    ⟨h0, 63, 4096, up, by decide, by decide⟩,
    ⟨h0, 63, 4096, up, by decide, by decide⟩,
    ⟨h0, 63, 1, ⟨0, some (leBytes 8 ones64)⟩, v0, leBytes 8 ones64, vecS v0, by decide, by decide, by decide, by decide⟩,
    ⟨h0, 63, 1, ⟨0, some (leBytes 8 1)⟩, v0, leBytes 8 1, vecS v0, by decide, by decide, by decide, by decide, by decide⟩,
    ⟨63, { h := h0, index := 63, edge := 0, del := false }, v0,
    { vecS v0 with vecJobs := [{ h := h0, index := 63, edge := 0, del := false }] }, by decide, by decide, by decide, by decide⟩,
    ⟨63, vecS v0, by decide, .inl (by decide +kernel)⟩,
    ⟨63, { h := h0, index := 63, edge := 0, del := true }, v0,
    { vecS v0 with vecJobs := [{ h := h0, index := 63, edge := 0, del := true }] }, by decide, by decide, by decide⟩⟩

theorem witness_vector_search :
    (∃ (h : Hdr) (query : Buf) (result bytes : Nat) (v : VecIndex) (b c : List Byte) (s : State), passes h 0x10 false s = true ∧
    bufRead h query 64 s = some b ∧ queryOk b = true ∧ 32 + 16 * field b 2 2 ≤ bytes ∧ bufFits h result (32 + 16 * field b 2 2) = true ∧
    vecOf (field b 0 1) s = some v ∧ bufRead h query (64 + 4 * v.dim) s = some c ∧ field c 0 1 = field b 0 1 ∧
    ((pieces 4 v.dim (c.drop 64)).map leNat).any f32NaN = false ∧ (partOf v.part s).queue.length + (vsegs v s).length ≤ 4096) ∧
    (∃ (h : Hdr) (query : Buf) (result bytes : Nat) (v : VecIndex) (b c : List Byte) (s : State), passes h 0x10 false s = true ∧
    s.poison = [] ∧ bufRead h query 64 s = some b ∧ queryOk b = true ∧ 32 + 16 * field b 2 2 ≤ bytes ∧
    bufFits h result (32 + 16 * field b 2 2) = true ∧ vecOf (field b 0 1) s = some v ∧ bufRead h query (64 + 4 * v.dim) s = some c ∧
    ((pieces 4 v.dim (c.drop 64)).map leNat).any f32NaN = false ∧ 4096 < (partOf v.part s).queue.length) ∧
    (∃ (h : Hdr) (query : Buf) (result bytes : Nat) (b : List Byte) (s : State), passes h 0x10 false s = true ∧
    bufRead h query 64 s = some b ∧
    (queryOk b = false ∨ bytes < 32 + 16 * field b 2 2 ∨ bufFits h result (32 + 16 * field b 2 2) = false)) ∧
    (∃ (h : Hdr) (query : Buf) (result bytes : Nat) (b : List Byte) (s : State), passes h 0x10 false s = true ∧
    bufRead h query 64 s = some b ∧ queryOk b = true ∧ 32 + 16 * field b 2 2 ≤ bytes ∧ bufFits h result (32 + 16 * field b 2 2) = true ∧
    vecOf (field b 0 1) s = none) ∧
    (∃ (p : Nat) (r : Running) (q : VecQuery) (x : VecTrav) (v : VecIndex) (s : State), serving s = true ∧ p < 255 ∧
    (partOf p s).running = some r ∧ r.kern.op = 0x000A ∧ r.ofStep = false ∧ r.ran = false ∧ travServed r.kern s = true ∧
    r.kern.ref < compactRef ∧ s.vecQs.find? (·.id == r.kern.ref / 4096) = some q ∧ q.travs.find? (·.seg == r.kern.ref % 4096) = some x ∧
    vecOf q.index s = some v ∧ q.index < 64 ∧ v.home < 4 ∧ v.part < 255 ∧ s.poison = [] ∧
    chUp (gchan (vsegOf v (r.kern.ref % 4096) s).addr) s = true) ∧
    (∃ (p : Nat) (poison : Bool) (r : Running) (q : VecQuery) (x : VecTrav) (v : VecIndex) (s : State), serving s = true ∧
    (partOf p s).running = some r ∧ r.kern.op = 0x000A ∧ r.ofStep = false ∧ r.ran = false ∧ travServed r.kern s = true ∧
    r.kern.ref < compactRef ∧ s.vecQs.find? (·.id == r.kern.ref / 4096) = some q ∧ q.travs.find? (·.seg == r.kern.ref % 4096) = some x ∧
    vecOf q.index s = some v ∧
    (poison = true ∨ segBad v (r.kern.ref % 4096) s = true ∨ chUp (gchan (vsegOf v (r.kern.ref % 4096) s).addr) s = false)) ∧
    (∃ (p : Nat) (r : Running) (s : State), serving s = true ∧ (partOf p s).running = some r ∧ r.kern.op = 0x000A ∧ r.ofStep = false ∧
    r.ran = false ∧ travServed r.kern s = true ∧ compactRef ≤ r.kern.ref) ∧
    (∃ (p : Nat) (r : Running) (s : State), serving s = true ∧ (partOf p s).running = some r ∧
    (r.kern.op ≠ 0x000A ∨ r.ofStep = true ∨ r.ran = true ∨ travServed r.kern s = false)) ∧
    (∃ (id : Nat) (q : VecQuery) (v : VecIndex) (s : State), serving s = true ∧ s.vecQs.find? (·.id == id) = some q ∧
    q.travs.all (·.done) = true ∧ q.scans.all (·.state == 2) = true ∧ sget s.vecs q.index = some v ∧ s.poison = []) ∧
    (∃ (id : Nat) (q : VecQuery) (v : VecIndex) (s : State), serving s = true ∧ s.vecQs.find? (·.id == id) = some q ∧
    q.travs.all (·.done) = true ∧ q.scans.all (·.state == 2) = true ∧ sget s.vecs q.index = some v) ∧
    (∃ (id : Nat) (q : VecQuery) (s : State), serving s = true ∧ s.vecQs.find? (·.id == id) = some q ∧
    (q.travs.all (·.done) = false ∨ q.scans.all (·.state == 2) = false)) ∧
    (∃ (i slot pos : Nat) (rest : List (Nat × Nat)) (v : VecIndex) (s : State), serving s = true ∧ sget s.vecs i = some v ∧
    (partOf v.part s).running = none ∧ stepReady v.part s = none ∧ bestQueued v.part s = none ∧ v.repairs = (slot, pos) :: rest ∧
    segsServed v [(vslotOf v slot s).seg] s = true) ∧
    (∃ (i first count n g a : Nat) (v : VecIndex) (s w u : State), serving s = true ∧ i < 64 ∧ isSet VEC_COMPACT_STATUS.BUSY s = false ∧
    vecOf i s = some v ∧ isSet (VEC_INDEX.COMPACTING i) s = false ∧ count ≠ 0 ∧ count ≤ 64 ∧ first + count ≤ 4096 ∧ v.part < 255 ∧
    (∀ k, k < count → (vsegOf v (k + first) s).state = 1 ∨ (vsegOf v (k + first) s).state = 2) ∧
    w = (((List.range count).map (· + first)).filter fun n => (vsegOf v n s).state == 1).foldl (fun s n => sealSeg v n s) s ∧
    freeSeg v w = some n ∧
    allocIn (vecChanList v v.graphCh) (max 1 ((List.range v.next).filter fun k => ((vslotOf v k w).state == 1 || (vslotOf v k w).state == 2) && ((List.range count).map (· + first)).contains (vslotOf v k w).seg).length * (v.stride + 8 * v.degree)) w = some (g, a, u)) ∧
    (∃ (s : State), serving s = true ∧ isSet VEC_COMPACT_STATUS.BUSY s = true) ∧
    (∃ (i : Nat) (s : State), serving s = true ∧ isSet VEC_COMPACT_STATUS.BUSY s = false ∧ vecOf i s = none) ∧
    (∃ (i : Nat) (v : VecIndex) (s : State), serving s = true ∧ isSet VEC_COMPACT_STATUS.BUSY s = false ∧ vecOf i s = some v ∧
    isSet (VEC_INDEX.COMPACTING i) s = true) ∧
    (∃ (i first count : Nat) (v : VecIndex) (s : State), serving s = true ∧ isSet VEC_COMPACT_STATUS.BUSY s = false ∧
    vecOf i s = some v ∧ isSet (VEC_INDEX.COMPACTING i) s = false ∧
    (count = 0 ∨ 64 < count ∨ 4096 < first + count ∨ ∃ k, k < count ∧ (vsegOf v (k + first) s).state ≠ 1 ∧ (vsegOf v (k + first) s).state ≠ 2)) ∧
    (∃ (i : Nat) (c : VecCompact) (v : VecIndex) (s : State), serving s = true ∧
    s.vecCompacts.find? (fun c => c.index == i && c.publish.isNone) = some c ∧ sget s.vecs i = some v ∧ c.todo = [] ∧
    c.edge < s.cad.edges) ∧
    (∃ (i : Nat) (c : VecCompact) (v : VecIndex) (s : State), serving s = true ∧
    s.vecCompacts.find? (fun c => c.index == i && c.publish.isNone) = some c ∧ sget s.vecs i = some v ∧
    (c.todo ≠ [] ∨ s.cad.edges ≤ c.edge)) ∧
    (∃ (i : Nat) (c : VecCompact) (v : VecIndex) (s : State), serving s = true ∧
    s.vecCompacts.find? (fun c => c.index == i && c.publish.isSome) = some c ∧ sget s.vecs i = some v ∧
    s.vecQs.all (fun q => q.index != i || decide (c.publish.getD 0 ≤ q.q0)) = true) :=
  ⟨⟨h0, ⟨0, some vquery⟩, 0, 48, v0, vquery.take 64, vquery, vecS v0, by decide +kernel, by decide +kernel, by decide +kernel,
    by decide +kernel, by decide +kernel, by decide +kernel, by decide +kernel, by decide +kernel, by decide +kernel, by decide +kernel⟩,
    ⟨h0, ⟨0, some vquery⟩, 0, 48, v0, vquery.take 64, vquery, { vecS v0 with parts := [(0, { queue := List.replicate 4097 (k0 0xA) })] },
    by decide +kernel, by decide +kernel, by decide +kernel, by decide +kernel, by decide +kernel, by decide +kernel, by decide +kernel,
    by decide +kernel, by decide +kernel, by decide +kernel⟩,
    ⟨h0, ⟨0, some vquery⟩, 0, 47, vquery.take 64, vecS v0, by decide, by decide, by decide⟩,
    ⟨h0, ⟨0, some vquery⟩, 0, 48, vquery.take 64, up, by decide, by decide, by decide, by decide, by decide, by decide⟩,
    ⟨0, { ofStep := false, kern := k0 0xA }, vq false, { seg := 0 }, v0, searches, by decide, by decide, by decide, by decide, by decide,
    by decide, by decide, by decide, by decide, by decide, by decide, by decide, by decide, by decide, by decide, by decide⟩,
    ⟨0, true, { ofStep := false, kern := k0 0xA }, vq false, { seg := 0 }, v0, searches, by decide, by decide, by decide, by decide,
    by decide, by decide, by decide, by decide, by decide, by decide, by decide⟩,
    ⟨0, { ofStep := false, kern := compactKern 63 up },
    parted { running := some { ofStep := false, kern := compactKern 63 up } } (vecS v0), by decide, by decide, by decide, by decide,
    by decide, by decide, by decide⟩,
    ⟨0, run0 0xA, parted { running := some (run0 0xA) } (vecS v0), by decide, by decide, .inr (.inl (by decide))⟩,
    ⟨0, vq true, v0, { vecS v0 with vecQs := [vq true] }, by decide, by decide, by decide, by decide, by decide, by decide⟩,
    ⟨0, vq true, v0, { vecS v0 with vecQs := [vq true] }, by decide, by decide, by decide, by decide, by decide⟩,
    ⟨0, vq false, searches, by decide, by decide, by decide⟩,
    ⟨63, 0, 0, [], { v0 with repairs := [(0, 0)] }, vecS { v0 with repairs := [(0, 0)] }, by decide, by decide, by decide, by decide,
    by decide, by decide, by decide⟩,
    (by
      have hw : ∃ w, w = (((List.range 1).map (· + 4095)).filter fun n => (vsegOf v0 n sealed).state == 1).foldl (fun s n => sealSeg v0 n s) sealed := ⟨_, rfl⟩
      obtain ⟨ww, hw⟩ := hw
      obtain ⟨⟨g, a, u⟩, hu⟩ := Option.isSome_iff_exists.mp (show (allocIn (vecChanList v0 v0.graphCh) (max 1
        ((List.range v0.next).filter fun k => ((vslotOf v0 k ww).state == 1 || (vslotOf v0 k ww).state == 2) &&
          ((List.range 1).map (· + 4095)).contains (vslotOf v0 k ww).seg).length * (v0.stride + 8 * v0.degree)) ww).isSome = true by rw [hw]; decide +kernel)
      exact ⟨63, 4095, 1, 1, g, a, v0, sealed, ww, u, by decide, by decide, by decide, by decide, by decide, by decide, by decide, by decide,
    by decide, by decide +kernel, hw, by rw [hw]; decide +kernel, hu⟩),
    ⟨wr VEC_COMPACT_STATUS.BUSY 1 up, by decide, by decide⟩,
    ⟨63, up, by decide, by decide, by decide⟩,
    ⟨63, v0, wr (VEC_INDEX.COMPACTING 63) 1 (vecS v0), by decide, by decide, by decide, by decide⟩,
    ⟨63, 0, 65, v0, vecS v0, by decide, by decide, by decide, by decide, .inr (.inl (by decide))⟩,
    ⟨63, { index := 63, run := [], seg := 0, todo := [] }, v0,
    { vecS v0 with vecCompacts := [{ index := 63, run := [], seg := 0, todo := [] }] }, by decide, by decide, by decide, by decide,
    by decide⟩,
    ⟨63, { index := 63, run := [], seg := 0, todo := [], edge := 1 }, v0,
    { vecS v0 with vecCompacts := [{ index := 63, run := [], seg := 0, todo := [], edge := 1 }] }, by decide, by decide, by decide,
    by decide⟩,
    ⟨63, { index := 63, run := [], seg := 0, todo := [], publish := some 0 }, v0,
    { vecS v0 with vecCompacts := [{ index := 63, run := [], seg := 0, todo := [], publish := some 0 }] }, by decide, by decide,
    by decide, by decide⟩⟩

theorem witness_fabric_ports :
    (∃ (p : Nat) (s : State), serving s = true ∧ p < 16 ∧ portState p s = pDown) ∧
    (∃ (p : Nat) (s : State), serving s = true ∧ p < 16 ∧ portState p s = pUp ∧ (linkOf p s).msgs = []) ∧
    (∃ (p : Nat) (s : State), serving s = true ∧ p < 16 ∧ portState p s = pUp ∧ otherRetrains p s = false) ∧
    (∃ (p : Nat) (s : State), serving s = true ∧ p < 16 ∧ otherRetrains p s = true) ∧
    (∃ (p : Nat) (s : State), serving s = true ∧ p < 16 ∧ portState p s = pUp) ∧
    (∃ (p : Nat) (s : State), serving s = true ∧ p < 16 ∧ portState p s = pRetired) ∧
    (∃ (p lanes neighbour mv ui worst : Nat) (s : State), serving s = true ∧ p < 16 ∧ portState p s = pTraining ∧
    (lanes = 4 ∨ lanes = 8) ∧ (linkOf p s).keys.isSome = true ∧ neighbour < 4096 ∧ mv < 256 ∧ ui < 256 ∧ worst < 8) ∧
    (∃ (p ms : Nat) (s : State), serving s = true ∧ p < 16 ∧ portState p s = pTraining ∧
    ((linkOf p s).fails.filter fun x => decide (ms < x + 10000)).length < 2) ∧
    (∃ (p ms : Nat) (s : State), serving s = true ∧ p < 16 ∧ portState p s = pTraining ∧
    2 ≤ ((linkOf p s).fails.filter fun x => decide (ms < x + 10000)).length) ∧
    (∃ (p : Nat) (s : State), serving s = true ∧ p < 16 ∧ portState p s = pDown ∧ (linkOf p s).retry = true ∧
    isSet (FAB_PORT_CTRL.ENABLE p) s = true) ∧
    (∃ (p : Nat) (s : State), serving s = true ∧ p < 16 ∧ portState p s = pDraining ∧ (linkOf p s).unacked = [] ∧ (linkOf p s).msgs = []) ∧
    (∃ (p : Nat) (s : State), serving s = true ∧ p < 16 ∧ portState p s = pUp ∧ (linkOf p s).msgs = []) ∧
    (∃ (p : Nat) (s : State), serving s = true ∧ p < 16 ∧ portState p s ≠ pDown) ∧
    (∃ (p : Nat) (s : State), serving s = true ∧ p < 16 ∧ portState p s ≠ pDown ∧ portState p s ≠ pRetired) ∧
    (∃ (p : Nat) (s : State), serving s = true ∧ p < 16 ∧ (portState p s = pDown ∨ portState p s = pRetired)) ∧
    (∃ (p : Nat) (s : State), serving s = true ∧ p < 16 ∧ otherRetrains p s = false ∧ portState p s ≠ pUp) ∧
    (∃ (p : Nat) (s : State), serving s = true ∧ portState p s ≠ pUp) ∧
    (∃ (p : Nat) (s : State), serving s = true ∧ portState p s ≠ pRetired) ∧
    (∃ (p : Nat) (s : State), serving s = true ∧ 16 ≤ p) ∧
    (∃ (p : Nat) (s : State), serving s = true ∧ (16 ≤ p ∨ portState p s ≠ pTraining)) ∧
    (∃ (p lanes : Nat) (s : State), serving s = true ∧ p < 16 ∧ portState p s = pTraining ∧
    ((lanes ≠ 4 ∧ lanes ≠ 8) ∨ (linkOf p s).keys = none)) ∧
    (∃ (p : Nat) (s : State), serving s = true ∧
    (portState p s ≠ pDown ∨ (linkOf p s).retry = false ∨ isSet (FAB_PORT_CTRL.ENABLE p) s = false)) ∧
    (∃ (p : Nat) (late : Bool) (s : State), serving s = true ∧ p < 16 ∧ portState p s = pDraining ∧
    (late = true ∨ ((linkOf p s).unacked = [] ∧ (linkOf p s).msgs = []))) ∧
    (∃ (p : Nat) (late : Bool) (s : State), serving s = true ∧
    (portState p s ≠ pDraining ∨ (late = false ∧ ((linkOf p s).unacked ≠ [] ∨ (linkOf p s).msgs ≠ [])))) ∧
    (∃ (p cause : Nat) (s : State), serving s = true ∧ p < 16 ∧ (portState p s = pUp ∨ portState p s = pDraining) ∧
    ((cause = 0 ∧ 8 ≤ (linkOf p s).naks) ∨ (cause = 1 ∧ (linkOf p s).unacked ≠ []) ∨ cause = 2)) ∧
    (∃ (p cause : Nat) (s : State), serving s = true ∧
    ((portState p s ≠ pUp ∧ portState p s ≠ pDraining) ∨ (cause = 0 ∧ (linkOf p s).naks < 8) ∨ (cause = 1 ∧ (linkOf p s).unacked = []) ∨ 2 < cause)) :=
  ⟨⟨15, port pDown link0, by decide, by decide, by decide⟩,
    ⟨15, port pUp link0, by decide, by decide, by decide, by decide⟩,
    ⟨15, port pUp link0, by decide, by decide, by decide, by decide⟩,
    ⟨0, port pDraining { link0 with drain := 1 }, by decide, by decide, by decide⟩,
    ⟨15, port pUp link0, by decide, by decide, by decide⟩,
    ⟨15, port pRetired link0, by decide, by decide, by decide⟩,
    ⟨15, 4, 4095, 255, 255, 7, port pTraining { link0 with keys := some 1 }, by decide, by decide, by decide, by decide, by decide,
    by decide, by decide, by decide, by decide⟩,
    ⟨15, 10001, port pTraining { link0 with fails := [1, 10001] }, by decide, by decide, by decide, by decide⟩,
    ⟨15, 10001, port pTraining { link0 with fails := [2, 10001] }, by decide, by decide, by decide, by decide⟩,
    ⟨15, wr (FAB_PORT_CTRL.ENABLE 15) 1 (port pDown { link0 with retry := true }), by decide, by decide, by decide, by decide, by decide⟩,
    ⟨15, port pDraining link0, by decide, by decide, by decide, by decide, by decide⟩,
    ⟨15, port pUp link0, by decide, by decide, by decide, by decide⟩,
    ⟨15, port pRetired link0, by decide, by decide, by decide⟩,
    ⟨15, port pTraining link0, by decide, by decide, by decide, by decide⟩,
    ⟨15, port pRetired link0, by decide, by decide, by decide⟩,
    ⟨15, port pDown link0, by decide, by decide, by decide, by decide⟩,
    ⟨16, up, by decide, by decide⟩,
    ⟨15, port pDown link0, by decide, by decide⟩,
    ⟨16, up, by decide, by decide⟩,
    ⟨16, up, by decide, by decide⟩,
    ⟨15, 4, port pTraining link0, by decide, by decide, by decide, by decide⟩,
    ⟨15, port pTraining link0, by decide, by decide⟩,
    ⟨15, true, port pDraining { link0 with unacked := [frame0] }, by decide, by decide, by decide, by decide⟩,
    ⟨15, false, port pDraining { link0 with unacked := [frame0] }, by decide, by decide⟩,
    ⟨15, 0, port pUp { link0 with naks := 8 }, by decide, by decide, by decide, by decide⟩,
    ⟨15, 0, port pUp { link0 with naks := 7 }, by decide, by decide⟩⟩

theorem witness_fabric_frames :
    (∃ (p v : Nat) (m : LinkMsg) (f f' : LinkFrame) (rest : List LinkFrame) (s s' : State), serving s = true ∧ p < 16 ∧
    (portState p s = pUp ∨ portState p s = pDraining) ∧ (linkOf p s).resend = none ∧ (linkOf p s).unacked.length < 512 ∧
    pickVc (linkOf p s) = some v ∧ headMsg (linkOf p s) v = some m ∧ m.left = f :: rest ∧ stamp m.unit f s = some (f', s')) ∧
    (∃ (p : Nat) (s : State), serving s = true ∧ p < 16 ∧ portState p s = pUp ∧ pickVc (linkOf p s) = none ∧ (linkOf p s).ackDue ≠ 0) ∧
    (∃ (p : Nat) (bs : List Byte) (s : State), serving s = true ∧ p < 16 ∧ (portState p s = pUp ∨ portState p s = pDraining) ∧
    bs.length = 512 ∧ crc32 (bs.take 508) ≠ field bs 508 4) ∧
    (∃ (p : Nat) (bs : List Byte) (s : State), serving s = true ∧ p < 16 ∧ (portState p s = pUp ∨ portState p s = pDraining) ∧
    bs.length = 512 ∧ crc32 (bs.take 508) = field bs 508 4 ∧ bitsOf (field bs 0 6) 40 32 = 0) ∧
    (∃ (p len vc : Nat) (bs : List Byte) (s u : State) (l : Link), serving s = true ∧ p < 16 ∧
    (portState p s = pUp ∨ portState p s = pDraining) ∧ bs.length = 512 ∧ crc32 (bs.take 508) = field bs 508 4 ∧
    applyAck p (field bs 0 6) s = u ∧ linkOf p u = l ∧ bitsOf (field bs 0 6) 40 32 = len ∧ 0 < len ∧ len ≤ 502 ∧
    bitsOf (field bs 0 6) 31 22 = l.rxSeq ∧ bitsOf (field bs 0 6) 47 45 = vc) ∧
    (∃ (p ed ml : Nat) (s : State), serving s = true ∧ p < 16 ∧ portState p s = pTraining ∧ isSet SEC_ID_STATUS.PUF_OK s = true ∧
    (isSet SEC_CFG.LINK_OPEN s = true ∨ trusted ed ml s = true) ∧ ed ≠ Config.idEd) ∧
    (∃ (domain time r : Nat) (s : State), serving s = true ∧ domain = rd FAB_CFG.CADENCE_DOMAIN s ∧
    isSet SID_STATUS.PERIOD_VALID s = true ∧ s.cad.lastReal = some r ∧ 160 * (time - r) ≤ 512 * periodQ s) ∧
    (∃ (domain : Nat) (s : State), serving s = true ∧ domain = rd FAB_CFG.CADENCE_DOMAIN s ∧ s.cad.lastReal = none) ∧
    (∃ (domain : Nat) (s : State), serving s = true ∧ domain ≠ rd FAB_CFG.CADENCE_DOMAIN s) ∧
    (∃ (port chan c : Nat) (u : TmUnit) (s v : State), serving s = true ∧ port < 18 ∧ isSet (TM_PORT.UP port) s = true ∧
    guaranteedClass port chan (leafHeads port chan s) s = some c ∧ pickLeaf port c (leafHeads port chan s) s = some (u, v)) ∧
    (∃ (port : Nat) (arrivals : List TmUnit) (s : State), serving s = true ∧ port < 18 ∧ isSet (TM_PORT.UP port) s = false ∧
    (arrivals.all fun u => decide (u.cls ≤ 7) && decide (u.fn ≤ 255)) = true) ∧
    (∃ (port cls : Nat) (s : State), live s = true ∧ ideShut s = false ∧ port ≤ 18 ∧ cls ≤ 7) ∧
    (∃ (port cls : Nat) (s : State), live s = true ∧ ideShut s = false ∧ (18 < port ∨ 7 < cls)) ∧
    (∃ (s : State), live s = true ∧ ideShut s = true) ∧
    (∃ (p k : Nat) (f : LinkFrame) (s : State), serving s = true ∧ p < 16 ∧ (portState p s = pUp ∨ portState p s = pDraining) ∧
    (linkOf p s).resend = some k ∧ (linkOf p s).unacked[k]? = some f) ∧
    (∃ (p v : Nat) (m : LinkMsg) (f : LinkFrame) (rest : List LinkFrame) (s : State), serving s = true ∧ p < 16 ∧
    (portState p s = pUp ∨ portState p s = pDraining) ∧ (linkOf p s).resend = none ∧ (linkOf p s).unacked.length < 512 ∧
    pickVc (linkOf p s) = some v ∧ headMsg (linkOf p s) v = some m ∧ m.left = f :: rest ∧ stamp m.unit f s = none) ∧
    (∃ (p : Nat) (s : State), serving s = true ∧ p < 16 ∧ (portState p s = pUp ∨ portState p s = pDraining) ∧
    (linkOf p s).resend = none ∧ (512 ≤ (linkOf p s).unacked.length ∨ pickVc (linkOf p s) = none)) ∧
    (∃ (p : Nat) (mgmt : List TmUnit) (s u : State), serving s = true ∧ p < 16 ∧ (portState p s = pUp ∨ portState p s = pDraining) ∧
    (mgmt.filter fun x => x.vc == 6 || x.vc == 7).foldl (fun s x => linkQueue p x s) s = u) ∧
    (∃ (p : Nat) (s : State), serving s = true ∧ (16 ≤ p ∨ (portState p s ≠ pUp ∧ portState p s ≠ pDraining))) ∧
    (∃ (p : Nat) (s : State), serving s = true ∧ p < 16 ∧ portState p s = pUp ∧ pickVc (linkOf p s) = none ∧ (linkOf p s).nakDue = true) ∧
    (∃ (p : Nat) (s : State), serving s = true ∧
    (portState p s = pDraining ∨ (pickVc (linkOf p s)).isSome = true ∨ ((linkOf p s).ackDue = 0 ∧ (linkOf p s).nakDue = false))) ∧
    (∃ (p : Nat) (bs : List Byte) (s : State), serving s = true ∧ p < 16 ∧ (portState p s = pUp ∨ portState p s = pDraining) ∧
    bs.length ≠ 512) ∧
    (∃ (p : Nat) (bs : List Byte) (s u : State) (l : Link), serving s = true ∧ p < 16 ∧
    (portState p s = pUp ∨ portState p s = pDraining) ∧ bs.length = 512 ∧ crc32 (bs.take 508) = field bs 508 4 ∧
    applyAck p (field bs 0 6) s = u ∧ linkOf p u = l ∧ bitsOf (field bs 0 6) 40 32 ≠ 0 ∧
    (bitsOf (field bs 0 6) 31 22 ≠ l.rxSeq ∨ 502 < bitsOf (field bs 0 6) 40 32)) ∧
    (∃ (p : Nat) (s : State), serving s = true ∧ (16 ≤ p ∨ portState p s ≠ pTraining)) ∧
    (∃ (p ed ms : Nat) (s u : State), serving s = true ∧ p < 16 ∧ portState p s = pTraining ∧
    trainFail p ms (postPf 0x001F 0x16 sAuthFail p (ed % 2 ^ 64) (bump SEC_LINK_FAILS.COUNT 1 s)) = u) ∧
    (∃ (port src domain value rep hops : Nat) (s u : State), serving s = true ∧ domain = rd FAB_CFG.CADENCE_DOMAIN s ∧
    (if s.net.epochSeen.contains (src, value) = true ∨ rd FAB_CFG.EPOCH_HOPS s ≤ hops ∨ rd DIR_SELF.STATE s < 2 then s else ((List.range 16).filter fun q => q != port && portState q s == pUp).foldl (fun s q => sendMsg 0x01 0xFFF [src, domain, value, rep, hops + 1, q] [] s) s) = u) ∧
    (∃ (domain time r : Nat) (s : State), serving s = true ∧ domain = rd FAB_CFG.CADENCE_DOMAIN s ∧ s.cad.lastReal = some r ∧
    (isSet SID_STATUS.PERIOD_VALID s = false ∨ 512 * periodQ s < 160 * (time - r))) ∧
    (∃ (port chan c : Nat) (arrivals : List TmUnit) (x : TmUnit) (s u v : State), serving s = true ∧ port ≤ 18 ∧
    (port = 18 → chan < 96) ∧ (arrivals.all fun x => decide (x.cls ≤ 7) && decide (x.fn ≤ 255)) = true ∧
    arrivals.foldl (tmEnqueue port) s = u ∧
    (if port = 18 then deepServing u != 0 && deepOnline chan u else isSet (TM_PORT.UP port) u) = true ∧
    guaranteedClass port chan (leafHeads port chan u) u = some c ∧ pickLeaf port c (leafHeads port chan u) u = some (x, v)) ∧
    (∃ (port chan c : Nat) (arrivals : List TmUnit) (x : TmUnit) (s u v w : State), serving s = true ∧ port ≤ 18 ∧
    (port = 18 → chan < 96) ∧ (arrivals.all fun x => decide (x.cls ≤ 7) && decide (x.fn ≤ 255)) = true ∧
    arrivals.foldl (tmEnqueue port) s = u ∧
    (if port = 18 then deepServing u != 0 && deepOnline chan u else isSet (TM_PORT.UP port) u) = true ∧
    guaranteedClass port chan (leafHeads port chan u) u = none ∧ excessClass port (leafHeads port chan u) u = some (c, v) ∧
    pickLeaf port c (leafHeads port chan u) v = some (x, w)) ∧
    (∃ (port chan : Nat) (arrivals : List TmUnit) (s u : State), serving s = true ∧ port ≤ 18 ∧ (port = 18 → chan < 96) ∧
    (arrivals.all fun x => decide (x.cls ≤ 7) && decide (x.fn ≤ 255)) = true ∧ arrivals.foldl (tmEnqueue port) s = u ∧
    ((if port = 18 then deepServing u != 0 && deepOnline chan u else isSet (TM_PORT.UP port) u) = false ∨ (guaranteedClass port chan (leafHeads port chan u) u = none ∧ excessClass port (leafHeads port chan u) u = none) ∨ (∃ c, guaranteedClass port chan (leafHeads port chan u) u = some c ∧ pickLeaf port c (leafHeads port chan u) u = none) ∨ (∃ c v, guaranteedClass port chan (leafHeads port chan u) u = none ∧ excessClass port (leafHeads port chan u) u = some (c, v) ∧ pickLeaf port c (leafHeads port chan u) v = none))) ∧
    (∃ (port chan : Nat) (arrivals : List TmUnit) (s : State), serving s = true ∧
    (18 < port ∨ (port = 18 ∧ 96 ≤ chan) ∨ (arrivals.any fun x => decide (7 < x.cls) || decide (255 < x.fn)) = true)) :=
  ⟨⟨15, 0, msg0, frame0, _, [], port pUp { link0 with msgs := [msg0], credits := [1, 0, 0, 0, 0, 0, 0, 0] }, _, by decide, by decide,
    by decide, by decide, by decide, by decide, by decide, by decide, rfl⟩,
    ⟨15, port pUp { link0 with ackDue := 1 }, by decide, by decide, by decide, by decide, by decide⟩,
    ⟨15, List.replicate 508 0#8 ++ leBytes 4 0, port pUp link0, by decide, by decide, by decide, by decide +kernel,
    (by rw [show (List.replicate 508 0#8 ++ leBytes 4 0).take 508 = List.replicate 508 0#8 by decide +kernel, crc_zeros]; decide +kernel)⟩,
    ⟨15, List.replicate 508 0#8 ++ leBytes 4 263941460, port pUp link0, by decide, by decide, by decide, by decide +kernel,
    (by rw [show (List.replicate 508 0#8 ++ leBytes 4 263941460).take 508 = List.replicate 508 0#8 by decide +kernel, crc_zeros]; decide +kernel),
    by decide +kernel⟩,
    ⟨15, 1, 0, ones1 ++ leBytes 4 59480137, port pUp link0, _, _, by decide, by decide, by decide, by decide +kernel,
    (by rw [show (ones1 ++ leBytes 4 59480137).take 508 = ones1 by decide +kernel, crc_one]; decide +kernel), rfl, rfl,
    by decide +kernel, by decide, by decide, by decide +kernel, by decide +kernel⟩,
    ⟨15, Config.idEd + 1, 0, wr SEC_ID_STATUS.PUF_OK 1 (wr SEC_CFG.LINK_OPEN 1 (port pTraining link0)), by decide, by decide, by decide,
    by decide, by decide, Nat.succ_ne_self _⟩,
    ⟨_, 1, 0, wr SID_STATUS.PERIOD_VALID 1 { up with cad.lastReal := some 0, cad.intervals := [100000] }, by decide, rfl, by decide,
    by decide, by decide⟩,
    ⟨_, up, by decide, rfl, by decide⟩,
    ⟨999, up, by decide, by decide⟩,
    (by
      obtain ⟨⟨u, v⟩, hu⟩ := Option.isSome_iff_exists.mp (show (pickLeaf 17 0 (leafHeads 17 0 tmS) tmS).isSome = true by decide)
      exact ⟨17, 0, 0, u, tmS, v, by decide, by decide, by decide, by decide, hu⟩),
    ⟨17, [unit0], up, by decide, by decide, by decide, by decide⟩,
    ⟨18, 7, up, by decide, by decide, by decide, by decide⟩,
    ⟨19, 0, up, by decide, by decide, by decide⟩,
    ⟨wr SEC_CFG.IDE_REQUIRED 1 up, by decide, by decide⟩,
    ⟨15, _, frame0, port pUp { link0 with unacked := [frame0], resend := some 0 }, by decide, by decide, by decide, rfl, by decide⟩,
    ⟨15, 0, { msg0 with left := [{ frame0 with vc := 0 }] }, { frame0 with vc := 0 }, [],
    port pUp { link0 with msgs := [{ msg0 with left := [{ frame0 with vc := 0 }] }], credits := [1, 0, 0, 0, 0, 0, 0, 0] }, by decide,
    by decide, by decide, by decide, by decide, by decide, by decide, by decide, by decide⟩,
    ⟨15, port pDraining link0, by decide, by decide, by decide, by decide, by decide⟩,
    ⟨15, [unit0], port pDraining link0, _, by decide, by decide, by decide, rfl⟩,
    ⟨16, up, by decide, by decide⟩,
    ⟨15, port pUp { link0 with nakDue := true }, by decide, by decide, by decide, by decide, by decide⟩,
    ⟨15, port pUp link0, by decide, by decide⟩,
    ⟨15, [], port pDraining link0, by decide, by decide, by decide, by decide⟩,
    ⟨15, ones1 ++ leBytes 4 59480137, port pUp { link0 with rxSeq := 1 }, _, _, by decide, by decide, by decide, by decide +kernel,
    (by rw [show (ones1 ++ leBytes 4 59480137).take 508 = ones1 by decide +kernel, crc_one]; decide +kernel), rfl, rfl,
    by decide +kernel, .inl (by decide +kernel)⟩,
    ⟨16, up, by decide, by decide⟩,
    ⟨15, 0, 0, port pTraining link0, _, by decide, by decide, by decide, rfl⟩,
    ⟨0, 0, _, 0, 0, 0, up, _, by decide, rfl, rfl⟩,
    ⟨_, 1, 0, { up with cad.lastReal := some 0 }, by decide, rfl, by decide, by decide⟩,
    ⟨17, 0, 0, [], _, tmS, _, _, by decide, by decide, by decide, by decide, rfl, by decide, by decide, rfl⟩,
    ⟨17, 0, 0, [], _, { tmS with net.tmShare := [] }, _, _, _, by decide, by decide, by decide, by decide, rfl, by decide, by decide,
    rfl, rfl⟩,
    ⟨17, 0, [], up, _, by decide, by decide, by decide, by decide, rfl, .inl (by decide)⟩,
    ⟨19, 0, [], up, by decide, by decide⟩⟩

theorem witness_membership :
    (∃ (s : State), serving s = true ∧ rd DIR_SELF.STATE s = 2) ∧
    (∃ (v : Nat) (s : State), serving s = true ∧ 2 ≤ rd DIR_SELF.STATE s ∧ v ≠ s.net.viewId) ∧
    (∃ (number : Nat) (ms : List Nat) (s : State), serving s = true ∧ rd DIR_SELF.STATE s = 2 ∧ rd DIR_VIEW.VIEW s < number ∧
    number < 2 ^ 32 ∧ ms.length < 4096 ∧ ms.contains (rd DIR_SELF.MODULE_ID s) = true ∧
    (s.net.members.all fun m => ms.contains m) = true ∧ s.net.dirPend = []) ∧
    (∃ (v : Nat) (s : State), serving s = true ∧ rd DIR_SELF.STATE s = 2 ∧ v ≠ s.net.viewId) ∧
    (∃ (s : State), serving s = true ∧ (s.net.members.any fun m => !liveMember m s) = true ∧ mayPropose s = true ∧
    (liveStewards s).head? = some (selfId s) ∧ 1 < majority (stewards s.net.members).length) ∧
    (∃ (e who : Nat) (s : State), serving s = true ∧ s.net.lastProp = some (e, who) ∧ e + 4 ≤ s.cad.edges ∧
    mayPropose { s with net.proposal := none } = true ∧ ((liveStewards s).find? fun m => decide (who < m)) = some (selfId s) ∧
    1 < majority (stewards s.net.members).length) ∧
    (∃ (s : State), serving s = true ∧ rd DIR_SELF.STATE s = 2 ∧
    stewardsHeard (s.cad.edges + 1 - rd DIR_TIMING.ISOLATE_TICKS s) s < majority (stewards s.net.members).length ∧ s.net.shards = [] ∧
    s.net.dirWait = []) ∧
    (∃ (s : State), serving s = true ∧ rd DIR_SELF.STATE s = 0 ∧ rd DIR_SELF.MODULE_ID s ≠ 0xFFF) ∧
    (∃ (s : State), serving s = true ∧ rd DIR_SELF.STATE s = 0 ∧ rd DIR_SELF.MODULE_ID s ≠ 0xFFF ∧ s.net.members = [] ∧
    s.net.wasRemoved = false ∧ s.net.dirPend = []) ∧
    (∃ (s : State), serving s = true ∧ rd DIR_SELF.STATE s = 2 ∧ s.net.members = [selfId s]) ∧
    (∃ (s : State), serving s = true ∧ rd DIR_SELF.STATE s = 2 ∧ s.net.members ≠ [selfId s]) ∧
    (∃ (k : Nat) (s : State), serving s = true ∧ leads k s = true ∧ (shardState k s).sent = none) ∧
    (∃ (k : Nat) (s : State), serving s = true ∧ k < 4096 ∧ rd (DIR_SHARD.ROLE k) s = 2 ∧
    (shardState k s).lease + rd DIR_TIMING.LEASE_TICKS s ≤ s.cad.edges ∧ s.net.dirPend = []) ∧
    (∃ (k : Nat) (s : State), serving s = true ∧ k < 4096 ∧ rd DIR_SELF.STATE s = 2 ∧ rd (DIR_SHARD.ROLE k) s = 1 ∧
    (reps k s).contains (selfId s) = true ∧ (shardState k s).cand = none ∧
    (shardState k s).renewed + rd DIR_TIMING.LEASE_TICKS s + rd DIR_TIMING.GUARD_TICKS s ≤ s.cad.edges ∧
    ((shardState k s).yielded = true ∨ (((reps k s).takeWhile (· != selfId s)).all fun m => !liveMember m s) = true)) ∧
    (∃ (k e : Nat) (vs : List Nat) (s : State), serving s = true ∧ (shardState k s).cand = some (e, vs) ∧ e + 8 ≤ s.cad.edges) ∧
    (∃ (s : State), serving s = true ∧ rd DIR_SELF.STATE s ≤ 1) ∧
    (∃ (src : Nat) (s u : State), serving s = true ∧ 3 ≤ rd DIR_SELF.STATE s ∧
    { s with net.heard := sset s.net.heard src s.cad.edges } = u) ∧
    (∃ (v : Nat) (kind : ViewKind) (s : State), serving s = true ∧ 2 ≤ rd DIR_SELF.STATE s ∧ kind ≠ .join ∧ kind ≠ .refuse ∧
    v ≠ s.net.viewId) ∧
    (∃ (src : Nat) (s u : State), serving s = true ∧ (rd DIR_SELF.STATE s = 2 ∨ rd DIR_SELF.STATE s = 4) ∧
    { s with net.heard := sset s.net.heard src s.cad.edges, net.lastProp := some (s.cad.edges, src) } = u) ∧
    (∃ (src : Nat) (p : Proposal) (s u : State), serving s = true ∧ { s with net.heard := sset s.net.heard src s.cad.edges } = u ∧
    s.net.proposal = some p) ∧
    (∃ (src : Nat) (s u : State), serving s = true ∧ { s with net.heard := sset s.net.heard src s.cad.edges } = u) ∧
    (∃ (number : Nat) (ms : List Nat) (s : State), serving s = true ∧ (rd DIR_SELF.STATE s = 2 ∨ rd DIR_SELF.STATE s = 3) ∧
    rd DIR_VIEW.VIEW s < number ∧ ms.contains (rd DIR_SELF.MODULE_ID s) = false) ∧
    (∃ (s : State), serving s = true ∧ rd DIR_SELF.STATE s = 1) ∧
    (∃ (src : Nat) (s u : State), serving s = true ∧ rd DIR_SELF.STATE s = 2 ∧
    { s with net.heard := sset s.net.heard src s.cad.edges } = u) ∧
    (∃ (src : Nat) (s u : State), serving s = true ∧ rd DIR_SELF.STATE s = 2 ∧
    { s with net.heard := sset s.net.heard src s.cad.edges } = u) ∧
    (∃ (src : Nat) (s u : State), serving s = true ∧ { s with net.heard := sset s.net.heard src s.cad.edges } = u) ∧
    (∃ (s : State), serving s = true ∧
    ((s.net.members.any fun m => !liveMember m s) = false ∨ mayPropose s = false ∨ (liveStewards s).head? ≠ some (selfId s))) ∧
    (∃ (s : State), serving s = true ∧ (s.net.members.any fun m => !liveMember m s) = true ∧ mayPropose s = true ∧
    (liveStewards s).head? = some (selfId s)) ∧
    (∃ (s : State), serving s = true ∧ (s.net.lastProp = none ∨ mayPropose { s with net.proposal := none } = false)) ∧
    (∃ (e who : Nat) (s : State), serving s = true ∧ s.net.lastProp = some (e, who)) ∧
    (∃ (s u v : State), serving s = true ∧ rd DIR_SELF.STATE s = 2 ∧
    stewardsHeard (s.cad.edges + 1 - rd DIR_TIMING.ISOLATE_TICKS s) s < majority (stewards s.net.members).length ∧
    ((s.net.shards.map (·.1)).filter fun k => rd (DIR_SHARD.ROLE k) s == 2).foldl (fun s k => stepDown k s) s = u ∧
    event000E 3 sTimeout (wr DIR_SELF.STATE 3 { u with net.isoEdge := u.cad.edges + 1, net.proposal := none }) = v) ∧
    (∃ (s : State), serving s = true ∧
    (rd DIR_SELF.STATE s ≠ 2 ∨ majority (stewards s.net.members).length ≤ stewardsHeard (s.cad.edges + 1 - rd DIR_TIMING.ISOLATE_TICKS s) s)) ∧
    (∃ (s : State), serving s = true ∧ (rd DIR_SELF.STATE s ≠ 0 ∨ rd DIR_SELF.MODULE_ID s = 0xFFF)) ∧
    (∃ (s : State), serving s = true ∧ rd DIR_SELF.STATE s = 0 ∧ rd DIR_SELF.MODULE_ID s ≠ 0xFFF) ∧
    (∃ (s : State), serving s = true ∧ rd DIR_SELF.STATE s ≠ 2) ∧
    (∃ (k : Nat) (s u : State), serving s = true ∧ leads k s = true ∧
    (match (shardState k s).sent with | none => true | some (e, _) => decide (e + rd DIR_TIMING.RENEW_TICKS s ≤ s.cad.edges)) = true ∧
    ((reps k s).filter (· != selfId s)).foldl (fun s m => sendMsg 0x06 m [k, (shardState k s).term, 2, s.cad.edges] [] s) s = u) ∧
    (∃ (k : Nat) (s : State), serving s = true ∧
    (leads k s = false ∨ ∃ e w, (shardState k s).sent = some (e, w) ∧ s.cad.edges < e + rd DIR_TIMING.RENEW_TICKS s)) ∧
    (∃ (s : State), serving s = true) ∧
    (∃ (k : Nat) (s : State), serving s = true ∧
    (rd DIR_SELF.STATE s ≠ 2 ∨ rd (DIR_SHARD.ROLE k) s ≠ 1 ∨ (reps k s).contains (selfId s) = false ∨ (shardState k s).cand ≠ none ∨ s.cad.edges < (shardState k s).renewed + rd DIR_TIMING.LEASE_TICKS s + rd DIR_TIMING.GUARD_TICKS s ∨ ((shardState k s).yielded = false ∧ (((reps k s).takeWhile (· != selfId s)).any fun m => liveMember m s) = true))) ∧
    (∃ (k : Nat) (s : State), serving s = true ∧
    ((shardState k s).cand = none ∨ ∃ e vs, (shardState k s).cand = some (e, vs) ∧ s.cad.edges < e + 8)) :=
  ⟨⟨member [0, 1], by decide, by decide⟩,
    ⟨1, member [0, 1], by decide, by decide, by decide⟩,
    ⟨2 ^ 32 - 1, [0, 1, 2], wr DIR_SELF.MODULE_ID 0 (member [0, 1]), by decide, by decide, by decide, by decide, by decide, by decide,
    by decide, by decide⟩,
    ⟨1, member [0, 1], by decide, by decide, by decide⟩,
    ⟨{ member [0, 1, 2] with cad.edges := 2 ^ 32, net.heard := [(2, 2 ^ 32)] }, by decide, by decide, by decide, by decide, by decide⟩,
    ⟨2 ^ 32 - 4, 0,
    { wr SES_CTRL.MODULE_ID 1 (member [0, 1, 2]) with cad.edges := 2 ^ 32, net.heard := [(0, 2 ^ 32)], net.lastProp := some (2 ^ 32 - 4, 0) },
    by decide, by decide, by decide, by decide, by decide, by decide⟩,
    ⟨{ member [0, 1, 2] with cad.edges := 2 ^ 32 }, by decide, by decide, by decide, by decide, by decide⟩,
    ⟨wr DIR_SELF.MODULE_ID 7 up, by decide, by decide, by decide⟩,
    ⟨wr DIR_SELF.MODULE_ID 7 up, by decide, by decide, by decide, by decide, by decide, by decide⟩,
    ⟨member [0], by decide, by decide, by decide⟩,
    ⟨member [0, 1], by decide, by decide, by decide⟩,
    ⟨4095, wr (DIR_SHARD.ROLE 4095) 2 (member [0]), by decide, by decide, by decide⟩,
    ⟨4095, { wr (DIR_SHARD.ROLE 4095) 2 (member [0]) with cad.edges := 2 ^ 32 }, by decide, by decide, by decide, by decide, by decide⟩,
    ⟨4095, { wr (DIR_SHARD.ROLE 4095) 1 (member [0]) with cad.edges := 2 ^ 32 }, by decide, by decide, by decide, by decide, by decide,
    by decide, by decide, by decide⟩,
    ⟨4095, 0, [0], { member [0] with cad.edges := 8, net.shards := [(4095, { cand := some (0, [0]) })] }, by decide, by decide,
    by decide⟩,
    ⟨wr DIR_SELF.STATE 1 (member [0, 1]), by decide, by decide⟩,
    ⟨1, wr DIR_SELF.STATE 3 (member [0, 1]), _, by decide, by decide, rfl⟩,
    ⟨1, .commit, member [0, 1], by decide, by decide, by decide, by decide, by decide⟩,
    ⟨1, wr DIR_SELF.STATE 4 (member [0, 1]), _, by decide, by decide, rfl⟩,
    ⟨1, { members := [0, 1], number := 1, proposer := 0, accepts := [0], edge := 0 },
    { member [0, 1] with net.proposal := some { members := [0, 1], number := 1, proposer := 0, accepts := [0], edge := 0 } }, _,
    by decide, rfl, by decide⟩,
    ⟨0, member [0, 1], _, by decide, rfl⟩,
    ⟨1, [1], wr DIR_SELF.STATE 3 (member [0, 1]), by decide, by decide, by decide, by decide⟩,
    ⟨wr DIR_SELF.STATE 1 (member [0, 1]), by decide, by decide⟩,
    ⟨2, member [0, 1], _, by decide, by decide, rfl⟩,
    ⟨1, member [0, 1], _, by decide, by decide, rfl⟩,
    ⟨0, up, _, by decide, rfl⟩,
    ⟨member [0], by decide, by decide⟩,
    ⟨{ member [0, 1, 2] with cad.edges := 2 ^ 32, net.heard := [(2, 2 ^ 32)] }, by decide, by decide, by decide, by decide⟩,
    ⟨member [0, 1], by decide, by decide⟩,
    ⟨2 ^ 32 - 4, 0, { member [0, 1] with net.lastProp := some (2 ^ 32 - 4, 0) }, by decide, by decide⟩,
    ⟨{ member [0, 1, 2] with cad.edges := 2 ^ 32 }, _, _, by decide, by decide, by decide, rfl, rfl⟩,
    ⟨up, by decide, by decide⟩,
    ⟨wr DIR_SELF.MODULE_ID 0xFFF up, by decide, by decide⟩,
    ⟨wr DIR_SELF.MODULE_ID 7 up, by decide, by decide, by decide⟩,
    ⟨up, by decide, by decide⟩,
    ⟨4095, wr (DIR_SHARD.ROLE 4095) 2 (member [0]), _, by decide, by decide, by decide, rfl⟩,
    ⟨4096, up, by decide, .inl (by decide)⟩,
    ⟨up, by decide⟩,
    ⟨4096, up, by decide, by decide⟩,
    ⟨4095, up, by decide, .inl (by decide)⟩⟩

theorem witness_directory_requests :
    (∃ (e : DirEntry) (s u : State), serving s = true ∧ leads (entryShard e) s = true ∧ bump DIR_LOOKUPS.COUNT 1 s = u) ∧
    (∃ (src : Nat) (e : DirEntry) (s : State), serving s = true ∧ leads (entryShard e) s = true ∧ src ≠ selfId s ∧
    (replicasOf (entryShard e) s.net.members).length ≤ 1 ∧ s.net.dirPend = [] ∧ s.net.dirEnts.length < rd DIR_STORE.CAPACITY s) ∧
    (∃ (v : Nat) (e : DirEntry) (s : State), serving s = true ∧ leads (entryShard e) s = true ∧
    ((s.net.dirEnts.find? (sameKey e)).map (·.version)).getD 0 ≠ v) ∧
    (∃ (e : DirEntry) (s : State), serving s = true ∧ leads (entryShard e) s = false ∧ rd DIR_SELF.STATE s = 2 ∧
    rd (DIR_SHARD.ROLE (entryShard e)) s = 1 ∧ (shardState (entryShard e) s).leader ≠ 0xFFF ∧
    (shardState (entryShard e) s).leader ≠ selfId s) ∧
    (∃ (src id : Nat) (h : Hdr) (op : Nat) (w : DirWait) (s : State), serving s = true ∧ src ≠ selfId s ∧
    s.net.dirWait.find? (·.id == id) = some w ∧ w.use = .hint h op) ∧
    (∃ (id op : Nat) (h : Hdr) (w : DirWait) (s : State), serving s = true ∧
    (s.net.dirWait.find? fun w => w.id == id && decide (w.limit ≤ s.cad.edges)) = some w ∧ w.use = .hint h op) ∧
    (∃ (k term : Nat) (s : State), serving s = true ∧ k < 4096 ∧ rd DIR_SELF.STATE s = 2 ∧ rd (DIR_SHARD.ROLE k) s = 1 ∧
    (shardState k s).term ≤ term) ∧
    (∃ (src k e : Nat) (vs : List Nat) (s : State), serving s = true ∧ k < 4096 ∧ rd DIR_SELF.STATE s = 2 ∧ rd (DIR_SHARD.ROLE k) s = 1 ∧
    (shardState k s).cand = some (e, vs) ∧ vs.contains src = false ∧ majority (reps k s).length ≤ vs.length + 1) ∧
    (∃ (keyA : Nat) (e : DirEntry) (s : State), serving s = true ∧ findEntry 1 keyA 0 s = some e ∧ e.expire < now s) ∧
    (∃ (e : DirEntry) (s : State), serving s = true ∧ leads (entryShard e) s = true) ∧
    (∃ (g : Nat) (e : DirEntry) (s : State), serving s = true ∧ leads (entryShard e) s = true ∧ s.net.deadTags.contains g = true) ∧
    (∃ (e : DirEntry) (s : State), serving s = true ∧ leads (entryShard e) s = true ∧ s.net.dirEnts.any (sameKey e) = false ∧
    rd DIR_STORE.CAPACITY s ≤ s.net.dirEnts.length) ∧
    (∃ (e : DirEntry) (s : State), serving s = true ∧ leads (entryShard e) s = true) ∧
    (∃ (e : DirEntry) (s : State), serving s = true ∧ leads (entryShard e) s = false) ∧
    (∃ (s : State), serving s = true) ∧
    (∃ (s : State), serving s = true) ∧
    (∃ (src : Nat) (s : State), serving s = true ∧ src ≠ selfId s) ∧
    (∃ (src id : Nat) (h : Hdr) (op : Nat) (w : DirWait) (s : State), serving s = true ∧ src ≠ selfId s ∧
    s.net.dirWait.find? (·.id == id) = some w ∧ w.use = .hint h op) ∧
    (∃ (src id : Nat) (w : DirWait) (s u : State), serving s = true ∧ src ≠ selfId s ∧ s.net.dirWait.find? (·.id == id) = some w ∧
    { s with net.dirWait := s.net.dirWait.filter (·.id != id) } = u) ∧
    (∃ (id i : Nat) (w : DirWait) (s : State), serving s = true ∧
    (s.net.dirWait.find? fun w => w.id == id && decide (w.limit ≤ s.cad.edges)) = some w ∧ w.use = .reconcile i) ∧
    (∃ (id i x g : Nat) (s : State), serving s = true ∧
    ((s.net.dirWait.find? fun w => w.id == id && decide (w.limit ≤ s.cad.edges)) = none ∨ ∃ w, (s.net.dirWait.find? fun w => w.id == id && decide (w.limit ≤ s.cad.edges)) = some w ∧ (w.use = .other ∨ w.use = .adopt i x ∨ w.use = .abandon g))) ∧
    (∃ (k : Nat) (s : State), serving s = true ∧ (4096 ≤ k ∨ rd DIR_SELF.STATE s ≠ 2 ∨ rd (DIR_SHARD.ROLE k) s = 0)) ∧
    (∃ (src k term i : Nat) (s u : State), serving s = true ∧ k < 4096 ∧ rd DIR_SELF.STATE s = 2 ∧ rd (DIR_SHARD.ROLE k) s ≠ 0 ∧
    (shardState k s).term ≤ term ∧
    putShard k { shardState k s with term := term, len := max (shardState k s).len i, renewed := s.cad.edges, leader := src } s = u) ∧
    (∃ (k term : Nat) (s : State), serving s = true ∧ k < 4096 ∧ rd DIR_SELF.STATE s = 2 ∧ rd (DIR_SHARD.ROLE k) s ≠ 0 ∧
    term < (shardState k s).term) ∧
    (∃ (src k i : Nat) (s u : State), serving s = true ∧ k < 4096 ∧ rd DIR_SELF.STATE s = 2 ∧ rd (DIR_SHARD.ROLE k) s ≠ 0 ∧
    ({ s with net.dirPend := s.net.dirPend.map fun p => if p.shard = k ∧ p.index ≤ i ∧ !p.acks.contains src then { p with acks := src :: p.acks } else p }) = u) ∧
    (∃ (k term : Nat) (s u : State), serving s = true ∧ k < 4096 ∧ rd DIR_SELF.STATE s = 2 ∧ rd (DIR_SHARD.ROLE k) s ≠ 0 ∧
    (shardState k s).term ≤ term ∧ (if rd (DIR_SHARD.ROLE k) s = 2 ∧ (shardState k s).term < term then stepDown k s else s) = u) ∧
    (∃ (k : Nat) (s : State), serving s = true ∧ k < 4096 ∧ rd DIR_SELF.STATE s = 2 ∧ rd (DIR_SHARD.ROLE k) s ≠ 0) ∧
    (∃ (k : Nat) (s : State), serving s = true ∧ k < 4096 ∧ rd DIR_SELF.STATE s = 2 ∧ rd (DIR_SHARD.ROLE k) s ≠ 0) ∧
    (∃ (k : Nat) (s : State), serving s = true ∧ k < 4096 ∧ rd DIR_SELF.STATE s = 2 ∧ rd (DIR_SHARD.ROLE k) s ≠ 0) ∧
    (∃ (k : Nat) (es : List DirEntry) (s u : State), serving s = true ∧ k < 4096 ∧ rd DIR_SELF.STATE s = 2 ∧
    rd (DIR_SHARD.ROLE k) s ≠ 0 ∧ { s with net.dirEnts := s.net.dirEnts.filter (fun e => entryShard e != k) ++ es } = u) ∧
    (∃ (keyA : Nat) (s : State), serving s = true ∧ (findEntry 1 keyA 0 s = none ∨ ∃ e, findEntry 1 keyA 0 s = some e ∧ now s ≤ e.expire)) :=
  ⟨⟨de0, leader, _, by decide, by decide, rfl⟩,
    ⟨1, de0, wr DIR_STORE.CAPACITY 1 leader, by decide, by decide, by decide, by decide, by decide, by decide⟩,
    ⟨1, de0, leader, by decide, by decide, by decide⟩,
    ⟨de0, follower 1, by decide, by decide, by decide, by decide, by decide, by decide⟩,
    ⟨1, 4, h0, 7, { id := 4, key := 3, use := .hint h0 7, limit := 5 },
    { up with net.dirWait := [{ id := 4, key := 3, use := .hint h0 7, limit := 5 }] }, by decide, by decide, by decide, by decide⟩,
    ⟨4, 7, h0, { id := 4, key := 3, use := .hint h0 7, limit := 5 },
    { up with net.dirWait := [{ id := 4, key := 3, use := .hint h0 7, limit := 5 }], cad.edges := 5 }, by decide, by decide, by decide⟩,
    ⟨4095, 0, wr (DIR_SHARD.ROLE 4095) 1 (member [0, 1]), by decide, by decide, by decide, by decide, by decide⟩,
    ⟨1, 4095, 0, [0], { wr (DIR_SHARD.ROLE 4095) 1 (member [0, 1, 2]) with net.shards := [(4095, { cand := some (0, [0]) })] },
    by decide, by decide, by decide, by decide, by decide, by decide, by decide⟩,
    ⟨3, de0, wr SID_COUNT.COUNT 1 { up with net.dirEnts := [de0] }, by decide, by decide, by decide⟩,
    ⟨de0, leader, by decide, by decide⟩,
    ⟨1, de0, { leader with net.deadTags := [1] }, by decide, by decide, by decide⟩,
    ⟨de0, leader, by decide, by decide, by decide, by decide⟩,
    ⟨de0, leader, by decide, by decide⟩,
    ⟨de0, follower 1, by decide, by decide⟩,
    ⟨up, by decide⟩,
    ⟨up, by decide⟩,
    ⟨1, up, by decide, by decide⟩,
    ⟨1, 4, h0, 7, { id := 4, key := 3, use := .hint h0 7, limit := 5 },
    { up with net.dirWait := [{ id := 4, key := 3, use := .hint h0 7, limit := 5 }], cad.edges := 5 }, by decide, by decide, by decide,
    by decide⟩,
    ⟨1, 4, { id := 4, key := 3, use := .other, limit := 5 },
    { up with net.dirWait := [{ id := 4, key := 3, use := .other, limit := 5 }], cad.edges := 5 }, _, by decide, by decide, by decide,
    rfl⟩,
    ⟨4, 5, { id := 4, key := 3, use := .reconcile 5, limit := 5 },
    { up with net.dirWait := [{ id := 4, key := 3, use := .reconcile 5, limit := 5 }], cad.edges := 5 }, by decide, by decide, by decide⟩,
    ⟨4, 0, 0, 0, up, by decide, .inl (by decide)⟩,
    ⟨4096, up, by decide, by decide⟩,
    ⟨0, 4095, 0, 0, wr (DIR_SHARD.ROLE 4095) 1 (member [0, 1]), _, by decide, by decide, by decide, by decide, by decide, rfl⟩,
    ⟨4095, 0, { wr (DIR_SHARD.ROLE 4095) 1 (member [0, 1]) with net.shards := [(4095, { term := 1 })] }, by decide, by decide, by decide,
    by decide, by decide⟩,
    ⟨0, 4095, 0, wr (DIR_SHARD.ROLE 4095) 1 (member [0, 1]), _, by decide, by decide, by decide, by decide, rfl⟩,
    ⟨4095, 0, wr (DIR_SHARD.ROLE 4095) 1 (member [0, 1]), _, by decide, by decide, by decide, by decide, by decide, rfl⟩,
    ⟨4095, wr (DIR_SHARD.ROLE 4095) 1 (member [0, 1]), by decide, by decide, by decide, by decide⟩,
    ⟨4095, wr (DIR_SHARD.ROLE 4095) 1 (member [0, 1]), by decide, by decide, by decide, by decide⟩,
    ⟨4095, wr (DIR_SHARD.ROLE 4095) 1 (member [0, 1]), by decide, by decide, by decide, by decide⟩,
    ⟨4095, [], wr (DIR_SHARD.ROLE 4095) 1 (member [0, 1]), _, by decide, by decide, by decide, by decide, rfl⟩,
    ⟨0, up, by decide, .inl (by decide)⟩⟩

theorem witness_peer_messages :
    (∃ (src bonded i : Nat) (d : Desc) (s u : State), serving s = true ∧ hasKey src s = true ∧ s.net.incoming.length < 256 ∧
    freeHead s = some i ∧ takeKeyExt i s = some u ∧ canSupply d.cls bonded u = true) ∧
    (∃ (src : Nat) (s : State), serving s = true ∧ hasKey src s = false) ∧
    (∃ (src tag : Nat) (n : Incoming) (s : State), serving s = true ∧
    (s.net.incoming.find? fun n => n.src == src && n.tag == tag) = some n) ∧
    (∃ (src handle : Nat) (s : State), serving s = true ∧ hasKey src s = true ∧
    ((descOf (hIndex handle) s).handle ≠ handle ∨ (descOf (hIndex handle) s).mirrorModule ≠ src ∨ (sessOf (hIndex handle) s).back = none)) ∧
    (∃ (src id fn op handle : Nat) (args : List Nat) (data : List Byte) (c : HeldCmd) (s : State), serving s = true ∧
    fwdCmd { fn := fn, qp := 64 + src, cmdId := id, barrier := false, fenceDone := false, bondedBuf := false, cplFault := false, fence := 0, handle := handle } op args data s.fresh = some c) ∧
    (∃ (op : Nat) (s : State), serving s = true ∧ (op < 2 ∨ 0x0D < op)) ∧
    (∃ (status : Nat) (s : State), serving s = true ∧ status ≠ sOk) ∧
    (∃ (s : State), serving s = true) ∧
    (∃ (s : State), serving s = true) ∧
    (∃ (id n e : Nat) (s : State), serving s = true ∧ sgetD s.net.dropTries id (0, 0) = (n, e) ∧ n < 8) ∧
    (∃ (s : State), serving s = true) ∧
    (∃ (s : State), serving s = true) ∧
    (∃ (src handle : Nat) (m : Mirror) (s : State), serving s = true ∧
    (s.net.mirrors.find? fun m => m.src == src && m.handle == handle && m.got == m.total && decide (m.news + rd DIR_MIRROR.MIRROR_AUDIT_TICKS s ≤ s.cad.edges)) = some m) ∧
    (∃ (s : State), serving s = true) ∧
    (∃ (p : Nat) (recvs : List (Nat × Nat × Nat)) (moves : List CollMove) (s : State), serving s = true ∧ runsOp p 0x000D s = true ∧
    (recvs.all fun r => (curRanks p s).contains r.2.1) = true ∧ (moves.all fun m => (curRanks p s).contains m.array) = true) ∧
    (∃ (src deep i : Nat) (ks : List Nat) (s u v : State), serving s = true ∧ hasKey src s = true ∧ s.net.incoming.length < 256 ∧
    freeHead s = some i ∧ takeKeyExt i s = some u ∧ allocDeep deep (parkBase u) deepChunks u = some (ks, v)) ∧
    (∃ (src : Nat) (s : State), serving s = true ∧ hasKey src s = true ∧ 256 ≤ s.net.incoming.length) ∧
    (∃ (src : Nat) (s : State), serving s = true ∧ hasKey src s = true ∧ s.net.incoming.length < 256 ∧ freeHead s = none) ∧
    (∃ (src i : Nat) (s : State), serving s = true ∧ hasKey src s = true ∧ s.net.incoming.length < 256 ∧ freeHead s = some i) ∧
    (∃ (table bytes a g : Nat) (m : EmbTable) (s : State), serving s = true ∧ s.net.incoming.length < 256 ∧
    sget s.embTabs table = some m ∧
    (leastFilled ((tileChans m.home).filter fun g => chProtectedOk g s) (fun g => (placeIn g bytes 64 s).isSome) s) = some g ∧
    placeIn g bytes 64 s = some a) ∧
    (∃ (s : State), serving s = true) ∧
    (∃ (src tag : Nat) (n : Incoming) (s : State), serving s = true ∧
    (s.net.incoming.find? fun n => n.src == src && n.tag == tag) = some n) ∧
    (∃ (src tag : Nat) (s : State), serving s = true ∧ (s.net.incoming.find? fun n => n.src == src && n.tag == tag) = none) ∧
    (∃ (s : State), serving s = true) ∧
    (∃ (s : State), serving s = true) ∧
    (∃ (s : State), serving s = true) ∧
    (∃ (id n e : Nat) (s u : State), serving s = true ∧ sgetD s.net.dropTries id (0, 0) = (n, e) ∧ 8 ≤ n ∧
    { bump FAB_DROP_NOTICES.COUNT 1 s with net.dropTries := sdel s.net.dropTries id } = u) ∧
    (∃ (s u : State), serving s = true ∧ bump FAB_DROP_NOTICES.COUNT 1 s = u) ∧
    (∃ (s : State), serving s = true) ∧
    (∃ (src handle : Nat) (s : State), serving s = true ∧ (descOf (hIndex handle) s).handle = handle ∧
    (descOf (hIndex handle) s).mirrorModule = src ∧ (sessOf (hIndex handle) s).back.isSome = true) ∧
    (∃ (src handle kind : Nat) (s : State), serving s = true ∧
    (kind = 3 ∧ ((descOf (hIndex handle) s).handle ≠ handle ∨ (descOf (hIndex handle) s).mirrorModule ≠ src ∨ (sessOf (hIndex handle) s).back = none) ∨ 4 < kind)) ∧
    (∃ (s : State), serving s = true) ∧
    (∃ (src handle : Nat) (s : State), serving s = true ∧
    (s.net.mirrors.find? fun m => m.src == src && m.handle == handle && m.got == m.total && decide (m.news + rd DIR_MIRROR.MIRROR_AUDIT_TICKS s ≤ s.cad.edges)) = none) ∧
    (∃ (p : Nat) (recvs : List (Nat × Nat × Nat)) (moves : List CollMove) (s : State), serving s = true ∧
    (runsOp p 0x000D s = false ∨ (recvs.all fun r => (curRanks p s).contains r.2.1) = false ∨ (moves.all fun m => (curRanks p s).contains m.array) = false)) :=
  ⟨⟨2, 0, 0, d5 stReady, takes, _, by decide, by decide, by decide, by decide, rfl, by decide⟩,
    ⟨2, up, by decide, by decide⟩,
    ⟨2, 9, { src := 2, tag := 9, idx := 5, handle := 0, d := d5 stReady },
    { up with net.incoming := [{ src := 2, tag := 9, idx := 5, handle := 0, d := d5 stReady }] }, by decide, by decide⟩,
    ⟨2, mkHandle 0 5 7, keyed up, by decide, by decide, .inr (.inl (by decide))⟩,
    ⟨2, 0, 0, 0x0D, 0, [], [], _, up, by decide, rfl⟩,
    ⟨0x0E, up, by decide, by decide⟩,
    ⟨sBusy, up, by decide, by decide⟩,
    ⟨up, by decide⟩,
    ⟨up, by decide⟩,
    ⟨3, 7, 0, { up with net.dropTries := [(3, (7, 0))] }, by decide, by decide, by decide⟩,
    ⟨up, by decide⟩,
    ⟨up, by decide⟩,
    ⟨2, 1, { src := 2, handle := 1, nonce := 1, d := d5 stDeep, x := {}, key := 1, chunks := [], total := 0, news := 0 },
    { up with net.mirrors := [{ src := 2, handle := 1, nonce := 1, d := d5 stDeep, x := {}, key := 1, chunks := [], total := 0, news := 0 }], cad.edges := 2 ^ 32 },
    by decide, by decide⟩,
    ⟨up, by decide⟩,
    ⟨0, [(0, 0, 0)], [{ array := 0, off := 0, len := 0, srcs := [], reduce := false }], runs 0xD r0 up, by decide, by decide, by decide,
    by decide⟩,
    (by
      obtain ⟨⟨ks, v⟩, hv⟩ := Option.isSome_iff_exists.mp
        (one_chunk (parkBase takes) deepChunks takes (by decide) (by decide) (by decide) (by decide +kernel))
      exact ⟨2, 1, 0, ks, takes, takes, v, by decide, by decide, by decide, by decide, by decide, hv⟩),
    ⟨2, { keyed up with net.incoming := List.replicate 256 { src := 2, tag := 9, idx := 5, handle := 0, d := d5 stReady } },
    by decide +kernel, by decide +kernel, by decide +kernel⟩,
    ⟨2, { keyed up with freeNext := slots }, by decide, by decide, by decide, by decide⟩,
    ⟨2, 0, keyed up, by decide, by decide, by decide, by decide⟩,
    (by
      obtain ⟨a, ha⟩ := Option.isSome_iff_exists.mp (show (placeIn 1 0 64 { tiled with embTabs := [(0, emb0)] }).isSome = true by decide +kernel)
      exact ⟨0, 0, a, 1, emb0, { tiled with embTabs := [(0, emb0)] }, by decide, by decide, by decide, by decide +kernel, ha⟩),
    ⟨up, by decide⟩,
    ⟨2, 9, { src := 2, tag := 9, idx := 5, handle := 0, d := d5 stReady },
    { up with net.incoming := [{ src := 2, tag := 9, idx := 5, handle := 0, d := d5 stReady }] }, by decide, by decide⟩,
    ⟨0, 0, up, by decide, by decide⟩,
    ⟨up, by decide⟩,
    ⟨up, by decide⟩,
    ⟨up, by decide⟩,
    ⟨3, 8, 0, { up with net.dropTries := [(3, (8, 0))] }, _, by decide, by decide, by decide, rfl⟩,
    ⟨up, _, by decide, rfl⟩,
    ⟨up, by decide⟩,
    ⟨2, mkHandle 0 5 7, sesX { d5 stDeep with mirrorModule := 2 } { back := some 0 }, by decide, by decide, by decide, by decide⟩,
    ⟨0, 0, 5, up, by decide, by decide⟩,
    ⟨up, by decide⟩,
    ⟨0, 0, up, by decide, by decide⟩,
    ⟨0, [], [], up, by decide, by decide⟩⟩

theorem witness_checkpoints :
    (∃ (h : Hdr) (a : Nat) (c : Ckpt) (s u : State), passes h 0x41 false s = true ∧ entered h 0x41 s = u ∧ s.ckpt = none ∧
    readCkpt a u = .ok c) ∧
    (∃ (h : Hdr) (a : Nat) (c : Ckpt) (s u : State), passes h 0x41 false s = true ∧ entered h 0x41 s = u ∧ s.ckpt = none ∧
    readCkpt a u = .ok c ∧ c.parts = [] ∧ c.op = 0) ∧
    (∃ (e : EphEntry) (c : Ckpt) (s : State), serving s = true ∧ s.ckpt = none ∧ readCkpt e.opA s = .ok c) ∧
    (∃ (s : State), serving s = true ∧ s.ckpt.isSome = true) ∧
    (∃ (c : Ckpt) (s : State), serving s = true ∧ s.ckpt = some c ∧ c.phase = 2) ∧
    (∃ (ks : List Nat) (c : Ckpt) (s u : State), serving s = true ∧ s.ckpt = some c ∧ c.phase = 3 ∧ c.mirrorOn = false ∧
    c.requester = none ∧ c.eph = none ∧ ckptTakeChunks (ckptChunks c.ranges.length (packedBytes c.data)) s = some (ks, u)) ∧
    (∃ (c : Ckpt) (s : State), serving s = true ∧ s.ckpt = some c ∧ c.phase = 4) ∧
    (∃ (c : Ckpt) (m : CkptImage) (s : State), serving s = true ∧ s.ckpt = some c ∧ c.phase = 5 ∧ c.remote = false ∧
    ckptImageOf c s = some m ∧ m.ranges = c.ranges ∧ m.lost = [] ∧ c.requester = none ∧ c.eph = none) ∧
    (∃ (c : Ckpt) (s : State), serving s = true ∧ s.ckpt = some c ∧ c.phase = 5 ∧ c.remote = false ∧ ckptImageOf c s = none) ∧
    (∃ (h : Hdr) (s : State), cmdRuns h s = true ∧ intakeFails h 0x41 false s = true) ∧
    (∃ (h : Hdr) (s : State), passes h 0x41 false s = true ∧ s.ckpt.isSome = true) ∧
    (∃ (h : Hdr) (a st : Nat) (s u : State), passes h 0x41 false s = true ∧ entered h 0x41 s = u ∧ s.ckpt = none ∧
    readCkpt a u = .error st) ∧
    (∃ (st : Nat) (e : EphEntry) (s : State), serving s = true ∧ s.ckpt = none ∧ readCkpt e.opA s = .error st) ∧
    (∃ (c : Ckpt) (s u : State), serving s = true ∧ s.ckpt = some c ∧ c.phase = 2 ∧
    ckptPhase 3 { c with data := c.ranges.map (fun r => memRead s r.1 r.2), heldW := [] } (makeHeld c ((stagedAt c.ranges).foldl (fun s r => copyMem r.1.1 r.2 r.1.2 s) s)) = u) ∧
    (∃ (s : State), serving s = true) ∧
    (∃ (c : Ckpt) (s : State), serving s = true ∧ s.ckpt = some c ∧ c.phase = 3 ∧
    ckptTakeChunks (ckptChunks c.ranges.length (packedBytes c.data)) s = none) ∧
    (∃ (ms : Nat) (ks : List Nat) (c : Ckpt) (m : CkptImage) (s u v w x : State), serving s = true ∧ s.ckpt = some c ∧ c.phase = 3 ∧
    ckptTakeChunks (ckptChunks c.ranges.length (packedBytes c.data)) s = some (ks, u) ∧
    { module := selfId u, id := c.id, tick := c.tick, jobKey := c.jobKey, ranges := c.ranges, data := c.data, chunks := ks, durable := true, lost := packLost c.ranges u, nonce := Config.random u.fresh % 2 ^ 64, key := ((sget u.net.pairs (c.jobKey % 128 * 4096 + c.mirror)).map (·.tx)).getD (Config.random (u.fresh + 1)) : CkptImage } = m ∧
    freeStaging c (packReads c.ranges (ckptKeep m { u with fresh := u.fresh + 2 })) = v ∧
    (if c.durFence = 0xFFFF then v else signalFence c.durFence 1 1 v) = w ∧
    ckptTell sOk (packedBytes c.data) c (ckptEvent 2 sOk c (bump REL_CKPT_DONE.COUNT 1 (wr REL_CKPT_TIMES.DURABLE_MS (min ms (2 ^ 32 - 1)) w))) = x) ∧
    (∃ (c : Ckpt) (far : Option (List (Nat × Nat) × List (List Byte))) (s : State), serving s = true ∧ s.ckpt = some c ∧ c.phase = 5 ∧
    ((if c.remote then far.map (·.1) else (ckptImageOf c s).map (·.ranges)) ≠ some c.ranges)) ∧
    (∃ (c : Ckpt) (bad lost : List Nat) (data : List (List Byte)) (far : Option (List (Nat × Nat) × List (List Byte))) (ks good : List (Nat × Nat × List Byte)) (st : Nat) (s u : State), serving s = true ∧
    s.ckpt = some c ∧ c.phase = 5 ∧
    (if c.remote then far.map fun f => (f.1, f.2, ([] : List Nat)) else (ckptImageOf c s).map fun m => (m.ranges, m.data, m.lost)) = some (c.ranges, data, lost) ∧
    (List.range (blockPlaces c.ranges data).length).zip (blockPlaces c.ranges data) = ks ∧
    (ks.filter fun k => !(bad.contains k.1 || lost.contains k.1)) = good ∧ (if ks.length - good.length = 0 then sOk else sPartial) = st ∧
    good.foldl (fun s k => memWrite k.2.1 k.2.2 s) (if c.remote then s else badBlocks bad c s) = u) :=
  ⟨⟨h0, 0, ck 0 1, ckpts, entered h0 0x41 ckpts, by decide, rfl, by decide, ckpt_entered⟩,
    ⟨h0, 0, ck 0 1, ckpts, entered h0 0x41 ckpts, by decide, rfl, by decide, ckpt_entered, by decide, by decide⟩,
    ⟨e0, ck 0 1, ckpts, by decide, by decide, ckpt_read⟩,
    ⟨ckS 0 1, by decide, by decide⟩,
    ⟨ck 0 2, ckS 0 2, by decide, by decide, by decide⟩,
    (by
      obtain ⟨⟨ks, u⟩, hu⟩ := Option.isSome_iff_exists.mp
        (show (ckptTakeChunks (ckptChunks 1 (packedBytes [])) (ckS 0 3)).isSome = true by decide +kernel)
      exact ⟨ks, ck 0 3, ckS 0 3, u, by decide, by decide, by decide, by decide, by decide, by decide, hu⟩),
    ⟨ck 0 4, ckS 0 4, by decide, by decide, by decide⟩,
    ⟨ck 1 5, { module := 0, id := 4, tick := 0, jobKey := 0, ranges := [(0x9000_0000, 64)], data := [], chunks := [], durable := true },
    { ckS 1 5 with ckptImages := [{ module := 0, id := 4, tick := 0, jobKey := 0, ranges := [(0x9000_0000, 64)], data := [], chunks := [], durable := true }] },
    by decide, by decide, by decide, by decide, by decide, by decide, by decide, by decide, by decide⟩,
    ⟨ck 1 5, ckS 1 5, by decide, by decide, by decide, by decide, by decide⟩,
    ⟨{ h0 with fence := 1 }, up, by decide, by decide⟩,
    ⟨h0, ckS 0 1, by decide, by decide⟩,
    ⟨h0, 1, sRejected, up, _, by decide, rfl, by decide, rfl⟩,
    ⟨sRejected, { e0 with opA := 1 }, up, by decide, by decide, by rfl⟩,
    ⟨ck 0 2, ckS 0 2, _, by decide, by decide, by decide, rfl⟩,
    ⟨up, by decide⟩,
    ⟨ck 0 3, { up with ckpt := some (ck 0 3) }, by decide, by decide, by decide, by decide⟩,
    (by
      obtain ⟨⟨ks, u⟩, hu⟩ := Option.isSome_iff_exists.mp
        (show (ckptTakeChunks (ckptChunks 1 (packedBytes [])) (ckS 0 3)).isSome = true by decide +kernel)
      exact ⟨0, ks, ck 0 3, _, ckS 0 3, u, _, _, _, by decide, by decide, by decide, hu, rfl, rfl, rfl, rfl⟩),
    ⟨ck 1 5, none, ckS 1 5, by decide, by decide, by decide, by decide⟩,
    ⟨ck 1 5, [], [], [], none, _, _, _,
    { ckS 1 5 with ckptImages := [{ module := 0, id := 4, tick := 0, jobKey := 0, ranges := [(0x9000_0000, 64)], data := [], chunks := [], durable := true }] },
    _, by decide, by decide, by decide, by decide, rfl, rfl, rfl, rfl⟩⟩

set_option maxRecDepth 20000 in
theorem witness_almanac_generations :
    (∃ (s : State), live s = true ∧ ideShut s = false ∧ reachable s = true ∧ stageState s ≠ stEmpty ∧ stageState s ≠ stOpen) ∧
    (∃ (s : State), live s = true ∧ ideShut s = false ∧ reachable s = true ∧ (stageState s = stEmpty ∨ stageState s = stOpen)) ∧
    (∃ (sigOk : Bool) (im : List Byte) (s : State), serving s = true ∧ stageState s = stEmpty ∧
    isSet HUB_DOMAIN_STATUS.MGT_RUNNING s = true ∧
    memRead s (rd ALM_STAGE_ADDR.ADDR s * 64) (min (field (memRead s (rd ALM_STAGE_ADDR.ADDR s * 64) 0x40) 0x14 4) (1280 * 0x10_0000)) = im ∧
    imageFails im sigOk s = none) ∧
    (∃ (sigOk : Bool) (im : List Byte) (st check sect : Nat) (s : State), serving s = true ∧ stageState s = stEmpty ∧
    isSet HUB_DOMAIN_STATUS.MGT_RUNNING s = true ∧
    memRead s (rd ALM_STAGE_ADDR.ADDR s * 64) (min (field (memRead s (rd ALM_STAGE_ADDR.ADDR s * 64) 0x40) 0x14 4) (1280 * 0x10_0000)) = im ∧
    imageFails im sigOk s = some (st, check, sect) ∧ st ≠ sAuthFail) ∧
    (∃ (s : State), serving s = true ∧ stageState s = stOpen ∧ rd ALM_COMMITTED.GEN s < rd ALM_STAGE_GEN.GEN s ∧
    ((changedRegions s).any fun r => !editsOk r s) = false ∧ crossBad (changed · s) s = []) ∧
    (∃ (s : State), serving s = true ∧ stageState s ≠ 2 ∧ stageState s ≠ 4) ∧
    (∃ (s : State), serving s = true ∧ stageState s = stStaged ∧ isSet ALM_STAGE_STATUS.DIRTY s = false) ∧
    (∃ (r st : Nat) (e : EphEntry) (s : State), serving s = true ∧ stageState s = stStaged ∧ e.opA = rd ALM_STAGE_STATUS.GEN s ∧
    e.target = 0xFFFF ∧ applyFails (changedRegions s) s = some (r, st)) ∧
    (∃ (e : EphEntry) (s : State), serving s = true ∧ stageState s = stStaged ∧ e.opA = rd ALM_STAGE_STATUS.GEN s ∧ e.target = 0xFFFF ∧
    applyFails (changedRegions s) s = none) ∧
    (∃ (i : Nat) (s : State), serving s = true ∧ i < 64 ∧ isSet (ALM_REGION.COMPLETING (0x120 + i)) s = true) ∧
    (∃ (off : Nat) (s : State), live s = true ∧ ideShut s = false ∧ reachable s = true ∧ off % 8 = 0 ∧ off < 0x1000_0000) ∧
    (∃ (off : Nat) (s : State), live s = true ∧ ideShut s = false ∧ (reachable s = false ∨ off % 8 ≠ 0 ∨ 0x1000_0000 ≤ off)) ∧
    (∃ (s : State), live s = true ∧ ideShut s = true) ∧
    (∃ (s : State), serving s = true ∧ (stageState s ≠ stEmpty ∨ isSet HUB_DOMAIN_STATUS.MGT_RUNNING s = false)) ∧
    (∃ (sigOk : Bool) (im : List Byte) (check sect : Nat) (s : State), serving s = true ∧ stageState s = stEmpty ∧
    isSet HUB_DOMAIN_STATUS.MGT_RUNNING s = true ∧
    memRead s (rd ALM_STAGE_ADDR.ADDR s * 64) (min (field (memRead s (rd ALM_STAGE_ADDR.ADDR s * 64) 0x40) 0x14 4) (1280 * 0x10_0000)) = im ∧
    imageFails im sigOk s = some (sAuthFail, check, sect)) ∧
    (∃ (s : State), serving s = true) ∧
    (∃ (s : State), serving s = true ∧ (stageState s = 2 ∨ stageState s = 4)) ∧
    (∃ (s : State), serving s = true ∧ (stageState s ≠ stStaged ∨ isSet ALM_STAGE_STATUS.DIRTY s = true)) ∧
    (∃ (e : EphEntry) (s : State), serving s = true ∧
    (stageState s ≠ stStaged ∨ e.opA ≠ rd ALM_STAGE_STATUS.GEN s ∨ (e.target ≠ 0xFFFF ∧ (regions.contains e.target = false ∨ changed e.target s = false ∨ isSet (ALM_REGION.INDEPENDENT e.target) s = false)))) ∧
    (∃ (e : EphEntry) (rs : List Nat) (s : State), serving s = true ∧ stageState s = stStaged ∧ e.opA = rd ALM_STAGE_STATUS.GEN s ∧
    (e.target ≠ 0xFFFF → regions.contains e.target = true ∧ changed e.target s = true ∧ isSet (ALM_REGION.INDEPENDENT e.target) s = true) ∧
    (if e.target = 0xFFFF then changedRegions s else [e.target]) = rs) ∧
    (∃ (r : Nat) (s : State), serving s = true ∧ isSet (ALM_REGION.COMPLETING r) s = false) ∧
    (∃ (p : Nat) (s u : State), serving s = true ∧ p < 0xFF ∧ isSet (ALM_REGION.COMPLETING (0x10 + p)) s = true ∧
    wr (ALM_REGION.COMPLETING (0x10 + p)) 0 s = u) ∧
    (∃ (k : Nat) (s : State), serving s = true ∧ k < 16 ∧ isSet (ALM_REGION.COMPLETING (0x110 + k)) s = true) ∧
    (∃ (r : Nat) (s u : State), serving s = true ∧ (r < 0x10 ∨ r = 0x10F ∨ 0x160 ≤ r) ∧ isSet (ALM_REGION.COMPLETING r) s = true ∧
    wr (ALM_REGION.COMPLETING r) 0 s = u) :=
  ⟨⟨wr ALM_STAGE_STATUS.STAGE_STATE stStaged up, by decide, by decide, by decide, by decide, by decide⟩,
    ⟨wr ALM_STAGE_STATUS.STAGE_STATE stOpen up, by decide, by decide, by decide, by decide⟩,
    ⟨true, image0, imaged, by decide, by decide, by decide, rfl, image0_passes⟩,
    ⟨false, _, sRejected, 2, 0xFFF, managed, by decide, by decide, by decide, rfl, by decide, by decide⟩,
    ⟨wr ALM_STAGE_STATUS.STAGE_STATE stOpen (wr ALM_STAGE_GEN.GEN 1 up), by decide, by decide, by decide, by decide +kernel,
    by decide +kernel⟩,
    ⟨up, by decide, by decide, by decide⟩,
    ⟨wr ALM_STAGE_STATUS.STAGE_STATE stStaged up, by decide, by decide, by decide⟩,
    ⟨0x110, sBusy, { e0 with target := 0xFFFF },
    wr ALM_STAGE_STATUS.STAGE_STATE stStaged (wr (ALM_REGION.CHANGED 0x110) 1 { up with adm.stage := [(0x110, [1#8])], models := [(0, {})] }),
    by decide, by decide, by decide, by decide, by decide +kernel⟩,
    ⟨{ e0 with target := 0xFFFF }, wr ALM_STAGE_STATUS.STAGE_STATE stStaged up, by decide, by decide, by decide, by decide,
    by decide +kernel⟩,
    ⟨63, wr (ALM_REGION.COMPLETING 0x15F) 1 up, by decide, by decide, by decide⟩,
    ⟨0x0FFF_FFF8, up, by decide, by decide, by decide, by decide, by decide⟩,
    ⟨0x1000_0000, up, by decide, by decide, by decide⟩,
    ⟨wr SEC_CFG.IDE_REQUIRED 1 up, by decide, by decide⟩,
    ⟨up, by decide, by decide⟩,
    ⟨false, image0, 3, 0xFFF, imaged, by decide, by decide, by decide, rfl, image0_unsigned⟩,
    ⟨up, by decide⟩,
    ⟨wr ALM_STAGE_STATUS.STAGE_STATE 4 up, by decide, by decide⟩,
    ⟨up, by decide, by decide⟩,
    ⟨e0, up, by decide, by decide⟩,
    ⟨{ e0 with target := 0xFFFF }, _, wr ALM_STAGE_STATUS.STAGE_STATE stStaged up, by decide, by decide, by decide,
    fun h => absurd rfl h, rfl⟩,
    ⟨0, up, by decide, by decide⟩,
    ⟨254, wr (ALM_REGION.COMPLETING (0x10 + 254)) 1 up, _, by decide, by decide, by decide, rfl⟩,
    ⟨15, wr (ALM_REGION.COMPLETING 0x11F) 1 up, by decide, by decide, by decide⟩,
    ⟨0x10F, wr (ALM_REGION.COMPLETING 0x10F) 1 up, _, by decide, by decide, by decide, rfl⟩⟩

set_option maxRecDepth 20000 in
theorem witness_firmware_and_models :
    (∃ (svn : Nat) (s : State), serving s = true ∧ isSet ALM_FW_STATUS.BUSY s = false ∧ fwBusy s = false ∧ s.adm.pldmPhase = 0 ∧
    (fwActive s).svn ≤ svn % 2 ^ 16) ∧
    (∃ (s : State), serving s = true ∧ isSet ALM_FW_STATUS.BUSY s = false ∧ fwBusy s = false ∧ s.adm.pldmPhase = 0) ∧
    (∃ (s : State), serving s = true ∧ isSet ALM_FW_STATUS.BUSY s = false ∧ fwBusy s = false ∧ (fwOther s).st = 3) ∧
    (∃ (s : State), serving s = true ∧ isSet ALM_FW_STATUS.BUSY s = false ∧ fwBusy s = false ∧ (fwOther s).st = 3) ∧
    (∃ (s : State), serving s = true ∧ isSet ALM_FW_STATUS.BUSY s = false ∧ fwBusy s = false ∧ s.adm.pldmPhase = 0) ∧
    (∃ (h : Hdr) (slot tokSet vocab recordAddr : Nat) (x : Manifest) (as : List Alloc) (ks : List Nat) (s u v w : State), passes h 0x30 false s = true ∧
    entered h 0x30 s = u ∧ slot ≤ 15 ∧ 256 ≤ vocab ∧ vocab ≤ 262144 ∧ isSet (HIF_MODEL.BOUND slot) s = false ∧ x.sigOk = true ∧
    isSet SEC_ID_STATUS.OWNER_OK s = true ∧ recordAddr + (attnRecord recordAddr s).length ≤ bondedEnd ∧
    attnRecordOk slot (attnRecord recordAddr s) s = true ∧ bindTokOk tokSet vocab s = true ∧ modelParts slot s ≠ [] ∧
    reserveWeights x u = some (as, v) ∧ reserveCopy (copyReserve x.blocks.length) v = some (ks, w) ∧ rd DIR_SELF.STATE w ≠ 2) ∧
    (∃ (h : Hdr) (slot : Nat) (s : State), passes h 0x30 false s = true ∧ slot ≤ 15 ∧ isSet (HIF_MODEL.BOUND slot) s = true ∧
    (s.desc.any fun d => d.2.st != 0 && d.2.model == slot) = false ∧ rd DIR_SELF.STATE s ≠ 2 ∧ (modelOf slot s).tokSet < 16 ∧
    (modelOf slot s).weightAllocs = []) ∧
    (∃ (h : Hdr) (slot count first key : Nat) (buf : Buf) (bs : List Byte) (cs : List (List Byte)) (s u : State), passes h 0x31 false s = true ∧
    entered h 0x31 s = u ∧ slot ≤ 15 ∧ isSet (HIF_MODEL.BOUND slot) s = true ∧ count ≠ 0 ∧ count ≤ 16384 ∧
    first + count ≤ (modelOf slot s).blocks.length ∧ bufRead h buf (sealedBytes * count) u = some bs ∧ modelKeyOf slot s = some key ∧
    (List.range count).map (fun k => (bs.drop (sealedBytes * k)).take sealedBytes) = cs ∧
    (goodBlocks (modelOf slot s) key first cs).length = count) ∧
    (∃ (bind session slot : Nat) (s : State), serving s = true ∧ mgtHears bind s = true ∧ isSet SEC_ID_STATUS.PUF_OK s = true ∧
    isSet SEC_ID_STATUS.CERT_OK s = true ∧ inSpdm bind session s = true ∧ slot < 16 ∧ sget s.models slot = none) ∧
    (∃ (bind session slot : Nat) (s : State), serving s = true ∧ mgtHears bind s = true ∧ isSet SEC_ID_STATUS.PUF_OK s = true ∧
    isSet SEC_ID_STATUS.CERT_OK s = true ∧ inSpdm bind session s = true ∧ slot < 16 ∧ sorted s.adm.modelKeys = true) ∧
    (∃ (s : State), serving s = true ∧ isSet ALM_FW_STATUS.BUSY s = true) ∧
    (∃ (s : State), serving s = true ∧ isSet ALM_FW_STATUS.BUSY s = false) ∧
    (∃ (h : Hdr) (slot tokSet vocab recordAddr modelId e0 e1 e2 shard : Nat) (mf : Manifest) (as : List Alloc) (ks : List Nat) (m : Model) (s u v w x : State), passes h 0x30 false s = true ∧
    entered h 0x30 s = u ∧ slot ≤ 15 ∧ 256 ≤ vocab ∧ vocab ≤ 262144 ∧ isSet (HIF_MODEL.BOUND slot) u = false ∧ mf.sigOk = true ∧
    isSet SEC_ID_STATUS.OWNER_OK u = true ∧ recordAddr + (attnRecord recordAddr u).length ≤ bondedEnd ∧
    attnRecordOk slot (attnRecord recordAddr u) u = true ∧ bindTokOk tokSet vocab u = true ∧ modelParts slot u ≠ [] ∧
    reserveWeights mf u = some (as, v) ∧ reserveCopy (copyReserve mf.blocks.length) v = some (ks, w) ∧
    { modelFrom (attnRecord recordAddr u) tokSet vocab recordAddr modelId shard mf (modelParts slot u) with weightAllocs := as, copyChunks := ks.length, copyList := ks } = m ∧
    showModel slot m vocab tokSet e0 e1 e2 (decide (m.direct.length = (modelParts slot u).length)) { w with models := sset w.models slot m } = x) ∧
    (∃ (h : Hdr) (s u : State), cmdRuns h s = true ∧ entered h 0x30 s = u) ∧
    (∃ (h : Hdr) (s u : State), cmdRuns h s = true ∧ entered h 0x30 s = u) ∧
    (∃ (h : Hdr) (slot count first : Nat) (s u : State), cmdRuns h s = true ∧ entered h 0x31 s = u ∧
    (intakeFails h 0x31 false s = true ∨ 15 < slot ∨ isSet (HIF_MODEL.BOUND slot) u = false ∨ count = 0 ∨ 16384 < count ∨ (modelOf slot u).blocks.length < first + count)) ∧
    (∃ (h : Hdr) (slot count first : Nat) (s u : State), passes h 0x31 false s = true ∧ entered h 0x31 s = u ∧ slot ≤ 15 ∧
    isSet (HIF_MODEL.BOUND slot) u = true ∧ count ≠ 0 ∧ count ≤ 16384 ∧ first + count ≤ (modelOf slot u).blocks.length) ∧
    (∃ (s : State), serving s = true) :=
  ⟨⟨2 ^ 16 - 1, managed, by decide, by decide, by decide, by decide, by decide⟩,
    ⟨managed, by decide, by decide, by decide, by decide⟩,
    ⟨{ managed with adm.fwB := { st := 3 } }, by decide, by decide, by decide, by decide⟩,
    ⟨{ managed with adm.fwB := { st := 3 } }, by decide, by decide, by decide, by decide⟩,
    ⟨managed, by decide, by decide, by decide, by decide⟩,
    (by
      obtain ⟨ks, w, hc, hw⟩ := copied_get
      exact ⟨h0, 0, 0, 256, 0, manifest0, [], ks, binds, entered h0 0x30 binds, entered h0 0x30 binds, w, by decide +kernel, rfl, by decide,
    by decide, by decide, by decide +kernel, by decide, by decide +kernel, by decide +kernel, by decide +kernel, by decide +kernel,
    by decide +kernel, weights_none _, hc, hw⟩),
    ⟨h0, 15, wr (HIF_MODEL.BOUND 15) 1 up, by decide, by decide, by decide, by decide, by decide, by decide, by decide⟩,
    ⟨h0, 0, 1, 0, 0, ⟨0, some []⟩, [], [[]], bound, _, by decide, rfl, by decide, by decide, by decide, by decide, by decide, by decide,
    by decide, rfl, by simp [goodBlocks, modelOf, sgetD, sget, bound, model1, wr]⟩,
    ⟨2, 7, 15, { managed with adm.spdm := [(7, 2, true)] }, by decide, by decide, by decide, by decide, by decide, by decide, by decide⟩,
    ⟨2, 7, 15, { managed with adm.spdm := [(7, 2, true)] }, by decide, by decide, by decide, by decide, by decide, by decide, by decide⟩,
    ⟨wr ALM_FW_STATUS.BUSY 1 managed, by decide, by decide⟩,
    ⟨managed, by decide, by decide⟩,
    (by
      obtain ⟨ks, w, hc, hw⟩ := copied_get
      exact ⟨h0, 0, 0, 256, 0, 0, 0, 0, 0, 0, manifest0, [], ks, _, binds, entered h0 0x30 binds, entered h0 0x30 binds, w, _, by decide +kernel,
    rfl, by decide, by decide, by decide, by decide +kernel, by decide, by decide +kernel, by decide +kernel, by decide +kernel,
    by decide +kernel, by decide +kernel, weights_none _, hc, rfl, rfl⟩),
    ⟨h0, up, _, by decide, rfl⟩,
    ⟨h0, up, _, by decide, rfl⟩,
    ⟨h0, 0, 0, 0, up, _, by decide, rfl, by decide⟩,
    ⟨h0, 0, 1, 0, bound, _, by decide, rfl, by decide, by decide, by decide, by decide, by decide⟩,
    ⟨managed, by decide⟩⟩

theorem witness_submit_without_cadence :
    ∃ (h : Hdr) (table count : Nat) (buf : Buf) (bs : List Byte) (s : State), passes h 0x40 false s = true ∧ count ≠ 0 ∧ count ≤ 65536 ∧
    table < 64 ∧ bufRead h buf (32 * count) s = some bs ∧ isSet (EPH_TABLE_CTRL.ENABLE table) s = true ∧
    (ephOf table s).entries.length + count ≤ ringSize table s ∧
    badEntry ((ephOf table s).entries.getLast?.map (·.tick)) 0 ((pieces 32 count bs).map entryOf) = none :=
    ⟨h0, 0, 1, ⟨64, some (leBytes 8 5 ++ List.replicate 24 0#8)⟩, (leBytes 8 5 ++ List.replicate 24 0#8),
    wr (EPH_TABLE_CTRL.ENABLE 0) 1 up, by decide, by decide, by decide, by decide, by decide, by decide, by decide, by decide⟩

theorem witness_power_and_resets :
    (∃ (cause : Nat), cause < 8) ∧
    (∃ (s : State), s.pow.perst = false ∧ pwrGood s = true) ∧
    (∃ (s : State), s.pow.perst = true) ∧
    (∃ (s : State), s.pow.modRst = false ∧ pwrGood s = true) ∧
    (∃ (s : State), s.pow.modRst = true) ∧
    (∃ (s : State), live s = true) ∧
    (∃ (s : State), live s = true) ∧
    (∃ (s : State), live s = true) ∧
    (∃ (fn : Nat) (s : State), serving s = true ∧ 0 < fn ∧ fn < 256) ∧
    (∃ (n : Nat) (s : State), serving s = true ∧ s.numVfs ≤ n ∧ n ≤ 255) ∧
    (∃ (s : State), s.pow.pwrEn = false ∧ s.pow.p54v = true) ∧
    (∃ (s : State), s.pow.pwrEn = true) ∧
    (∃ (s : State), pwrGood s = true) ∧
    (∃ (s : State), s.pow.p54v = false ∧ s.pow.pwrEn = false) ∧
    (∃ (s : State), s.pow.p54v = true) ∧
    (∃ (kind index o c tr n : Nat), limits kind = some (o, c, tr, n) ∧ index < n) ∧
    (∃ (r : BootResult) (s u : State), live s = true ∧ starting s = true ∧ r.record ≠ none ∧ r.hubOk = true ∧ r.badChans = [] ∧
    bootArrays r (wr HUB_BOOT_STATUS.SLOT_ID s.pow.slotId (showBoot (showFw (bootIdentity r s)))) = u ∧
    3 ≤ ((List.range 4).filter (bootTile r u)).length ∧ r.badDeep.eraseDups.length ≤ 48) ∧
    (∃ (r : BootResult) (s : State), live s = true ∧ starting s = true ∧ r.record = none) ∧
    (∃ (aOk bOk : Bool) (s : State), live s = true ∧ rd HUB_BOOT_STATUS.STOP_CODE s = 0 ∧ isSet HUB_DOMAIN_STATUS.MGT_RUNNING s = false ∧
    s.adm.fwActivating = false ∧ rd MGT_STATUS.FW_STATE s ≠ 2 ∧ (if s.adm.fwRun = 0 then aOk else bOk) = true) ∧
    (∃ (s : State), serving s = true ∧ rd HUB_BOOT_STATUS.STAGE s = 7) ∧
    (∃ (s : State), serving s = true ∧ s.adm.fwActivating = true) ∧
    (∃ (h : Hdr) (fn : Nat) (s : State), passes h 0x7F false s = true ∧ fn < 256 ∧ (h.fn = 0 ∨ h.fn = fn)) ∧
    (∃ (p : Nat) (s u : State), serving s = true ∧ (s.aborts.any fun a => fnRuns a.fn p s) = true ∧
    modPart p (fun x => { x with reload := true }) ((runRanks p s).foldl (fun s a => if a < 2048 then arrayReset a s else s) (haltRanks p s)) = u) ∧
    (∃ (p : Nat) (s : State), serving s = true ∧ (s.aborts.any fun a => fnRuns a.fn p s) = false) ∧
    (∃ (h : Hdr) (fn : Nat) (s : State), cmdRuns h s = true ∧ (intakeFails h 0x7F (decide (256 ≤ fn)) s = true ∨ (h.fn ≠ 0 ∧ h.fn ≠ fn))) ∧
    (∃ (s : State), s.pow.p54v = false ∧ s.pow.pwrEn = true) ∧
    (∃ (fn : Nat) (s : State), live s = true ∧ 0 < fn ∧ (serving s = false ∨ 256 ≤ fn)) ∧
    (∃ (n : Nat) (s u : State), live s = true ∧
    ((List.range 256).filter fun f => decide (s.numVfs < f) && decide (f ≤ n)).foldl (fun s f => wr (HIF_FN_STATUS.STATE f) 1 s) { s with numVfs := min n 255 } = u) ∧
    (∃ (kind o c tr n : Nat) (s : State), limits kind = some (o, c, tr, n) ∧ live s = true) ∧
    (∃ (kind : Nat), (kind = 0 ∨ 4 < kind)) ∧
    (∃ (s : State), live s = true ∧ starting s = false) ∧
    (∃ (r : BootResult) (tiles : List Nat) (s u v : State), live s = true ∧ starting s = true ∧ r.record ≠ none ∧
    wr HUB_BOOT_STATUS.SLOT_ID s.pow.slotId (showBoot (showFw (bootIdentity r s))) = u ∧ bootArrays r u = v ∧
    (List.range 4).filter (bootTile r v) = tiles) ∧
    (∃ (s : State), live s = true) ∧
    (∃ (s : State), serving s = true ∧ rd HUB_BOOT_STATUS.STAGE s ≠ 7) ∧
    (∃ (aOk bOk : Bool) (a b : List Byte × Bool) (s : State), serving s = true ∧ rd HUB_BOOT_STATUS.STAGE s = 7 ∧
    (if bootGen s.adm.bootB ≤ bootGen s.adm.bootA then ((s.adm.bootA, aOk), (s.adm.bootB, bOk)) else ((s.adm.bootB, bOk), (s.adm.bootA, aOk))) = (a, b)) ∧
    (∃ (s : State), serving s = true ∧ s.adm.fwActivating = false) :=
  ⟨⟨7, by decide⟩,
    ⟨up, by decide, by decide⟩,
    ⟨{ up with pow.perst := true }, by decide⟩,
    ⟨up, by decide, by decide⟩,
    ⟨{ up with pow.modRst := true }, by decide⟩,
    ⟨up, by decide⟩,
    ⟨up, by decide⟩,
    ⟨up, by decide⟩,
    ⟨255, up, by decide, by decide, by decide⟩,
    ⟨255, up, by decide, by decide, by decide⟩,
    ⟨{ up with pow.pwrEn := false }, by decide, by decide⟩,
    ⟨up, by decide⟩,
    ⟨up, by decide⟩,
    ⟨{ up with pow.p54v := false, pow.pwrEn := false }, by decide, by decide⟩,
    ⟨up, by decide⟩,
    ⟨4, 23, 95, 100, 105, 24, by decide, by decide⟩,
    ⟨boot0, State.reset, bootArrays boot0 boots, by decide, by decide, by decide, by decide, by decide, rfl, boots_tiles, by decide⟩,
    ⟨{ boot0 with record := none }, State.reset, by decide, by decide, by decide⟩,
    ⟨true, false, up, by decide, by decide, by decide, by decide, by decide, by decide⟩,
    ⟨wr HUB_BOOT_STATUS.STAGE 7 up, by decide, by decide⟩,
    ⟨{ up with adm.fwActivating := true }, by decide, by decide⟩,
    ⟨h0, 255, up, by decide, by decide, by decide⟩,
    ⟨0,
    parted { running := some { ofStep := false, kern := k0 1 } } { up with aborts := [{ fn := 0, reqs := [], discarded := 0, reset := false }] },
    _, by decide, by decide, rfl⟩,
    ⟨254, up, by decide, by decide⟩,
    ⟨h0, 256, up, by decide, by decide⟩,
    ⟨{ up with pow.p54v := false }, by decide, by decide⟩,
    ⟨256, up, by decide, by decide, by decide⟩,
    ⟨255, up, _, by decide, rfl⟩,
    ⟨3, 100, 105, 110, 1, up, by decide, by decide⟩,
    ⟨5, by decide⟩,
    ⟨up, by decide, by decide⟩,
    ⟨boot0, _, State.reset, _, _, by decide, by decide, by decide, rfl, rfl, rfl⟩,
    ⟨up, by decide⟩,
    ⟨up, by decide, by decide⟩,
    ⟨false, false, _, _, wr HUB_BOOT_STATUS.STAGE 7 up, by decide, by decide, rfl⟩,
    ⟨up, by decide, by decide⟩⟩

theorem witness_job_keys :
    (∃ (job peer : Nat) (s : State), serving s = true ∧ isSet SEC_KX_STATUS.BUSY s = false ∧ jobOk job = true ∧ peer < 0xFFF ∧
    inBonded (kxAddr s) 6720 = true ∧ field (memRead s (kxAddr s) 64) 4 1 = 1 ∧ field (memRead s (kxAddr s) 64) 5 1 = job ∧
    field (memRead s (kxAddr s) 64) 10 2 = peer ∧ isSet SEC_ID_STATUS.PUF_OK s = true ∧ s.adm.offers.length < 64) ∧
    (∃ (job peer : Nat) (s : State), serving s = true ∧ isSet SEC_KX_STATUS.BUSY s = false ∧ jobOk job = true ∧ peer < 0xFFF ∧
    inBonded (kxAddr s) (8192 + 6624) = true ∧ isSet SEC_ID_STATUS.PUF_OK s = false) ∧
    (∃ (job peer : Nat) (sigOk : Bool) (s : State), serving s = true ∧ isSet SEC_KX_STATUS.BUSY s = false ∧ jobOk job = true ∧
    peer < 0xFFF ∧ inBonded (kxAddr s) (8192 + 6624) = true ∧ isSet SEC_ID_STATUS.PUF_OK s = true ∧
    kxNames 1 job peer (rd SES_CTRL.MODULE_ID s) (memRead s (kxAddr s) 6720) = true ∧
    kxVerifies 1 (memRead s (kxAddr s) 6720) sigOk s = true ∧ pairRoom job peer s = true) ∧
    (∃ (job peer : Nat) (sigOk : Bool) (o : Offer) (s : State), serving s = true ∧ isSet SEC_KX_STATUS.BUSY s = false ∧
    jobOk job = true ∧ peer < 0xFFF ∧ inBonded (kxAddr s) 6624 = true ∧
    (s.adm.offers.find? fun o => o.job == job && o.peer == peer && o.jobId == field (memRead s (kxAddr s) 6624) 0x10 32) = some o ∧
    kxNames 2 job (rd SES_CTRL.MODULE_ID s) peer (memRead s (kxAddr s) 6624) = true ∧
    kxVerifies 2 (memRead s (kxAddr s) 6624) sigOk s = true ∧ pairRoom job peer s = true) ∧
    (∃ (job : Nat) (s : State), serving s = true ∧ isSet SEC_KX_STATUS.BUSY s = false ∧ jobOk job = true) ∧
    (∃ (job peer : Nat) (o : Offer) (s : State), serving s = true ∧
    (s.adm.offers.find? fun o => o.job == job && o.peer == peer && decide (o.edge + 100000 ≤ s.cad.edges)) = some o) ∧
    (∃ (job peer k lim top : Nat) (seen : List Nat) (p : Pair) (s : State), serving s = true ∧
    sget s.net.pairs (job * 4096 + peer) = some p ∧ p.old = some (k, lim, top, seen) ∧ lim ≤ s.cad.edges) ∧
    (∃ (b : List Byte) (s : State), serving s = true ∧ isSet SEC_KX_STATUS.BUSY s = false ∧ memRead s (kxAddr s) 5632 = b ∧
    inBonded (kxAddr s) 5632 = true ∧ field b 0 4 = 0x4F574E31 ∧ field b 8 1 ≠ 0 ∧ field b 8 1 ≤ 4 ∧
    field (b.drop (64 + 32 * field b 8 1)) 6 1 = 1 ∧ isSet SEC_ID_STATUS.OWNER_OK s = false ∧ s.adm.ownA = none ∧ s.adm.ownB = none) ∧
    (∃ (bind code : Nat) (s : State), serving s = true ∧ mgtHears bind s = true ∧ isSet SEC_ID_STATUS.PUF_OK s = true ∧
    isSet SEC_ID_STATUS.CERT_OK s = true ∧ code ∈ [0x81, 0x82, 0x83, 0x84, 0xE1, 0xE3]) ∧
    (∃ (bind : Nat) (s : State), serving s = true ∧ mgtHears bind s = true ∧ isSet SEC_ID_STATUS.PUF_OK s = false) ∧
    (∃ (session : Nat) (s : State), serving s = true ∧ mgtHears 2 s = true ∧ isSet SEC_ID_STATUS.PUF_OK s = true ∧
    isSet SEC_ID_STATUS.CERT_OK s = true ∧ inSpdm 2 session s = true ∧ s.adm.ide.length < 8) ∧
    (∃ (s : State), serving s = true ∧ isSet SEC_KX_STATUS.BUSY s = true) ∧
    (∃ (s : State), serving s = true ∧ isSet SEC_KX_STATUS.BUSY s = false) ∧
    (∃ (job peer : Nat) (s : State), serving s = true ∧ isSet SEC_KX_STATUS.BUSY s = false ∧ jobOk job = true ∧ peer < 0xFFF ∧
    inBonded (kxAddr s) 6720 = true ∧ field (memRead s (kxAddr s) 64) 4 1 = 1 ∧ field (memRead s (kxAddr s) 64) 5 1 = job ∧
    field (memRead s (kxAddr s) 64) 10 2 = peer) ∧
    (∃ (job peer : Nat) (s : State), serving s = true ∧ isSet SEC_KX_STATUS.BUSY s = false ∧ jobOk job = true ∧ peer < 0xFFF ∧
    inBonded (kxAddr s) (8192 + 6624) = true ∧ isSet SEC_ID_STATUS.PUF_OK s = true) ∧
    (∃ (job peer : Nat) (o : Offer) (s : State), serving s = true ∧ isSet SEC_KX_STATUS.BUSY s = false ∧ jobOk job = true ∧
    peer < 0xFFF ∧ inBonded (kxAddr s) 6624 = true ∧
    (s.adm.offers.find? fun o => o.job == job && o.peer == peer && o.jobId == field (memRead s (kxAddr s) 6624) 0x10 32) = some o) ∧
    (∃ (s : State), serving s = true) ∧
    (∃ (b g : List Byte) (s : State), serving s = true ∧ isSet SEC_KX_STATUS.BUSY s = false ∧ memRead s (kxAddr s) 5632 = b ∧
    b.drop (64 + 32 * field b 8 1) = g) ∧
    (∃ (s : State), serving s = true) ∧
    (∃ (bind : Nat) (s : State), serving s = true ∧ mgtHears bind s = true ∧ isSet SEC_ID_STATUS.PUF_OK s = true ∧
    isSet SEC_ID_STATUS.CERT_OK s = true) ∧
    (∃ (session : Nat) (s : State), serving s = true ∧ mgtHears 2 s = true ∧ isSet SEC_ID_STATUS.PUF_OK s = true ∧
    isSet SEC_ID_STATUS.CERT_OK s = true ∧ inSpdm 2 session s = true) :=
  ⟨⟨127, 0xFFE, kxS 1 0 0xFFE, by decide, by decide, by decide, by decide, by decide, by decide, by decide, by decide, by decide,
    by decide⟩,
    ⟨127, 0xFFE, up, by decide, by decide, by decide, by decide, by decide, by decide⟩,
    ⟨127, 0xFFE, true, kxS 1 0xFFE 0, by decide, by decide, by decide, by decide, by decide, by decide, by decide +kernel,
    by decide +kernel, by decide +kernel⟩,
    ⟨127, 0xFFE, true, off0 0, { kxS 2 0 0xFFE with adm.offers := [off0 0] }, by decide, by decide, by decide, by decide, by decide,
    by decide +kernel, by decide +kernel, by decide +kernel, by decide +kernel⟩,
    ⟨1, up, by decide, by decide, by decide⟩,
    ⟨127, 0xFFE, off0 0, { up with cad.edges := 100000, adm.offers := [off0 0] }, by decide, by decide⟩,
    ⟨1, 2, 0, 256, 0, [], { job := 1, peer := 2, tx := 0, rx := 0, old := some (0, 256, 0, []) },
    { up with cad.edges := 256, net.pairs := [(4098, { job := 1, peer := 2, tx := 0, rx := 0, old := some (0, 256, 0, []) })] },
    by decide, by decide, by decide, by decide⟩,
    ⟨memRead ownS (kxAddr ownS) 5632, ownS, by decide, by decide, rfl, by decide, by decide +kernel, by decide +kernel,
    by decide +kernel, by decide +kernel, by decide +kernel, by decide, by decide⟩,
    ⟨2, 0xE3, managed, by decide, by decide, by decide, by decide, by decide⟩,
    ⟨2, wr SEC_ID_STATUS.PUF_OK 0 managed, by decide, by decide, by decide⟩,
    ⟨7, { managed with adm.spdm := [(7, 2, true)] }, by decide, by decide, by decide, by decide, by decide, by decide⟩,
    ⟨wr SEC_KX_STATUS.BUSY 1 up, by decide, by decide⟩,
    ⟨up, by decide, by decide⟩,
    ⟨127, 0xFFE, kxS 1 0 0xFFE, by decide, by decide, by decide, by decide, by decide, by decide, by decide, by decide⟩,
    ⟨127, 0xFFE, kxS 1 0xFFE 0, by decide, by decide, by decide, by decide, by decide, by decide⟩,
    ⟨127, 0xFFE, off0 0, { kxS 2 0 0xFFE with adm.offers := [off0 0] }, by decide, by decide, by decide, by decide, by decide,
    by decide +kernel⟩,
    ⟨up, by decide⟩,
    ⟨_, _, ownS, by decide, by decide, rfl, rfl⟩,
    ⟨up, by decide⟩,
    ⟨2, managed, by decide, by decide, by decide, by decide⟩,
    ⟨7, { managed with adm.spdm := [(7, 2, true)] }, by decide, by decide, by decide, by decide, by decide⟩⟩

theorem witness_management_commands :
    (∃ (s : State), serving s = true ∧ isSet HUB_DOMAIN_STATUS.MGT_RUNNING s = true) ∧
    (∃ (s : State), serving s = true ∧ isSet HUB_DOMAIN_STATUS.MGT_RUNNING s = true ∧ s.adm.thresh = []) ∧
    (∃ (eid : Nat) (s : State), serving s = true ∧ isSet HUB_DOMAIN_STATUS.MGT_RUNNING s = true ∧ 0 < eid ∧ eid < 255) ∧
    (∃ (fn : Nat) (s : State), serving s = true ∧ isSet HUB_DOMAIN_STATUS.MGT_RUNNING s = true ∧ fn ≠ 0) ∧
    (∃ (s : State), serving s = true ∧ isSet HUB_DOMAIN_STATUS.MGT_RUNNING s = true) ∧
    (∃ (s : State), live s = true) ∧
    (∃ (s : State), live s = true) ∧
    (∃ (b : Nat) (s : State), serving s = true ∧ b < 2 ∧ mgtHears b s = true) ∧
    (∃ (s : State), serving s = true) ∧
    (∃ (temps : List Nat) (s u : State), serving s = true ∧
    wr MGT_TEMP.TILE_C (temps.getD 0 0 % 256 + temps.getD 1 0 % 256 * 2 ^ 8 + temps.getD 2 0 % 256 * 2 ^ 16 + temps.getD 3 0 % 256 * 2 ^ 24) (wr MGT_TEMP.HUB_C (temps.getD 4 0 % 256) (wr MGT_TEMP.DEEP_C (temps.getD 5 0 % 256) s)) = u) ∧
    (∃ (b : Nat) (s : State), serving s = true ∧ (2 ≤ b ∨ mgtHears b s = false)) ∧
    (∃ (b : Nat) (s : State), serving s = true ∧ b < 2 ∧ mgtHears b s = true) ∧
    (∃ (b : Nat) (s : State), serving s = true ∧ b < 2 ∧ mgtHears b s = true) :=
  ⟨⟨managed, by decide, by decide⟩,
    ⟨managed, by decide, by decide, by decide⟩,
    ⟨254, managed, by decide, by decide, by decide, by decide⟩,
    ⟨1, managed, by decide, by decide, by decide⟩,
    ⟨managed, by decide, by decide⟩,
    ⟨up, by decide⟩,
    ⟨up, by decide⟩,
    ⟨1, hears, by decide, by decide, by decide⟩,
    ⟨up, by decide⟩,
    ⟨[], up, _, by decide, rfl⟩,
    ⟨2, up, by decide, by decide⟩,
    ⟨1, hears, by decide, by decide, by decide⟩,
    ⟨1, hears, by decide, by decide, by decide⟩⟩

theorem witness_diagnostic_commands :
    (∃ (d : Nat) (s : State), live s = true ∧ ideShut s = false ∧ d < 12) ∧
    (∃ (s : State), live s = true ∧ ideShut s = false) ∧
    (∃ (addr : Nat) (s : State), live s = true ∧ addr < 2 ^ 36) ∧
    (∃ (slot : Nat) (d : Dump) (s : State), serving s = true ∧ isSet DBG_DUMP_STATUS.BUSY s = false ∧ sget s.dumps slot = some d ∧
    d.complete = true ∧ inBonded (rd DBG_DUMP_ADDR.ADDR s * 4096) 0x400000 = true ∧ s.ckpt = none) ∧
    (∃ (slot : Nat) (s : State), serving s = true ∧ isSet DBG_DUMP_STATUS.BUSY s = false ∧ sget s.dumps slot = none) ∧
    (∃ (slot : Nat) (d : Dump) (s : State), serving s = true ∧ isSet DBG_DUMP_STATUS.BUSY s = false ∧ sget s.dumps slot = some d ∧
    d.complete = true) ∧
    (∃ (block ms : Nat) (s : State), serving s = true ∧ block ∈ monitored ∧ rd DBG_DUMP_CFG.ENGINE_STALL_MS s ≤ ms) ∧
    (∃ (t0 n : Nat) (s : State), serving s = true ∧ t0 < 4 ∧ n < 352 ∧ testing s = true ∧ tileOnline t0 s = true ∧
    (arrState (t0 * 512 + n) s = aEnabled ∨ arrState (t0 * 512 + n) s = aSpare) ∧ isSet (ARY_STATUS.BUSY t0 n) s = false ∧
    arrPart (t0 * 512 + n) s = 0xFF) ∧
    (∃ (s : State), serving s = true ∧ testing s = true ∧ s.testLast + rd REL_DF_CFG.BANK_TEST_TICKS s ≤ s.cad.edges) ∧
    (∃ (p mv ui lane : Nat) (s : State), serving s = true ∧ p < 16 ∧ portState p s = pUp ∧ testing s = false ∧ mv < 256 ∧ ui < 256 ∧
    lane < 8) ∧
    (∃ (p mv ui lane : Nat) (s : State), serving s = true ∧ p < 16 ∧ portState p s = pUp ∧ testing s = true ∧ mv < 256 ∧ ui < 256 ∧
    lane < 8 ∧ mv < rd REL_DF_CFG.FAB_EYE_MV s ∧ otherRetrains p s = false) ∧
    (∃ (s : State), live s = true) ∧
    (∃ (s : State), live s = true) ∧
    (∃ (s : State), serving s = true) ∧
    (∃ (block ms : Nat) (s : State), serving s = true ∧ (block ∉ monitored ∨ ms < rd DBG_DUMP_CFG.ENGINE_STALL_MS s)) ∧
    (∃ (block ms : Nat) (k : Option Nat) (s u v : State), serving s = true ∧ block ∈ monitored ∧ rd DBG_DUMP_CFG.ENGINE_STALL_MS s ≤ ms ∧
    startDump { kind := 2, src := block, tick := 0, elapsed := ms * 1000, seq := 0 } s = (k, u) ∧ k.elim u (fun k => dumpDone k u) = v) ∧
    (∃ (t0 n : Nat) (s : State), serving s = true ∧
    (4 ≤ t0 ∨ 352 ≤ n ∨ testing s = false ∨ tileOnline t0 s = false ∨ (arrState (t0 * 512 + n) s ≠ aEnabled ∧ arrState (t0 * 512 + n) s ≠ aSpare) ∨ isSet (ARY_STATUS.BUSY t0 n) s = true ∨ (arrPart (t0 * 512 + n) s ≠ 0xFF ∧ ((stepReady (arrPart (t0 * 512 + n) s) s).isSome = true ∨ (bestQueued (arrPart (t0 * 512 + n) s) s).isSome = true)))) ∧
    (∃ (t0 n oldest a k : Nat) (ok : Bool) (s u v : State), serving s = true ∧ t0 < 4 ∧ n < 352 ∧ testing s = true ∧
    tileOnline t0 s = true ∧ t0 * 512 + n = a ∧ (arrState a s = aEnabled ∨ arrState a s = aSpare) ∧
    isSet (ARY_STATUS.BUSY t0 n) s = false ∧
    (arrPart a s = 0xFF ∨ (stepReady (arrPart a s) s = none ∧ bestQueued (arrPart a s) s = none)) ∧ sgetD s.dfPass a 0 + 1 = k ∧
    bump REL_DF_SLICES.COUNT 1 { s with dfPass := sset s.dfPass a (k % 512) } = u ∧
    trace { tick := 0, event := 0x0801, src := 0x09, array := a, part := arrPart a s, arg := b2n (!ok) } (wr REL_DF_STATUS.OLDEST_MS (min oldest (2 ^ 32 - 1)) (if k = 512 then bump REL_DF_STATUS.PASSES 1 u else u)) = v) ∧
    (∃ (s : State), serving s = true ∧ (testing s = false ∨ s.cad.edges < s.testLast + rd REL_DF_CFG.BANK_TEST_TICKS s)) ∧
    (∃ (s : State), serving s = true ∧ testing s = true ∧ s.testLast + rd REL_DF_CFG.BANK_TEST_TICKS s ≤ s.cad.edges) ∧
    (∃ (p : Nat) (s : State), serving s = true ∧ (16 ≤ p ∨ portState p s ≠ pUp)) ∧
    (∃ (p mv ui lane : Nat) (s u : State), serving s = true ∧ p < 16 ∧ portState p s = pUp ∧
    wr (FAB_PORT_MARGIN.EYE_MV p) mv (wr (FAB_PORT_MARGIN.EYE_UI p) ui (wr (FAB_PORT_MARGIN.WORST_LANE p) lane s)) = u) :=
  ⟨⟨11, up, by decide, by decide, by decide⟩,
    ⟨up, by decide, by decide⟩,
    ⟨2 ^ 36 - 1, up, by decide, by decide⟩,
    ⟨7, dump0, { up with dumps := [(7, dump0)] }, by decide, by decide, by decide, by decide, by decide, by decide⟩,
    ⟨0, up, by decide, by decide, by decide⟩,
    ⟨7, dump0, { up with dumps := [(7, dump0)] }, by decide, by decide, by decide, by decide⟩,
    ⟨0x16, 2 ^ 32, up, by decide, by decide, by decide⟩,
    ⟨3, 351, wr (ARY_STATUS.STATE 3 351) aSpare tests, by decide, by decide, by decide, by decide, by decide, by decide +kernel,
    by decide, by decide⟩,
    ⟨{ tests with cad.edges := 2 ^ 32 }, by decide, by decide, by decide⟩,
    ⟨15, 255, 255, 7, port pUp link0, by decide, by decide, by decide, by decide, by decide, by decide, by decide⟩,
    ⟨15, 0, 255, 7, wr REL_DF_WINDOW.ENABLE 1 (wr HUB_BOOT_STATUS.STAGE 7 (port pUp link0)), by decide, by decide, by decide, by decide,
    by decide, by decide, by decide, by decide, by decide⟩,
    ⟨up, by decide⟩,
    ⟨up, by decide⟩,
    ⟨up, by decide⟩,
    ⟨0, 0, up, by decide, by decide⟩,
    ⟨0x16, ms1, (startDump { kind := 2, src := 0x16, tick := 0, elapsed := ms1 * 1000, seq := 0 } up).1, up,
    (startDump { kind := 2, src := 0x16, tick := 0, elapsed := ms1 * 1000, seq := 0 } up).2, _, by decide +kernel, by decide,
    by decide +kernel, pairOf _, rfl⟩,
    ⟨4, 0, tests, by decide, by decide⟩,
    ⟨3, 351, 0, _, _, false, wr (ARY_STATUS.STATE 3 351) aSpare tests, _, _, by decide, by decide, by decide, by decide, by decide, rfl,
    by decide +kernel, by decide, by decide, rfl, rfl, rfl⟩,
    ⟨up, by decide, by decide⟩,
    ⟨{ tests with cad.edges := 2 ^ 32 }, by decide, by decide, by decide⟩,
    ⟨16, up, by decide, by decide⟩,
    ⟨15, 0, 0, 0, port pUp link0, _, by decide, by decide, by decide, rfl⟩⟩

theorem witness_register_writes :
    (∃ (s : State), live s = true ∧ ideShut s = false ∧ reachable s = true) ∧
    (∃ (s : State), live s = true ∧ ideShut s = false ∧ reachable s = true ∧ rd HUB_DOMAIN_CHANGE.TILE_CHANGED s < 16) ∧
    (∃ (s : State), live s = true ∧ ideShut s = false ∧ reachable s = true) ∧
    (∃ (s : State), live s = true ∧ ideShut s = false ∧ reachable s = true ∧ rd SES_POOL_WM.HIGH s < 1024 ∧ rd SES_POOL_WM.LOW s < 1024) ∧
    (∃ (off : Nat) (wide : Bool) (s : State), live s = true ∧ ideShut s = false ∧ aligned off wide = false) ∧
    (∃ (off : Nat) (s : State), live s = true ∧ ideShut s = false ∧ off < 0x1000_0000 ∧ regAt (off / 8 * 8) = none) ∧
    (∃ (fn : Nat) (s : State), live s = true ∧ ideShut s = false ∧ fn ≠ 0) ∧
    (∃ (off : Nat) (wide : Bool) (s : State), live s = true ∧ ideShut s = false ∧ reachable s = true ∧ aligned off wide = true ∧
    off < 0x1000_0000) ∧
    (∃ (fn off : Nat) (wide : Bool) (s : State), live s = true ∧ ideShut s = false ∧ reachable s = true ∧ aligned off wide = true ∧
    fn < 256) ∧
    (∃ (fn bar off : Nat) (wide : Bool) (s : State), live s = true ∧ ideShut s = false ∧
    (reachable s = false ∨ aligned off wide = false ∨ 256 ≤ fn ∨ (bar ≠ 0 ∧ bar ≠ 2) ∨ (bar = 0 ∧ 0x1000_0000 ≤ off))) ∧
    (∃ (s : State), live s = true ∧ ideShut s = true) ∧
    (∃ (off : Nat) (wide : Bool) (s : State), live s = true ∧ reachable s = true ∧ aligned off wide = true ∧ off < 0x1000_0000 ∧
    regAt (off / 8 * 8) = none) ∧
    (∃ (fn bar off : Nat) (wide : Bool), (aligned off wide = false ∨ (bar = 0 ∧ fn ≠ 0))) ∧
    (∃ (s : State), live s = true ∧ ideShut s = false ∧ reachable s = true ∧ s.heldWr = [] ∧ rd SES_POOL_WM.HIGH s < 1024 ∧
    rd SES_POOL_WM.LOW s < 1024) :=
  ⟨⟨up, by decide, by decide, by decide⟩,
    ⟨wr HUB_DOMAIN_CHANGE.TILE_CHANGED 15 up, by decide, by decide, by decide, by decide⟩,
    ⟨up, by decide, by decide, by decide⟩,
    ⟨up, by decide, by decide, by decide, by decide, by decide⟩,
    ⟨4, true, up, by decide, by decide, by decide⟩,
    ⟨0xFFF_FFF8, up, by decide, by decide, by decide +kernel, by decide⟩,
    ⟨1, up, by decide, by decide, by decide⟩,
    ⟨0xFFF_FFF8, true, up, by decide, by decide, by decide, by decide, by decide⟩,
    ⟨255, 0, true, up, by decide, by decide, by decide, by decide, by decide⟩,
    ⟨256, 2, 0, false, up, by decide, by decide, by decide⟩,
    ⟨wr SEC_CFG.IDE_REQUIRED 1 up, by decide, by decide⟩,
    ⟨0xFFF_FFF8, true, up, by decide, by decide, by decide, by decide, by decide⟩,
    ⟨1, 0, 0, false, by decide⟩,
    ⟨wr SES_POOL_WM.HIGH 1023 up, by decide, by decide, by decide, by decide, by decide, by decide⟩⟩

theorem witness_completions_and_frames :
    (∃ (h : Hdr) (s : State), h.fn < 256 ∧ h.qp < 64 ∧ (qpState h.fn h.qp s = 1 ∨ qpState h.fn h.qp s = 2) ∧ ideShut s = false ∧
    h.cplFault = false ∧ s.fenWaits = []) ∧
    (∃ (h : Hdr) (s : State), h.fn < 256 ∧ h.qp < 64 ∧ qpState h.fn h.qp s = 3 ∧ s.fenWaits = []) ∧
    (∃ (c : Instr) (s t : State), exec c s = .next t ∧
    ((∃ f q n, c = .sqTail f q n) ∨ (∃ f q n, c = .cqHead f q n) ∨ (∃ f q n, c = .outCi f q n) ∨ (∃ n, c = .evqCi n) ∨ (∃ n, c = .fenReset n) ∨ (∃ p k h, c = .tmHwmRead p k h) ∨ (∃ d, c = .peakDwRead d) ∨ (∃ j p, c = .oldKeyExpiry j p) ∨ (∃ m d, c = .collectiveMsg m d) ∨ (∃ b i, c = .setTid b i) ∨ (∃ n, c = .entdaa n) ∨ c = .getstatus ∨ (∃ j p, c = .offerTimeout j p) ∨ c = .ckptMirrorDone)) ∧
    (∃ (h : Hdr) (p : Sampling) (withSeed withMax : Bool) (i : Nat) (s t : State), actsOn h 0x0B false i s = true ∧ h.fn < 256 ∧
    h.qp < 64 ∧ s.fenWaits = [] ∧ (descOf i s).st ≤ 8 ∧ (descOf i s).fn < 256 ∧ (descOf i s).cls < 8 ∧
    exec (.setSampling h p withSeed withMax) s = .next t) ∧
    (∃ (h : Hdr) (buf : Buf) (stopLen incl i : Nat) (s t : State), actsOn h 0x0D (decide (2 < incl)) i s = true ∧ h.fn < 256 ∧
    h.qp < 64 ∧ s.fenWaits = [] ∧ (descOf i s).st ≤ 8 ∧ (descOf i s).fn < 256 ∧ (descOf i s).cls < 8 ∧
    exec (.setStops h buf stopLen incl) s = .next t) ∧
    (∃ (off a : Nat) (data : List Byte) (s t : State), live s = true ∧ exec (.bar4Write off data) s = .next t ∧
    (a < rd HIF_BAR4_WINDOW.ADDR s * 2 ^ 30 + off ∨ rd HIF_BAR4_WINDOW.ADDR s * 2 ^ 30 + off + data.length ≤ a)) ∧
    (∃ (c : Instr) (s t : State), exec c s = .next t ∧
    ((∃ x0, c = .getTid x0) ∨ (∃ x0 x1, c = .setTid x0 x1) ∨ (∃ x0, c = .getPldmTypes x0) ∨ (∃ x0 x1, c = .getPldmCommands x0 x1) ∨ (∃ x0 x1, c = .getPldmVersion x0 x1) ∨ (∃ x0 x1, c = .getPdr x0 x1) ∨ (∃ x0, c = .getPdrRepositoryInfo x0) ∨ (∃ x0 x1, c = .getSensorReading x0 x1) ∨ (∃ x0 x1, c = .getStateSensorReadings x0 x1) ∨ (∃ x0 x1 x2, c = .setSensorThresholds x0 x1 x2) ∨ (∃ x0 x1, c = .getSensorThresholds x0 x1) ∨ (∃ x0 x1 x2, c = .setNumericEffecterValue x0 x1 x2) ∨ (∃ x0 x1, c = .getNumericEffecterValue x0 x1) ∨ (∃ x0 x1 x2, c = .setEventReceiver x0 x1 x2) ∨ (∃ x0, c = .requestUpdate x0) ∨ (∃ x0 x1, c = .pldmUpdateAgentCommand x0 x1) ∨ (∃ x0 x1 x2, c = .activateFirmware x0 x1 x2) ∨ (∃ x0 x1 x2 x3, c = .mctpMessage x0 x1 x2 x3) ∨ (∃ x0 x1, c = .setEndpointId x0 x1) ∨ (∃ x0 x1, c = .spdmRequest x0 x1) ∨ (∃ x0 x1 x2 x3 x4 x5, c = .modelKeySet x0 x1 x2 x3 x4 x5) ∨ (∃ x0 x1 x2, c = .modelKeyClear x0 x1 x2) ∨ (∃ x0 x1 x2, c = .ideKm x0 x1 x2) ∨ c = .mgtWatchdogRestart ∨ (∃ x0, c = .sensorRefresh x0) ∨ (∃ x0, c = .entdaa x0) ∨ c = .getstatus ∨ (∃ x0, c = .kxClose x0) ∨ (∃ x0 x1 x2, c = .kxComplete x0 x1 x2) ∨ (∃ x0, c = .ownerUpdate x0) ∨ (∃ x0 x1, c = .offerTimeout x0 x1) ∨ (∃ x0 x1, c = .oldKeyExpiry x0 x1) ∨ (∃ x0, c = .almLoad x0) ∨ c = .almSeal ∨ c = .almDiscard ∨ c = .writeBoot ∨ (∃ x0 x1 x2, c = .fwWrite x0 x1 x2) ∨ (∃ x0, c = .fwActivate x0) ∨ c = .fwInvalidate ∨ c = .activationTimeout ∨ (∃ x0, c = .leaseRenew x0) ∨ (∃ x0, c = .leaderElection x0) ∨ (∃ x0, c = .candidateYield x0) ∨ (∃ x0, c = .dirEntryExpire x0) ∨ (∃ x0 x1, c = .mirrorAudit x0 x1) ∨ c = .joinView ∨ c = .leaveView ∨ (∃ x0 x1, c = .heartbeatMsg x0 x1) ∨ (∃ x0 x1, c = .frameSend x0 x1) ∨ (∃ x0, c = .ackTimer x0) ∨ (∃ x0 x1 x2 x3, c = .tmUnitStart x0 x1 x2 x3) ∨ (∃ x0 x1 x2, c = .tmHwmRead x0 x1 x2) ∨ (∃ x0, c = .peakDwRead x0) ∨ (∃ x0 x1, c = .collectiveMsg x0 x1) ∨ (∃ x0, c = .evqCi x0) ∨ (∃ x0, c = .fenReset x0))) ∧
    (∃ (s : State), s.fenWaits = []) :=
  ⟨⟨h0, up, by decide, by decide, by decide, by decide, by decide, by decide⟩,
    ⟨h0, wr (HIF_QP_STATUS.STATE 0 0) 3 up, by decide, by decide, by decide, by decide⟩,
    ⟨.getstatus, up, _, rfl, by simp⟩,
    ⟨h5, samp0, false, false, 5, ses stReady, _, by decide, by decide, by decide, by decide, by decide, by decide, by decide, rfl⟩,
    ⟨h5, ⟨0, none⟩, 0, 0, 5, ses stReady, _, by decide, by decide, by decide, by decide, by decide, by decide, by decide, rfl⟩,
    ⟨0, 0, [], up, _, by decide, rfl, by decide⟩,
    ⟨.getstatus, up, _, rfl, by simp⟩,
    ⟨up, by decide⟩⟩

end Sys2Proof.Tests
end

section
/-!
SUPPORT and PROOF. The host link and BAR4: which fields a link change leaves with which value, what a BAR4 write does by the last byte of
it that lies in a protected area, and from these the statement `Obligations.HostLinkAndBar4` (O12).
-/
namespace Sys2Proof.Machine

/-! ## The host link (R397, R398) -/

theorem rd_wr_of_fkey_ne (f g : Fld) (v : Nat) (s : State) (h : fkey f ≠ fkey g) : rd f (wr g v s) = rd f s :=
  rd_wr_apart f g v s h

/-- Capacity that ports 0 and 1 get from a trained link: none from one that is not supported. -/
def linkCap (rate width : Nat) : Nat := if linkSupported rate width then linkMbps rate width else 0

/-- The registers that every link change sets, before a change of rate or width is counted and posted. -/
def linkTrained (rate width : Nat) (flit : Bool) (s : State) : State :=
  wr (TM_PORT.UP 0) (b2n (linkSupported rate width)) <| wr (TM_PORT.UP 1) (b2n (linkSupported rate width)) <|
  wr (TM_PORT.RATE_MBPS 0) (linkCap rate width) <| wr (TM_PORT.RATE_MBPS 1) (linkCap rate width) <|
  wr HIF_LINK.RATE rate <| wr HIF_LINK.WIDTH width <| wr HIF_LINK.FLIT (b2n flit) <|
  wr HIF_LINK.SUPPORTED (b2n (linkSupported rate width)) s

/-- Counting and posting the change touches HIF_LINK.CHANGES and fields that an event may touch, and no other. -/
theorem rd_linkChange (f : Fld) (rate width : Nat) (flit : Bool) (s : State) (hq : f.quiet) (hc : fkey f ≠ fkey HIF_LINK.CHANGES) :
    rd f (linkChange rate width flit s) = rd f (linkTrained rate width flit s) := by
  unfold linkChange
  dsimp only
  split
  · rw [rd_postPf f _ _ _ _ _ _ hq, rd_bump_apart f _ _ _ hc]
    rfl
  · rfl

theorem b2n_lt_two (b : Bool) : b2n b < 2 := by cases b <;> decide

/-- A supported link has at most 16 lanes, so its capacity fits the field of 32 bits. -/
theorem linkCap_lt (rate width : Nat) : linkCap rate width < 2 ^ 32 := by
  unfold linkCap
  split
  · next h =>
    have hw : width ≤ 16 := by
      simp only [linkSupported, Bool.and_eq_true, Bool.or_eq_true, beq_iff_eq] at h
      omega
    unfold linkMbps
    repeat' split
    all_goals omega
  · decide

section
variable (rate width : Nat) (flit : Bool) (s : State)

theorem rd_rate_linkChange (h : rate < 16) : rd HIF_LINK.RATE (linkChange rate width flit s) = rate := by
  rw [rd_linkChange _ _ _ _ _ (by unfold Fld.quiet; decide) (by decide), linkTrained]
  simp (disch := decide) only [rd_wr_of_fkey_ne, rd_wr_self]
  exact Nat.mod_eq_of_lt h
theorem rd_width_linkChange (h : width < 64) : rd HIF_LINK.WIDTH (linkChange rate width flit s) = width := by
  rw [rd_linkChange _ _ _ _ _ (by unfold Fld.quiet; decide) (by decide), linkTrained]
  simp (disch := decide) only [rd_wr_of_fkey_ne, rd_wr_self]
  exact Nat.mod_eq_of_lt h
theorem rd_supported_linkChange :
    rd HIF_LINK.SUPPORTED (linkChange rate width flit s) = b2n (linkSupported rate width) := by
  rw [rd_linkChange _ _ _ _ _ (by unfold Fld.quiet; decide) (by decide), linkTrained]
  simp (disch := decide) only [rd_wr_of_fkey_ne, rd_wr_self]
  exact Nat.mod_eq_of_lt (b2n_lt_two _)
theorem rd_up_linkChange (p : Nat) (hp : p = 0 ∨ p = 1) :
    rd (TM_PORT.UP p) (linkChange rate width flit s) = b2n (linkSupported rate width) := by
  rcases hp with rfl | rfl <;> rw [rd_linkChange _ _ _ _ _ (by unfold Fld.quiet; decide) (by decide), linkTrained] <;>
    simp (disch := decide) only [rd_wr_of_fkey_ne, rd_wr_self] <;> exact Nat.mod_eq_of_lt (b2n_lt_two _)
theorem rd_rateMbps_linkChange (p : Nat) (hp : p = 0 ∨ p = 1) :
    rd (TM_PORT.RATE_MBPS p) (linkChange rate width flit s) = linkCap rate width := by
  rcases hp with rfl | rfl <;> rw [rd_linkChange _ _ _ _ _ (by unfold Fld.quiet; decide) (by decide), linkTrained] <;>
    simp (disch := decide) only [rd_wr_of_fkey_ne, rd_wr_self] <;> exact Nat.mod_eq_of_lt (linkCap_lt _ _)
end

theorem exec_pcieLinkChange (rate width : Nat) (flit : Bool) (s : State) (hl : live s = true) :
    exec (.pcieLinkChange rate width flit) s = .next (linkChange rate width flit s) := by
  show execPcieLinkChange rate width flit s = _
  simp [execPcieLinkChange, whenLive, hl]

/-! ## Writes by engines (R110, R481) -/

theorem engWrite_of_owned (a : Nat) (bs : List Byte) (s : State) (h : chansOwned a bs.length s = true) :
    engWrite a bs s = { s with chanWait := s.chanWait ++ [(a, bs)] } := by
  simp [engWrite, h]
theorem engWrite_of_no_capture (a : Nat) (bs : List Byte) (s : State) (h : chansOwned a bs.length s = false) (hc : s.ckpt = none) :
    engWrite a bs s = memWrite a bs s := by
  simp [engWrite, unitWrite, h, hc]

/-! ## BAR4 (R21, R32, R402) -/

/-- The last of `n` bytes from an address that lies in a protected area. -/
def lastProtected (a n : Nat) : Option Nat := ((List.range n).filter fun k => bar4Area (a + k) != 0).getLast?

theorem lastProtected_eq_none {a n : Nat} (h : ∀ k, k < n → bar4Area (a + k) = 0) : lastProtected a n = none := by
  have hnil : (List.range n).filter (fun k => bar4Area (a + k) != 0) = [] := by
    rw [List.filter_eq_nil_iff]
    intro k hk
    simp [h k (List.mem_range.mp hk)]
  rw [lastProtected, hnil, List.getLast?_nil]

theorem lastProtected_add (a n m : Nat) (h : lastProtected (a + n) m = none) : lastProtected a (n + m) = lastProtected a n := by
  simp only [lastProtected, List.getLast?_eq_none_iff, List.filter_eq_nil_iff, Nat.add_assoc] at h
  simp only [lastProtected, List.range_add, List.filter_append, List.filter_map, Function.comp_def]
  rw [List.filter_eq_nil_iff.mpr h, List.map_nil, List.append_nil]

theorem lastProtected_eq_some {a n k : Nat} (hk : k < n) (hp : bar4Area (a + k) ≠ 0)
    (hlast : ∀ j, k < j → j < n → bar4Area (a + j) = 0) : lastProtected a n = some k := by
  obtain ⟨m, rfl⟩ := Nat.exists_eq_add_of_le (Nat.succ_le_of_lt hk)
  have hrest : lastProtected (a + (k + 1)) m = none := lastProtected_eq_none fun j hj => by
    rw [Nat.add_assoc]
    exact hlast _ (by omega) (by omega)
  rw [Nat.succ_eq_add_one, lastProtected_add a (k + 1) m hrest]
  simp [lastProtected, List.range_succ, hp]

/-- A write that stays in BAR4 and in the bonded tier: its last protected byte decides. `a` is the window's address of its first byte. -/
theorem bar4Write_eq {off a : Nat} {data : List Byte} {s : State} (ha : rd HIF_BAR4_WINDOW.ADDR s * 2 ^ 30 + off = a) (hne : data ≠ [])
    (hbar : off + data.length ≤ s.bar4Gib * 2 ^ 30) (hend : a + data.length ≤ bondedEnd) :
    bar4Write off data s = (lastProtected a data.length).elim (engWrite a data s) fun k =>
      bump HUB_BAR4_DISCARD.COUNT 1 (wr HUB_BAR4_DISCARD.LAST_REGION (bar4Area (a + k))
        ((bar4Runs a data).foldl (fun s r => engWrite r.1 r.2 s) s)) := by
  have htake : data.take (bondedEnd - a) = data := List.take_of_length_le (by omega)
  unfold bar4Write
  simp only [ha, htake, hne, or_false, Nat.not_lt.mpr hbar, if_false]
  unfold lastProtected
  cases ((List.range data.length).filter fun k => bar4Area (a + k) != 0).getLast? <;> rfl

theorem exec_bar4Write (off : Nat) (data : List Byte) (s : State) (hl : live s = true) (hs : ideShut s = false) :
    exec (.bar4Write off data) s = .next (bar4Write off data s) := by
  show execBar4Write off data s = _
  simp [execBar4Write, whenLive, tlpIn, hl, hs]

/-- A BAR4 write that meets no protected area is a write through the controllers. -/
theorem exec_bar4Write_unprotected {off a : Nat} {data : List Byte} {s : State} (hl : live s = true) (hs : ideShut s = false)
    (ha : rd HIF_BAR4_WINDOW.ADDR s * 2 ^ 30 + off = a) (hne : data ≠ []) (hbar : off + data.length ≤ s.bar4Gib * 2 ^ 30)
    (hend : a + data.length ≤ bondedEnd) (hp : ∀ k, k < data.length → bar4Area (a + k) = 0) :
    exec (.bar4Write off data) s = .next (engWrite a data s) := by
  rw [exec_bar4Write off data s hl hs, bar4Write_eq ha hne hbar hend, lastProtected_eq_none hp]
  rfl

/-- Settles O12: the link's fields by what a link change sets and an event leaves; a BAR4 write by its last protected byte. -/
theorem hostLinkAndBar4 : Obligations.HostLinkAndBar4 := by
  refine ⟨?link, ?stored, ?queued, ?discarded⟩
  case link =>
    intro rate width flit s hl hr hw
    exact ⟨_, exec_pcieLinkChange rate width flit s hl, rd_rate_linkChange _ _ _ _ hr, rd_width_linkChange _ _ _ _ hw,
      rd_supported_linkChange _ _ _ _, rd_up_linkChange _ _ _ _ 0 (.inl rfl), rd_up_linkChange _ _ _ _ 1 (.inr rfl),
      rd_rateMbps_linkChange _ _ _ _ 0 (.inl rfl), rd_rateMbps_linkChange _ _ _ _ 1 (.inr rfl)⟩
  case stored =>
    intro off data s hl hs hne hbar hend hp hc ho
    rw [exec_bar4Write_unprotected hl hs rfl hne hbar hend hp, engWrite_of_no_capture _ _ _ ho hc]
  case queued =>
    intro off data s hl hs hne hbar hend hp ho
    rw [exec_bar4Write_unprotected hl hs rfl hne hbar hend hp, engWrite_of_owned _ _ _ ho]
  case discarded =>
    intro off k data s hl hs hbar hend hk hp hlast
    have hne : data ≠ [] := List.ne_nil_of_length_pos (by omega)
    rw [exec_bar4Write off data s hl hs, bar4Write_eq rfl hne hbar hend, lastProtected_eq_some hk hp hlast]
    rfl

end Sys2Proof.Machine
end

section
/-!
SUPPORT and PROOF. Sidereal time: the rows of a live module, the classes of a pulse and the count at an edge, and from these the statements
`Obligations.SoftTick` (O15), `Obligations.PulseClasses` (O16) and `Obligations.CountAtEdge` (O17).
-/
namespace Sys2Proof.Machine

theorem whenLive_of_live {s : State} (hl : live s = true) (f : State → State) : whenLive s f = .next (f s) := by
  simp [whenLive, hl]

section
variable {s : State} (hl : live s = true)
include hl

theorem exec_softTick (t : Nat) (pw : TickPower) : exec (.softTick t pw) s = .next (softTick t pw s) :=
  whenLive_of_live hl (softTick t pw)
theorem exec_siderealPulse (t high : Nat) (pw : TickPower) :
    exec (.siderealPulse t high pw) s = .next (siderealPulse t high pw s) :=
  whenLive_of_live hl (siderealPulse t high pw)
theorem exec_syntheticTick (pw : TickPower) : exec (.syntheticTick pw) s = .next (syntheticTick pw s) :=
  whenLive_of_live hl (syntheticTick pw)
theorem exec_sidEpochTx (v : Nat) : exec (.sidEpochTx v) s = .next (epochTx v s) :=
  whenLive_of_live hl (epochTx v)
theorem exec_sidEpochLocal (v : Nat) : exec (.sidEpochLocal v) s = .next (epochLocal v s) :=
  whenLive_of_live hl (epochLocal v)
end

/-! ## SOFT_TICK (R71) -/

theorem softTick_of_noPulse {s : State} (h : rd SID_STATUS.STATE s = cNoPulse) (t : Nat) (pw : TickPower) :
    softTick t pw s = tickEdge 2 (64 * t) pw s := if_pos h
theorem softTick_of_pulses {s : State} (h : rd SID_STATUS.STATE s ≠ cNoPulse) (t : Nat) (pw : TickPower) : softTick t pw s = s := if_neg h

/-- Settles O15: the two branches of SOFT_TICK. -/
theorem softTick_holds : Obligations.SoftTick := by
  refine ⟨?edge, ?ignored⟩
  case edge =>
    intro t pw s hl hst
    rw [exec_softTick hl, softTick_of_noPulse hst]
  case ignored =>
    intro t pw s hl hst
    rw [exec_softTick hl, softTick_of_pulses hst]

/-! ## The classes of a pulse (R64) -/

section
variable {t high e : Nat} {pw : TickPower} {s : State}

theorem siderealPulse_glitch (hh : high < 200) : siderealPulse t high pw s = bump SID_PULSE_COUNTS.GLITCH 1 s := if_pos hh

theorem siderealPulse_extra (hh : 200 ≤ high) (he : s.cad.lastEdge = some e) (hg : 64 * t - e < 40000 * 64) :
    siderealPulse t high pw s = bump SID_PULSE_COUNTS.EXTRA 1 s := by
  unfold siderealPulse
  rw [if_neg (Nat.not_lt.mpr hh), if_pos (by simpa [he] using hg)]

theorem siderealPulse_absorbed (hh : 200 ≤ high) (he : s.cad.lastEdge = some e) (hg : 40000 * 64 ≤ 64 * t - e)
    (hs : s.cad.lastSynthetic = true) (hp : 64 * t - e < 2 * periodQ s) : siderealPulse t high pw s = absorbPulse (64 * t) s := by
  unfold siderealPulse
  rw [if_neg (Nat.not_lt.mpr hh), if_neg (by simpa [he] using hg), if_pos (by simpa [he, hs] using hp)]

/-- Neither too soon after the last edge nor in the place of a synthetic tick. -/
theorem siderealPulse_accepted (hh : 200 ≤ high)
    (hg : ∀ e, s.cad.lastEdge = some e → 40000 * 64 ≤ 64 * t - e ∧ (s.cad.lastSynthetic = true → 2 * periodQ s ≤ 64 * t - e)) :
    siderealPulse t high pw s = acceptPulse (64 * t) pw s := by
  unfold siderealPulse
  rw [if_neg (Nat.not_lt.mpr hh)]
  cases he : s.cad.lastEdge with
  | none => simp
  | some e =>
    obtain ⟨hextra, habsorb⟩ := hg e he
    rw [if_neg (by simpa using hextra), if_neg (by simpa using habsorb)]

end

theorem syntheticTick_of_period {s : State} (h : periodQ s ≠ 0) (pw : TickPower) :
    syntheticTick pw s = tickEdge 1 s.cad.nextSynth pw
      { s with cad.lastEdge := some s.cad.nextSynth, cad.lastSynthetic := true, cad.synthSinceReal := true,
               cad.nextSynth := s.cad.nextSynth + 4 * periodQ s } := if_neg h

/-- Settles O16: each class of a pulse by its own condition, then synthetic ticks and written values. -/
theorem pulseClasses : Obligations.PulseClasses := by
  refine ⟨?glitch, ?extra, ?absorbed, ?accepted, ?synthetic, ?tx, ?written⟩
  case glitch =>
    intro t high pw s hl hh
    rw [exec_siderealPulse hl, siderealPulse_glitch hh]
  case extra =>
    intro t high e pw s hl hh he hg
    rw [exec_siderealPulse hl, siderealPulse_extra hh he hg]
  case absorbed =>
    intro t high e pw s hl hh he hg hs hp
    rw [exec_siderealPulse hl, siderealPulse_absorbed hh he hg hs hp]
    rfl
  case accepted =>
    intro t high pw s hl hh hg
    rw [exec_siderealPulse hl, siderealPulse_accepted hh hg]
  case synthetic =>
    intro pw s hl hp
    rw [exec_syntheticTick hl, syntheticTick_of_period hp]
  case tx =>
    intro v s hl
    rw [exec_sidEpochTx hl]
    rfl
  case written =>
    intro v s hl
    rw [exec_sidEpochLocal hl]
    rfl

/-! ## The count at an edge (R66, R72, R73) -/

theorem now_wr_count (v : Nat) (s : State) : now (wr SID_COUNT.COUNT v s) = v % 2 ^ 64 := rd_wr_self _ _ _

theorem now_loadEpoch {v : Nat} (hv : v < 2 ^ 64) (adv : Nat) (s : State) : now (loadEpoch v adv s) = v := by
  unfold loadEpoch
  rw [now_wr_count, Nat.mod_eq_of_lt hv]

theorem writtenDue_of_none {s : State} (h : s.cad.written = none) (real : Bool) : writtenDue real s = none := by
  simp [writtenDue, h]
/-- A value for this module alone is due at an edge of any kind. -/
theorem writtenDue_local {s : State} {v : Nat} (h : s.cad.written = some (v, false)) (real : Bool) : writtenDue real s = some (v, false) := by
  simp [writtenDue, h]
theorem writtenDue_broadcast_real {s : State} {v : Nat} (h : s.cad.written = some (v, true)) : writtenDue true s = some (v, true) := by
  simp [writtenDue, h]
theorem writtenDue_broadcast_other {s : State} {v : Nat} (h : s.cad.written = some (v, true)) : writtenDue false s = none := by
  simp [writtenDue, h]

/-- Which value is due depends on the written value alone, which the edge's frames leave. -/
theorem writtenDue_framesTaken (real : Bool) (c : Prop) [Decidable c] (fs : List (Nat × Nat × Nat)) (s : State) :
    writtenDue real (if c then s else { s with cad.frames := fs }) = writtenDue real s := by
  split <;> rfl

/-- A written value that is due loads, whatever frames wait. -/
theorem countEdge_of_written_due {kind v : Nat} {tx : Bool} {s : State} (h : writtenDue (kind == 0) s = some (v, tx)) (hv : v < 2 ^ 64) (t : Nat) :
    now (countEdge kind t s).2 = v ∧ (countEdge kind t s).1 = true := by
  unfold countEdge
  simp only [writtenDue_framesTaken, h]
  exact ⟨now_loadEpoch hv _ _, trivial⟩

theorem framesDue_of_no_frames {s : State} (h : s.cad.frames = []) (t : Nat) : framesDue t s = [] := by
  simp [framesDue, h]

/-- With no written value due and no frame the count advances, and what was written still waits. -/
theorem countEdge_of_nothing_due {kind : Nat} {s : State} (h : writtenDue (kind == 0) s = none) (hf : s.cad.frames = []) (t : Nat) :
    now (countEdge kind t s).2 = (now s + 1) % 2 ^ 64 ∧ (countEdge kind t s).2.cad.written = s.cad.written := by
  have hchosen : (if (kind == 0) = true then frameChosen [] else none) = none := by split <;> rfl
  unfold countEdge
  simp only [writtenDue_framesTaken, h, framesDue_of_no_frames hf, ite_self, hchosen]
  refine ⟨by rw [now_wr_count, Nat.mod_mod], ?_⟩
  split <;> rfl

/-- Settles O17: by whether a written value is due at the edge. -/
theorem countAtEdge : Obligations.CountAtEdge := by
  refine ⟨?advance, ?alone, ?broadcast, ?waits⟩
  case advance =>
    intro kind t s hw hf
    exact (countEdge_of_nothing_due (writtenDue_of_none hw _) hf t).1
  case alone =>
    intro kind t v s hw hv
    exact countEdge_of_written_due (writtenDue_local hw _) hv t
  case broadcast =>
    intro t v s hw hv
    exact countEdge_of_written_due (kind := 0) (writtenDue_broadcast_real hw) hv t
  case waits =>
    intro kind t v s hk hw hf
    have hnone : writtenDue (kind == 0) s = none := by
      rw [beq_eq_false_iff_ne.mpr hk]
      exact writtenDue_broadcast_other hw
    obtain ⟨hnow, hkept⟩ := countEdge_of_nothing_due hnone hf t
    exact ⟨hnow, hkept.trans hw⟩

end Sys2Proof.Machine
end

section
/-!
SUPPORT and PROOF. Ephemeris tables: what putting a table shows, the equations of the actions, waits and controls, EPHEMERIS_SUBMIT of a run
that passes its checks, and from these the statements `Obligations.EphemerisActions` (O19), `Obligations.EphemerisControls` (O20) and
`Obligations.SubmitWithoutCadence` (O54).
-/
namespace Sys2Proof.Machine

/-! ## Tables and what is shown of them (R89) -/

@[simp] theorem ephOf_wr (t : Nat) (f : Fld) (v : Nat) (s : State) : ephOf t (wr f v s) = ephOf t s := rfl
@[simp] theorem ephOf_putEph (t : Nat) (x : EphTable) (s : State) : ephOf t (putEph t x s) = x := sgetD_sset_self s.eph t x {}
@[simp] theorem putEph_desc (t : Nat) (x : EphTable) (s : State) : (putEph t x s).desc = s.desc := rfl
@[simp] theorem putEph_mem (t : Nat) (x : EphTable) (s : State) : (putEph t x s).mem = s.mem := rfl

/-- Fields below those that show the tables stay. -/
theorem rd_putEph (f : Fld) (t : Nat) (x : EphTable) (s : State) (hw : f.lo < 64 ∧ f.hi < 64) (ho : f.off < 0x20500) :
    rd f (putEph t x s) = rd f s := by
  have hshown : ∀ (g : Fld) (v : Nat) (s : State), g.lo < 64 ∧ g.hi < 64 → 0x20500 ≤ g.off → rd f (wr g v s) = rd f s :=
    fun g v s hg hoff => rd_wr_apart f g v s (apart_of_off f g hw hg (Nat.ne_of_lt (Nat.lt_of_lt_of_le ho hoff)))
  unfold putEph
  rw [hshown _ _ _ (by decide : (0 : Nat) < 64 ∧ (15 : Nat) < 64) (Nat.le_add_right _ _),
    hshown _ _ _ (by decide : (16 : Nat) < 64 ∧ (32 : Nat) < 64) (Nat.le_add_right _ _),
    hshown _ _ _ (by decide : (33 : Nat) < 64 ∧ (33 : Nat) < 64) (Nat.le_add_right _ _),
    hshown _ _ _ (by decide : (0 : Nat) < 64 ∧ (63 : Nat) < 64) (Nat.le_trans (by decide) (Nat.le_add_right 0x20700 _))]
  rfl

theorem rd_head_putEph (t : Nat) (x : EphTable) (s : State) : rd (EPH_TABLE_STATUS.HEAD t) (putEph t x s) = x.head % 2 ^ 16 :=
  rd_wr_self _ _ _

theorem apart_pending_head (t : Nat) : apart (EPH_TABLE_STATUS.PENDING t) (EPH_TABLE_STATUS.HEAD t) := by
  simp only [apart, fkey, EPH_TABLE_STATUS.PENDING, EPH_TABLE_STATUS.HEAD]
  omega
theorem rd_pending_putEph (t : Nat) (x : EphTable) (s : State) :
    rd (EPH_TABLE_STATUS.PENDING t) (putEph t x s) = x.entries.length % 2 ^ 17 := by
  unfold putEph
  rw [rd_wr_apart _ _ _ _ (apart_pending_head t), rd_wr_self]
  rfl

theorem ephTableCtrl_off_lt {t : Nat} (ht : t < 64) : 0x20300 + 0x8 * t < 0x20500 := by omega

theorem rd_enable_putEph {t : Nat} (ht : t < 64) (x : EphTable) (s : State) :
    rd (EPH_TABLE_CTRL.ENABLE t) (putEph t x s) = rd (EPH_TABLE_CTRL.ENABLE t) s :=
  rd_putEph _ t x s (by decide : (0 : Nat) < 64 ∧ (0 : Nat) < 64) (ephTableCtrl_off_lt ht)
theorem ringSize_putEph {t : Nat} (ht : t < 64) (x : EphTable) (s : State) : ringSize t (putEph t x s) = ringSize t s :=
  congrArg (2 ^ ·) (rd_putEph _ t x s (by decide : (8 : Nat) < 64 ∧ (12 : Nat) < 64) (ephTableCtrl_off_lt ht))

theorem ringTail_flushEph {t : Nat} (ht : t < 64) (s : State) : ringTail t (flushEph t s) = ringTail t s := by
  simp only [ringTail, flushEph, ephOf_putEph, ringSize_putEph ht, List.length_nil, Nat.add_zero, Nat.mod_mod]

/-! ## Rows of a module that serves -/

theorem whenServing_of_serving {s : State} (hs : serving s = true) (f : State → State) : whenServing s f = .next (f s) := by
  simp [whenServing, hs]

section
variable {s : State} (hs : serving s = true)
include hs

theorem exec_nopEntry (table idx : Nat) (e : EphEntry) : exec (.nopEntry table idx e) s = .next (actNop table idx e s) :=
  whenServing_of_serving hs (actNop table idx e)
theorem exec_ephFenceSignal (table idx : Nat) (e : EphEntry) : exec (.ephFenceSignal table idx e) s = .next (actSignal table idx e s) :=
  whenServing_of_serving hs (actSignal table idx e)
theorem exec_ephFenceWait (table idx : Nat) (e : EphEntry) : exec (.ephFenceWait table idx e) s = .next (actWait table idx e s) :=
  whenServing_of_serving hs (actWait table idx e)
theorem exec_ephTableUnblock (table : Nat) : exec (.ephTableUnblock table) s = .next (tableUnblock table s) :=
  whenServing_of_serving hs (tableUnblock table)
theorem exec_ephWaitTimeout (table : Nat) : exec (.ephWaitTimeout table) s = .next (waitTimeout table s) :=
  whenServing_of_serving hs (waitTimeout table)
theorem exec_ephEnable (on : Bool) : exec (.ephEnable on) s = .next (ephEnable on s) :=
  whenServing_of_serving hs (ephEnable on)
theorem exec_ephTableEnable (table : Nat) (on : Bool) : exec (.ephTableEnable table on) s = .next (tableEnable table on s) :=
  whenServing_of_serving hs (tableEnable table on)
theorem exec_ephTablePause (table : Nat) (on : Bool) : exec (.ephTablePause table on) s = .next (tablePause table on s) :=
  whenServing_of_serving hs (tablePause table on)
theorem exec_ephFlush (table : Nat) : exec (.ephFlush table) s = .next (tableFlush table s) :=
  whenServing_of_serving hs (tableFlush table)
end

/-! ## Actions and waits (R79, R80, R84) -/

section
variable {table idx lim : Nat} {e : EphEntry} {s : State}

theorem actionDone_silent (h : bitOf e.flags 0 = false) : actionDone table idx e s = s := by
  simp [actionDone, h]
theorem actionDone_notify (h : bitOf e.flags 0 = true) :
    actionDone table idx e s = postPf 0x0003 0x03 sOk e.tag (table * 2 ^ 48 + idx) s := by
  simp [actionDone, h]

theorem actWait_reached (h : e.opA ≤ fenceVal e.target s) : actWait table idx e s = actionDone table idx e s := if_pos h

/-- A FENCE_WAIT whose fence has not come so far only puts its table: blocked, with the entry at its head. -/
theorem actWait_blocks (h : fenceVal e.target s < e.opA) :
    ∃ x : EphTable, actWait table idx e s = putEph table x s ∧ x.entries.head? = some e ∧ x.head = idx ∧
      x.blocked = some (if e.opB = 0 then 0 else s.cad.edges + e.opB) := by
  unfold actWait
  rw [if_neg (Nat.not_le.mpr h)]
  dsimp only
  split
  · next hhead => exact ⟨_, rfl, hhead.1, hhead.2, rfl⟩
  · exact ⟨_, rfl, rfl, rfl, rfl⟩

theorem tableUnblock_reached (hb : (ephOf table s).blocked = some lim) (hh : (ephOf table s).entries.head? = some e)
    (hf : e.opA ≤ fenceVal e.target s) :
    tableUnblock table s = ephDispatch (actionDone table (ephOf table s).head e (popEph table s)) := by
  simp only [tableUnblock, hb, hh, hf, if_true]

theorem waitTimeout_passed (hb : (ephOf table s).blocked = some lim) (hh : (ephOf table s).entries.head? = some e)
    (hf : fenceVal e.target s < e.opA) (h0 : 0 < lim) (hlim : lim ≤ s.cad.edges) :
    waitTimeout table s = ephDispatch (postPf 0x0004 0x03 sTimeout e.tag (table * 2 ^ 48 + (ephOf table s).head)
      (bump EPH_EVENTS.WAIT_TIMEOUTS 1 (popEph table s))) := by
  simp only [waitTimeout, hb, hh, hf, h0, hlim, and_self, if_true]

end

/-- Settles O19: each action by its equation; a wait by whether its fence has come so far, or its edges have passed. -/
theorem ephemerisActions : Obligations.EphemerisActions := by
  refine ⟨?nop, ?notify, ?signal, ?reached, ?blocks, ?unblock, ?timeout⟩
  case nop =>
    intro table idx e s hs hn
    rw [exec_nopEntry hs, actNop, actionDone_silent hn]
  case notify =>
    intro table idx e s hs hn
    rw [exec_nopEntry hs, actNop, actionDone_notify hn]
  case signal =>
    intro table idx e s hs
    rw [exec_ephFenceSignal hs, actSignal]
  case reached =>
    intro table idx e s hs hf
    rw [exec_ephFenceWait hs, actWait_reached hf]
  case blocks =>
    intro table idx e s hs hf
    obtain ⟨x, hput, hentry, hidx, hblocked⟩ := actWait_blocks (table := table) (idx := idx) hf
    refine ⟨_, exec_ephFenceWait hs table idx e, ?_⟩
    rw [hput, ephOf_putEph]
    exact ⟨hentry, hidx, hblocked, rfl, rfl⟩
  case unblock =>
    intro table lim e s hs hb hh hf
    rw [exec_ephTableUnblock hs, tableUnblock_reached hb hh hf]
  case timeout =>
    intro table lim e s hs hb hh hf h0 hlim
    rw [exec_ephWaitTimeout hs, waitTimeout_passed hb hh hf h0 hlim]

/-! ## Controls (R86, R88) -/

section
variable {t : Nat} {s : State} (ht : t < 64)
include ht

theorem tableEnable_set (he : isSet (EPH_TABLE_CTRL.ENABLE t) s = false) (hp : ephPlaceOk t s = true) :
    tableEnable t true s = putEph t {} (wr (EPH_TABLE_CTRL.ENABLE t) 1 s) := by
  simp [tableEnable, Nat.not_le.mpr ht, he, hp]
theorem tableEnable_clear (he : isSet (EPH_TABLE_CTRL.ENABLE t) s = true) :
    tableEnable t false s = wr (EPH_TABLE_CTRL.ENABLE t) 0 (flushEph t s) := by
  simp [tableEnable, Nat.not_le.mpr ht, he]
theorem tablePause_eq (on : Bool) : tablePause t on s = ephDispatch (wr (EPH_TABLE_CTRL.PAUSE t) (b2n on) s) :=
  if_neg (Nat.not_le.mpr ht)
theorem tableFlush_eq : tableFlush t s = flushEph t s := if_neg (Nat.not_le.mpr ht)
end

/-! ## What being started leaves -/

theorem memByte_congr {s t : State} (hm : t.mem = s.mem) (hd : t.deepMem = s.deepMem) (a : Nat) : memByte t a = memByte s a := by
  simp only [memByte, hm, hd]
theorem memRead_congr {s t : State} (hm : t.mem = s.mem) (hd : t.deepMem = s.deepMem) (a n : Nat) : memRead t a n = memRead s a n := by
  induction n generalizing a with
  | zero => rfl
  | succ n ih => simp only [memRead, memByte_congr hm hd, ih]

section
variable (h : Hdr) (op : Nat) (s : State)

@[simp] theorem entered_mem : (entered h op s).mem = s.mem := by
  obtain ⟨y, hy⟩ := entered_cases h op s
  rw [hy]
@[simp] theorem entered_deepMem : (entered h op s).deepMem = s.deepMem := by
  obtain ⟨y, hy⟩ := entered_cases h op s
  rw [hy]
@[simp] theorem entered_poisonIn (a n : Nat) : poisonIn a n (entered h op s) = poisonIn a n s := by
  obtain ⟨y, hy⟩ := entered_cases h op s
  rw [hy]
  rfl
@[simp] theorem entered_ideShut : ideShut (entered h op s) = ideShut s := by
  obtain ⟨y, hy⟩ := entered_cases h op s
  rw [hy]
  rfl
@[simp] theorem entered_memRead (a n : Nat) : memRead (entered h op s) a n = memRead s a n :=
  memRead_congr (entered_mem h op s) (entered_deepMem h op s) a n
@[simp] theorem entered_bufRead (g : Hdr) (b : Buf) (n : Nat) : bufRead g b n (entered h op s) = bufRead g b n s := by
  simp only [bufRead, entered_memRead, entered_poisonIn, entered_ideShut]
@[simp] theorem entered_ephOf (t : Nat) : ephOf t (entered h op s) = ephOf t s := by
  obtain ⟨y, hy⟩ := entered_cases h op s
  rw [hy]
  rfl
@[simp] theorem entered_isSet (f : Fld) : isSet f (entered h op s) = isSet f s := by simp only [isSet, entered_rd]
@[simp] theorem entered_ringSize (t : Nat) : ringSize t (entered h op s) = ringSize t s := by simp only [ringSize, entered_rd]
@[simp] theorem entered_ringTail (t : Nat) : ringTail t (entered h op s) = ringTail t s := by
  simp only [ringTail, entered_ephOf, entered_ringSize]
@[simp] theorem entered_cadenceLocked : cadenceLocked (entered h op s) = cadenceLocked s := by simp only [cadenceLocked, entered_rd]
end

/-! ## EPHEMERIS_SUBMIT (R70, R81) -/

/-- A run meets the conditions of R81 on its table: the table takes it, and no entry of it fails. -/
structure RunFits (h : Hdr) (table count : Nat) (buf : Buf) (bs : List Byte) (s : State) : Prop where
  countPos : count ≠ 0
  countLe : count ≤ 65536
  tableLt : table < 64
  read : bufRead h buf (32 * count) s = some bs
  enabled : isSet (EPH_TABLE_CTRL.ENABLE table) s = true
  room : (ephOf table s).entries.length + count ≤ ringSize table s
  entries : badEntry ((ephOf table s).entries.getLast?.map (·.tick)) 0 ((pieces 32 count bs).map entryOf) = none

section
variable {h : Hdr} {table count : Nat} {buf : Buf} {bs : List Byte} {s : State}

theorem runFits_entered (op : Nat) (fits : RunFits h table count buf bs s) : RunFits h table count buf bs (entered h op s) where
  countPos := fits.countPos
  countLe := fits.countLe
  tableLt := fits.tableLt
  read := by rw [entered_bufRead, fits.read]
  enabled := by rw [entered_isSet, fits.enabled]
  room := by rw [entered_ephOf, entered_ringSize]; exact fits.room
  entries := by rw [entered_ephOf, fits.entries]

theorem ephSubmit_of_fits (hi : intakeFails h 0x40 false s = false) (fits : RunFits h table count buf bs s) :
    ephSubmit h table count buf s =
      ephDispatch (complete h 0x40 (if cadenceLocked s then sOk else sCadenceLost) 0 (ringTail table s) ones64
        (ephAppend table ((pieces 32 count bs).map entryOf) bs s)) := by
  obtain ⟨hpos, hle, ht, hread, hen, hroom, hbad⟩ := fits
  unfold ephSubmit
  simp [hi, hpos, Nat.not_lt.mpr hle, Nat.not_le.mpr ht, hread, hen, Nat.not_lt.mpr hroom, hbad]

/-- A run that fits is appended whatever the cadence, which the completion's status alone shows. -/
theorem exec_ephemerisSubmit_of_fits (hp : passes h 0x40 false s = true) (fits : RunFits h table count buf bs s) :
    exec (.ephemerisSubmit h table count buf) s =
      .next (ephDispatch (complete h 0x40 (if cadenceLocked s then sOk else sCadenceLost) 0 (ringTail table s) ones64
        (ephAppend table ((pieces 32 count bs).map entryOf) bs (entered h 0x40 s)))) := by
  obtain ⟨hrow, hintake⟩ := host_passes h 0x40 false s (ephSubmit h table count buf) hp (.inl rfl)
  show hostCmd h 0x40 s (ephSubmit h table count buf) = _
  rw [hrow, ephSubmit_of_fits hintake (runFits_entered 0x40 fits), entered_cadenceLocked, entered_ringTail]

end

theorem cadenceLocked_of_locked {s : State} (h : rd SID_STATUS.STATE s = cLocked ∨ rd SID_STATUS.STATE s = cHoldover) :
    cadenceLocked s = true := by
  rcases h with h | h <;> simp [cadenceLocked, h]
theorem cadenceLocked_of_lost {s : State}
    (h : rd SID_STATUS.STATE s = cNoPulse ∨ rd SID_STATUS.STATE s = cUnaligned ∨ rd SID_STATUS.STATE s = cFreewheel) :
    cadenceLocked s = false := by
  rcases h with h | h | h <;> rw [cadenceLocked, h] <;> decide

/-- Settles O54: the status by the cadence state, all else the same. -/
theorem submitWithoutCadence : Obligations.SubmitWithoutCadence := by
  intro h table count buf bs s hp hpos hle ht hread hen hroom hbad
  have hexec := exec_ephemerisSubmit_of_fits hp ⟨hpos, hle, ht, hread, hen, hroom, hbad⟩
  refine ⟨fun hlost => ?lost, fun hlocked => ?locked⟩
  case lost => rw [hexec, cadenceLocked_of_lost hlost, if_neg Bool.false_ne_true]
  case locked => rw [hexec, cadenceLocked_of_locked hlocked, if_pos rfl]

/-- Settles O20: each control by what it puts into the table and its registers, then the append of a run that fits. -/
theorem ephemerisControls : Obligations.EphemerisControls := by
  refine ⟨?enable, ?disable, ?flush, ?pause, ?sequencer, ?submit⟩
  case enable =>
    intro table s hs ht he hp
    refine ⟨_, exec_ephTableEnable hs table true, ?_⟩
    rw [tableEnable_set ht he hp, ephOf_putEph, rd_enable_putEph ht, rd_wr_self, rd_pending_putEph, rd_head_putEph]
    exact ⟨rfl, rfl, rfl, rfl, rfl, rfl⟩
  case disable =>
    intro table s hs ht he
    refine ⟨_, exec_ephTableEnable hs table false, ?_⟩
    rw [tableEnable_clear ht he, ephOf_wr, flushEph, ephOf_putEph, rd_wr_self]
    exact ⟨rfl, Nat.zero_mod _, rfl, rfl⟩
  case flush =>
    intro table s hs ht
    refine ⟨_, exec_ephFlush hs table, ?_⟩
    rw [tableFlush_eq ht, ringTail_flushEph ht, flushEph, ephOf_putEph]
    exact ⟨rfl, rfl, rfl, rfl, rfl⟩
  case pause =>
    intro table on s hs ht
    rw [exec_ephTablePause hs, tablePause_eq ht]
  case sequencer =>
    intro on s hs
    rw [exec_ephEnable hs, ephEnable]
  case submit =>
    intro h table count buf bs s hp hpos hle ht hread hen hroom hbad
    exact exec_ephemerisSubmit_of_fits hp ⟨hpos, hle, ht, hread, hen, hroom, hbad⟩

end Sys2Proof.Machine
end

section
/-!
SUPPORT and PROOF. Messages of other modules: what reserving for an incoming migration keeps, the equations of each message by what the
module holds when it comes, and from these the statement `Obligations.PeerMessages` (O50).
-/
namespace Sys2Proof.Machine

/-! ## What a reservation keeps (R34, R101, R502) -/

/-- What names a descriptor slot, and what is held of other modules, are as they were. -/
structure SlotsKept (s t : State) : Prop where
  net : t.net = s.net
  desc : t.desc = s.desc
  boots : t.boots = s.boots
  self : selfId t = selfId s

theorem SlotsKept.refl (s : State) : SlotsKept s s := ⟨rfl, rfl, rfl, rfl⟩
theorem SlotsKept.trans {s t u : State} (h : SlotsKept s t) (k : SlotsKept t u) : SlotsKept s u :=
  ⟨k.net.trans h.net, k.desc.trans h.desc, k.boots.trans h.boots, k.self.trans h.self⟩

theorem slotsKept_wr {f : Fld} (hf : apart SES_CTRL.MODULE_ID f) (v : Nat) (s : State) : SlotsKept s (wr f v s) :=
  ⟨rfl, rfl, rfl, rd_wr_apart _ _ _ _ hf⟩

/-- The handle that a slot's next session gets (R33, R34). -/
def slotHandle (i : Nat) (s : State) : Nat := mkHandle (selfId s) i (hGen (descOf i s).handle)

theorem SlotsKept.slotHandle_eq {s t : State} (h : SlotsKept s t) (i : Nat) : slotHandle i t = slotHandle i s := by
  unfold slotHandle descOf
  rw [h.self, h.desc, h.boots]

theorem slotsKept_chanTake (g a n : Nat) (s : State) : SlotsKept s (chanTake g a n s) := by
  have hoff : apart SES_CTRL.MODULE_ID (MEM_CH_USED.ALLOCATED (g / 192) (g / 32 % 6)) := by
    simp only [apart, fkey, SES_CTRL.MODULE_ID, MEM_CH_USED.ALLOCATED]
    omega
  exact ⟨rfl, rfl, rfl, rd_wrBit_apart _ _ _ _ _ hoff⟩

/-- An allocation is a run taken of the channel that it answers. -/
theorem allocIn_cases {cands : List Nat} {n g a : Nat} {s t : State} (h : allocIn cands n s = some (g, a, t)) :
    t = chanTake g a n { s with fresh := s.fresh + 1 } := by
  unfold allocIn at h
  obtain ⟨c, -, hc⟩ := Option.bind_eq_some_iff.mp h
  obtain ⟨b, -, hb⟩ := Option.map_eq_some_iff.mp hc
  cases hb
  rfl

theorem slotsKept_allocIn {cands : List Nat} {n g a : Nat} {s t : State} (h : allocIn cands n s = some (g, a, t)) : SlotsKept s t := by
  rw [allocIn_cases h]
  exact ⟨rfl, rfl, rfl, (slotsKept_chanTake g a n { s with fresh := s.fresh + 1 }).self⟩

theorem slotsKept_takeKeyExt {i : Nat} {s u : State} (h : takeKeyExt i s = some u) : SlotsKept s u := by
  unfold takeKeyExt at h
  dsimp only at h
  split at h
  case isTrue => cases h; exact .refl s
  case isFalse =>
    split at h
    case isTrue => cases h
    case isFalse =>
      split at h
      case h_1 => cases h
      case h_2 g a v hv =>
        cases h
        obtain ⟨hnet, hdesc, hboots, hself⟩ := slotsKept_allocIn hv
        exact ⟨hnet, hdesc, hboots, (rd_wr_apart _ _ _ _ (by unfold apart; decide)).trans hself⟩

theorem foldl_bind_none {α β : Type} (f : α → β → Option β) (l : List α) : l.foldl (fun o a => o.bind (f a)) none = none := by
  induction l with
  | nil => rfl
  | cons a l ih => exact ih

theorem takeChunks_cons (k : Nat) (ks : List Nat) (s : State) : takeChunks (k :: ks) s =
    (deepPlace k s).bind fun v => takeChunks ks { s with chunkMap := sset s.chunkMap k v } := by
  unfold takeChunks
  rw [List.foldl_cons, Option.bind_some]
  cases deepPlace k s with
  | none => exact foldl_bind_none _ ks
  | some v => rfl

/-- Marking chunks allocated changes the chunk map alone. -/
theorem takeChunks_cases {ks : List Nat} {s t : State} (h : takeChunks ks s = some t) : ∃ m, t = { s with chunkMap := m } := by
  induction ks generalizing s with
  | nil => cases h; exact ⟨_, rfl⟩
  | cons k ks ih =>
    rw [takeChunks_cons] at h
    obtain ⟨v, -, hv⟩ := Option.bind_eq_some_iff.mp h
    obtain ⟨m, hm⟩ := ih hv
    exact ⟨m, hm⟩

theorem slotsKept_allocDeep {n lo hi : Nat} {ks : List Nat} {s v : State} (h : allocDeep n lo hi s = some (ks, v)) : SlotsKept s v := by
  unfold allocDeep at h
  split at h
  case isTrue => cases h
  case isFalse =>
    split at h
    case h_1 => cases h
    case h_2 c hc =>
      obtain ⟨t, ht, hv⟩ := Option.map_eq_some_iff.mp h
      cases hv
      obtain ⟨m, rfl⟩ := takeChunks_cases ht
      exact ⟨rfl, rfl, rfl, rd_wr_apart _ _ _ _ (by unfold apart; decide)⟩

@[simp] theorem popFree_poolBytes (s : State) : (popFree s).poolBytes = s.poolBytes := by
  unfold popFree
  split <;> rfl
@[simp] theorem charge_net (c n : Nat) (s : State) : (charge c n s).net = s.net := rfl
@[simp] theorem charge_poolBytes (c n : Nat) (s : State) : (charge c n s).poolBytes = s.poolBytes + n := rfl

/-! ## Set-ups (R152, R308) -/

/-- An incoming session takes the head of the free list and is answered with its new handle. -/
def enterIncoming (n : Incoming) (s : State) : State :=
  answerXfer n.src n.tag sOk n.handle (showIncoming { popFree s with net.incoming := s.net.incoming ++ [n] })

@[simp] theorem enterIncoming_incoming (n : Incoming) (s : State) : (enterIncoming n s).net.incoming = s.net.incoming ++ [n] := rfl
@[simp] theorem enterIncoming_poolBytes (n : Incoming) (s : State) : (enterIncoming n s).poolBytes = s.poolBytes := popFree_poolBytes s

section
variable {src tag bonded deep i : Nat} {parked : Bool} {ks : List Nat} {d : Desc} {s u v : State}

theorem setUpSession_full (hroom : 256 ≤ s.net.incoming.length) :
    setUpSession src tag d parked bonded deep s = answerXfer src tag sBusy 0 s := if_pos hroom

variable (hroom : s.net.incoming.length < 256)
include hroom

theorem setUpSession_no_slot (hfree : freeHead s = none) :
    setUpSession src tag d parked bonded deep s = answerXfer src tag sCapacity 0 s := by
  rw [setUpSession, if_neg (Nat.not_le.mpr hroom), hfree]
  rfl

variable (hfree : freeHead s = some i)
include hfree

theorem setUpSession_no_keyExt (hext : takeKeyExt i s = none) :
    setUpSession src tag d parked bonded deep s = answerXfer src tag sCapacity 0 s := by
  rw [setUpSession, if_neg (Nat.not_le.mpr hroom), hfree, Option.bind_some, hext]
  rfl

variable (hext : takeKeyExt i s = some u)
include hext

theorem setUpSession_resident (hpool : canSupply d.cls bonded u = true) :
    setUpSession src tag d false bonded deep s =
      enterIncoming { src := src, tag := tag, idx := i, handle := slotHandle i u, bytes := bonded, d := d } (charge d.cls bonded u) := by
  rw [setUpSession, if_neg (Nat.not_le.mpr hroom), hfree, Option.bind_some, hext]
  exact if_pos hpool

theorem setUpSession_no_pool (hpool : canSupply d.cls bonded u = false) :
    setUpSession src tag d false bonded deep s = answerXfer src tag sCapacity 0 u := by
  rw [setUpSession, if_neg (Nat.not_le.mpr hroom), hfree, Option.bind_some, hext]
  exact if_neg (ne_true_of_eq_false hpool)

theorem setUpSession_parked (hdeep : allocDeep deep (parkBase u) deepChunks u = some (ks, v)) :
    setUpSession src tag d true bonded deep s =
      enterIncoming { src := src, tag := tag, idx := i, handle := slotHandle i u, parked := true, chunks := ks, d := d } v := by
  rw [setUpSession, if_neg (Nat.not_le.mpr hroom), hfree, Option.bind_some, hext]
  simp only [Option.map_some, hdeep]
  rfl

theorem setUpSession_no_chunks (hdeep : allocDeep deep (parkBase u) deepChunks u = none) :
    setUpSession src tag d true bonded deep s = answerXfer src tag sCapacity 0 u := by
  rw [setUpSession, if_neg (Nat.not_le.mpr hroom), hfree, Option.bind_some, hext]
  simp only [Option.map_some, hdeep]
  rfl

end

/-- The channel of its home tile that an embedding block of a table goes to. -/
def blockChan (m : EmbTable) (bytes : Nat) (s : State) : Option Nat :=
  leastFilled ((tileChans m.home).filter fun g => chProtectedOk g s) (fun g => (placeIn g bytes 64 s).isSome) s

section
variable {src tag table part block bytes : Nat} {m : EmbTable} {s : State}

theorem setUpBlock_full (hroom : 256 ≤ s.net.incoming.length) :
    setUpBlock src tag table part block bytes s = answerXfer src tag sBusy 0 s := if_pos hroom

variable (hroom : s.net.incoming.length < 256)
include hroom

theorem setUpBlock_no_table (htab : sget s.embTabs table = none) :
    setUpBlock src tag table part block bytes s = answerXfer src tag sNotFound 0 s := by
  rw [setUpBlock, if_neg (Nat.not_le.mpr hroom), htab]

variable (htab : sget s.embTabs table = some m)
include htab

theorem setUpBlock_no_room (hchan : blockChan m bytes s = none) :
    setUpBlock src tag table part block bytes s = answerXfer src tag sCapacity 0 s := by
  unfold blockChan at hchan
  rw [setUpBlock, if_neg (Nat.not_le.mpr hroom), htab]
  simp only [hchan]
  rfl

theorem setUpBlock_placed {g a : Nat} (hchan : blockChan m bytes s = some g) (hplace : placeIn g bytes 64 s = some a) :
    setUpBlock src tag table part block bytes s =
      answerXfer src tag sOk 0 (showIncoming { s with
        fresh := s.fresh + 1
        net.incoming := s.net.incoming ++ [{ src := src, tag := tag, idx := slots + 1 + tag, handle := 0, bytes := bytes, d := { handle := 0 },
                                             block := some (table, part, block), blockAddr := a }] }) := by
  unfold blockChan at hchan
  rw [setUpBlock, if_neg (Nat.not_le.mpr hroom), htab]
  simp only [hchan, Option.bind_some, hplace]

end

/-! ## Messages of a migration (R153, R154, R157) -/

/-- What the other messages of a migration act on: the incoming one of that source and tag, where there is one. -/
def onIncoming (src tag : Nat) (f : Incoming → State → State) (s : State) : State :=
  (s.net.incoming.find? fun n => n.src == src && n.tag == tag).elim s (f · s)

section
variable {src tag : Nat} {f : Incoming → State → State} {s : State}

theorem onIncoming_found {n : Incoming} (h : (s.net.incoming.find? fun n => n.src == src && n.tag == tag) = some n) :
    onIncoming src tag f s = f n s := by
  rw [onIncoming, h, Option.elim_some]
theorem onIncoming_none (h : (s.net.incoming.find? fun n => n.src == src && n.tag == tag) = none) : onIncoming src tag f s = s := by
  rw [onIncoming, h, Option.elim_none]

end

section
variable (src tag : Nat) (s : State)

theorem xferCtrl_setUp_of_key {d : Desc} {parked : Bool} {bonded deep : Nat} (h : hasKey src s = true) :
    xferCtrl src tag (.setUp d parked bonded deep) s = setUpSession src tag d parked bonded deep s := if_pos h
theorem xferCtrl_setUp_no_key {d : Desc} {parked : Bool} {bonded deep : Nat} (h : hasKey src s = false) :
    xferCtrl src tag (.setUp d parked bonded deep) s = answerXfer src tag sAuthFail 0 s := if_neg (ne_true_of_eq_false h)
theorem xferCtrl_block (table part block bytes : Nat) :
    xferCtrl src tag (.block table part block bytes) s = setUpBlock src tag table part block bytes s := rfl
theorem xferCtrl_data (x : Sess) : xferCtrl src tag (.data x) s = onIncoming src tag (fun n => putIncoming { n with x := some x }) s := by
  unfold xferCtrl onIncoming
  cases s.net.incoming.find? fun n => n.src == src && n.tag == tag <;> rfl
theorem xferCtrl_log (ds : List Desc) :
    xferCtrl src tag (.log ds) s = onIncoming src tag (fun n => putIncoming { n with log := n.log ++ ds }) s := by
  unfold xferCtrl onIncoming
  cases s.net.incoming.find? fun n => n.src == src && n.tag == tag <;> rfl
theorem xferCtrl_updates (us : List (Nat × EmbItem)) :
    xferCtrl src tag (.updates us) s = onIncoming src tag (fun n => putIncoming { n with ulog := n.ulog ++ us }) s := by
  unfold xferCtrl onIncoming
  cases s.net.incoming.find? fun n => n.src == src && n.tag == tag <;> rfl
theorem xferCtrl_switch (k : Nat) : xferCtrl src tag (.switch k) s = onIncoming src tag (landIncoming · k) s := by
  unfold xferCtrl onIncoming
  cases s.net.incoming.find? fun n => n.src == src && n.tag == tag <;> rfl
theorem xferCtrl_abandon : xferCtrl src tag .abandon s = onIncoming src tag dropIncoming s := by
  unfold xferCtrl onIncoming
  cases s.net.incoming.find? fun n => n.src == src && n.tag == tag <;> rfl
theorem xferChunk_mig (i : Nat) (bs : List Byte) :
    xferChunk src (.mig tag i bs) s = onIncoming src tag (fun n => putIncoming { n with data := sset n.data i bs }) s := by
  dsimp only [xferChunk, onIncoming]
  cases s.net.incoming.find? fun n => n.src == src && n.tag == tag <;> rfl

end

/-! ## Mirrors (R387, R475) -/

/-- The session whose mirror `src` holds under a handle waits for it to come back. -/
def awaitsMirror (src handle : Nat) (s : State) : Prop :=
  (descOf (hIndex handle) s).handle = handle ∧ (descOf (hIndex handle) s).mirrorModule = src ∧ (sessOf (hIndex handle) s).back.isSome = true

/-- The mirrors held of a session of another module. -/
def mirrorsFor (src handle : Nat) (s : State) : List Mirror := s.net.mirrors.filter fun m => m.src == src && m.handle == handle

theorem not_awaitsMirror {src handle : Nat} {s : State} (h : (descOf (hIndex handle) s).handle ≠ handle ∨
    (descOf (hIndex handle) s).mirrorModule ≠ src ∨ (sessOf (hIndex handle) s).back = none) : ¬ awaitsMirror src handle s := by
  rintro ⟨hhandle, hmodule, hback⟩
  rcases h with h | h | h
  · exact h hhandle
  · exact h hmodule
  · rw [h] at hback
    cases hback

section
variable {src handle nonce total key : Nat} {d : Desc} {x : Sess} {s : State}

theorem xferChunk_mirror_no_key (hkey : hasKey src s = false) : xferChunk src (.mirror handle nonce total key d x) s = s := by
  simp only [xferChunk, hkey, Bool.not_false, if_true]
theorem xferChunk_mirror_back (hkey : hasKey src s = true) (h : awaitsMirror src handle s) :
    xferChunk src (.mirror handle nonce total key d x) s = mirrorBack (hIndex handle) total d x s := by
  simp only [xferChunk, hkey, Bool.not_true, Bool.false_eq_true, if_false]
  exact if_pos h
theorem xferChunk_mirror_kept (hkey : hasKey src s = true) (h : ¬ awaitsMirror src handle s) :
    xferChunk src (.mirror handle nonce total key d x) s = mirrorChunk src handle nonce total key d x s := by
  simp only [xferChunk, hkey, Bool.not_true, Bool.false_eq_true, if_false]
  exact if_neg h

theorem mirrorCtrl_drop : mirrorCtrl src handle nonce 0 s =
    (mirrorsFor src handle s).foldl (fun s m => dropMirrorOf m (bump DIR_MIRROR_DROPS.COUNT 1 s)) s := rfl
theorem mirrorCtrl_asked : mirrorCtrl src handle nonce 1 s =
    sendMsg 0x17 src [if (descOf (hIndex handle) s).handle == handle && (descOf (hIndex handle) s).mirrorModule == src &&
      (sessOf (hIndex handle) s).parkNonce == nonce then 2 else 3, handle, nonce] [] s := rfl
theorem mirrorCtrl_confirmed : mirrorCtrl src handle nonce 2 s = { s with net.mirrors := s.net.mirrors.map fun m =>
    if m.src = src ∧ m.handle = handle ∧ m.nonce = nonce then { m with news := s.cad.edges } else m } := rfl
theorem mirrorCtrl_refused (h : awaitsMirror src handle s) : mirrorCtrl src handle nonce 3 s = backFails (hIndex handle) s :=
  if_pos ⟨rfl, h⟩
/-- A denial that no session waits for, and every kind that has no other meaning, drops the mirrors of that NONCE. -/
theorem mirrorCtrl_denied {kind : Nat} (h : (kind = 3 ∧ ¬ awaitsMirror src handle s) ∨ 4 < kind) : mirrorCtrl src handle nonce kind s =
    ((mirrorsFor src handle s).filter (·.nonce == nonce)).foldl (fun s m => dropMirrorOf m (bump DIR_MIRROR_DROPS.COUNT 1 s)) s := by
  have hwaits : ¬ (kind = 3 ∧ awaitsMirror src handle s) := fun ⟨hkind, hback⟩ => by
    rcases h with ⟨-, h⟩ | h
    · exact h hback
    · omega
  unfold awaitsMirror at hwaits
  dsimp only [mirrorCtrl]
  rw [if_neg (by omega), if_neg (by omega), if_neg (by omega), if_neg hwaits, if_neg (by omega)]
  rfl
theorem mirrorCtrl_sent_back {m : Mirror} (h : ((mirrorsFor src handle s).find? fun m => m.nonce == nonce && m.got == m.total) = some m) :
    mirrorCtrl src handle nonce 4 s = (List.range m.total).foldl (fun s k => sendMsg 0x10 src [k, handle, nonce] [] s) s := by
  unfold mirrorsFor at h
  simp [mirrorCtrl, h]
theorem mirrorCtrl_not_held (h : ((mirrorsFor src handle s).find? fun m => m.nonce == nonce && m.got == m.total) = none) :
    mirrorCtrl src handle nonce 4 s = sendMsg 0x17 src [3, handle, nonce] [] s := by
  unfold mirrorsFor at h
  simp [mirrorCtrl, h]

end

/-- A mirror is whole, and has had no news for as long as an audit allows. -/
def auditDue (src handle : Nat) (s : State) : Option Mirror :=
  s.net.mirrors.find? fun m => m.src == src && m.handle == handle && m.got == m.total &&
    decide (m.news + rd DIR_MIRROR.MIRROR_AUDIT_TICKS s ≤ s.cad.edges)

theorem mirrorAudit_due {src handle : Nat} {m : Mirror} {s : State} (h : auditDue src handle s = some m) : mirrorAudit src handle s =
    sendMsg 0x17 src [1, handle, m.nonce] [] { s with net.mirrors := s.net.mirrors.map fun y => if y = m then { m with news := s.cad.edges } else y } := by
  unfold auditDue at h
  rw [mirrorAudit, h]
theorem mirrorAudit_none {src handle : Nat} {s : State} (h : auditDue src handle s = none) : mirrorAudit src handle s = s := by
  unfold auditDue at h
  rw [mirrorAudit, h]

/-! ## Forwarded commands, answers and drop notices (R156, R371, R374) -/

/-- Operations 0x02 to 0x0D alone can be forwarded. -/
theorem fwdCmd_eq_none {op : Nat} (hop : op < 2 ∨ 0x0D < op) (h : Hdr) (args : List Nat) (data : List Byte) (k : Nat) :
    fwdCmd h op args data k = none := by
  unfold fwdCmd
  dsimp only
  split
  case h_13 => rfl
  all_goals omega

/-- The header a forwarded command runs with: a queue of its own for each module. -/
def fwdHdr (src id fn handle : Nat) : Hdr :=
  { fn := fn, qp := 64 + src, cmdId := id, barrier := false, fenceDone := false, bondedBuf := false, cplFault := false, fence := 0,
    handle := handle }

section
variable {src id fn op handle : Nat} {args : List Nat} {data : List Byte} {s : State}

theorem fwdRun_of_some {c : HeldCmd} (h : fwdCmd (fwdHdr src id fn handle) op args data s.fresh = some c) :
    fwdRun src id fn op handle args data s = runHeldCmd c { s with fresh := s.fresh + 2 } := by
  unfold fwdHdr at h
  simp only [fwdRun, h]
theorem fwdRun_of_not_forwarded (hop : op < 2 ∨ 0x0D < op) :
    fwdRun src id fn op handle args data s = sendMsg 0x13 src [id, sRejected] [] s := by
  simp only [fwdRun, fwdCmd_eq_none hop]

end

section
variable {src id status fn qp cmdId r0 r1 : Nat} {rs : List ((Nat × Nat) × List Byte)} {s : State}

theorem response_xfer_ok : response src id sOk .xfer s = s := rfl
theorem response_xfer_refused (h : status ≠ sOk) : response src id status .xfer s = migrationAbandon id true s := if_neg h
theorem response_fwd : response src id status (.fwd fn qp cmdId r0 r1) s = fwdDone fn qp cmdId status r0 r1 s := rfl
theorem response_rows_ok : response src id sOk (.rows rs) s = lookAnswer src id rs s := rfl
theorem response_rows_failed (h : status ≠ sOk) : response src id status (.rows rs) s = lookAnswer src id [] s := by
  rw [response, if_neg h]
theorem response_upd : response src id status .upd s = updateAnswer src id (status == sOk) s := rfl

end

section
variable {src id ref n e : Nat} {mirror : Bool} {s : State}

theorem dropNotice_again (htries : sgetD s.net.dropTries id (0, 0) = (n, e)) (hn : n < 8) :
    dropNotice src id 0x10 ref mirror s = sendMsg 0x10 src [id, ref] []
      { bump FAB_DROP_NOTICES.COUNT 1 s with net.dropTries := sset s.net.dropTries id (n + 1, s.cad.edges) } := by
  unfold dropNotice
  simp only [if_true, bump_net, bump_cad, htries, if_pos hn]
theorem dropNotice_last (htries : sgetD s.net.dropTries id (0, 0) = (n, e)) (hn : 8 ≤ n) {u : State}
    (hu : { bump FAB_DROP_NOTICES.COUNT 1 s with net.dropTries := sdel s.net.dropTries id } = u) :
    dropNotice src id 0x10 ref mirror s =
      if mirror = true then mirrorRun ref false u else if e ≤ u.cad.edges then migrationAbandon ref true u else u := by
  subst hu
  unfold dropNotice
  simp only [if_true, bump_net, htries, if_neg (Nat.not_lt.mpr hn)]

theorem dropNotice_lookup : dropNotice src id 0x14 ref mirror s = lookAnswer src id [] (bump FAB_DROP_NOTICES.COUNT 1 s) := rfl

theorem dropNotice_other {type : Nat} (hchunk : type ≠ 0x10) (hfwd : type ≠ 0x12) (hlook : type ≠ 0x14) (hupdate : type ≠ 0x15) :
    dropNotice src id type ref mirror s = bump FAB_DROP_NOTICES.COUNT 1 s := by
  dsimp only [dropNotice]
  rw [if_neg hchunk, if_neg hlook, if_neg hupdate, if_neg hfwd]

variable {u : State} (hu : bump FAB_DROP_NOTICES.COUNT 1 s = u)
include hu

theorem dropNotice_update {j : EmbJob} (h : (u.embJobs.find? fun j => j.msg == id && j.remote.any (·.1 == src)) = some j) :
    dropNotice src id 0x15 ref mirror s = sendMsg 0x15 src [id, j.tick] [] u := by
  simp [dropNotice, hu, h]
theorem dropNotice_update_none (h : (u.embJobs.find? fun j => j.msg == id && j.remote.any (·.1 == src)) = none) :
    dropNotice src id 0x15 ref mirror s = u := by
  simp [dropNotice, hu, h]
theorem dropNotice_fwd {w : Hdr × Nat × Nat} (h : (u.fwdWait.find? fun w => w.1.cmdId == id) = some w) :
    dropNotice src id 0x12 ref mirror s = fwdDone w.1.fn w.1.qp w.1.cmdId sTimeout 0 0 u := by
  simp [dropNotice, hu, h]
theorem dropNotice_fwd_none (h : (u.fwdWait.find? fun w => w.1.cmdId == id) = none) : dropNotice src id 0x12 ref mirror s = u := by
  simp [dropNotice, hu, h]

end

/-! ## COLLECTIVE kernels (R188) -/

/-- A partition may run what a COLLECTIVE kernel names: it runs one, and has the arrays that are written. -/
def collectiveFits (p : Nat) (recvs : List (Nat × Nat × Nat)) (moves : List CollMove) (s : State) : Prop :=
  runsOp p 0x000D s = true ∧ (recvs.all fun r => (curRanks p s).contains r.2.1) = true ∧ (moves.all fun m => (curRanks p s).contains m.array) = true

section
variable {p : Nat} {recvs : List (Nat × Nat × Nat)} {moves : List CollMove} {sends : List (Nat × List Byte)} {s : State}

theorem collective_of_fits (h : collectiveFits p recvs moves s) : collective p recvs moves sends s =
    sends.foldl (fun s m => sendMsg 0x16 m.1 [p] m.2 s) (moves.foldl (collMove p) (recvs.foldl (collTake p) s)) := by
  obtain ⟨hruns, hrecvs, hmoves⟩ := h
  rw [collective, if_neg (by simp only [hruns, hrecvs, hmoves]; decide)]
theorem collective_of_not_fits (h : runsOp p 0x000D s = false ∨ (recvs.all fun r => (curRanks p s).contains r.2.1) = false ∨
    (moves.all fun m => (curRanks p s).contains m.array) = false) : collective p recvs moves sends s = s := by
  rw [collective, if_pos]
  simpa only [Bool.not_eq_true'] using h

end

/-! ## The rows of a module that serves -/

section
variable {s : State} (hs : serving s = true)
include hs

theorem exec_xferCtrl (src tag : Nat) (b : XferBody) : exec (.xferCtrl src tag b) s = .next (xferCtrl src tag b s) :=
  whenServing_of_serving hs (xferCtrl src tag b)
theorem exec_xferChunk (src : Nat) (c : ChunkBody) : exec (.xferChunk src c) s = .next (xferChunk src c s) :=
  whenServing_of_serving hs (xferChunk src c)
theorem exec_fwdCmd (src id fn op handle : Nat) (args : List Nat) (data : List Byte) :
    exec (.fwdCmd src id fn op handle args data) s = .next (fwdRun src id fn op handle args data s) :=
  whenServing_of_serving hs (fwdRun src id fn op handle args data)
theorem exec_responseMsg (src id status : Nat) (b : RespBody) : exec (.responseMsg src id status b) s = .next (response src id status b s) :=
  whenServing_of_serving hs (response src id status b)
theorem exec_dropNotice (src id type ref : Nat) (mirror : Bool) :
    exec (.dropNotice src id type ref mirror) s = .next (dropNotice src id type ref mirror s) :=
  whenServing_of_serving hs (dropNotice src id type ref mirror)
theorem exec_mirrorCtrl (src handle nonce kind : Nat) : exec (.mirrorCtrl src handle nonce kind) s = .next (mirrorCtrl src handle nonce kind s) :=
  whenServing_of_serving hs (mirrorCtrl src handle nonce kind)
theorem exec_mirrorAudit (src handle : Nat) : exec (.mirrorAudit src handle) s = .next (mirrorAudit src handle s) :=
  whenServing_of_serving hs (mirrorAudit src handle)
theorem exec_collective (p : Nat) (recvs : List (Nat × Nat × Nat)) (moves : List CollMove) (sends : List (Nat × List Byte)) :
    exec (.collective p recvs moves sends) s = .next (collective p recvs moves sends s) :=
  whenServing_of_serving hs (collective p recvs moves sends)
theorem exec_collectiveMsg (src : Nat) (data : List Byte) :
    exec (.collectiveMsg src data) s = .next { s with net.collIn := s.net.collIn ++ [(src, data)] } :=
  whenServing_of_serving hs fun s => { s with net.collIn := s.net.collIn ++ [(src, data)] }

end

/-! ## The statement -/

/-- Settles O50: each message by its equation, in the order of the clauses. -/
theorem peerMessages : Obligations.PeerMessages := by
  refine ⟨?resident, ?no_key, ?joins, ?mirror_kept, ?fwd_runs, ?fwd_refused, ?xfer_refused, ?fwd_answered, ?rows_answered, ?chunk_again,
    ?mirror_dropped, ?mirror_asked, ?audit, ?coll_held, ?coll_runs, ?parked, ?full, ?no_slot, ?no_space, ?block, ?block_refused, ?lands,
    ?no_incoming, ?mirror_back, ?ckpt, ?answers, ?chunk_last, ?drop_others, ?mirror_confirmed, ?mirror_refused, ?mirror_denied,
    ?mirror_sent_back, ?no_audit, ?coll_not⟩
  case resident =>
    intro src tag bonded deep i d s u hs hkey hroom hfree hext hpool
    have kept := slotsKept_takeKeyExt hext
    refine ⟨_, exec_xferCtrl hs _ _ _, ?_⟩
    rw [xferCtrl_setUp_of_key _ _ _ hkey, setUpSession_resident hroom hfree hext hpool, kept.slotHandle_eq i, enterIncoming_incoming,
      enterIncoming_poolBytes, charge_net, charge_poolBytes, kept.net]
    exact ⟨rfl, rfl, rfl⟩
  case no_key =>
    intro src tag bonded deep parked d s hs hkey
    rw [exec_xferCtrl hs, xferCtrl_setUp_no_key _ _ _ hkey]
  case joins =>
    intro src tag n s hs hfound
    refine ⟨fun x => ?_, fun ds => ?_, ?_, fun i bs => ?_⟩
    · rw [exec_xferCtrl hs, xferCtrl_data, onIncoming_found hfound]
    · rw [exec_xferCtrl hs, xferCtrl_log, onIncoming_found hfound]
    · rw [exec_xferCtrl hs, xferCtrl_abandon, onIncoming_found hfound]
    · rw [exec_xferChunk hs, xferChunk_mig, onIncoming_found hfound]
  case mirror_kept =>
    intro src handle nonce total key d x s hs hkey hnot
    rw [exec_xferChunk hs, xferChunk_mirror_kept hkey (not_awaitsMirror hnot)]
  case fwd_runs =>
    intro src id fn op handle args data c s hs hc
    rw [exec_fwdCmd hs, fwdRun_of_some hc]
  case fwd_refused =>
    intro src id fn op handle args data s hs hop
    rw [exec_fwdCmd hs, fwdRun_of_not_forwarded hop]
  case xfer_refused =>
    intro src id status s hs hstatus
    rw [exec_responseMsg hs, response_xfer_refused hstatus]
  case fwd_answered =>
    intro src id status fn qp cmdId r0 r1 s hs
    rw [exec_responseMsg hs, response_fwd]
  case rows_answered =>
    intro src id rs s hs
    rw [exec_responseMsg hs, response_rows_ok]
  case chunk_again =>
    intro src id ref n e mirror s hs htries hn
    refine ⟨_, exec_dropNotice hs _ _ _ _ _, ?_⟩
    rw [dropNotice_again htries hn]
    exact ⟨sget_sset_self _ _ _, rd_bump_self _ _ _, rfl⟩
  case mirror_dropped =>
    intro src handle nonce s hs
    rw [exec_mirrorCtrl hs, mirrorCtrl_drop, mirrorsFor]
  case mirror_asked =>
    intro src handle nonce s hs
    rw [exec_mirrorCtrl hs, mirrorCtrl_asked]
  case audit =>
    intro src handle m s hs hdue
    rw [exec_mirrorAudit hs, mirrorAudit_due hdue]
  case coll_held =>
    intro src data s hs
    exact exec_collectiveMsg hs src data
  case coll_runs =>
    intro p recvs moves sends s hs hruns hrecvs hmoves
    rw [exec_collective hs, collective_of_fits ⟨hruns, hrecvs, hmoves⟩]
  case parked =>
    intro src tag bonded deep i ks d s u v hs hkey hroom hfree hext hdeep
    refine ⟨_, exec_xferCtrl hs _ _ _, ?_⟩
    rw [xferCtrl_setUp_of_key _ _ _ hkey, setUpSession_parked hroom hfree hext hdeep, ← (slotsKept_allocDeep hdeep).slotHandle_eq i,
      enterIncoming_incoming]
    exact ⟨rfl, rfl⟩
  case full =>
    intro src tag bonded deep parked d s hs hkey hfull
    rw [exec_xferCtrl hs, xferCtrl_setUp_of_key _ _ _ hkey, setUpSession_full hfull]
  case no_slot =>
    intro src tag bonded deep parked d s hs hkey hroom hfree
    rw [exec_xferCtrl hs, xferCtrl_setUp_of_key _ _ _ hkey, setUpSession_no_slot hroom hfree]
  case no_space =>
    intro src tag bonded deep i d s u hs hkey hroom hfree
    simp only [exec_xferCtrl hs, xferCtrl_setUp_of_key _ _ _ hkey]
    refine ⟨fun hext parked => ?_, fun hext hpool => ?_, fun hext hdeep => ?_⟩
    · rw [setUpSession_no_keyExt hroom hfree hext]
    · rw [setUpSession_no_pool hroom hfree hext hpool]
    · rw [setUpSession_no_chunks hroom hfree hext hdeep]
  case block =>
    intro src tag table part block bytes a g m s hs hroom htab hchan hplace
    refine ⟨_, exec_xferCtrl hs _ _ _, ?_⟩
    rw [xferCtrl_block, setUpBlock_placed hroom htab hchan hplace]
    exact ⟨rfl, rfl⟩
  case block_refused =>
    intro src tag table part block bytes s hs
    simp only [exec_xferCtrl hs, xferCtrl_block]
    refine ⟨fun hfull => ?_, fun hroom htab => ?_, fun m hroom htab hchan => ?_⟩
    · rw [setUpBlock_full hfull]
    · rw [setUpBlock_no_table hroom htab]
    · rw [setUpBlock_no_room hroom htab hchan]
  case lands =>
    intro src tag n s hs hfound
    refine ⟨fun us => ?_, fun k => ?_⟩
    · rw [exec_xferCtrl hs, xferCtrl_updates, onIncoming_found hfound]
    · rw [exec_xferCtrl hs, xferCtrl_switch, onIncoming_found hfound]
  case no_incoming =>
    intro src tag s hs hnone
    refine ⟨fun x => ?_, fun ds => ?_, fun us => ?_, fun k => ?_, ?_, fun i bs => ?_⟩
    · rw [exec_xferCtrl hs, xferCtrl_data, onIncoming_none hnone]
    · rw [exec_xferCtrl hs, xferCtrl_log, onIncoming_none hnone]
    · rw [exec_xferCtrl hs, xferCtrl_updates, onIncoming_none hnone]
    · rw [exec_xferCtrl hs, xferCtrl_switch, onIncoming_none hnone]
    · rw [exec_xferCtrl hs, xferCtrl_abandon, onIncoming_none hnone]
    · rw [exec_xferChunk hs, xferChunk_mig, onIncoming_none hnone]
  case mirror_back =>
    intro src handle nonce total key d x s hs
    refine ⟨fun hkey => ?_, fun hkey hhandle hmodule hback => ?_⟩
    · rw [exec_xferChunk hs, xferChunk_mirror_no_key hkey]
    · rw [exec_xferChunk hs, xferChunk_mirror_back hkey ⟨hhandle, hmodule, hback⟩]
  case ckpt =>
    intro src id tick jobKey nonce total ranges data s hs
    exact exec_xferChunk hs src (.ckpt id tick jobKey nonce total ranges data)
  case answers =>
    intro src id status rs s hs
    refine ⟨?_, fun hstatus => ?_, ?_⟩
    · rw [exec_responseMsg hs, response_xfer_ok]
    · rw [exec_responseMsg hs, response_rows_failed hstatus]
    · rw [exec_responseMsg hs, response_upd]
  case chunk_last =>
    intro src id ref n e s u hs htries hn hu
    simp only [exec_dropNotice hs, dropNotice_last htries hn hu]
    exact ⟨rfl, rfl⟩
  case drop_others =>
    intro src id type ref mirror s u hs hu
    simp only [exec_dropNotice hs]
    refine ⟨?_, fun j hj => ?_, fun hnone => ?_, fun w hw => ?_, fun hnone => ?_, fun hchunk hfwd hlook hupdate => ?_⟩
    · rw [dropNotice_lookup, hu]
    · rw [dropNotice_update hu hj]
    · rw [dropNotice_update_none hu hnone]
    · rw [dropNotice_fwd hu hw]
    · rw [dropNotice_fwd_none hu hnone]
    · rw [dropNotice_other hchunk hfwd hlook hupdate, hu]
  case mirror_confirmed =>
    intro src handle nonce s hs
    rw [exec_mirrorCtrl hs, mirrorCtrl_confirmed]
  case mirror_refused =>
    intro src handle nonce s hs hhandle hmodule hback
    rw [exec_mirrorCtrl hs, mirrorCtrl_refused ⟨hhandle, hmodule, hback⟩]
  case mirror_denied =>
    intro src handle nonce kind s hs h
    rw [exec_mirrorCtrl hs, mirrorCtrl_denied (h.imp_left fun ⟨hkind, hnot⟩ => ⟨hkind, not_awaitsMirror hnot⟩), mirrorsFor]
  case mirror_sent_back =>
    intro src handle nonce s hs
    refine ⟨fun m hm => ?_, fun hnone => ?_⟩
    · rw [exec_mirrorCtrl hs, mirrorCtrl_sent_back hm]
    · rw [exec_mirrorCtrl hs, mirrorCtrl_not_held hnone]
  case no_audit =>
    intro src handle s hs hnone
    rw [exec_mirrorAudit hs, mirrorAudit_none hnone]
  case coll_not =>
    intro p recvs moves sends s hs h
    rw [exec_collective hs, collective_of_not_fits h]

end Sys2Proof.Machine
end

section
/-!
PROOF. Kernels: the statement `Obligations.KernelsRun` (O31) fails in its clause on the end of a kernel while the step goes on, since that end
may be what the abort of a function waits for (R432).
-/
namespace Sys2Proof.Machine

/-- The session in slot 5, READY, of function 1. -/
def sessionOfFn1 : Desc := { handle := mkHandle 0 5 7, st := stReady, fn := 1 }
/-- A step of the physical function that has a kernel left to start. -/
def stepOfPf : Step :=
  { launch := { table := 0, idx := 0, e := { tick := 0, action := 0, flags := 0, target := 0, tag := 0, opA := 0, opB := 0 }, edge := 0 },
    plan := 0, cls := 0, eff := 0, stage := 0, hdrs := [0], runs := [], ranks := [0] }
/-- A kernel of function 1, of the queue, that runs on array 0. -/
def kernelOfFn1 : Running := { ofStep := false, kern := { cls := 0, fn := 1, queued := 0, op := 1 }, ranks := [0] }
/-- A module that serves. Beside the step of partition 0 there runs the last kernel of function 1, whose abort waits for it (row 5 of R432). -/
def abortAwaitsKernel : State :=
  { wr HUB_DOMAIN_STATUS.HUB_OK 1 State.reset with
    desc := [(5, sessionOfFn1)]
    parts := [(0, { ranks := [0], step := some stepOfPf, running := some kernelOfFn1 })]
    aborts := [{ fn := 1, reqs := [], discarded := 0, reset := false }] }

/-- The end of that kernel ends the abort, which freezes the session of the function (R40). -/
theorem desc_kernelEnd_frozen :
    (sgetD (settleAborts (kernelEnd 0 1 false false {} [] abortAwaitsKernel)).desc 5 sessionOfFn1).st = stFrozen := by decide +kernel

theorem exec_kernelEnd {s : State} (hs : serving s = true) (p us : Nat) (sat nan : Bool) (out : KOut) (fixed : List (Nat × Nat)) :
    exec (.kernelEnd p us sat nan out fixed) s = .next (settleAborts (kernelEnd p us sat nan out fixed s)) :=
  whenServing_of_serving hs fun s => settleAborts (kernelEnd p us sat nan out fixed s)

/-- Refutes O31: its clause on the end of a kernel while the step has kernels left says that no descriptor changes, and leaves out that an
abort may wait for this kernel (row 5 of R432). In `abortAwaitsKernel` the READY session of slot 5 is FROZEN after KERNEL_END. -/
theorem not_kernelsRun : ¬ Obligations.KernelsRun := by
  unfold Obligations.KernelsRun
  rintro ⟨-, -, -, hend, -, -⟩
  have hs : serving abortAwaitsKernel = true := by decide
  obtain ⟨t, ht, -, -, hdesc, -⟩ := hend 0 1 false false {} [] kernelOfFn1 stepOfPf abortAwaitsKernel hs rfl rfl (by decide) rfl
  have hnext := Host.Outcome.next.inj ((exec_kernelEnd hs 0 1 false false {} []).symm.trans ht)
  have hready : (sgetD t.desc 5 sessionOfFn1).st = stReady := by rw [hdesc]; rfl
  have hfrozen := desc_kernelEnd_frozen
  rw [hnext] at hfrozen
  rw [hfrozen] at hready
  exact absurd hready (by decide)

end Sys2Proof.Machine
end

section
/-!
SUPPORT. Partitions: what reading and changing one does, and operations that leave the partitions as they were, among them the transfers of
an array's DMA engine, cut off or not.
-/
namespace Sys2Proof.Machine

/-- What every step of a fold keeps, the fold keeps. -/
theorem foldl_keeps {σ α β : Type} (g : σ → β) {f : σ → α → σ} {l : List α} (h : ∀ s, ∀ a ∈ l, g (f s a) = g s) (s : σ) :
    g (l.foldl f s) = g s := by
  induction l generalizing s with
  | nil => rfl
  | cons a l ih =>
    rw [List.foldl_cons, ih fun s b hb => h s b (List.mem_cons_of_mem a hb)]
    exact h s a List.mem_cons_self

/-! ## Reading and changing a partition -/

theorem partOf_congr {s t : State} (h : t.parts = s.parts) (p : Nat) : partOf p t = partOf p s := by unfold partOf; rw [h]
@[simp] theorem partOf_modPart_self (p : Nat) (f : Part → Part) (s : State) : partOf p (modPart p f s) = f (partOf p s) :=
  sgetD_sset_self _ _ _ _
theorem partOf_modPart_ne {p q : Nat} (h : p ≠ q) (f : Part → Part) (s : State) : partOf p (modPart q f s) = partOf p s :=
  sgetD_sset_other _ _ _ _ _ h
/-- What a change of any one partition keeps of a partition, each of them keeps. -/
theorem partOf_modPart_keeps {β : Type} (g : Part → β) {f : Part → Part} (h : ∀ x, g (f x) = g x) (p q : Nat) (s : State) :
    g (partOf p (modPart q f s)) = g (partOf p s) := by
  by_cases e : p = q
  · subst e
    rw [partOf_modPart_self, h]
  · rw [partOf_modPart_ne e]

theorem mem_sset {α : Type} {m : Store α} {i : Nat} {v : α} {x : Nat × α} (h : x ∈ sset m i v) : x = (i, v) ∨ x ∈ m := by
  induction m with
  | nil => exact .inl (List.mem_singleton.mp h)
  | cons y r ih =>
    unfold sset at h
    split at h
    · exact List.mem_cons.mp h
    · split at h
      · exact (List.mem_cons.mp h).imp_right (List.mem_cons_of_mem y)
      · rcases List.mem_cons.mp h with rfl | h
        · exact .inr List.mem_cons_self
        · exact (ih h).imp_right (List.mem_cons_of_mem y)
theorem mem_of_sget {α : Type} {m : Store α} {i : Nat} {v : α} (h : sget m i = some v) : (i, v) ∈ m := by
  induction m with
  | nil => cases h
  | cons y r ih =>
    unfold sget at h
    split at h
    next e => cases h; exact e ▸ List.mem_cons_self
    next => exact List.mem_cons_of_mem y (ih h)

/-- No array is on its way from one partition to another (R456). -/
def noneIncoming (s : State) : Prop := ∀ q ∈ s.parts, q.2.incoming = []

theorem incoming_of_noneIncoming {s : State} (h : noneIncoming s) (p : Nat) : (partOf p s).incoming = [] := by
  unfold partOf sgetD
  cases hp : sget s.parts p with
  | none => rfl
  | some x => exact h (p, x) (mem_of_sget hp)
theorem noneIncoming_modPart {s : State} (h : noneIncoming s) (p : Nat) {f : Part → Part} (hf : ∀ x, (f x).incoming = x.incoming) :
    noneIncoming (modPart p f s) := by
  intro q hq
  rcases mem_sset hq with rfl | hq
  · exact (hf _).trans (incoming_of_noneIncoming h p)
  · exact h q hq
theorem noneIncoming_congr {s t : State} (e : t.parts = s.parts) (h : noneIncoming s) : noneIncoming t := by
  unfold noneIncoming
  rwa [e]

/-! ## Registers, events and the deep tier -/

@[simp] theorem c0Refresh_parts (s : State) : (c0Refresh s).parts = s.parts := by
  unfold c0Refresh c0Mark c0Unbind
  dsimp only
  split <;> rfl
@[simp] theorem latchChange_parts (f : Fld) (m : Nat) (s : State) : (latchChange f m s).parts = s.parts := by
  unfold latchChange changeEvent
  dsimp only
  split <;> simp
@[simp] theorem retireDeep_parts (k : Nat) (s : State) : (retireDeep k s).parts = s.parts := by
  have hset : (setDeepOnline k false (setDeepRetired k true s)).parts = s.parts := by
    unfold setDeepOnline setDeepRetired
    split <;> rfl
  unfold retireDeep setDeepDegraded
  rw [c0Refresh_parts, ← hset]
  split
  · rfl
  · rw [latchChange_parts]; rfl
@[simp] theorem deepUe_parts (k : Nat) (s : State) : (deepUe k s).parts = s.parts := by
  unfold deepUe
  dsimp only
  split
  · rw [retireDeep_parts]; rfl
  · rfl
@[simp] theorem reserveOut_parts (d : Desc) (up : Bool) (s : State) : (reserveOut d up s).parts = s.parts := rfl
@[simp] theorem askReturn_parts (chans : List Nat) (s : State) : (askReturn chans s).parts = s.parts := rfl
@[simp] theorem showSched_parts (p : Nat) (s : State) : (showSched p s).parts = s.parts := rfl
@[simp] theorem setArr_parts (a st : Nat) (s : State) : (setArr a st s).parts = s.parts := rfl
@[simp] theorem showSwap_parts (p : Nat) (s : State) : (showSwap p s).parts = s.parts := by unfold showSwap; simp
@[simp] theorem showBusy_parts (as : List Nat) (b : Bool) (s : State) : (showBusy as b s).parts = s.parts := by
  unfold showBusy
  exact foldl_keeps State.parts (by intros; rfl) s
@[simp] theorem takeDump_parts (k : Nat) (s : State) : (takeDump k s).parts = s.parts := by
  unfold takeDump showDeep
  rw [wr_parts]
  refine foldl_keeps State.parts ?_ s
  intro s c _
  split <;> rfl
@[simp] theorem startDump_parts (d : Dump) (s : State) : (startDump d s).2.parts = s.parts := by
  unfold startDump
  split
  · rfl
  · dsimp only
    rw [takeDump_parts]
    rfl

/-! ## The transfers of an array (R161, R164, R180, R187) -/

@[simp] theorem readBad_parts (a n : Nat) (s : State) : (readBad a n s).parts = s.parts := by
  unfold readBad
  exact foldl_keeps State.parts (by intros; rfl) s
@[simp] theorem unitWrite_parts (a : Nat) (bs : List Byte) (s : State) : (unitWrite a bs s).parts = s.parts := by
  unfold unitWrite
  repeat' split
  all_goals rfl
@[simp] theorem engWrite_parts (a : Nat) (bs : List Byte) (s : State) : (engWrite a bs s).parts = s.parts := by
  unfold engWrite
  split
  · rfl
  · exact unitWrite_parts a bs s
@[simp] theorem markDirty_parts (i a n : Nat) (s : State) : (markDirty i a n s).parts = s.parts := by
  unfold markDirty
  split <;> rfl
@[simp] theorem partWrite_parts (p a : Nat) (bs : List Byte) (s : State) : (partWrite p a bs s).parts = s.parts := by
  unfold partWrite
  split <;> simp
@[simp] theorem kernelWrite_parts (p a : Nat) (bs : List Byte) (s : State) : (kernelWrite p a bs s).parts = s.parts := by
  unfold kernelWrite
  split
  · refine (foldl_keeps State.parts ?_ _).trans (partWrite_parts p a bs s)
    intro s r _
    split <;> simp
  · rfl
@[simp] theorem sramWrite_parts (a off : Nat) (bs : List Byte) (s : State) : (sramWrite a off bs s).parts = s.parts := by
  induction bs generalizing off s with
  | nil => rfl
  | cons b r ih => exact ih _ _
@[simp] theorem residWrite_parts (k : Nat) (bs : List Byte) (s : State) : (residWrite k bs s).parts = s.parts := by
  induction bs generalizing k s with
  | nil => rfl
  | cons b r ih => exact ih _ _
@[simp] theorem kernelSram_parts (p r off : Nat) (bs : List Byte) (s : State) : (kernelSram p r off bs s).parts = s.parts := by
  unfold kernelSram rankSram
  split
  · rfl
  · dsimp only
    split <;> simp
@[simp] theorem residLoad_parts (p r a : Nat) (s : State) : (residLoad p r a s).parts = s.parts := by
  unfold residLoad
  refine foldl_keeps State.parts ?_ s
  intro s q _
  split <;> simp
@[simp] theorem blockGone_parts (slot k : Nat) (s : State) : (blockGone slot k s).parts = s.parts := by
  unfold blockGone
  dsimp only
  rw [postPf_parts]
  rfl
@[simp] theorem reloadPair_parts (slot k : Nat) (a b : Alloc) (s : State) : (reloadPair slot k a b s).parts = s.parts := by
  unfold reloadPair
  dsimp only
  split
  · simp
  · rw [blockGone_parts]
    cases (modelOf slot s).copyList[k]? with
    | none => rw [Option.elim_none]
    | some c => rw [Option.elim_some, deepUe_parts]
/-- The copy read may have been rewritten, from the other or from the model copy. -/
@[simp] theorem weightRead_parts (slot b : Nat) (s : State) : (weightRead slot b s).2.parts = s.parts := by
  unfold weightRead
  cases blockPair (modelOf slot s) b with
  | none => rfl
  | some c =>
    dsimp only
    generalize (if b % 2 = 0 then c.1 else c.2) = x
    generalize (if b % 2 = 0 then c.2 else c.1) = y
    split
    · rfl
    · split
      · dsimp only
        split
        · rw [memWrite_parts, readBad_parts]
        · rfl
      · rw [reloadPair_parts]
        repeat' split
        all_goals simp
@[simp] theorem dmaMove_parts (p r a : Nat) (d : Dma) (n : Nat) (s : State) : (dmaMove p r a d n s).parts = s.parts := by
  unfold dmaMove
  split
  · rfl
  · cases d with
    | load off b m => simp
    | store off b m => simp
    | peer off q dst m => simp
    | weights off b k m =>
      have hread := weightRead_parts (partOf p s).model b s
      dsimp only
      cases (weightRead (partOf p s).model b s).1 with
      | none => exact hread
      | some c => exact (kernelSram_parts _ _ _ _ _).trans hread
@[simp] theorem dmaStop_parts (p r a : Nat) (s : State) : (dmaStop p r a s).parts = s.parts :=
  foldl_keeps State.parts (fun s d _ => by rw [dmaMove_parts]) s

end Sys2Proof.Machine
end

section
/-!
SUPPORT and PROOF. Arrays: the state that an array shows after each operation, the end of a failed step, and from these the statement
`Obligations.SramErrors` (O33).
-/
namespace Sys2Proof.Machine

/-! ## The state that an array shows (R165, R195) -/

/-- A register below the tile blocks is no array's. -/
theorem arrState_wr_low {f : Fld} (h : f.lo < 64 ∧ f.hi < 64 ∧ f.off < 0x14_0000) (a v : Nat) (s : State) :
    arrState a (wr f v s) = arrState a s := by
  refine rd_wr_apart _ _ _ _ ?_
  simp only [apart, fkey, ARY_STATUS.STATE]
  omega
/-- Nor is a field that ends at another bit of its register. -/
theorem arrState_wr_hi {f : Fld} {hi : Nat} (h : f.hi = hi) (hlt : hi < 64) (hne : hi ≠ 2) (a v : Nat) (s : State) :
    arrState a (wr f v s) = arrState a s := by
  refine rd_wr_apart _ _ _ _ ?_
  simp only [apart, fkey, ARY_STATUS.STATE]
  omega

theorem isArr_tile {t n : Nat} (ht : t < 4) (hn : n < 352) : isArr (t * 512 + n) := by unfold isArr; omega
theorem arrState_setArr_self {a v : Nat} (ha : isArr a) (hv : v < 8) (s : State) : arrState a (setArr a v s) = v := by
  unfold setArr
  rw [arrState_showArrays _ _ _ ha, arrState_wr _ _ _ _ ha ha hv, if_pos rfl]
theorem arrState_postPf {a : Nat} (ha : isArr a) (code src status x y : Nat) (s : State) :
    arrState a (postPf code src status x y s) = arrState a s := by
  refine rd_postPf _ _ _ _ _ _ _ ?_
  simp only [Fld.quiet, ARY_STATUS.STATE, isArr] at *
  omega
theorem arrState_elementEv {a : Nat} (ha : isArr a) (kind idx lost : Nat) (s : State) :
    arrState a (elementEv kind idx lost s) = arrState a s := arrState_postPf ha _ _ _ _ _ s
theorem arrState_aryCmdDone (a t st : Nat) (s : State) : arrState a (aryCmdDone t st s) = arrState a s :=
  (arrState_wr_hi (hi := 15) rfl (by decide) (by decide) a st _).trans (arrState_wr_hi (hi := 0) rfl (by decide) (by decide) a 0 s)
theorem arrState_trace (a : Nat) (r : Trc) (s : State) : arrState a (trace r s) = arrState a s := by
  unfold trace bump
  dsimp only
  repeat' split
  · rfl
  all_goals
    simp (disch := decide) only [arrState_wr_low]
    rfl
theorem arrState_c0Refresh (a : Nat) (s : State) : arrState a (c0Refresh s) = arrState a s := by
  have hunbind : ∀ s, arrState a (c0Unbind s) = arrState a s := by
    intro s
    unfold c0Unbind bump
    dsimp only
    split
    · rfl
    · exact arrState_wr_low (by decide) a _ _
  unfold c0Refresh
  refine (hunbind _).trans ?_
  simp (disch := decide) only [arrState_wr_low]
theorem arrState_showSched {a p : Nat} (ha : isArr a) (hp : p < 255) (s : State) : arrState a (showSched p s) = arrState a s := by
  have hcls : ∀ v s, arrState a (wr (ARY_SCHED_STATUS.EFF_CLASS p) v s) = arrState a s := by
    intro v s
    refine rd_wr_apart _ _ _ _ ?_
    simp only [apart, fkey, ARY_STATUS.STATE, ARY_SCHED_STATUS.EFF_CLASS, isArr] at *
    omega
  unfold showSched
  dsimp only
  rw [arrState_wr_hi (hi := 28) rfl (by decide) (by decide), arrState_wr_hi (hi := 5) rfl (by decide) (by decide),
    arrState_wr_hi (hi := 3) rfl (by decide) (by decide), hcls]
theorem arrState_startDump (a : Nat) (d : Dump) (s : State) : arrState a (startDump d s).2 = arrState a s := by
  have htake : ∀ k s, arrState a (takeDump k s) = arrState a s := by
    intro k s
    unfold takeDump showDeep
    rw [arrState_wr_low (by decide)]
    refine foldl_keeps (arrState a) ?_ s
    intro s c _
    split <;> rfl
  unfold startDump
  split
  · exact arrState_wr_low (by decide) a _ s
  · refine (htake _ _).trans ?_
    exact arrState_wr_low (by decide) a _ _

/-! ## The end of a failed step (R190, R456, R457) -/

theorem joinFrom_of_noneIncoming {s : State} (h : noneIncoming s) (q : Nat) : joinFrom q s = s := by
  unfold joinFrom
  refine foldl_keeps id ?_ s
  intro s px hpx
  rw [if_neg (by rw [h px hpx]; simp)]
/-- Arrays that join a partition change no more of it than the list of those awaited. -/
theorem partOf_joinFrom_keeps {β : Type} (g : Part → β) (hg : ∀ x l, g { x with incoming := l } = g x) (p q : Nat) (s : State) :
    g (partOf p (joinFrom q s)) = g (partOf p s) := by
  unfold joinFrom
  refine foldl_keeps (fun s => g (partOf p s)) ?_ s
  intro s px _
  split
  · have hmap : ∀ (l : List (Nat × Nat)) (s : State), (l.foldl (fun s ra =>
        if px.2.incoming.any (fun a => a.1 == ra.2 && a.2 == q) then
          wr (ARY_STATUS.PARTITION (ra.2 / 512) (ra.2 % 512)) px.1 (wr (ARY_STATUS.RANK (ra.2 / 512) (ra.2 % 512)) ra.1 s)
        else s) s).parts = s.parts := by
      intro l s
      refine foldl_keeps State.parts ?_ s
      intro s ra _
      split <;> rfl
    dsimp only
    rw [partOf_congr (hmap _ _)]
    exact partOf_modPart_keeps g (fun x => hg x _) p px.1 s
  · rfl
theorem partOf_endReconf_keeps {β : Type} (g : Part → β) (hg : ∀ x b, g { x with reconf := b } = g x) (p q : Nat) (s : State) :
    g (partOf p (endReconf q s)) = g (partOf p s) := by
  unfold endReconf
  split
  · rfl
  · rw [partOf_congr (c0Refresh_parts _)]
    exact partOf_modPart_keeps g (fun x => hg x _) p q s
theorem arrState_endReconf (a p : Nat) (s : State) : arrState a (endReconf p s) = arrState a s := by
  unfold endReconf
  split
  · rfl
  · exact arrState_c0Refresh a _

/-- A failed step with nothing committed: its reservations given back, event 0x000B posted, before any array joins another partition. -/
def stepDropped (p layer oper hdr : Nat) (st : Step) (s : State) : State :=
  postPf 0x000B 0x09 sAborted p (layer * 2 ^ 16 + oper) (bump (ARY_PART_STATUS.STEP_FAILS p) 1
    (trace { tick := 0, event := 0x0203, src := 0x09, part := p, layer := layer, oper := oper, arg := hdr }
      (showSched p (modPart p (fun x => { x with step := none })
        (st.runs.foldl (fun s r => if r.reserved then reserveOut (descOf r.idx s) false s else s) s)))))

section
variable {p : Nat} {s : State} (layer oper hdr : Nat)

theorem failStep_of_no_step (h : (partOf p s).step = none) : failStep p layer oper hdr s = s := by
  unfold failStep
  rw [h]
theorem failStep_of_step {st : Step} (h : (partOf p s).step = some st) :
    failStep p layer oper hdr s = endReconf p (joinFrom p (stepDropped p layer oper hdr st s)) := by
  unfold failStep
  rw [h]
  rfl

theorem stepDropped_parts (p : Nat) (st : Step) (s : State) :
    ∃ t, t.parts = s.parts ∧ (stepDropped p layer oper hdr st s).parts = (modPart p (fun x => { x with step := none }) t).parts := by
  refine ⟨st.runs.foldl (fun s r => if r.reserved then reserveOut (descOf r.idx s) false s else s) s, foldl_keeps State.parts ?_ s, ?_⟩
  · intro s r _
    split <;> simp
  · simp [stepDropped]

/-- No step runs after the failure of one, and the kernel runs on. -/
theorem partOf_failStep (p : Nat) (s : State) :
    (partOf p (failStep p layer oper hdr s)).step = none ∧ (partOf p (failStep p layer oper hdr s)).running = (partOf p s).running := by
  cases hstep : (partOf p s).step with
  | none =>
    rw [failStep_of_no_step layer oper hdr hstep]
    exact ⟨hstep, rfl⟩
  | some st =>
    obtain ⟨t, ht, hparts⟩ := stepDropped_parts layer oper hdr p st s
    have hend : ∀ {β : Type} (g : Part → β), (∀ x l, g { x with incoming := l } = g x) → (∀ x b, g { x with reconf := b } = g x) →
        g (partOf p (failStep p layer oper hdr s)) = g { partOf p s with step := none } := by
      intro β g hin hre
      rw [failStep_of_step layer oper hdr hstep, partOf_endReconf_keeps g hre, partOf_joinFrom_keeps g hin, partOf_congr hparts,
        partOf_modPart_self, partOf_congr ht]
    exact ⟨hend Part.step (fun _ _ => rfl) (fun _ _ => rfl), hend Part.running (fun _ _ => rfl) (fun _ _ => rfl)⟩

theorem arrState_failStep {a : Nat} (ha : isArr a) (hp : p < 255) (h : noneIncoming s) :
    arrState a (failStep p layer oper hdr s) = arrState a s := by
  cases hstep : (partOf p s).step with
  | none => rw [failStep_of_no_step layer oper hdr hstep]
  | some st =>
    obtain ⟨t, ht, hparts⟩ := stepDropped_parts layer oper hdr p st s
    have hnone : noneIncoming (stepDropped p layer oper hdr st s) :=
      noneIncoming_congr hparts (noneIncoming_modPart (noneIncoming_congr ht h) p fun _ => rfl)
    rw [failStep_of_step layer oper hdr hstep, joinFrom_of_noneIncoming hnone, arrState_endReconf]
    unfold stepDropped bump
    rw [arrState_postPf ha, arrState_wr_hi (hi := 47) rfl (by decide) (by decide), arrState_trace, arrState_showSched ha hp]
    refine foldl_keeps (arrState a) ?_ s
    intro s r _
    split <;> rfl
end

/-! ## Rows of a module that serves -/

section
variable {s : State} (hs : serving s = true)
include hs

theorem exec_aryRetire (t n : Nat) : exec (.aryRetire t n) s = .next (aryRetire t n s) := whenServing_of_serving hs (aryRetire t n)
theorem exec_aryReturn (t n : Nat) : exec (.aryReturn t n) s = .next (aryReturn t n s) := whenServing_of_serving hs (aryReturn t n)
theorem exec_watchdogOverrun (p r : Nat) : exec (.watchdogOverrun p r) s = .next (overrun p r s) := whenServing_of_serving hs (overrun p r)
theorem exec_hangDeclared (p r : Nat) : exec (.hangDeclared p r) s = .next (hangDeclared p r s) :=
  whenServing_of_serving hs (hangDeclared p r)
theorem exec_hangDump (a : Nat) : exec (.hangDump a) s = .next (hangDump a s) := whenServing_of_serving hs (hangDump a)
theorem exec_rankMapSwap (p : Nat) : exec (.rankMapSwap p) s = .next (rankSwap p s) := whenServing_of_serving hs (rankSwap p)
theorem exec_residentReloadDone (p : Nat) : exec (.residentReloadDone p) s = .next (reloadDone p s) :=
  whenServing_of_serving hs (reloadDone p)
theorem exec_sramUncorrectable (t n off : Nat) : exec (.sramUncorrectable t n off) s = .next (sramUe t n off s) :=
  whenServing_of_serving hs (sramUe t n off)
end
theorem exec_knownAnswerTestDone {s : State} (hl : live s = true) (t n : Nat) (pass : Bool) :
    exec (.knownAnswerTestDone t n pass) s = .next (katDone t n pass s) := whenLive_of_live hl (katDone t n pass)

/-! ## SRAM_UNCORRECTABLE (R196, R472) -/

/-- The array is recorded and the error counted on its tile, before anything fails. -/
def sramNoted (t n : Nat) (s : State) : State := wr (ARY_SRAM_ECC.LAST_ARRAY t) n (bump (ARY_SRAM_ECC.UNCORRECTABLE t) 1 s)

section
variable {t n off : Nat} {s u : State} (ht : t < 4) (hn : n < 352) (hu : u = sramNoted t n s)
include ht hn hu

theorem sramUe_working (hpart : arrPart (t * 512 + n) u ≠ 0xFF) (hregion : regionOf (arrPart (t * 512 + n) u) off u = 3) :
    sramUe t n off s = countFail (t * 512 + n) (failStep (arrPart (t * 512 + n) u) (runningOp (arrPart (t * 512 + n) u) u).1
      (runningOp (arrPart (t * 512 + n) u) u).2 (((partOf (arrPart (t * 512 + n) u) u).running.map (·.hdr)).getD 0) u) := by
  subst hu
  unfold sramUe
  rw [if_neg (by omega)]
  exact congrArg (countFail _) (if_pos (And.intro hpart hregion))
theorem sramUe_elsewhere (h : arrPart (t * 512 + n) u = 0xFF ∨ regionOf (arrPart (t * 512 + n) u) off u ≠ 3) :
    sramUe t n off s = countFail (t * 512 + n) u := by
  have hnot : ¬ (arrPart (t * 512 + n) u ≠ 0xFF ∧ regionOf (arrPart (t * 512 + n) u) off u = 3) := fun hboth =>
    h.elim hboth.1 fun hregion => hregion hboth.2
  subst hu
  unfold sramUe
  rw [if_neg (by omega)]
  exact congrArg (countFail _) (if_neg hnot)
end

/-- Settles O33, by where the word lies: in the working region of a partition, or elsewhere. -/
theorem sramErrors : Obligations.SramErrors := by
  unfold Obligations.SramErrors
  refine ⟨?elsewhere, ?working⟩
  case elsewhere =>
    intro t n off s u hs ht hn hu h
    rw [exec_sramUncorrectable hs, sramUe_elsewhere ht hn hu h]
  case working =>
    intro t n off p hdr s u hs ht hn hu hp hpart hregion hhdr
    subst hp hhdr
    rw [exec_sramUncorrectable hs, sramUe_working ht hn hu hpart hregion]

end Sys2Proof.Machine
end

section
/-!
SUPPORT and PROOF. The life of arrays: the equations of commands, known-answer tests, overruns, hangs and replacements by case, and from these the
statement `Obligations.ArrayLife` (O32).
-/
namespace Sys2Proof.Machine

/-! ## ARY_CMD (R194) -/

theorem retireArr_spare {a : Nat} {s : State} (h : arrState a s = aSpare) : retireArr a s = elementEv 1 a 0 (setArr a aRetired s) := if_pos h

theorem rd_status_aryCmdDone (t : Nat) (s : State) {st : Nat} (h : st < 256) : rd (ARY_CMD_STATUS.STATUS t) (aryCmdDone t st s) = st :=
  (rd_wr_self _ _ _).trans (Nat.mod_eq_of_lt h)

theorem command_ignored {t : Nat} {s : State} (h : 4 ≤ t ∨ isSet (ARY_CMD_STATUS.BUSY t) s = true) (n : Nat) :
    aryRetire t n s = s ∧ aryReturn t n s = s := ⟨if_pos h, if_pos h⟩

section
variable {t n : Nat} {s : State} (ht : t < 4) (hb : isSet (ARY_CMD_STATUS.BUSY t) s = false)
include ht hb

theorem not_ignored : ¬ (4 ≤ t ∨ isSet (ARY_CMD_STATUS.BUSY t) s = true) := by
  simp only [hb, Bool.false_eq_true, or_false]
  omega
theorem aryRetire_spare (hn : n < 352) (h : arrState (t * 512 + n) s = aSpare) :
    aryRetire t n s = aryCmdDone t sOk (elementEv 1 (t * 512 + n) 0 (setArr (t * 512 + n) aRetired s)) := by
  unfold aryRetire
  dsimp only
  rw [if_neg (not_ignored ht hb), if_neg (by omega), if_pos h, retireArr_spare h]
theorem aryRetire_enabled (hn : n < 352) (h : arrState (t * 512 + n) s = aEnabled) {a : Nat} (ha : lowestSpare t s = some a) :
    aryRetire t n s = if isSet (ARY_STATUS.BUSY t n) s then
        wr (ARY_CMD_STATUS.BUSY t) 1 { s with retireWait := s.retireWait.filter (·.1 != t * 512 + n) ++ [(t * 512 + n, true)] }
      else aryCmdDone t sOk (retireArr (t * 512 + n) s) := by
  unfold aryRetire
  dsimp only
  rw [if_neg (not_ignored ht hb), if_neg (by omega), if_neg (by rw [h]; decide), if_pos ⟨h, by rw [ha]; rfl⟩]
theorem aryRetire_rejected
    (h : 352 ≤ n ∨ (arrState (t * 512 + n) s ≠ aSpare ∧ (arrState (t * 512 + n) s ≠ aEnabled ∨ lowestSpare t s = none))) :
    aryRetire t n s = aryCmdDone t sRejected s := by
  unfold aryRetire
  dsimp only
  rw [if_neg (not_ignored ht hb)]
  by_cases hn : 352 ≤ n
  · rw [if_pos hn]
  · obtain ⟨hspare, hnone⟩ := h.resolve_left hn
    rw [if_neg hn, if_neg hspare, if_neg]
    rintro ⟨hen, hsome⟩
    rw [hnone.resolve_left (not_not_intro hen)] at hsome
    exact absurd hsome (by decide)
theorem aryReturn_retired (hn : n < 352) (h : arrState (t * 512 + n) s = aRetired) :
    aryReturn t n s = wr (ARY_CMD_STATUS.BUSY t) 1 (wr (ARY_STATUS.FAILS t n) 0
      (setArr (t * 512 + n) aTesting { s with arrTests := sset s.arrTests (t * 512 + n) 1 })) := by
  unfold aryReturn
  dsimp only
  rw [if_neg (not_ignored ht hb), if_pos ⟨hn, h⟩]
theorem aryReturn_rejected (h : 352 ≤ n ∨ arrState (t * 512 + n) s ≠ aRetired) : aryReturn t n s = aryCmdDone t sRejected s := by
  unfold aryReturn
  dsimp only
  rw [if_neg (not_ignored ht hb), if_neg fun hboth => h.elim (Nat.not_le.mpr hboth.1) fun hne => hne hboth.2]
end

/-- The test that ARY_RETURN began has ended: the array is SPARE, told with event 0x001A, or RETIRED again, and the command ends. -/
theorem katDone_of_command {t n : Nat} {s : State} (ht : t < 4) (hn : n < 352) (h : arrState (t * 512 + n) s = aTesting)
    (hwhy : sget s.arrTests (t * 512 + n) = some 1) (pass : Bool) :
    katDone t n pass s = wr (ARY_CMD_STATUS.BUSY t) 0 (wr (ARY_CMD_STATUS.STATUS t) sOk
      (if pass then elementEv 1 (t * 512 + n) 0 (setArr (t * 512 + n) aSpare { s with arrTests := sdel s.arrTests (t * 512 + n) })
       else setArr (t * 512 + n) aRetired { s with arrTests := sdel s.arrTests (t * 512 + n) })) := by
  have hone : sgetD s.arrTests (t * 512 + n) 0 = 1 := by unfold sgetD; rw [hwhy]; rfl
  unfold katDone
  dsimp only
  rw [if_neg (by rw [h]; omega), if_pos hone]

/-! ## Overruns and hangs (R182, R185) -/

theorem partOf_overrun {p r a : Nat} {k : Running} {s : State} (hk : (partOf p s).running = some k) (ha : runArr p r s = some a) :
    partOf p (overrun p r s) = { partOf p s with running := some { k with overrun := true } } := by
  have hparts : (overrun p r s).parts = (modPart p (fun x => { x with running := some { k with overrun := true } }) s).parts := by
    unfold overrun
    rw [hk, ha]
    simp
  rw [partOf_congr hparts, partOf_modPart_self]

/-- The array of a rank freezes, its transfers cut off, and the kernel goes on without the rank (R164, R185). -/
def rankFrozen (p r a : Nat) (k : Running) (s : State) : State :=
  modPart p (fun x => { x with running := some { k with hung := true, ranks := k.ranks.set r 0xFFFF } })
    (bump (ARY_KERNEL_COUNTS.HANGS (a / 512)) 1 (setArr a aFrozen (showBusy [a] false (dmaStop p r a s))))
/-- The dump that a hang starts (R534). -/
def dumpOfHang (p a : Nat) (k : Running) : Dump :=
  { kind := 1, src := 0x09, tick := 0, array := a, part := p, layer := k.kern.layer, oper := k.kern.op, elapsed := 1000, seq := 0, kernel := k.hdr }
/-- The hang is dumped, where there is a slot, and traced; the step has not failed yet. -/
def hangRecorded (p r a : Nat) (k : Running) (s : State) : State :=
  trace { tick := 0, event := 0x0104, src := 0x09, part := p, layer := k.kern.layer, oper := k.kern.op, array := a,
          arg := (startDump (dumpOfHang p a k) (rankFrozen p r a k s)).1.getD ones64 }
    (startDump (dumpOfHang p a k) (rankFrozen p r a k s)).2

theorem hangDeclared_eq {p r a : Nat} {k : Running} {s : State} (hk : (partOf p s).running = some k) (ha : runArr p r s = some a) :
    hangDeclared p r s = askReturn (tileChans (a / 512)) (failStep p k.kern.layer k.kern.op k.hdr (hangRecorded p r a k s)) := by
  unfold hangDeclared hangRecorded rankFrozen dumpOfHang
  rw [hk, ha]
theorem hangRecorded_parts (p r a : Nat) (k : Running) (s : State) : (hangRecorded p r a k s).parts = (rankFrozen p r a k s).parts := by
  unfold hangRecorded
  simp
theorem rankFrozen_parts (p r a : Nat) (k : Running) (s : State) :
    (rankFrozen p r a k s).parts =
      (modPart p (fun x => { x with running := some { k with hung := true, ranks := k.ranks.set r 0xFFFF } }) s).parts := by
  unfold rankFrozen modPart putPart partOf
  simp
theorem running_hangRecorded (p r a : Nat) (k : Running) (s : State) :
    (partOf p (hangRecorded p r a k s)).running = some { k with hung := true, ranks := k.ranks.set r 0xFFFF } := by
  rw [partOf_congr (hangRecorded_parts p r a k s), partOf_congr (rankFrozen_parts p r a k s), partOf_modPart_self]
theorem noneIncoming_hangRecorded {s : State} (h : noneIncoming s) (p r a : Nat) (k : Running) : noneIncoming (hangRecorded p r a k s) :=
  noneIncoming_congr ((hangRecorded_parts p r a k s).trans (rankFrozen_parts p r a k s)) (noneIncoming_modPart h p fun _ => rfl)
theorem arrState_hangRecorded {a : Nat} (ha : isArr a) (p r : Nat) (k : Running) (s : State) :
    arrState a (hangRecorded p r a k s) = aFrozen := by
  unfold hangRecorded rankFrozen
  rw [arrState_trace, arrState_startDump]
  exact (arrState_wr_hi (hi := 55) rfl (by decide) (by decide) a _ _).trans (arrState_setArr_self ha (by decide) _)
theorem arrState_askReturn (a : Nat) (chans : List Nat) (s : State) : arrState a (askReturn chans s) = arrState a s := rfl
theorem lt_of_runArr {p r a : Nat} {s : State} (h : runArr p r s = some a) : a < 2048 := by
  unfold runArr at h
  exact of_decide_eq_true (Option.mem_filter_iff.mp h).2

theorem hangDump_taken {a k : Nat} {d : Dump} {s : State} (ha : a < 2048) (hfrozen : arrState a s = aFrozen)
    (hd : s.dumps.find? (fun p => p.2.array == a && !p.2.complete) = some (k, d)) (hr : dumpRuns d s = true) :
    hangDump a s =
      retireFrozen a (postPf 0x0021 0x18 sOk k (a + (hangOf a s).1 * 2 ^ 32 + (hangOf a s).2 * 2 ^ 48) (dumpDone k s)) := by
  unfold hangDump
  rw [if_neg (by rw [hfrozen]; omega)]
  dsimp only
  rw [hd]
  exact if_pos hr
theorem hangDump_dropped {a : Nat} {s : State} (ha : a < 2048) (hfrozen : arrState a s = aFrozen)
    (hd : s.dumps.find? (fun p => p.2.array == a && !p.2.complete) = none) :
    hangDump a s =
      retireFrozen a (postPf 0x0021 0x18 sDropped 0xFFFF_FFFF (a + (hangOf a s).1 * 2 ^ 32 + (hangOf a s).2 * 2 ^ 48) s) := by
  unfold hangDump
  rw [if_neg (by rw [hfrozen]; omega)]
  dsimp only
  rw [hd]

/-! ## Replacements (R177, R184, R191) -/

/-- The rank map with the spare in the place of the failed array. -/
def swapRanks (w : Swap) (l : List Nat) : List Nat := l.map fun a => if a = w.failed then w.spare else a
/-- The spare is ENABLED under the rank of the failed array, which leaves the map (R191 row 3). -/
def spareEnabled (p : Nat) (w : Swap) (s : State) : State :=
  setArr w.spare aEnabled (wr (ARY_STATUS.PARTITION (w.spare / 512) (w.spare % 512)) p
    (wr (ARY_STATUS.RANK (w.spare / 512) (w.spare % 512)) w.rank (unmapArr w.failed s)))
theorem arrState_modPart (a p : Nat) (f : Part → Part) (s : State) : arrState a (modPart p f s) = arrState a s := rfl
theorem arrPart_modPart (a p : Nat) (f : Part → Part) (s : State) : arrPart a (modPart p f s) = arrPart a s := rfl
theorem arrState_spareEnabled {w : Swap} (ha : isArr w.spare) (p : Nat) (s : State) : arrState w.spare (spareEnabled p w s) = aEnabled :=
  arrState_setArr_self ha (by decide) _
theorem spareEnabled_parts (p : Nat) (w : Swap) (s : State) : (spareEnabled p w s).parts = s.parts := by
  unfold spareEnabled unmapArr
  simp

theorem rankSwap_one {p : Nat} {w : Swap} {s : State} (hw : (partOf p s).swaps = [w]) (h : w.phase = 2) :
    rankSwap p s = modPart p (fun x => { x with
      ranks := swapRanks w x.ranks, step := x.step.map fun st => { st with ranks := swapRanks w st.ranks },
      swaps := x.swaps.map fun v => if v == w then { v with phase := 3 } else v }) (spareEnabled p w s) := by
  unfold rankSwap
  rw [hw]
  exact if_pos h
theorem arrPart_spareEnabled {p : Nat} {w : Swap} (hp : p < 255) (s : State) : arrPart w.spare (spareEnabled p w s) = p := by
  have hshow : ∀ {f : Fld} {hi v : Nat} {s : State}, f.hi = hi → hi < 64 → hi ≠ 15 → arrPart w.spare (wr f v s) = arrPart w.spare s := by
    intro f hi v s hf hlt hne
    refine rd_wr_apart _ _ _ _ ?_
    simp only [apart, fkey, ARY_STATUS.PARTITION]
    omega
  unfold spareEnabled setArr showArrays
  dsimp only
  rw [hshow (hi := 8) rfl (by decide) (by decide), hshow (hi := 24) rfl (by decide) (by decide), hshow (hi := 40) rfl (by decide) (by decide),
    hshow (hi := 2) rfl (by decide) (by decide)]
  exact (rd_wr_self _ _ _).trans (Nat.mod_eq_of_lt (show p < 256 by omega))

theorem reloadAll_parts (p : Nat) (s : State) : (reloadAll p s).parts = s.parts := by
  unfold reloadAll
  refine foldl_keeps State.parts ?_ s
  intro s a _
  split
  · simp
  · rfl
/-- What RESIDENT_RELOAD_DONE does of a reload of every rank after an array reset, before the replacements (R184). -/
def allReloaded (p : Nat) (s : State) : State :=
  if (partOf p s).reload ∧ (partOf p s).incoming = [] ∧ ¬ isSet (ALM_REGION.COMPLETING (0x10 + p)) s then
    modPart p (fun x => { x with reload := false }) (reloadAll p s)
  else s
/-- The replacements of a partition whose rank has changed (R191 row 4). -/
def swapsDone (p : Nat) (s : State) : List Swap := (partOf p s).swaps.filter (·.phase == 3)

theorem partOf_allReloaded_keeps {β : Type} (g : Part → β) (hg : ∀ x b, g { x with reload := b } = g x) (p : Nat) (s : State) :
    g (partOf p (allReloaded p s)) = g (partOf p s) := by
  unfold allReloaded
  split
  · rw [partOf_modPart_keeps g (fun x => hg x false), partOf_congr (reloadAll_parts p s)]
  · rfl
theorem reload_allReloaded {p : Nat} {s : State} (hr : (partOf p s).reload = true) (hi : (partOf p s).incoming = [])
    (hc : isSet (ALM_REGION.COMPLETING (0x10 + p)) s = false) : (partOf p (allReloaded p s)).reload = false := by
  unfold allReloaded
  rw [if_pos ⟨hr, hi, by rw [hc]; decide⟩, partOf_modPart_self]

theorem reloadDone_of_no_swap {p : Nat} {s : State} (h : swapsDone p s = []) : reloadDone p s = allReloaded p s := if_pos h
theorem partOf_reloadDone_of_swap {p : Nat} {s : State} (h : swapsDone p s ≠ []) :
    partOf p (reloadDone p s) = { partOf p (allReloaded p s) with swaps := (partOf p (allReloaded p s)).swaps.filter (·.phase != 3) } := by
  have hloaded : ((swapsDone p s).foldl (fun s w => residLoad p w.rank w.spare s) (allReloaded p s)).parts = (allReloaded p s).parts :=
    foldl_keeps State.parts (fun s w _ => residLoad_parts p w.rank w.spare s) _
  have hdone : reloadDone p s = showSwap p (bump (ARY_PART_STATUS.SWAPS p) (swapsDone p s).length
      (modPart p (fun x => { x with swaps := x.swaps.filter (·.phase != 3) })
        ((swapsDone p s).foldl (fun s w => residLoad p w.rank w.spare s) (allReloaded p s)))) := if_neg h
  rw [hdone, partOf_congr ((showSwap_parts _ _).trans (bump_parts _ _ _)), partOf_modPart_self, partOf_congr hloaded]

/-! ## The statement -/

/-- Settles O32, clause by clause. For a hang it turns on that neither the dump nor the failure of the step changes an array's state, and that the
failure leaves the running kernel. -/
theorem arrayLife : Obligations.ArrayLife := by
  unfold Obligations.ArrayLife
  refine ⟨?retire_spare, ?retire_idle, ?retire_busy, ?ignored, ?return_rejected, ?retire_rejected, ?return_retired, ?test_done, ?overrun,
    ?hang, ?hang_frozen, ?dump_taken, ?dump_dropped, ?rank_swap, ?swaps_end, ?reload_end⟩
  case retire_spare =>
    intro t n s hs ht hn hb h
    have ha := isArr_tile ht hn
    refine ⟨_, (exec_aryRetire hs t n).trans (congrArg _ (aryRetire_spare ht hb hn h)), ?_, rd_status_aryCmdDone t _ (by decide)⟩
    rw [arrState_aryCmdDone, arrState_elementEv ha, arrState_setArr_self ha (by decide)]
  case retire_idle =>
    intro t n a s hs ht hn hb h ha hidle
    rw [exec_aryRetire hs, aryRetire_enabled ht hb hn h ha, if_neg (by rw [hidle]; decide)]
  case retire_busy =>
    intro t n a s hs ht hn hb h ha hbusy
    rw [exec_aryRetire hs, aryRetire_enabled ht hb hn h ha, if_pos hbusy]
  case ignored =>
    intro t n s hs h
    obtain ⟨hretire, hreturn⟩ := command_ignored h n
    rw [exec_aryRetire hs, exec_aryReturn hs, hretire, hreturn]
    exact ⟨rfl, rfl⟩
  case return_rejected =>
    intro t n s hs ht hb h
    rw [exec_aryReturn hs, aryReturn_rejected ht hb h]
  case retire_rejected =>
    intro t n s hs ht hb h
    rw [exec_aryRetire hs, aryRetire_rejected ht hb h]
  case return_retired =>
    intro t n s hs ht hn hb h
    have ha := isArr_tile ht hn
    refine ⟨_, (exec_aryReturn hs t n).trans (congrArg _ (aryReturn_retired ht hb hn h)), ?_, rd_wr_self _ _ _, sget_sset_self _ _ _⟩
    rw [arrState_wr_hi (hi := 0) rfl (by decide) (by decide), arrState_wr_hi (hi := 5) rfl (by decide) (by decide),
      arrState_setArr_self ha (by decide)]
  case test_done =>
    intro t n pass s hl ht hn h hwhy
    have ha := isArr_tile ht hn
    refine ⟨_, (exec_knownAnswerTestDone hl t n pass).trans (congrArg _ (katDone_of_command ht hn h hwhy pass)), ?_, rd_wr_self _ _ _, ?_⟩
    · rw [arrState_wr_hi (hi := 0) rfl (by decide) (by decide), arrState_wr_hi (hi := 15) rfl (by decide) (by decide)]
      cases pass with
      | true => exact (arrState_elementEv ha _ _ _ _).trans (arrState_setArr_self ha (by decide) _)
      | false => exact arrState_setArr_self ha (by decide) _
    · refine (rd_wr_apart _ _ _ _ ?_).trans (rd_wr_self _ _ _)
      simp only [apart, fkey, ARY_CMD_STATUS.STATUS, ARY_CMD_STATUS.BUSY]
      omega
  case overrun =>
    intro p r a k s hs hk ha
    have hp := partOf_overrun hk ha
    exact ⟨_, exec_watchdogOverrun hs p r, by rw [hp], by rw [hp]⟩
  case hang =>
    intro p r a k s hs hk ha
    obtain ⟨hstep, hrunning⟩ := partOf_failStep k.kern.layer k.kern.op k.hdr p (hangRecorded p r a k s)
    refine ⟨_, (exec_hangDeclared hs p r).trans (congrArg _ (hangDeclared_eq hk ha)), ?_, ?_⟩
    · rw [partOf_congr (askReturn_parts _ _), hrunning, running_hangRecorded]
    · rw [partOf_congr (askReturn_parts _ _), hstep]
  case hang_frozen =>
    intro p r a k s hs hk ha hmod hp hin
    have harr : isArr a := ⟨by have := lt_of_runArr ha; omega, hmod⟩
    refine ⟨_, (exec_hangDeclared hs p r).trans (congrArg _ (hangDeclared_eq hk ha)), ?_⟩
    rw [arrState_askReturn, arrState_failStep _ _ _ harr hp (noneIncoming_hangRecorded hin p r a k), arrState_hangRecorded harr]
  case dump_taken =>
    intro a k d s hs ha hfrozen hd hr
    rw [exec_hangDump hs, hangDump_taken ha hfrozen hd hr]
  case dump_dropped =>
    intro a s hs ha hfrozen hd
    rw [exec_hangDump hs, hangDump_dropped ha hfrozen hd]
  case rank_swap =>
    intro p w s hs hw hphase hspare hmod hfailed hfmod hne hp
    have harr : isArr w.spare := ⟨by omega, hmod⟩
    refine ⟨_, (exec_rankMapSwap hs p).trans (congrArg _ (rankSwap_one hw hphase)), ?_, ?_, ?_, ?_⟩
    · rw [arrState_modPart, arrState_spareEnabled harr]
    · rw [arrPart_modPart, arrPart_spareEnabled hp]
    · rw [partOf_modPart_self, partOf_congr (spareEnabled_parts p w s), hw]
      simp
    · rw [partOf_modPart_self, partOf_congr (spareEnabled_parts p w s)]
      rfl
  case swaps_end =>
    intro p s hs hne hall
    have hdone : swapsDone p s ≠ [] := by
      unfold swapsDone
      rwa [List.filter_eq_self.mpr (List.all_eq_true.mp hall)]
    have hpart := partOf_reloadDone_of_swap hdone
    rw [partOf_allReloaded_keeps Part.swaps (fun _ _ => rfl)] at hpart
    refine ⟨_, exec_residentReloadDone hs p, ?_, ?_⟩
    · rw [hpart]
      refine List.filter_eq_nil_iff.mpr fun w hw => ?_
      simpa using List.all_eq_true.mp hall w hw
    · rw [hpart]
      exact partOf_allReloaded_keeps Part.step (fun _ _ => rfl) p s
  case reload_end =>
    intro p s hs hr hi hc
    refine ⟨_, exec_residentReloadDone hs p, ?_⟩
    by_cases hdone : swapsDone p s = []
    · rw [reloadDone_of_no_swap hdone, reload_allReloaded hr hi hc]
    · rw [partOf_reloadDone_of_swap hdone]
      exact reload_allReloaded hr hi hc

end Sys2Proof.Machine
end

section
/-!
SUPPORT and PROOF. The selection unit: what a kernel of SELECT does by case, that its sorted lists hold what they were formed from and how
many entries a pass and a merge keep, and from these the statement `Obligations.SelectResults` (O34).
-/
namespace Sys2Proof.Machine

/-! ## The kernel: its result, or its refusal (R234, R235, R239) -/

theorem exec_selectRow {s : State} (hs : serving s = true) (p rank : Nat) (poison : Bool) :
    exec (.selectRow p rank poison) s = .next (selRow p rank poison s) := whenServing_of_serving hs (selRow p rank poison)
theorem exec_selectMerge {s : State} (hs : serving s = true) (p rank : Nat) (poison : Bool) :
    exec (.selectMerge p rank poison) s = .next (selMerge p rank poison s) := whenServing_of_serving hs (selMerge p rank poison)

/-- The entries of a row, as its kernel reads them from its source (R235). -/
def rowItems (arr : Nat) (q : SelPar) (s : State) : List (Nat × Nat) :=
  ((List.range q.length).zip (pieces (selSize q.source) q.length (kernRead arr q.srcSram q.src (srcBytes q) s))).map
    fun e => selElem q.source q.base e.1 e.2

section
variable {p rank layer arr : Nat} {poison : Bool} {q : SelPar} {s : State} (hk : selKernel p rank s = some (q, layer, arr))
include hk

theorem selRow_refused (hm : q.mode ≠ 1) (hc : selCheck arr q (poison || selPoison p rank s) s ≠ 0) :
    selRow p rank poison s =
      selReject p arr q (selCheck arr q (poison || selPoison p rank s) s) layer 0x0007 (selRead p rank poison s) := by
  unfold selRow
  rw [hk]
  dsimp only
  rw [if_neg hm, if_pos hc]
theorem selRow_selects {u : State} (hm : q.mode ≠ 1) (hc : selCheck arr q (poison || selPoison p rank s) s = 0)
    (hu : u = selRead p rank poison s) :
    selRow p rank poison s =
      selWrite p arr q (selectRow (q.order == 1) q.sum q.scale q.k (rowItems arr q u) u.fresh) { u with fresh := u.fresh + 2 } := by
  unfold selRow
  rw [hk]
  dsimp only
  rw [if_neg hm, if_neg (not_not_intro hc), ← hu, rowItems]
theorem selMerge_refused (hm : q.mode = 1) (hc : selCheck arr q (poison || selPoison p rank s) s ≠ 0) :
    selMerge p rank poison s =
      selReject p arr q (selCheck arr q (poison || selPoison p rank s) s) layer 0x0007 (selRead p rank poison s) := by
  unfold selMerge
  rw [hk]
  dsimp only
  rw [if_neg (not_not_intro hm), if_pos hc]
theorem selMerge_selects {u : State} (hm : q.mode = 1) (hc : selCheck arr q (poison || selPoison p rank s) s = 0)
    (hu : u = selRead p rank poison s) :
    selMerge p rank poison s =
      selWrite p arr q (selectMerge (q.order == 1) q.sum q.scale q.k ((partials arr q u).filterMap id) u.fresh)
        { u with fresh := u.fresh + 2 } := by
  unfold selMerge
  rw [hk]
  dsimp only
  rw [if_neg (not_not_intro hm), if_neg (not_not_intro hc), ← hu]
end

/-! ## Lists in rank order (R229, R230) -/

theorem rankInsert_perm (asc : Bool) (x : Nat × Nat) (l : List (Nat × Nat)) : (rankInsert asc x l).Perm (x :: l) := by
  induction l with
  | nil => exact .refl _
  | cons y r ih =>
    unfold rankInsert
    split
    · exact .refl _
    · exact (ih.cons y).trans (.swap x y r)
theorem rankInsert_subset {asc : Bool} {x : Nat × Nat} {l v : List (Nat × Nat)} (hx : x ∈ v) (hl : l ⊆ v) : rankInsert asc x l ⊆ v :=
  fun _ hy => List.cons_subset.mpr ⟨hx, hl⟩ ((rankInsert_perm asc x l).mem_iff.mp hy)
theorem rankSort_subset (asc : Bool) (l : List (Nat × Nat)) : rankSort asc l ⊆ l :=
  List.foldlRecOn (motive := (· ⊆ l)) l _ (List.nil_subset l) fun _ hacc _ hx => rankInsert_subset hx hacc

/-! ## Passes over a row (R235 to R238) -/

theorem mergeKeep_length_le (asc : Bool) (kp : Nat) (done : List Nat) (list cand : List (Nat × Nat)) :
    (mergeKeep asc kp done list cand).1.length ≤ kp := List.length_take_le kp _
/-- A merge of candidates into a list keeps entries of the two only. -/
theorem mergeKeep_subset {asc : Bool} {kp : Nat} {done : List Nat} {list cand v : List (Nat × Nat)} (hlist : list ⊆ v) (hcand : cand ⊆ v) :
    (mergeKeep asc kp done list cand).1 ⊆ v := by
  refine List.Subset.trans (List.take_subset kp _) ?_
  refine List.foldlRecOn (motive := fun acc : List (Nat × Nat) × Nat => acc.1 ⊆ v) _ _ hlist fun acc hacc c hc => ?_
  have hcv : c ∈ v := hcand (rankSort_subset asc cand hc)
  split
  · exact hacc
  · split
    · split
      · exact rankInsert_subset hcv (List.Subset.trans List.erase_subset hacc)
      · exact hacc
    · exact rankInsert_subset hcv hacc

/-- What a pass holds stems from the entries `v`. -/
structure PassSt.From (v : List (Nat × Nat)) (p : PassSt) : Prop where
  list : p.list ⊆ v
  cand : p.cand ⊆ v

theorem PassSt.from_start (v : List (Nat × Nat)) : PassSt.From v {} := ⟨List.nil_subset v, List.nil_subset v⟩

section
variable {asc : Bool} {kp : Nat} {done : List Nat} {v : List (Nat × Nat)}

theorem flushCand_from {p : PassSt} (h : p.From v) : (flushCand asc kp done p).From v :=
  ⟨mergeKeep_subset h.list h.cand, List.nil_subset v⟩
theorem passElem_from {last : Option (Nat × Nat)} {p : PassSt} {x : Nat × Nat} (h : p.From v) (hx : x ∈ v) :
    (passElem asc kp done last p x).From v := by
  have hcand : p.cand ++ [x] ⊆ v := List.append_subset.mpr ⟨h.cand, List.cons_subset.mpr ⟨hx, List.nil_subset v⟩⟩
  unfold passElem
  split
  · exact h
  · split
    · exact ⟨h.list, h.cand⟩
    · dsimp only
      split
      · exact flushCand_from ⟨h.list, hcand⟩
      · exact ⟨h.list, hcand⟩
end

/-- The state at the end of a pass after the entries `result` of the passes before it. -/
def rowPass (asc : Bool) (valid : List (Nat × Nat)) (k : Nat) (result : List (Nat × Nat)) : PassSt :=
  flushCand asc (min 64 (k - result.length)) (result.map (·.1))
    (valid.foldl (passElem asc (min 64 (k - result.length)) (result.map (·.1)) result.getLast?) {})

section
variable {asc : Bool} {valid result : List (Nat × Nat)} {k : Nat}

theorem rowPass_list_subset : (rowPass asc valid k result).list ⊆ valid :=
  (flushCand_from (List.foldlRecOn (motive := PassSt.From valid) valid _ (PassSt.from_start valid)
    fun _ hp _ hx => passElem_from hp hx)).list
theorem rowPass_length_le (h : result.length ≤ k) : (result ++ (rowPass asc valid k result).list).length ≤ k := by
  have hpass : (rowPass asc valid k result).list.length ≤ min 64 (k - result.length) := mergeKeep_length_le ..
  rw [List.length_append]
  omega

/-- A property of the result that one pass more keeps holds after all passes. -/
theorem selPasses_keeps {motive : List (Nat × Nat) → Prop} (n dup : Nat) (h : motive result)
    (hpass : ∀ l, motive l → motive (l ++ (rowPass asc valid k l).list)) : motive (selPasses asc valid k n result dup).1 := by
  induction n generalizing result dup with
  | zero => exact h
  | succ n ih =>
    unfold selPasses
    dsimp only
    split
    · exact hpass result h
    · exact ih _ (hpass result h)
end

section
variable (asc : Bool) (sum scale k draw : Nat)

theorem selectRow_length_le (items : List (Nat × Nat)) : (selectRow asc sum scale k items draw).entries.length ≤ k :=
  selPasses_keeps (motive := (·.length ≤ k)) _ _ (Nat.zero_le k) fun _ => rowPass_length_le
/-- Every entry of the result is one of the row's valid entries. -/
theorem selectRow_entries_subset (items : List (Nat × Nat)) :
    (selectRow asc sum scale k items draw).entries ⊆ items.filter entryValid :=
  selPasses_keeps (motive := (· ⊆ items.filter entryValid)) _ _ (List.nil_subset _) fun _ hl =>
    List.append_subset.mpr ⟨hl, rowPass_list_subset⟩
end

/-! ## Merges (R239 to R241) -/

theorem distinct_subset (asc : Bool) (cands : List (Nat × Nat)) : (distinct asc cands).1 ⊆ cands := by
  refine List.foldlRecOn (motive := fun acc : List (Nat × Nat) × Nat => acc.1 ⊆ cands) _ _ (List.nil_subset cands) fun acc hacc c hc => ?_
  split
  · exact hacc
  · exact List.append_subset.mpr ⟨hacc, List.cons_subset.mpr ⟨rankSort_subset asc cands hc, List.nil_subset cands⟩⟩
/-- No index stands twice among the better copies. -/
theorem distinct_nodup (asc : Bool) (cands : List (Nat × Nat)) : ((distinct asc cands).1.map (·.1)).Nodup := by
  refine List.foldlRecOn (motive := fun acc : List (Nat × Nat) × Nat => (acc.1.map (·.1)).Nodup) _ _ ?_ fun acc hacc c _ => ?_
  · exact List.nodup_nil
  · split
    · exact hacc
    · next hnew =>
      have hc : ∀ o ∈ acc.1, o.1 ≠ c.1 := fun o ho heq =>
        hnew (List.any_eq_true.mpr ⟨o, ho, beq_iff_eq.mpr heq⟩)
      rw [List.map_append, List.map_singleton]
      refine List.nodup_append.mpr ⟨hacc, List.pairwise_singleton _ _, fun i hi j hj => ?_⟩
      obtain ⟨o, ho, rfl⟩ := List.mem_map.mp hi
      obtain rfl := List.mem_singleton.mp hj
      exact hc o ho

section
variable (asc : Bool) (sum scale k draw : Nat) (ps : List Partial)

theorem selectMerge_entries : (selectMerge asc sum scale k ps draw).entries =
    (distinct asc ((ps.flatMap (·.entries)).filter entryValid)).1.take k := rfl
theorem selectMerge_entries_subset :
    (selectMerge asc sum scale k ps draw).entries ⊆ (ps.flatMap (·.entries)).filter entryValid := by
  rw [selectMerge_entries]
  exact List.Subset.trans (List.take_subset k _) (distinct_subset asc _)
theorem selectMerge_nodup : ((selectMerge asc sum scale k ps draw).entries.map (·.1)).Nodup := by
  rw [selectMerge_entries, List.map_take]
  exact (distinct_nodup asc _).take
end

/-! ## The statement -/

/-- Settles O34: a kernel by its check, and the entries of a result by the passes of a row and the better copies of a merge. -/
theorem selectResults : Obligations.SelectResults := by
  unfold Obligations.SelectResults
  refine ⟨?row, ?row_refused, ?merge_refused, ?merge, ?row_entries, ?merge_entries⟩
  case row =>
    intro p rank layer arr q s u hs hk hm hc hu
    exact (exec_selectRow hs p rank false).trans (congrArg _ (selRow_selects hk hm hc hu))
  case row_refused =>
    intro p rank layer arr poison q s hs hk hm hc
    rw [exec_selectRow hs, selRow_refused hk hm hc]
  case merge_refused =>
    intro p rank layer arr poison q s hs hk hm hc
    rw [exec_selectMerge hs, selMerge_refused hk hm hc]
  case merge =>
    intro p rank layer arr q s u hs hk hm hc hu
    exact (exec_selectMerge hs p rank false).trans (congrArg _ (selMerge_selects hk hm hc hu))
  case row_entries =>
    intro asc sum scale k draw items
    exact ⟨selectRow_length_le asc sum scale k draw items, fun x hx =>
      List.mem_filter.mp (selectRow_entries_subset asc sum scale k draw items hx)⟩
  case merge_entries =>
    intro asc sum scale k draw ps
    refine ⟨?_, fun x hx => ?_, selectMerge_nodup asc sum scale k draw ps⟩
    · rw [selectMerge_entries]
      exact List.length_take_le k _
    · exact (List.mem_filter.mp (selectMerge_entries_subset asc sum scale k draw ps hx)).2

end Sys2Proof.Machine
end

section
/-!
SUPPORT. A session's descriptor and working state after each operation of the session table, of its output ring and of the mask unit.
-/
namespace Sys2Proof.Machine

/-! ## Descriptors and sessions -/

theorem descOf_congr {s t : State} (hd : t.desc = s.desc) (hb : t.boots = s.boots) (i : Nat) : descOf i t = descOf i s := by
  unfold descOf
  rw [hd, hb]
theorem sessOf_congr {s t : State} (h : t.sess = s.sess) (i : Nat) : sessOf i t = sessOf i s := by
  unfold sessOf
  rw [h]

section
variable (i j : Nat) (s : State)

@[simp] theorem descOf_modDesc_self (f : Desc → Desc) : descOf i (modDesc i f s) = f (descOf i s) := descOf_putDesc_self i _ s
theorem descOf_modDesc_ne {i j : Nat} (h : j ≠ i) (f : Desc → Desc) (s : State) : descOf j (modDesc i f s) = descOf j s :=
  descOf_putDesc_ne i j _ s h
@[simp] theorem modDesc_sess (f : Desc → Desc) : (modDesc i f s).sess = s.sess := putDesc_sess i _ s
@[simp] theorem sessOf_modDesc (f : Desc → Desc) : sessOf j (modDesc i f s) = sessOf j s := sessOf_putDesc i j _ s
@[simp] theorem descOf_modSess (f : Sess → Sess) : descOf j (modSess i f s) = descOf j s := rfl
@[simp] theorem sessOf_modSess_self (f : Sess → Sess) : sessOf i (modSess i f s) = f (sessOf i s) := sessOf_putSess_self i _ s
@[simp] theorem entered_sessions (h : Hdr) (op : Nat) : (entered h op s).sess = s.sess := by
  obtain ⟨y, ey⟩ := entered_cases h op s
  rw [ey]
@[simp] theorem entered_grams (h : Hdr) (op : Nat) : (entered h op s).grams = s.grams := by
  obtain ⟨y, ey⟩ := entered_cases h op s
  rw [ey]
@[simp] theorem entered_canSupply (h : Hdr) (op c n : Nat) : canSupply c n (entered h op s) = canSupply c n s := by
  obtain ⟨y, ey⟩ := entered_cases h op s
  rw [ey]
  rfl
@[simp] theorem markDirty_desc (a n : Nat) : (markDirty i a n s).desc = s.desc := by
  unfold markDirty
  split <;> rfl
@[simp] theorem markDirty_boots (a n : Nat) : (markDirty i a n s).boots = s.boots := by
  unfold markDirty
  split <;> rfl
@[simp] theorem markDirty_sess (a n : Nat) : (markDirty i a n s).sess = s.sess := by
  unfold markDirty
  split <;> rfl
@[simp] theorem markDirty_regs (a n : Nat) : (markDirty i a n s).regs = s.regs := by
  unfold markDirty
  split <;> rfl

/-- Giving back a session's allocations writes no descriptor. -/
@[simp] theorem descOf_freeKind (kind : Nat) : descOf j (freeKind i kind s) = descOf j s := by
  unfold freeKind
  rw [descOf_modSess]
  exact foldl_keeps (descOf j) (f := freeAlloc (descOf i s).cls) (fun _ _ _ => rfl) s
/-- Nor does an allocation of session state. -/
theorem descOf_allocState {i kind n a : Nat} {s t : State} (h : allocState i kind n s = some (a, t)) (j : Nat) : descOf j t = descOf j s := by
  obtain ⟨g, -, -, rfl⟩ := allocState_cases i kind n a s t h
  rfl

end

/-! ## The tick while a descriptor is written (R25, R49) -/

theorem now_wr {f : Fld} (hf : fkey SID_COUNT.COUNT ≠ fkey f) (v : Nat) (s : State) : now (wr f v s) = now s := rd_wr_apart _ _ _ _ hf
@[simp] theorem now_trace (r : Trc) (s : State) : now (trace r s) = now s := by
  unfold trace bump
  dsimp only
  repeat' split
  · rfl
  all_goals
    simp (disch := decide) only [now_wr]
    rfl
@[simp] theorem now_countDesc (d : Desc) (up : Bool) (s : State) : now (countDesc d up s) = now s := by
  have hstate : apart SID_COUNT.COUNT (SES_STATE_COUNT.COUNT d.st) :=
    apart_of_off _ _ (by decide) ⟨by simp [SES_STATE_COUNT.COUNT], by simp [SES_STATE_COUNT.COUNT]⟩
      (by simp only [SID_COUNT.COUNT, SES_STATE_COUNT.COUNT]; omega)
  have hcls : apart SID_COUNT.COUNT (SES_CLASS_USAGE.SESSIONS d.cls) :=
    apart_of_off _ _ (by decide) ⟨by simp [SES_CLASS_USAGE.SESSIONS], by simp [SES_CLASS_USAGE.SESSIONS]⟩
      (by simp only [SID_COUNT.COUNT, SES_CLASS_USAGE.SESSIONS]; omega)
  have hfn : apart SID_COUNT.COUNT (HIF_FN_STATUS.SESSIONS d.fn) :=
    apart_of_off _ _ (by decide) ⟨by simp [HIF_FN_STATUS.SESSIONS], by simp [HIF_FN_STATUS.SESSIONS]⟩
      (by simp only [SID_COUNT.COUNT, HIF_FN_STATUS.SESSIONS]; omega)
  have hpool : fkey SID_COUNT.COUNT ≠ fkey SES_POOL_USED.SESSIONS := by decide
  unfold countDesc bump drop
  cases up <;> dsimp only <;> split <;> simp only [Bool.false_eq_true, if_true, if_false, now_wr hstate, now_wr hcls, now_wr hfn, now_wr hpool]
@[simp] theorem now_putDesc (i : Nat) (d : Desc) (s : State) : now (putDesc i d s) = now s := by
  have hcount : now (putDesc i d s) = now (if (descOf i s).st = d.st then s
      else trace { tick := 0, event := 0x0301, src := 0x04, fn := d.fn, flags := 1 + 2 * d.cls, arg := d.handle } s) :=
    (now_countDesc d true _).trans (now_countDesc _ false _)
  rw [hcount]
  split
  · rfl
  · exact now_trace _ s
@[simp] theorem now_modDesc (i : Nat) (f : Desc → Desc) (s : State) : now (modDesc i f s) = now s := now_putDesc i _ s
@[simp] theorem now_modSess (i : Nat) (f : Sess → Sess) (s : State) : now (modSess i f s) = now s := rfl

/-! ## What the output ring and the mask unit leave of a turn -/

/-- The descriptors are as they were, and of a session's own state the drawn token and the turn stream. -/
structure TurnKept (i : Nat) (s t : State) : Prop where
  desc : t.desc = s.desc
  boots : t.boots = s.boots
  drawn : (sessOf i t).drawn = (sessOf i s).drawn
  stream : (sessOf i t).stream = (sessOf i s).stream

/-- Queueing records writes the queue pairs alone. -/
theorem queueRecs_cases (i : Nat) (rs : List Rec) (s : State) : ∃ q, queueRecs i rs s = { s with queues := q } := by
  unfold queueRecs
  dsimp only
  generalize descOf i s = d
  induction rs generalizing s with
  | nil => exact ⟨s.queues, rfl⟩
  | cons r rs ih => exact ih (queueRec d.fn d.outQueue r s)

namespace TurnKept
variable {i : Nat} {s t u : State}

theorem refl (i : Nat) (s : State) : TurnKept i s s := ⟨rfl, rfl, rfl, rfl⟩
theorem descOf_eq (h : TurnKept i s t) (j : Nat) : descOf j t = descOf j s := descOf_congr h.desc h.boots j

theorem congr (h : TurnKept i s t) (hd : u.desc = t.desc) (hb : u.boots = t.boots) (hx : u.sess = t.sess) : TurnKept i s u where
  desc := hd.trans h.desc
  boots := hb.trans h.boots
  drawn := by rw [sessOf_congr hx, h.drawn]
  stream := by rw [sessOf_congr hx, h.stream]
theorem bump (h : TurnKept i s t) (f : Fld) (n : Nat) : TurnKept i s (bump f n t) := h.congr rfl rfl rfl
theorem maskQueue (h : TurnKept i s t) (q : List Nat) : TurnKept i s { t with maskQ := q } := h.congr rfl rfl rfl
theorem ite {c : Prop} [Decidable c] (h : TurnKept i s t) (k : TurnKept i s u) : TurnKept i s (if c then t else u) := by
  split
  · exact h
  · exact k
theorem putSess (h : TurnKept i s t) {x : Sess} (hd : x.drawn = (sessOf i t).drawn) (hx : x.stream = (sessOf i t).stream) :
    TurnKept i s (putSess i x t) where
  desc := h.desc
  boots := h.boots
  drawn := by rw [sessOf_putSess_self, hd, h.drawn]
  stream := by rw [sessOf_putSess_self, hx, h.stream]
theorem queueRecs (h : TurnKept i s t) (rs : List Rec) : TurnKept i s (queueRecs i rs t) := by
  obtain ⟨q, e⟩ := queueRecs_cases i rs t
  rw [e]
  exact h.congr rfl rfl rfl
theorem releaseText (h : TurnKept i s t) (upTo : Nat) (cut : Bool) : TurnKept i s (releaseText i upTo cut t) := by
  refine .ite (.putSess h ?_ ?_) (.queueRecs (.putSess h ?_ ?_) _) <;> rfl
theorem requestMask (h : TurnKept i s t) : TurnKept i s (requestMask i t) := by
  have hnone : TurnKept i s (modSess i (fun x => { x with mask := none }) t) := .putSess h rfl rfl
  exact .ite (hnone.maskQueue _) (hnone.congr rfl rfl rfl)

end TurnKept

section
variable (i : Nat) (s : State)

@[simp] theorem descOf_requestMask (j : Nat) : descOf j (requestMask i s) = descOf j s :=
  (TurnKept.requestMask (.refl i s)).descOf_eq j
@[simp] theorem gstack_requestMask : (sessOf i (requestMask i s)).gstack = (sessOf i s).gstack := by
  have hput : (sessOf i (modSess i (fun x => { x with mask := none }) s)).gstack = (sessOf i s).gstack := by rw [sessOf_modSess_self]
  unfold requestMask
  dsimp only
  split <;> exact hput

end

/-! ## A module without an uncorrectable codeword -/

section
variable {s : State} (hp : s.poison = [])
include hp

theorem allocBad_of_clean (i kind : Nat) : allocBad i kind s = none := by
  simp [allocBad, poisonIn, hp]
theorem mendGrammar_of_clean (i : Nat) : mendGrammar i s = s := by
  unfold mendGrammar
  rw [allocBad_of_clean hp]
theorem mendTables_of_clean (i : Nat) : mendTables i s = s := by
  simp only [mendTables, mendGrammar_of_clean hp, allocBad_of_clean hp]

end

end Sys2Proof.Machine
end

section
/-!
SUPPORT and PROOF. The settings of a session: what SET_SAMPLING, SET_GRAMMAR and SET_STOPS leave, and from these the statement
`Obligations.SessionSettings` (O22).
-/
namespace Sys2Proof.Machine

section
variable {h : Hdr} {i : Nat} {s : State}

/-! ## SET_SAMPLING (R249, R420) -/

/-- A descriptor with the sampling parameters of a command that is carried out at a tick. -/
def sampledDesc (p : Sampling) (withSeed withMax : Bool) (tick : Nat) (d : Desc) : Desc :=
  { d with
    lastActive := tick, temperature := p.temperature, topP := p.topP, minP := p.minP, repPenalty := p.repPenalty,
    presencePenalty := p.presencePenalty, frequencyPenalty := p.frequencyPenalty, topK := p.topK, decMode := p.decMode,
    maxTokens := if withMax then p.maxTokens else d.maxTokens, seed := if withSeed then p.seed else d.seed,
    rngCounter := if withSeed then 0 else d.rngCounter }

theorem exec_setSampling_inRange {p : Sampling} (ha : actsOn h 0x0B false i s = true) (hp : samplingOk p = true) (withSeed withMax : Bool) :
    exec (.setSampling h p withSeed withMax) s =
      .next (complete h 0x0B sOk (descOf i s).handle (sampledDesc p withSeed withMax (now s) (descOf i s)).rngCounter 0
        (modDesc i (sampledDesc p withSeed withMax (now s)) (entered h 0x0B s))) := by
  refine (host_acts h 0x0B false _ _ _ _ _ i s ha).trans ?_
  simp only [hp, Bool.not_true, Bool.false_eq_true, if_false, touch, descOf_modDesc_self, entered_desc, entered_now]
  rfl
theorem exec_setSampling_refused {p : Sampling} (ha : actsOn h 0x0B false i s = true) (hp : samplingOk p = false) (withSeed withMax : Bool) :
    exec (.setSampling h p withSeed withMax) s = .next (refuse h 0x0B sRejected (entered h 0x0B s)) := by
  refine (host_acts h 0x0B false _ _ _ _ _ i s ha).trans ?_
  simp only [hp, Bool.not_false, if_true]

/-! ## SET_GRAMMAR (R251, R288) -/

theorem exec_setGrammar (ha : actsOn h 0x0C false i s = true) (gid : Nat) :
    exec (.setGrammar h gid) s = .next (setGrammarNow h gid i (entered h 0x0C s)) := host_acts h 0x0C false _ _ _ _ _ i s ha

/-- How SET_GRAMMAR ends once the session has its setting: LAST_ACTIVE, the mask of a pending turn asked for anew, the completion. -/
def grammarDone (h : Hdr) (gid i : Nat) (d : Desc) (s : State) : State :=
  complete h 0x0C sOk d.handle gid 0 (if d.turnPending then requestMask i (modDesc i (touch s) s) else modDesc i (touch s) s)
/-- A grammar bound from its first state, with an empty stack that lies at `a`. -/
def bindGrammar (gid i a : Nat) (g : List Byte) (s : State) : State :=
  modSess i (fun x => { x with gstack := [] })
    (modDesc i (fun d => { d with grammarId := gid, grammarState := field g 0xC 4, grammarDepth := 0, grammarStack := a }) s)
/-- The setting of a session without grammar, its stack given back. -/
def unbindGrammar (i : Nat) (s : State) : State :=
  modSess i (fun x => { x with gstack := [], mask := none })
    (modDesc i (fun d => { d with grammarId := 0xFFFF, grammarState := 0, grammarDepth := 0, grammarStack := 0 }) (freeKind i 5 s))

section
variable (gid : Nat) (d : Desc) (g : List Byte) (a : Nat) (s)

@[simp] theorem descOf_grammarDone_self : descOf i (grammarDone h gid i d s) = { descOf i s with lastActive := now s } := by
  unfold grammarDone
  rw [descOf_complete]
  split <;> simp [touch]
theorem descOf_grammarDone_ne {j : Nat} (hj : j ≠ i) : descOf j (grammarDone h gid i d s) = descOf j s := by
  unfold grammarDone
  rw [descOf_complete]
  split <;> simp [descOf_modDesc_ne hj]
@[simp] theorem gstack_grammarDone : (sessOf i (grammarDone h gid i d s)).gstack = (sessOf i s).gstack := by
  unfold grammarDone
  rw [sessOf_complete]
  split <;> simp

@[simp] theorem descOf_bindGrammar_self : descOf i (bindGrammar gid i a g s) =
    { descOf i s with grammarId := gid, grammarState := field g 0xC 4, grammarDepth := 0, grammarStack := a } := by
  unfold bindGrammar
  rw [descOf_modSess, descOf_modDesc_self]
theorem descOf_bindGrammar_ne {j : Nat} (hj : j ≠ i) : descOf j (bindGrammar gid i a g s) = descOf j s := by
  unfold bindGrammar
  rw [descOf_modSess, descOf_modDesc_ne hj]
@[simp] theorem gstack_bindGrammar : (sessOf i (bindGrammar gid i a g s)).gstack = [] := by
  unfold bindGrammar
  rw [sessOf_modSess_self]
@[simp] theorem now_bindGrammar : now (bindGrammar gid i a g s) = now s := by
  unfold bindGrammar
  rw [now_modSess, now_modDesc]

@[simp] theorem descOf_unbindGrammar_self : descOf i (unbindGrammar i s) =
    { descOf i s with grammarId := 0xFFFF, grammarState := 0, grammarDepth := 0, grammarStack := 0 } := by
  unfold unbindGrammar
  rw [descOf_modSess, descOf_modDesc_self, descOf_freeKind]
theorem descOf_unbindGrammar_ne {j : Nat} (hj : j ≠ i) : descOf j (unbindGrammar i s) = descOf j s := by
  unfold unbindGrammar
  rw [descOf_modSess, descOf_modDesc_ne hj, descOf_freeKind]

end

theorem setGrammarNow_none : setGrammarNow h 0xFFFF i s = grammarDone h 0xFFFF i (descOf i s) (unbindGrammar i s) := by
  simp only [setGrammarNow, if_true]
  rfl

section
variable {gid : Nat}

theorem setGrammarNow_refused (hg : gid ≠ 0xFFFF)
    (hbad : (sget s.grams gid).isNone = true ∨ field (sgetD s.grams gid []) 6 1 ≠ rd (TXT_MODEL.SET (descOf i s).model) s) :
    setGrammarNow h gid i s = refuse h 0x0C sRejected s := by
  simp only [setGrammarNow, if_neg hg, if_pos hbad]

variable (hl : (sget s.grams gid).isSome = true) (ht : field (sgetD s.grams gid []) 6 1 = rd (TXT_MODEL.SET (descOf i s).model) s)
include hl ht

theorem not_badGrammar :
    ¬ ((sget s.grams gid).isNone = true ∨ field (sgetD s.grams gid []) 6 1 ≠ rd (TXT_MODEL.SET (descOf i s).model) s) := by
  rw [← Option.not_isSome, hl]
  simp [ht]

theorem setGrammarNow_bound (hg : gid ≠ 0xFFFF)
    (hs : (descOf i s).grammarStack ≠ 0 ∨ (descOf i s).st = stDeep ∨ (descOf i s).st = stHost) :
    setGrammarNow h gid i s =
      grammarDone h gid i (descOf i s) (bindGrammar gid i (descOf i s).grammarStack (sgetD s.grams gid []) s) := by
  simp only [setGrammarNow, if_neg hg, if_neg (not_badGrammar hl ht), if_pos hs]
  rfl

theorem setGrammarNow_taken {a : Nat} {u : State} (hg : gid ≠ 0xFFFF) (h0 : (descOf i s).grammarStack = 0) (hdeep : (descOf i s).st ≠ stDeep)
    (hhost : (descOf i s).st ≠ stHost) (hc : canSupply (descOf i s).cls 4096 s = true) (hu : allocState i 5 4096 s = some (a, u)) :
    setGrammarNow h gid i s = grammarDone h gid i (descOf i s) (bindGrammar gid i a (sgetD s.grams gid []) u) := by
  have hs : ¬ ((descOf i s).grammarStack ≠ 0 ∨ (descOf i s).st = stDeep ∨ (descOf i s).st = stHost) := by simp [h0, hdeep, hhost]
  simp only [setGrammarNow, if_neg hg, if_neg (not_badGrammar hl ht), if_neg hs, hc, Bool.not_true, Bool.false_eq_true, if_false, hu]
  rfl

end

/-! ## SET_STOPS (R262, R422) -/

/-- The eight stop strings kept with the session and, where it has one, in its stop block. -/
def storeStops (i : Nat) (bs : List Byte) (s : State) : State :=
  let s := modSess i (fun x => { x with stops := pieces 64 8 bs }) s
  if (descOf i s).stopBlock = 0 then s else markDirty i (descOf i s).stopBlock 512 (memWrite (descOf i s).stopBlock bs s)
/-- A descriptor with the lengths of the stop strings and INCLUDE_STOP of a command that is carried out at a tick. -/
def stopsDesc (stopLen incl tick : Nat) (d : Desc) : Desc :=
  { d with lastActive := tick, stopLen := stopLen, includeStop := if incl = 1 then false else if incl = 2 then true else d.includeStop }

section
variable (i) (bs : List Byte) (s)

@[simp] theorem descOf_storeStops (j : Nat) : descOf j (storeStops i bs s) = descOf j s := by
  unfold storeStops
  dsimp only
  split
  · rfl
  · exact descOf_congr (by simp [modSess]) (by simp [modSess]) j
@[simp] theorem stops_storeStops : (sessOf i (storeStops i bs s)).stops = pieces 64 8 bs := by
  have hput : (sessOf i (modSess i (fun x => { x with stops := pieces 64 8 bs }) s)).stops = pieces 64 8 bs := by rw [sessOf_modSess_self]
  unfold storeStops
  dsimp only
  split
  · exact hput
  · rwa [sessOf_congr (markDirty_sess ..), sessOf_congr (memWrite_sess ..)]
@[simp] theorem now_storeStops : now (storeStops i bs s) = now s := by
  unfold storeStops
  dsimp only
  split
  · rfl
  · exact rd_of_regs _ _ _ (by simp [modSess])

end

theorem exec_setStops_kept {buf : Buf} {stopLen incl : Nat} {bs : List Byte} (ha : actsOn h 0x0D (decide (2 < incl)) i s = true)
    (hl : ((leBytes 8 stopLen).map (·.toNat)).any (64 < ·) = false) (hb : bufRead h buf 512 s = some bs) :
    exec (.setStops h buf stopLen incl) s =
      .next (complete h 0x0D sOk (descOf i s).handle (((leBytes 8 stopLen).map (·.toNat)).filter (0 < ·)).length 0
        (modDesc i (stopsDesc stopLen incl (now s)) (storeStops i bs (entered h 0x0D s)))) := by
  have hbody : exec (.setStops h buf stopLen incl) s = .next
      (let t := storeStops i bs (entered h 0x0D s)
       let u := modDesc i (stopsDesc stopLen incl (now t)) t
       complete h 0x0D sOk (descOf i u).handle (((leBytes 8 stopLen).map (·.toNat)).filter (0 < ·)).length 0 u) := by
    refine (host_acts h 0x0D (decide (2 < incl)) _ _ _ _ _ i s ha).trans ?_
    simp only [hl, Bool.false_eq_true, if_false, entered_bufRead, hb]
    rfl
  rw [hbody]
  simp only [descOf_modDesc_self, descOf_storeStops, now_storeStops, entered_desc, entered_now, stopsDesc]
theorem exec_setStops_refused {stopLen incl : Nat} (ha : actsOn h 0x0D (decide (2 < incl)) i s = true)
    (hl : ((leBytes 8 stopLen).map (·.toNat)).any (64 < ·) = true) (buf : Buf) :
    exec (.setStops h buf stopLen incl) s = .next (refuse h 0x0D sRejected (entered h 0x0D s)) := by
  refine (host_acts h 0x0D (decide (2 < incl)) _ _ _ _ _ i s ha).trans ?_
  simp only [hl, if_true]

end

/-- Settles O22: each command by what it writes, or its refusal. -/
theorem sessionSettings : Obligations.SessionSettings := by
  refine ⟨?sampling, ?sampling_refused, ?no_grammar, ?bound, ?taken, ?grammar_refused, ?stops, ?stops_refused⟩
  case sampling =>
    intro h p withSeed withMax i s ha hp
    exact ⟨_, exec_setSampling_inRange ha hp withSeed withMax, by simp [sampledDesc], fun j hj => by simp [descOf_modDesc_ne hj], by simp⟩
  case sampling_refused =>
    intro h p withSeed withMax i s ha hp
    exact exec_setSampling_refused ha hp withSeed withMax
  case no_grammar =>
    intro h i s ha
    exact ⟨_, (exec_setGrammar ha 0xFFFF).trans (congrArg _ setGrammarNow_none), by simp, by simp, by simp,
      fun j hj => by rw [descOf_grammarDone_ne _ _ _ hj, descOf_unbindGrammar_ne _ hj, entered_desc]⟩
  case bound =>
    intro h gid i s ha hg hl ht hs
    rw [exec_setGrammar ha, setGrammarNow_bound (by simpa using hl) (by simpa using ht) hg (by simpa using hs)]
    exact ⟨_, rfl, by simp, by simp, fun j hj => by rw [descOf_grammarDone_ne _ _ _ hj, descOf_bindGrammar_ne _ _ _ _ hj, entered_desc]⟩
  case taken =>
    intro h gid i a s u ha hg hl ht h0 hdeep hhost hc hu
    have hd : ∀ j, descOf j u = descOf j s := fun j => (descOf_allocState hu j).trans (entered_desc ..)
    rw [exec_setGrammar ha, setGrammarNow_taken (by simpa using hl) (by simpa using ht) hg (by simpa using h0) (by simpa using hdeep)
      (by simpa using hhost) (by simpa using hc) hu]
    exact ⟨_, rfl, by simp, by simp, by simp, by simp, by simp,
      fun j hj => by rw [descOf_grammarDone_ne _ _ _ hj, descOf_bindGrammar_ne _ _ _ _ hj, hd]⟩
  case grammar_refused =>
    intro h gid i s ha hg hbad
    rw [exec_setGrammar ha, setGrammarNow_refused hg (by simpa using hbad)]
  case stops =>
    intro h buf stopLen incl i bs s ha hl hb
    have hshort : ((leBytes 8 stopLen).map (·.toNat)).any (64 < ·) = false := by
      simpa [List.any_eq_false] using hl
    exact ⟨_, exec_setStops_kept ha hshort hb, by simp, by simp [stopsDesc], fun j hj => by simp [descOf_modDesc_ne hj]⟩
  case stops_refused =>
    intro h buf stopLen incl i s ha hl
    exact exec_setStops_refused ha hl buf

end Sys2Proof.Machine
end

section
/-!
SUPPORT and PROOF. The text engine: a committed token taken up, the end of a turn, the grammar store, and from these the statement
`Obligations.TextOutput` (O36).
-/
namespace Sys2Proof.Machine

/-! ## The end of a turn (R40, R260) -/

section
variable (i reason : Nat) (noFinite : Bool) (trim stopIdx : Nat) (s : State)

/-- A turn's end writes the descriptor last, over a state that keeps what the session has drawn and streamed. -/
theorem endTurn_cases : ∃ t, TurnKept i s t ∧
    endTurn i reason noFinite trim stopIdx s = putDesc i { descOf i s with
      capHit := (descOf i s).capHit && reason == 2, lastEnd := reason, turnPending := false, cancelPending := false, lastActive := now t,
      st := if (descOf i s).st = stActive then stReady else (descOf i s).st } t := by
  refine ⟨_, ?_, rfl⟩
  refine .putSess (.maskQueue (.queueRecs (.ite (.putSess (.refl i s) ?_ ?_) (.queueRecs (.putSess (.refl i s) ?_ ?_) _)) _) _) ?_ ?_ <;> rfl

theorem drawn_endTurn : (sessOf i (endTurn i reason noFinite trim stopIdx s)).drawn = (sessOf i s).drawn := by
  obtain ⟨t, hkept, e⟩ := endTurn_cases i reason noFinite trim stopIdx s
  rw [e, sessOf_putDesc, hkept.drawn]
theorem lastEnd_endTurn : (descOf i (endTurn i reason noFinite trim stopIdx s)).lastEnd = reason := by
  obtain ⟨t, -, e⟩ := endTurn_cases i reason noFinite trim stopIdx s
  rw [e, descOf_putDesc_self]
theorem turnPending_endTurn : (descOf i (endTurn i reason noFinite trim stopIdx s)).turnPending = false := by
  obtain ⟨t, -, e⟩ := endTurn_cases i reason noFinite trim stopIdx s
  rw [e, descOf_putDesc_self]
theorem st_endTurn_of_active (h : (descOf i s).st = stActive) : (descOf i (endTurn i reason noFinite trim stopIdx s)).st = stReady := by
  obtain ⟨t, -, e⟩ := endTurn_cases i reason noFinite trim stopIdx s
  rw [e, descOf_putDesc_self]
  exact if_pos h

@[simp] theorem descOf_countEnd (j t : Nat) : descOf j (countEnd t reason s) = descOf j s := by
  unfold countEnd
  repeat' split
  all_goals rfl
@[simp] theorem sessOf_countEnd (j t : Nat) : sessOf j (countEnd t reason s) = sessOf j s := by
  unfold countEnd
  repeat' split
  all_goals rfl

end

/-! ## DETOKENIZE (R263, R264, R266) -/

/-- The committed token taken up: its reservation of the ring given back. -/
def takenUp (i : Nat) (s : State) : State := modSess i (fun x => { x with drawn := none }) (reserveOut (descOf i s) false s)
/-- Bytes that a committed token adds to the turn stream: an EOS adds none. -/
def tokenAdds (i tok reason : Nat) (s : State) : List Byte := if reason = 0 then [] else tokBytes (modelSet (descOf i s).model s) tok
/-- The token's bytes in the turn stream. -/
def joined (i tok reason : Nat) (s : State) : State :=
  modSess i (fun x => { x with stream := (sessOf i s).stream ++ tokenAdds i tok reason s }) (takenUp i s)
/-- The stop string that the token completes, and where in the stream it ends. -/
def stopMet (i tok reason : Nat) (s : State) : Option (Nat × Nat × Nat) :=
  if reason = 1 then
    stopFind (activeStops (descOf i s).stopLen (sessOf i s).stops) ((sessOf i s).stream ++ tokenAdds i tok reason s) (sessOf i s).stream.length
  else none
/-- Bytes of the stream that go out, where a stop string ends it. -/
def stopEnd (i tok reason : Nat) (s : State) : Option Nat :=
  (stopMet i tok reason s).map fun h => if (descOf i s).includeStop then h.1 else h.1 - h.2.2
/-- What goes out for a token whose bytes have joined the stream: its id, or the bytes that no stop string and no incomplete sequence holds back. -/
def tokenShown (i tok reason : Nat) (s : State) : State :=
  let d := descOf i s
  let stream := (sessOf i s).stream ++ tokenAdds i tok reason s
  let cut := ((stopMet i tok reason s).map fun h => decide (h.1 < stream.length)).getD false
  let u := modSess i (fun x => { x with stream := stream, partialTok := cut }) (takenUp i s)
  let v := bump TXT_DETOK_BYTES.COUNT (tokenAdds i tok reason s).length u
  let w := if cut then bump (DEC_PARTIAL.COUNT (decTile (sessOf i s).actPart s)) 1 v else v
  if d.tokenOutput then queueRecs i [{ type := 2, flags := b2n cut, turnId := d.turnId, handle := d.handle, payload := leBytes 4 tok }] w
  else match stopEnd i tok reason s with
  | some e => releaseText i e (cut && decide ((sessOf i s).stream.length < e)) w
  | none =>
    let upTo := stream.length - stopHold (activeStops d.stopLen (sessOf i s).stops) stream
    releaseText i (if bitOf d.decMode 2 then upTo else upTo - utf8Hold (stream.take upTo)) false w

section
variable (i : Nat) (s : State)

@[simp] theorem drawn_takenUp : (sessOf i (takenUp i s)).drawn = none := by
  unfold takenUp
  rw [sessOf_modSess_self]
@[simp] theorem stream_takenUp : (sessOf i (takenUp i s)).stream = (sessOf i s).stream := by
  unfold takenUp
  rw [sessOf_modSess_self]
  rfl
@[simp] theorem takenUp_desc : (takenUp i s).desc = s.desc := rfl

@[simp] theorem drawn_joined (tok reason : Nat) : (sessOf i (joined i tok reason s)).drawn = none := by
  unfold joined
  rw [sessOf_modSess_self]
  exact drawn_takenUp i s
@[simp] theorem stream_joined (tok reason : Nat) :
    (sessOf i (joined i tok reason s)).stream = (sessOf i s).stream ++ tokenAdds i tok reason s := by
  unfold joined
  rw [sessOf_modSess_self]

theorem tokenAdds_of_reason {reason : Nat} (h : reason ≠ 0) (tok : Nat) :
    tokenAdds i tok reason s = tokBytes (modelSet (descOf i s).model s) tok := if_neg h

theorem turnKept_tokenShown (tok reason : Nat) : TurnKept i (joined i tok reason s) (tokenShown i tok reason s) := by
  unfold tokenShown
  extract_lets d stream cut u v w upTo
  have hu : TurnKept i (joined i tok reason s) u := ⟨rfl, rfl, by simp [u, joined], by simp [u, joined, stream]⟩
  have hw : TurnKept i (joined i tok reason s) w := .ite (.bump (hu.bump ..) ..) (hu.bump ..)
  refine .ite (hw.queueRecs _) ?_
  split
  · exact hw.releaseText _ _
  · exact hw.releaseText _ _

end

theorem exec_detokenize {s : State} (hs : serving s = true) (i : Nat) : exec (.detokenize i) s = .next (detokenize i s) :=
  whenServing_of_serving hs (detokenize i)

section
variable {i : Nat} {s : State} (hp : s.poison = [])
include hp

theorem detokenize_of_none (hd : (sessOf i s).drawn = none) : detokenize i s = s := by
  unfold detokenize
  simp only [mendTables_of_clean hp, hd]

variable {tok reason a b : Nat} {c : Bool} (hd : (sessOf i s).drawn = some (tok, reason, a, b, c)) (hst : (descOf i s).st = stActive)
include hd hst

theorem detokenize_of_cancel (hc : (descOf i s).cancelPending = true) :
    detokenize i s = if reason = 0xFF then takenUp i s else endTurn i 4 false 0 0xFF (takenUp i s) := by
  unfold detokenize
  simp only [mendTables_of_clean hp, hd, hst, hc, ne_eq, not_true_eq_false, if_false, if_true]
  rfl

/-- A token that no cancel has suppressed joins the stream and goes out; then the next mask is asked for, or the turn ends. -/
theorem detokenize_of_live (hc : (descOf i s).cancelPending = false) : ∃ tile trim stopIdx,
    detokenize i s = if reason = 0xFF then requestMask i (tokenShown i tok reason s)
      else countEnd tile reason (endTurn i reason false trim stopIdx (modDesc i (fun d => { d with capHit := false })
        (modSess i (fun x => { x with released := if reason = 1 then x.stream.length else x.released }) (tokenShown i tok reason s)))) := by
  unfold detokenize
  simp only [mendTables_of_clean hp, hd, hst, hc, ne_eq, not_true_eq_false, if_false, Bool.false_eq_true]
  exact ⟨_, _, _, rfl⟩

end

/-! ## The grammar store (R286, R288) -/

section
variable {slot : Nat} {s : State}

theorem exec_gramLoad (hs : serving s = true) (slot addr : Nat) : exec (.gramLoad slot addr) s = .next (gramLoad slot addr s) :=
  whenServing_of_serving hs (gramLoad slot addr)
theorem exec_gramUnload (hs : serving s = true) (slot : Nat) : exec (.gramUnload slot) s = .next (gramUnload slot s) :=
  whenServing_of_serving hs (gramUnload slot)

/-- The grammar that stands at an address of the bonded tier, of the length that its header gives. -/
def gramAt (addr : Nat) (s : State) : List Byte := memRead s addr (field (memRead s addr 0x40) 0x20 4)

section
variable {addr : Nat}

theorem gramLoad_of_bad (hok : gramOk (gramAt addr s) s = false) : gramLoad slot addr s = gramDone sRejected s := by
  unfold gramAt at hok
  simp only [gramLoad, hok, Bool.not_false, if_true]

variable (hok : gramOk (gramAt addr s) s = true)
include hok

theorem gramLoad_of_used (hu : gramInUse slot s = true) : gramLoad slot addr s = gramDone sBusy s := by
  unfold gramAt at hok
  simp only [gramLoad, hok, hu, Bool.not_true, Bool.false_eq_true, if_false, if_true]
theorem gramLoad_of_full (hu : gramInUse slot s = false) (hfull : rd TXT_GRAM_STATUS.STORE_MIB s * 0x10_0000 <
    gramStoreBytes { s with grams := sdel s.grams slot } + (gramAt addr s).length) : gramLoad slot addr s = gramDone sCapacity s := by
  unfold gramAt at hok hfull
  simp only [gramLoad, hok, hu, Bool.not_true, Bool.false_eq_true, if_false, if_pos hfull]
theorem gramLoad_of_room (hu : gramInUse slot s = false) (hroom : gramStoreBytes { s with grams := sdel s.grams slot } + (gramAt addr s).length ≤
    rd TXT_GRAM_STATUS.STORE_MIB s * 0x10_0000) :
    gramLoad slot addr s = gramDone sOk { s with grams := sset s.grams slot (gramAt addr s), badGrams := s.badGrams.filter (· != slot) } := by
  unfold gramAt at hok hroom
  simp only [gramLoad, hok, hu, Bool.not_true, Bool.false_eq_true, if_false, if_neg (Nat.not_lt.mpr hroom)]
  rfl

end

theorem gramUnload_of_empty (hg : sget s.grams slot = none) : gramUnload slot s = gramDone sOk s := by
  simp only [gramUnload, hg, Option.isNone_none, if_true]
theorem gramUnload_of_used {g : List Byte} (hg : sget s.grams slot = some g) (hu : gramInUse slot s = true) :
    gramUnload slot s = gramDone sBusy s := by
  simp only [gramUnload, hg, hu, Option.isNone_some, Bool.false_eq_true, if_false, if_true]
theorem gramUnload_of_unused {g : List Byte} (hg : sget s.grams slot = some g) (hu : gramInUse slot s = false) :
    gramUnload slot s = gramDone sOk { s with grams := sdel s.grams slot, badGrams := s.badGrams.filter (· != slot) } := by
  simp only [gramUnload, hg, hu, Option.isNone_some, Bool.false_eq_true, if_false]

theorem rd_status_gramDone {st : Nat} (h : st < 256) (s : State) : rd TXT_GRAM_STATUS.STATUS (gramDone st s) = st :=
  (rd_wr_self _ _ _).trans (Nat.mod_eq_of_lt h)
theorem rd_busy_gramDone (st : Nat) (s : State) : rd TXT_GRAM_STATUS.BUSY (gramDone st s) = 0 :=
  (rd_wr_of_fkey_ne TXT_GRAM_STATUS.BUSY TXT_GRAM_STATUS.STATUS st _ (by decide)).trans (rd_wr_self _ _ _)

end

/-- Settles O36: a committed token by its reason and by whether a cancel has come; a grammar slot by what it holds and who uses it. -/
theorem textOutput : Obligations.TextOutput := by
  refine ⟨?nothing, ?joins, ?ends, ?cancelled, ?cancelled_end, ?load, ?load_bad, ?load_used, ?load_full, ?unload, ?unload_used, ?unload_empty,
    ?status⟩
  case nothing =>
    intro i s hs hp hd
    rw [exec_detokenize hs, detokenize_of_none hp hd]
  case joins =>
    intro i tok a b c s hs hp hd hst hc
    obtain ⟨tile, trim, stopIdx, e⟩ := detokenize_of_live hp hd hst hc
    have hkept := (turnKept_tokenShown i s tok 0xFF).requestMask
    refine ⟨_, (exec_detokenize hs i).trans (congrArg _ (e.trans (if_pos rfl))), hkept.drawn.trans (drawn_joined i s tok 0xFF), ?_, hkept.desc⟩
    rw [hkept.stream, stream_joined, tokenAdds_of_reason i s (by decide)]
  case ends =>
    intro i tok reason a b c s hs hp hd hst hc hr
    obtain ⟨tile, trim, stopIdx, e⟩ := detokenize_of_live hp hd hst hc
    have hkept := turnKept_tokenShown i s tok reason
    refine ⟨_, (exec_detokenize hs i).trans (congrArg _ (e.trans (if_neg hr))), ?_, ?_, ?_, ?_⟩
    · simp [drawn_endTurn, hkept.drawn]
    · rw [descOf_countEnd, st_endTurn_of_active]
      rw [descOf_modDesc_self, descOf_modSess, hkept.descOf_eq]
      exact hst
    · rw [descOf_countEnd, lastEnd_endTurn]
    · rw [descOf_countEnd, turnPending_endTurn]
  case cancelled =>
    intro i tok a b c s hs hp hd hst hc
    exact ⟨_, (exec_detokenize hs i).trans (congrArg _ ((detokenize_of_cancel hp hd hst hc).trans (if_pos rfl))), drawn_takenUp i s,
      stream_takenUp i s, takenUp_desc i s⟩
  case cancelled_end =>
    intro i tok reason a b c s hs hp hd hst hc hr
    rw [exec_detokenize hs, detokenize_of_cancel hp hd hst hc, if_neg hr]
    rfl
  case load =>
    rintro slot addr g s hs rfl hok hu hroom
    exact (exec_gramLoad hs slot addr).trans (congrArg _ (gramLoad_of_room hok hu hroom))
  case load_bad =>
    rintro slot addr g s hs rfl hok
    rw [exec_gramLoad hs, gramLoad_of_bad hok]
  case load_used =>
    rintro slot addr g s hs rfl hok hu
    rw [exec_gramLoad hs, gramLoad_of_used hok hu]
  case load_full =>
    rintro slot addr g s hs rfl hok hu hfull
    rw [exec_gramLoad hs, gramLoad_of_full hok hu hfull]
  case unload =>
    intro slot g s hs hg hu
    rw [exec_gramUnload hs, gramUnload_of_unused hg hu]
  case unload_used =>
    intro slot g s hs hg hu
    rw [exec_gramUnload hs, gramUnload_of_used hg hu]
  case unload_empty =>
    intro slot s hs hg
    rw [exec_gramUnload hs, gramUnload_of_empty hg]
  case status =>
    intro st s h
    exact ⟨rd_status_gramDone h s, rd_busy_gramDone st s⟩

end Sys2Proof.Machine
end

section
/-!
SUPPORT and PROOF. Decoding in a step: a session's share of the logits, the mask unit and the draw, and from these the statement
`Obligations.SamplingAndDraws` (O35).
-/
namespace Sys2Proof.Machine

/-! ## The sessions of a running step -/

theorem runOf_congr {s t : State} (h : t.parts = s.parts) (p k : Nat) : runOf p k t = runOf p k s := by
  unfold runOf
  rw [partOf_congr h]

/-- A change of one session of a step is what is then read of it. -/
theorem runOf_modRun {p k : Nat} {r : SesRun} {s : State} (h : runOf p k s = some r) (f : SesRun → SesRun) :
    runOf p k (modRun p k f s) = some (f r) := by
  unfold runOf at h
  unfold runOf modRun modStep
  rw [partOf_modPart_self]
  obtain ⟨st, hst, hr⟩ := Option.bind_eq_some_iff.mp h
  rw [List.head?_drop] at hr
  simp only [hst, Option.map_some, Option.bind_some, List.head?_drop, List.getElem?_modify_eq, hr, Option.map_eq_map]

/-! ## SAMPLE (R246, R252) -/

section
variable {p rank k off base count : Nat} {r : SesRun} {s : State}

theorem exec_sample (hs : serving s = true) (p rank k off base count : Nat) :
    exec (.sample p rank k off base count) s = .next (sampleRun p rank k off base count s) :=
  whenServing_of_serving hs (sampleRun p rank k off base count)

variable (hop : runsOp p 0x0008 s = true) (hr : runOf p k s = some r) (h0 : r.status = 0)
include hop hr h0

theorem sampleRun_adjusts (hm : r.params.grammarId = 0xFFFF ∨ (sessOf r.idx s).mask.isSome = true) :
    sampleRun p rank k off base count s =
      sampleShare r.params (sessOf r.idx s).pen (sessOf r.idx s).mask (rankArr p rank s) off base count s := by
  have hlate : ¬ (r.params.grammarId ≠ 0xFFFF ∧ (sessOf r.idx s).mask.isNone = true) := by
    rintro ⟨hg, hnone⟩
    rcases hm with hm | hm
    · exact hg hm
    · rw [← Option.not_isSome, hm] at hnone
      exact absurd hnone (by decide)
  simp only [sampleRun, hr, hop, h0, bne_self_eq_false, Bool.not_true, Bool.or_self, Bool.false_eq_true, if_false, if_neg hlate]
theorem sampleRun_late (hg : r.params.grammarId ≠ 0xFFFF) (hm : (sessOf r.idx s).mask = none) :
    sampleRun p rank k off base count s = modRun p k (fun r => { r with late := true }) s := by
  simp [sampleRun, hr, hop, h0, hg, hm]

end

/-! ## GRAMMAR_MASK (R291, R293, R467) -/

theorem exec_grammarMask {s : State} (hs : serving s = true) : exec .grammarMask s = .next (formNextMask s) :=
  whenServing_of_serving hs formNextMask

section
variable {i : Nat} {rest : List Nat} {s : State} (hq : s.maskQ = i :: rest) (hp : s.poison = [])
include hq hp

theorem formNextMask_damaged (hbad : tokBad (descOf i s).model s = true ∨ s.badGrams.contains (descOf i s).grammarId = true) :
    formNextMask s = modSess i (fun x => { x with mask := some { allowed := [], empty := true } })
      (bump TXT_MASKS.COUNT 1 (bump REL_TABLE_FAULTS.COUNT 1 (showMaskQ { s with maskQ := rest }))) := by
  simp only [formNextMask, hq, mendGrammar_of_clean hp, Bool.or_eq_true, if_pos hbad]
theorem formNextMask_forms (ht : tokBad (descOf i s).model s = false) (hg : s.badGrams.contains (descOf i s).grammarId = false) :
    ∃ loops, formNextMask s = modSess i (fun x => { x with
        mask := some (maskOf (modelSet (descOf i s).model s) (sgetD s.grams (descOf i s).grammarId []) (rd (DEC_MODEL.VOCAB (descOf i s).model) s)
          (modelEnds (descOf i s).model s) (descOf i s).grammarState (sessOf i s).gstack).1 })
      (bump TXT_MASKS.COUNT 1 (bump TXT_GRAM_LOOPS.COUNT loops (showMaskQ { s with maskQ := rest }))) := by
  simp only [formNextMask, hq, mendGrammar_of_clean hp, ht, hg, Bool.or_self, Bool.false_eq_true, if_false]
  exact ⟨_, rfl⟩

end

/-! ## DRAW (R256 to R260, R271) -/

/-- A session's outcome in its step, with the reason where its turn ends. -/
def decideRun (p k outcome reason : Nat) (noFinite : Bool) (s : State) : State :=
  modRun p k (fun r => { r with outcome := some outcome, reason := reason, noFinite := noFinite }) s
/-- The merged result of the selection, as DRAW reads it from the SRAM of rank 0 (R233). -/
def mergedAt (p off : Nat) (s : State) : SelRes :=
  selResOf (sramRead s (rankArr p 0 s) off (32 + 8 * leNat (sramRead s (rankArr p 0 s) off 2)))

theorem runOf_decideRun {p k : Nat} {r : SesRun} {s t : State} (h : runOf p k s = some r) (ht : t.parts = s.parts) (outcome reason : Nat)
    (noFinite : Bool) : runOf p k (decideRun p k outcome reason noFinite t) =
      some { r with outcome := some outcome, reason := reason, noFinite := noFinite } :=
  runOf_modRun ((runOf_congr ht p k).trans h) _

theorem exec_draw {s : State} (hs : serving s = true) (p k off : Nat) : exec (.draw p k off) s = .next (drawRun p k off s) :=
  whenServing_of_serving hs (drawRun p k off)

section
variable {p k off : Nat} {r : SesRun} {s : State} (hr : runOf p k s = some r)
include hr

theorem drawRun_waits (hw : drawWaits p k s = true) : drawRun p k off s = s := by
  simp [drawRun, hr, hw]

variable (h0 : r.status = 0) (ho : r.outcome = none) (hst : (descOf r.idx s).st = stActive) (hw : drawWaits p k s = false)
include h0 ho hst hw

/-- The rows of R260 in their order, for a session whose turn it is. -/
theorem drawRun_of_turn : drawRun p k off s =
    if r.held then decideRun p k 0 0xFF false (bump (KVP_HOLDS.COUNT (decTile p s)) 1 s)
    else if r.late then decideRun p k 0 0xFF false (bump (DEC_MASK_LATE.COUNT (decTile p s)) 1 s)
    else if !ringReserve (descOf r.idx s) s then decideRun p k 0 0xFF false (bump (DEC_OUT_STALLS.COUNT (decTile p s)) 1 s)
    else if r.noPage then decideRun p k 3 2 false s
    else if ((sessOf r.idx s).mask.map (·.empty)).getD false then
      decideRun p k 3 3 false (bump (DEC_GRAMMAR_STALLS.COUNT (decTile p s)) 1 s)
    else if (mergedAt p off s).n = 0 ∨ (mergedAt p off s).ref = f32NegInf then
      decideRun p k 3 3 true (bump (DEC_NO_FINITE.COUNT (decTile p s)) 1 s)
    else drawRow5 p k r (mergedAt p off s) s := by
  have hturn : ¬ (r.status ≠ 0 ∨ r.outcome.isSome = true ∨ (descOf r.idx s).st ≠ stActive ∨ drawWaits p k s = true) := by
    simp [h0, ho, hst, hw]
  simp only [drawRun, hr, if_neg hturn]
  rfl

/-- A held, a late or an output-stalled session draws nothing: one of three counters counts it. -/
theorem drawRun_stalled (hstall : r.held = true ∨ r.late = true ∨ ringReserve (descOf r.idx s) s = false) :
    ∃ f, drawRun p k off s = decideRun p k 0 0xFF false (bump f 1 s) := by
  rw [drawRun_of_turn hr h0 ho hst hw]
  by_cases hheld : r.held = true
  · exact ⟨_, if_pos hheld⟩
  by_cases hlate : r.late = true
  · exact ⟨_, (if_neg hheld).trans (if_pos hlate)⟩
  · have hring : ringReserve (descOf r.idx s) s = false := (hstall.resolve_left hheld).resolve_left hlate
    exact ⟨_, (if_neg hheld).trans ((if_neg hlate).trans (if_pos (by rw [hring]; rfl)))⟩

variable (hheld : r.held = false) (hlate : r.late = false) (hring : ringReserve (descOf r.idx s) s = true)
include hheld hlate hring

theorem drawRun_noPage (hpage : r.noPage = true) : drawRun p k off s = decideRun p k 3 2 false s := by
  rw [drawRun_of_turn hr h0 ho hst hw]
  simp only [hheld, hlate, hring, hpage, Bool.not_true, Bool.false_eq_true, if_false, if_true]

variable (hpage : r.noPage = false)
include hpage

/-- An EMPTY mask, or a result without a finite entry, ends the turn with reason 3. -/
theorem drawRun_noToken (h : ((sessOf r.idx s).mask.map (·.empty)).getD false = true ∨ (mergedAt p off s).n = 0 ∨
    (mergedAt p off s).ref = f32NegInf) :
    ∃ f, drawRun p k off s = decideRun p k 3 3 (!((sessOf r.idx s).mask.map (·.empty)).getD false) (bump f 1 s) := by
  rw [drawRun_of_turn hr h0 ho hst hw]
  simp only [hheld, hlate, hring, hpage, Bool.not_true, Bool.false_eq_true, if_false]
  cases hempty : ((sessOf r.idx s).mask.map (·.empty)).getD false with
  | true => exact ⟨_, if_pos rfl⟩
  | false =>
    rw [hempty] at h
    exact ⟨_, (if_neg Bool.false_ne_true).trans (if_pos (h.resolve_left Bool.false_ne_true))⟩

theorem drawRun_row5 (hmask : ((sessOf r.idx s).mask.map (·.empty)).getD false = false) (hn : (mergedAt p off s).n ≠ 0)
    (href : (mergedAt p off s).ref ≠ f32NegInf) : drawRun p k off s = drawRow5 p k r (mergedAt p off s) s := by
  have hfinite : ¬ ((mergedAt p off s).n = 0 ∨ (mergedAt p off s).ref = f32NegInf) := not_or.mpr ⟨hn, href⟩
  rw [drawRun_of_turn hr h0 ho hst hw]
  simp only [hheld, hlate, hring, hpage, hmask, Bool.not_true, Bool.false_eq_true, if_false, if_neg hfinite]

end

theorem resv_reserveOut_up (d : Desc) (s : State) :
    (qpOf d.fn d.outQueue (reserveOut d true s)).resv = (qpOf d.fn d.outQueue s).resv + 2048 :=
  congrArg Qp.resv (sgetD_sset_self ..)

/-- Row 5 of R260: the token of R259 from the kept set, over a state whose steps are as they were and whose ring space is reserved. -/
theorem drawRow5_cases (p k : Nat) (r : SesRun) (res : SelRes) (s : State) : ∃ reason t, t.parts = s.parts ∧
    (qpOf (descOf r.idx s).fn (descOf r.idx s).outQueue t).resv = (qpOf (descOf r.idx s).fn (descOf r.idx s).outQueue s).resv + 2048 ∧
    drawRow5 p k r res s = modRun p k (fun q => { q with
      outcome := some 1, token := drawToken (keptSet r.params res s.fresh).1 (drawU r.params.seed (descOf r.idx s).rngCounter),
      reason := reason, reserved := true }) t := by
  unfold drawRow5
  dsimp only
  split
  · refine ⟨_, _, ?_, ?_, rfl⟩
    · rfl
    · exact resv_reserveOut_up (descOf r.idx s) _
  · refine ⟨_, _, ?_, ?_, rfl⟩
    · rfl
    · exact resv_reserveOut_up (descOf r.idx s) _

/-- Settles O35: SAMPLE by whether the mask has come, GRAMMAR_MASK by whether the tables read clean, DRAW by the rows of R260. -/
theorem samplingAndDraws : Obligations.SamplingAndDraws := by
  refine ⟨?adjusts, ?late, ?mask, ?mask_damaged, ?waits, ?stalled, ?no_page, ?no_token, ?token⟩
  case adjusts =>
    intro p rank k off base count r s hs hop hr h0 hm
    rw [exec_sample hs, sampleRun_adjusts hop hr h0 hm]
  case late =>
    intro p rank k off base count r s hs hop hr h0 hg hm
    exact ⟨_, (exec_sample hs p rank k off base count).trans (congrArg _ (sampleRun_late hop hr h0 hg hm)), runOf_modRun hr _, rfl⟩
  case mask =>
    intro i rest s hs hq hp ht hg
    obtain ⟨loops, e⟩ := formNextMask_forms hq hp ht hg
    exact ⟨_, (exec_grammarMask hs).trans (congrArg _ e), rfl, by rw [sessOf_modSess_self]⟩
  case mask_damaged =>
    intro i rest s hs hq hp hbad
    exact ⟨_, (exec_grammarMask hs).trans (congrArg _ (formNextMask_damaged hq hp hbad)), rfl, by rw [sessOf_modSess_self]⟩
  case waits =>
    intro p k off r s hs hr hw
    rw [exec_draw hs, drawRun_waits hr hw]
  case stalled =>
    intro p k off r s hs hr h0 ho hst hw hstall
    obtain ⟨f, e⟩ := drawRun_stalled (off := off) hr h0 ho hst hw hstall
    exact ⟨_, (exec_draw hs p k off).trans (congrArg _ e), runOf_decideRun hr rfl _ _ _, rfl, rfl, rfl, rfl⟩
  case no_page =>
    intro p k off r s hs hr h0 ho hst hw hheld hlate hring hpage
    exact ⟨_, (exec_draw hs p k off).trans (congrArg _ (drawRun_noPage hr h0 ho hst hw hheld hlate hring hpage)), runOf_decideRun hr rfl _ _ _⟩
  case no_token =>
    intro p k off r res s hs hr h0 ho hst hw hheld hlate hring hpage hres h
    obtain rfl : res = mergedAt p off s := hres
    obtain ⟨f, e⟩ := drawRun_noToken (off := off) hr h0 ho hst hw hheld hlate hring hpage h
    exact ⟨_, (exec_draw hs p k off).trans (congrArg _ e), runOf_decideRun hr rfl _ _ _⟩
  case token =>
    intro p k off r res s hs hr h0 ho hst hw hheld hlate hring hpage hmask hres hn href
    obtain rfl : res = mergedAt p off s := hres
    obtain ⟨reason, t, hparts, hresv, e⟩ := drawRow5_cases p k r (mergedAt p off s) s
    refine ⟨_, (exec_draw hs p k off).trans (congrArg _ ((drawRun_row5 hr h0 ho hst hw hheld hlate hring hpage hmask hn href).trans e)), ?_, hresv⟩
    rw [runOf_modRun ((runOf_congr hparts p k).trans hr), Option.map_some]

end Sys2Proof.Machine
end
